-- ==== Sys2Proof/Word.lean ====
section
/-!
DEFINITION. Word.lean: the widths of the machine's words and the sparse map every table of State is held in.
Nothing here computes anything a rule of the spec could show wrong; bit fields and map operations are in Machine/.
-/
namespace Sys2Proof

/-- A 32-bit register of the host-port space (17 R537). -/
abbrev Word := BitVec 32

/-- One byte of device memory (00, Conventions: data in device memory are little-endian). -/
abbrev Byte := BitVec 8

/-- One 64-bit instruction word of a tile program (07 R241, R242). -/
abbrev Word64 := BitVec 64

/-- One 128-bit tile instruction: an Enlarger, Fixer or DMA.GO command (03 R112, 04 R134, 06 R217). -/
abbrev Word128 := BitVec 128

/-- A sparse table: the listed keys and their values. Its canonical form (keys strictly rising, no value
equal to what an unlisted key reads as) is stated in Machine/Maps.lean and kept by every operation there. -/
abbrev SMap (V : Type) := List (Nat × V)

/-- A logical tile, 0 to 255 (01 R21). -/
abbrev TileId := Fin 256
/-- A carrier context, 0 to 31 (00 Table 00.1). -/
abbrev CarrierId := Fin 32
/-- An execution context, 0 to 127 (00 Table 00.1). -/
abbrev CtxId := Fin 128
/-- A partition, 0 to 15 (00 Table 00.1). -/
abbrev PartId := Fin 16
/-- A MAC: port p, sub-port q, numbered 4p + q (12 R380). -/
abbrev MacId := Fin 32
/-- A Peer Link, 0 to 3 (00 Table 00.1). -/
abbrev LinkId := Fin 4
/-- A compute die: 0 is A, 1 is B (01 R21). -/
abbrev DieId := Fin 2

end Sys2Proof
end

