-- ==== Sys2Proof/Records.lean ====
section
/-!
DEFINITION. Records.lean: the operands of the commands that carry more than a number: messages as their receiver parses
them, results as the unit that computed them hands them on.
-/
namespace Sys2Proof

/-! ### FAPI requests (02, 12) -/

/-- A PUSCH PDU of an UL_TTI.request: its 72-byte allocation record (02 Table 02.5a) and the fields outside it that the
device uses (10 R329, R334). `cells` are the samples the RXM forms of it (11 R367) when they are known. -/
structure PuschPdu where
  alloc : List Byte
  handle : Nat
  ulsch : Bool
  harq : Nat
  ndi : Bool
  rv : Nat
  tbBytes : Nat
  lbrm : Nat              -- tbSizeLbrmBytes
  bg2 : Bool
  scrId : Nat             -- dataScramblingId
  uci : List Nat          -- payload bits of HARQ-ACK, CSI part 1, CSI part 2 on PUSCH (empty: none)
  betas : List Nat        -- betaOffset indices of those parts
  alpha : Nat             -- alphaScaling
  rate : Nat              -- targetCodeRate
  deriving DecidableEq, Repr

/-- A PUCCH PDU. -/
structure PucchPdu where
  rnti : Nat
  handle : Nat
  format : Nat
  uciBits : Nat
  detections : Nat        -- detection statuses its part of UCI.indication carries (SR, HARQ-ACK, CSI parts)
  prbStart : Nat
  prbs : Nat
  hop : Option Nat        -- the first PRB of the second hop, where frequency hopping is on
  symStart : Nat
  syms : Nat
  scrId : Nat
  mu : Nat                -- SubcarrierSpacing
  deriving DecidableEq, Repr

/-- An SRS PDU. -/
structure SrsPdu where
  rnti : Nat
  mu : Nat
  handle : Nat
  prbStart : Nat
  prbs : Nat
  symStart : Nat
  syms : Nat
  deriving DecidableEq, Repr

/-- A PRACH PDU: the occasion it names in its slot (TS 38.211 numbering) and the PRBs and symbols it covers. -/
structure PrachPdu where
  handle : Nat
  occ : Nat
  prbStart : Nat
  prbs : Nat
  symStart : Nat
  syms : Nat
  deriving DecidableEq, Repr

/-- What every northbound request carries: where its last segment arrived, which message it is, and the checks of 12
Table 12.7 that rest on the SCF layouts. -/
structure NbHead where
  mac : MacId
  srcIp : Nat             -- the sender's IP address and UDP port
  srcPort : Nat
  phyId : Nat
  seq : Nat               -- the P7 header's sequence number
  sfn : Nat
  slot : Nat
  raw : List Byte         -- the message as received, for its digest (09 Table 09.3)
  csumBad : Bool          -- the nFAPI checksum is not 0 and fails
  segBad : Bool           -- segments inconsistent in number or length
  lenBad : Bool           -- lengths, TLVs or PDU sizes inconsistent
  fieldBad : Bool         -- a field outside its FAPI range
  deriving DecidableEq, Repr

/-- An UL_TTI.request: its PDUs by kind, and their order as a list of kinds (0 PUSCH, 1 PUCCH, 2 SRS, 3 PRACH). -/
structure UlTti where
  hd : NbHead
  order : List Nat
  pusch : List PuschPdu
  pucch : List PucchPdu
  srs : List SrsPdu
  prach : List PrachPdu
  deriving DecidableEq, Repr

/-- The resource elements a downlink PDU allocates: PRBs, symbols, and the subcarriers of each of its PRBs, as bit maps. -/
structure DlAlloc where
  prbs : Nat
  syms : Nat
  res : Nat
  deriving DecidableEq, Repr

structure PdschPdu where
  pduIndex : Nat
  mu : Nat                -- SubcarrierSpacing
  rnti : Nat
  layers : Nat
  alloc : DlAlloc
  codewords : Nat
  tbBytes : List Nat
  bg2 : Bool
  lbrm : Nat
  rv : List Nat
  qm : List Nat
  codedBits : List Nat    -- G of each codeword
  deriving DecidableEq, Repr

/-- A PDCCH, SSB or CSI-RS PDU: how many DCIs it holds, its SubcarrierSpacing (an SSB PDU carries none) and the resource
elements it allocates. -/
structure CtlPdu where
  dcis : Nat
  mu : Nat
  alloc : DlAlloc
  deriving DecidableEq, Repr

structure DlTti where
  hd : NbHead
  pdsch : List PdschPdu
  pdcch : List CtlPdu
  ssb : List CtlPdu
  csirs : List CtlPdu
  deriving DecidableEq, Repr

structure UlDci where
  hd : NbHead
  pdcch : List CtlPdu
  deriving DecidableEq, Repr

/-- The payload of one codeword of a PDSCH PDU. -/
structure TxPdu where
  pduIndex : Nat
  cw : Nat
  payload : List Byte
  deriving DecidableEq, Repr

structure TxData where
  hd : NbHead
  pdus : List TxPdu
  deriving DecidableEq, Repr

/-! ### Fronthaul (12) -/

/-- One PRB of a section: the exponent of its BFP block (0 when uncompressed) and its 12 I and Q samples as integers. -/
structure PrbIq where
  exp : Nat
  iq : List (Int × Int)
  deriving DecidableEq, Repr

/-- A U-plane section as received. -/
structure USection where
  rb : Nat
  symInc : Nat
  startPrb : Nat
  numPrb : Nat            -- 0 = every PRB from startPrb on
  comp : Option Nat       -- the comp code udCompHdr stands for, where it is present
  lenOk : Bool            -- the section's length lies within the frame
  prbs : List PrbIq
  raw : List Byte         -- from the section header on, as received
  deriving DecidableEq, Repr

/-- A received eCPRI U-plane frame (12 Table 12.3, Table 12.5). -/
structure UPlaneMsg where
  mac : MacId
  vlan : Nat
  revision : Nat
  concat : Bool
  sizeOk : Bool
  msgType : Nat
  pcid : Nat
  seqId : Nat
  eBit : Bool
  subSeq : Nat
  dir : Nat               -- dataDirection, 0 uplink
  version : Nat
  filter : Nat
  frame : Nat             -- frameId: the SFN modulo 256
  subframe : Nat
  slot : Nat              -- slotId within the subframe
  symbol : Nat
  sections : List USection
  deriving DecidableEq, Repr

/-- An eCPRI type 5 message (12 R386): its common header, action, measurement identifier, its time stamp and compensation
(units of 2^-16 ns), and how long ago the first bit after its start-of-frame delimiter came to the MAC. -/
structure OwdMsg where
  mac : MacId
  ago : Nat               -- units of 2^-16 ns
  src : Nat
  vlan : Nat
  revision : Nat
  concat : Bool
  sizeOk : Bool
  action : Nat
  measId : Nat
  stamp : Nat
  comp : Int
  deriving DecidableEq, Repr

/-- What an Ethernet frame carries, as far as classification reads it (12 Table 12.2). -/
inductive EthBody where
  | ptp (msgType seqId : Nat) (event : Bool)
  | slow (subtype : Nat)
  | ecpri
  | udp (ipv6 : Bool) (srcIp srcPort dstIp dstPort : Nat) (fragment ipCsumBad : Bool) (udpCsum : Option Bool) (phyId msgId seq seg : Nat) (more : Bool)
  | pause
  | other
  deriving DecidableEq, Repr

/-- A frame at a MAC (12 R381), with how long ago the first bit after its start-of-frame delimiter came (13 R414). -/
structure EthFrame where
  mac : MacId
  ago : Nat               -- units of 2^-16 ns
  dst : Nat
  length : Nat
  fcsOk : Bool
  tags : List (Nat × Nat)   -- VLAN ID and PCP of each tag
  body : EthBody
  deriving DecidableEq, Repr

/-- An event message sent or a management answer for PTP (13 R417). -/
structure PtpTx where
  mac : MacId
  msgType : Nat
  seqId : Nat
  oneStep : Bool
  length : Nat
  pcp : Nat
  deriving DecidableEq, Repr

/-! ### Receiver measurements and coding (10, 11) -/

/-- A PRACH occasion: the slot that holds its last symbol, its number there, its FD occasion. -/
structure PrachResult where
  carrier : CarrierId
  slot : Nat
  occ : Nat
  deriving DecidableEq, Repr

/-- A finished UCI codeword: which codeword of which slot (kind 0 a PUCCH PDU, kind 1 UCI on a PUSCH PDU; part 0 HARQ-ACK
or the only part, 1 CSI part 1, 2 CSI part 2). -/
structure UciRef where
  carrier : CarrierId
  slot : Nat
  kind : Nat
  pdu : Nat
  part : Nat
  deriving DecidableEq, Repr

/-- A code block of a PUSCH PDU of a slot. -/
structure CbRef where
  carrier : CarrierId
  slot : Nat
  pdu : Nat
  cb : Nat
  deriving DecidableEq, Repr

/-- A codeword of a PDSCH PDU of a slot. -/
structure CwRef where
  carrier : CarrierId
  slot : Nat
  pdu : Nat
  cw : Nat
  deriving DecidableEq, Repr

/-! ### Movement between tiles (06) -/

/-- A ring advance that another tile's or the peer engine's transfer hands on (06 R214, R223). -/
structure RemoteAdv where
  tile : TileId
  ring : Fin 32
  tail : Bool
  count : Nat
  deriving DecidableEq, Repr

/-! ### Start-up and the host port (16, 17, 18) -/

/-- The flash devices on the flash port: sizes from their SFDP tables, contents by linear address (an unlisted byte is
erased, 0xFF), and the SFDP table of each. -/
structure Flash where
  size0 : Nat
  size1 : Nat
  bytes : SMap Byte
  sfdp0 : List Byte
  sfdp1 : List Byte
  deriving DecidableEq, Repr

/-- What the board gives at the release of a reset: straps, pin levels, and at power-on the flash it fits (none: unchanged). -/
structure Board where
  xoDly : Nat
  bootMode : Nat
  coolantOk : Bool
  quiesceLow : Bool
  brakeLow : Bool
  flash : Option Flash
  deriving DecidableEq, Repr

/-- A REG_RD or MEM_RD transaction (17 Table 17.1): the inverse byte and the two length bytes as driven, whether the first
word misses the latency, and whether HOST_CS_N rose before the last host-driven phase ended or before the status. -/
structure HpRead where
  inverse : Nat
  addr : Nat
  length : Nat
  slow : Bool
  cutHost : Bool
  cutTarget : Bool
  deriving DecidableEq, Repr

/-- A REG_WR, MEM_WR or RECOV_WR transaction: for RECOV_WR `addr` is the chunk index and there is no length. -/
structure HpWrite where
  inverse : Nat
  addr : Nat
  length : Nat
  data : List (BitVec 32)
  crc : Nat
  cutHost : Bool
  deriving DecidableEq, Repr

structure HpStat where
  inverse : Nat
  cutHost : Bool
  deriving DecidableEq, Repr

/-- An uncorrectable error in the state of 09 R310: which state, and where. -/
structure FatalError where
  detail : Nat
  addr : Nat
  deriving DecidableEq, Repr

/-! ### Peer Links (14) -/

/-- What a Peer Link frame carries, as its kind says (14 Table 14.1). -/
inductive PeerBody where
  | data (bytes : List Byte)
  | ack                                    -- link control: nothing but the header's ack
  | credit (landed : Nat)                  -- link control: the seat that has landed the stream's oldest burst outstanding to it
  | nonce (x : Nat)                        -- roll call: 16 bytes
  | proof (x pub : List Byte)              -- roll call: the Proof and the identity public key
  | accepted (formed : Bool)               -- roll call: the manager has accepted the worker's answer
  | armCycle (t : Nat)                     -- device time of the arm cycle, in units of 2^-16 ns
  | arrival (barrier seat : Nat)
  | withdrawal (barrier seat : Nat)
  | release (barrier t : Nat)              -- T_rel, device time in units of 2^-16 ns
  | timeReq (t1 : Nat) (residence : Int)   -- time stamps in units of 2^-16 ns
  | timeResp (t1 t2 t3 : Nat) (r1 r2 : Int)
  | notice                                 -- stream notice
  | other
  deriving DecidableEq, Repr

structure PeerFrame where
  kind : Nat
  vc : Nat
  hops : Nat
  epoch : Nat
  src : Nat
  dst : Nat
  seq : Nat
  ack : Nat
  nack : Bool
  ackValid : Bool
  stream : Nat
  offset : Nat
  body : PeerBody
  crcOk : Bool
  deriving DecidableEq, Repr

end Sys2Proof
end

