-- ==== Sys2Proof/Syntax.lean ====
section
/-!
DEFINITION. Syntax.lean: the commands of the block, one constructor per row of spec/opcode_table.json. The table gives no
row any bits; a command carries the operands its rule names. A tile instruction carries its tile and the word that the
tile's sequencer has fetched (DESIGN CHOICE, log 12).
-/
namespace Sys2Proof

inductive Instr where
  /-- POWER_ON_RESET (R498): PWRON_RST_N low resets the whole device, samples the straps, judges the reference, runs the fuse sequencer and wipes every memory. -/
  | powerOnReset (b : Board)
  /-- SYSTEM_RESET (R498): SYS_RST_N low resets the device but keeps the Safelight state, unless the thermal-trip latch is set. -/
  | systemReset (b : Board) (pulseNs : Nat)
  /-- REF_JUDGEMENT (R466): At the end of the strap delay the reference clock is judged, and start-up either continues to PLL lock or waits and judges again. -/
  | refJudgement (toggles : Bool) (count : Nat)
  /-- PLL_LOCK (R502): The PLLs lock, and the SEC and BOOT gates open as step 3 of start-up. -/
  | pllLock
  /-- MEMORY_WIPE_COMPLETE (R504): The start-up wipe ends, and verification of the Contact Sheet or entry into Holding follows. -/
  | memoryWipeComplete
  /-- READY_TIMEOUT (R503): Firmware that has not reached Ready within 10 s of its start sends the device to Holding with reason code 16. -/
  | readyTimeout
  /-- BOOT_ARM (R502): A write of BOOT_CTL.arm = 1 permits the plan to arm when BOOT_MODE is 0b10. -/
  | bootArm
  /-- WARM_RELOAD (R515): A write of BOOT_CTL.reload = 1 reads and verifies the flash sheet and, if it passes, replaces the running plan at the next cycle start. -/
  | warmReload (sameCycleFlb : Bool)
  /-- RECOVERY_START (R513): A write of BOOT_CTL.recov_start = 1 in Holding opens a recovery load of BOOT_RECOV_LEN chunks. -/
  | recoveryStart
  /-- RECOVERY_TIMEOUT (R513): More than 1 s between two streaming commands fails the recovery load with reason code 15. -/
  | recoveryTimeout
  /-- BOOT_RST_REQ (R498): A write of 0xC0DE_7140 to BOOT_RST_REQ starts a system reset. -/
  | bootRstReq (v : Word)
  /-- WATCHDOG_KICK (R501): A write of 0x0000_5A5A to BOOT_WDOG_KICK restarts the management watchdog count. -/
  | watchdogKick (v : Word)
  /-- WATCHDOG_EXPIRY (R501): The management watchdog expires and performs a system reset with cause watchdog. -/
  | watchdogExpiry
  /-- SECVER_COMMIT (R510): A write of SEC_SECVER_CTL.commit = 1 raises the OTP security-version counter to the running sheet's sec_ver, or is refused. -/
  | secverCommit
  /-- PROOF_REQUEST (R518): A write of SEC_PROOF_CTL.go = 1 starts signing a Proof over the written nonce, or is refused in Blank or Returned. -/
  | proofRequest
  /-- PROOF_DONE (R517): The security engine finishes a Proof and places it in SEC_PROOF0 to SEC_PROOF63. -/
  | proofDone
  /-- LC_TRANSITION (R520): A write of SEC_LC_CTL.go = 1 checks a life-cycle transition and, if it is accepted, programs OTP and performs a system reset. -/
  | lcTransition
  /-- FIELD_REPAIR_WRITE (R29): A write of PHYS_FIELD_REPAIR arms a field repair record for the next reset, or is refused for a column above 16. -/
  | fieldRepairWrite (v : Word)
  /-- REG_RD (R526): The host reads consecutive registers within one block extent, including the capturing and read-clear registers. -/
  | regRd (f : HpRead)
  /-- REG_WR (R526): The host posts writes to consecutive registers, each checked at acceptance. -/
  | regWr (f : HpWrite)
  /-- MEM_RD (R533): The host reads words of device memory under the region rules of Table 17.4. -/
  | memRd (f : HpRead)
  /-- MEM_WR (R533): The host writes words of device memory under the region rules of Table 17.4. -/
  | memWr (f : HpWrite)
  /-- RECOV_WR (R535): The host streams one 4 KiB chunk of a recovery sheet into the staging area. -/
  | recovWr (f : HpWrite)
  /-- STAT (R526): The host reads SAFE_STATUS in every state without discarding a held read result. -/
  | hpStat (f : HpStat)
  /-- HOST_READ_COMPLETE (R528): An internal host read that answered not ready completes, and its result is held for an identical repeat. -/
  | hostReadComplete
  /-- HOST_WRITE_PERFORM (R531): A posted host write leaves the host write buffer and takes effect in the device. -/
  | hostWritePerform
  /-- REGISTER_WRITE (R537): A write to a register with no behaviour of its own follows the access codes and the reserved-bit, range and lock rules. -/
  | registerWrite (addr : Nat) (v : Word)
  /-- FLB_READ (R534): Flash bridge operation 1 reads DEV_FLB_LEN bytes of flash into the bridge buffer. -/
  | flbRead
  /-- FLB_PROGRAM (R534): Flash bridge operation 2 programs DEV_FLB_LEN bytes from the bridge buffer, split into flash pages. -/
  | flbProgram
  /-- FLB_ERASE_SECTOR (R534): Flash bridge operation 3 erases the 4 KiB sector that holds the address. -/
  | flbEraseSector
  /-- FLB_ERASE_BLOCK (R534): Flash bridge operation 4 erases the 64 KiB block that holds the address. -/
  | flbEraseBlock
  /-- FLB_READ_SFDP (R534): Flash bridge operation 5 reads the SFDP table of the chip select that holds the address. -/
  | flbReadSfdp
  /-- FLB_DONE (R534): A flash bridge operation ends, clears go and writes its result to DEV_FLB_STATUS. -/
  | flbDone (failed : Bool)
  /-- FLB_TIMEOUT (R534): A flash that does not answer within 5 s ends the bridge operation with result 4. -/
  | flbTimeout
  /-- SAFE_EVT_POP (R540): A write of SAFE_EVT_POP bit 0 removes the oldest event record. -/
  | safeEvtPop (v : Word)
  /-- WAKE_TIMER_ARM (R542): A write of SAFE_WAKEw_CTL.arm = 1 arms wake timer w, which fires at once if its target has passed. -/
  | wakeTimerArm (w : Fin 4) (v : Word)
  /-- WAKE_TIMER_DISARM (R542): A write of SAFE_WAKEw_CTL.disarm = 1 disarms wake timer w without firing. -/
  | wakeTimerDisarm (w : Fin 4) (v : Word)
  /-- WAKE_TIMER_FIRE (R542): Wake timer w reaches its target, disarms, posts an event and performs its die-wake action. -/
  | wakeTimerFire (w : Fin 4)
  /-- ERR_LOG_POP (R325): A write of ERR_LOG_POP bit 0 removes the oldest error record. -/
  | errLogPop (v : Word)
  /-- DEVICE_FATAL_ERROR (R310): An uncorrectable error in plan, pair, allocator, semaphore or time state stops all work and sets the fatal state. -/
  | deviceFatalError (e : FatalError)
  /-- CLK_GATE_WRITE (R470): A write of a clock gate register opens gates, closes unused gates at the block's next idle cycle, and refuses closing a gate that the plan uses. -/
  | clkGateWrite (k : Fin 2) (v : Word)
  /-- REF_LOST (R467): The clock monitor detects a stopped or drifting reference, holds the PLL frequency, sets ref_lost and posts an event. -/
  | refLost
  /-- PWR_HUB_EN_WRITE (R472): A write of PWR_HUB_EN turns hub power domains on or off, subject to the refusals of the rule. -/
  | pwrHubEnWrite (v : Word)
  /-- HUB_DOMAIN_ON (R495): A hub power domain that has been switched on finishes its power-up and comes up zeroed. -/
  | hubDomainOn (d : Nat)
  /-- CAP_EVAL (R484): Every 100 µs the energy count is updated and the windowed average power is compared with the cap, stepping the cap ceiling or the duty. -/
  | capEval (energyUj : Nat)
  /-- ILIM_EVAL (R486): Every 10 µs each compute rail's current is read back and the current-limit ceiling is stepped. -/
  | ilimEval (a : Nat) (b : Nat)
  /-- THERMAL_EVAL (R492): Every 100 µs the sensors are read and the thermal ceilings and duty are stepped against 100 °C and 97 °C. -/
  | thermalEval (temps : List Int)
  /-- COOLANT_STOP (R494): Two consecutive low samples of COOLANT_OK run the stop sequence of Table 15.6. -/
  | coolantStop
  /-- COOLANT_TEMP_WRITE (R489): A write of THM_COOLANT sets or clears the coolant-warning ceiling against warn_c. -/
  | coolantTempWrite (v : Word)
  /-- BRAKE_FALL (R487): A fall of PWR_BRAKE_N halves the compute-core clocks within 1 µs and applies the brake duty. -/
  | brakeFall
  /-- BRAKE_RISE (R487): A rise of PWR_BRAKE_N starts the brake hold of hold_us. -/
  | brakeRise
  /-- BRAKE_HOLD_END (R487): The brake hold expires and the clock halving ends within 1 µs. -/
  | brakeHoldEnd
  /-- DROOP_DETECT (R488): A droop detector finds its supply below the threshold and stretches the die's clock within 2 cycles. -/
  | droopDetect (d : DieId)
  /-- DROOP_END (R488): Stretching ends once every detector has been above the threshold for 64 cycles. -/
  | droopEnd (d : DieId)
  /-- OP_CHANGE (R480): A die whose effective point differs from its current point starts a one-point raise or lower of voltage and clock. -/
  | opChange (d : DieId)
  /-- AVS_VDONE (R480): The regulator reports its target voltage, and a waiting raise switches the clock. -/
  | avsVdone (d : DieId)
  /-- AVS_TIMEOUT (R480): A raise not reported within 50 µs is abandoned and sets avs_timeout. -/
  | avsTimeout (d : DieId)
  /-- TILE_SLEEP (R473): A tile with sleep_en = 1 and no work within sleep_min plus 2 µs goes to sleep. -/
  | tileSleep (t : TileId)
  /-- TILE_WAKE (R475): A due exposure, resume, teardown or planned lead starts waking a sleeping tile. -/
  | tileWake (t : TileId)
  /-- TILE_AWAKE (R475): A waking tile becomes awake 2 µs after its wake began. -/
  | tileAwake (t : TileId)
  /-- DIE_DORMANCY_REQUEST (R476): A write of PWR_DIE_CTLn.dormant = 1 requests dormancy of compute die n. -/
  | dieDormancyRequest (d : DieId) (v : Word)
  /-- DIE_DORMANCY_ENTER (R476): A die whose dormancy conditions have all come to hold turns its domains off and puts its HBM in self-refresh. -/
  | dieDormancyEnter (d : DieId)
  /-- DIE_WAKE_REQUEST (R478): A write of PWR_DIE_CTLn.dormant = 0 starts waking a dormant die. -/
  | dieWakeRequest (d : DieId) (v : Word)
  /-- DIE_AUTO_WAKE (R478): With auto_wake = 1 a dormant die starts waking 52 µs before the next entry that touches it. -/
  | dieAutoWake (d : DieId)
  /-- DIE_READY (R478): A waking die is ready at OP0 50 µs after its wake began, with its tiles asleep and scratchpads zeroed. -/
  | dieReady (d : DieId)
  /-- QUIESCE_REQUEST (R556): Two consecutive low samples of QUIESCE_N accept a removal request and abandon any recovery load. -/
  | quiesceRequest
  /-- QUIESCE_STOP (R556): At the next device frame start a quiesce stops every context and carrier and then drains, idles the SerDes and raises REMOVE_OK. -/
  | quiesceStop
  /-- TIME_SET (R411): A write of TIME_CTL.set = 1 loads device time from TIME_SET, and with set_valid makes it valid. -/
  | timeSet (setValid : Bool)
  /-- TIME_ADJ (R411): A write of TIME_CTL.adj = 1 adds TIME_ADJ to device time as a time step. -/
  | timeAdj
  /-- TIME_SWITCH_REQUEST (R424): A write of TIME_CTL.switch = 1 requests a servo switch under Table 13.5, forced with force = 1. -/
  | timeSwitchRequest (force : Bool)
  /-- SERVO_SAMPLE (R420): An offset sample reaches a servo, which steps or applies its PI law and updates its lock state. -/
  | servoSample (n : Fin 2) (x : BitVec 48)
  /-- SERVO_LOSS_TIMEOUT (R421): A servo that receives no sample for loss_timeout enters holdover or free-run, and the switch decision of Table 13.5 follows. -/
  | servoLossTimeout (n : Fin 2)
  /-- HOLD_LIMIT_EXPIRED (R421): The active servo's holdover reaches TIME_HOLD_LIMIT and sets hold_expired. -/
  | holdLimitExpired
  /-- SYNCE_CLOCK_LOST (R425): Loss of the SyncE recovered clock holds the DPLL rate and sets synce_lost. -/
  | synceClockLost
  /-- PPS_IN_EDGE (R428): A PPS_IN edge is stamped, its offset is recorded and it serves as a sample for a servo with src = 1. -/
  | ppsInEdge
  /-- PPS_IN_LOST (R428): 1.5 s without a PPS_IN edge sets pps_in_lost, and a servo with src = 1 sees loss. -/
  | ppsInLost
  /-- PPS_OUT_EDGE (R427): PPS_OUT rises at each device second plus its offset and falls after width ms. -/
  | ppsOutEdge
  /-- DEVICE_FRAME_START (R408): A device frame of 10 ms starts and advances the device SFN. -/
  | deviceFrameStart
  /-- TPIN_ARM (R430): A write of TPIN_i_CFG.arm = 1 arms a timed pin, or refuses a bad configuration with bad_cfg. -/
  | tpinArm (k : Fin 16) (v : Word)
  /-- TPIN_DISARM (R429): A write of TPIN_i_CFG.disarm = 1 disarms a timed pin and returns it to its inactive level. -/
  | tpinDisarm (k : Fin 16) (v : Word)
  /-- TPIN_FIRE (R429): A timed pin reaches its trigger instant and drives its active level. -/
  | tpinFire (k : Fin 16)
  /-- TPIN_PULSE_END (R429): A timed-pin pulse ends after width ns and the pin returns to its inactive level. -/
  | tpinPulseEnd (k : Fin 16)
  /-- TPIN_CAPTURE_EDGE (R431): An edge of the selected polarity on a capture pin is stamped into its FIFO, or dropped with ovf. -/
  | tpinCaptureEdge (k : Fin 16) (rising : Bool)
  /-- TPIN_CAP_POP (R431): A write of TPIN_i_CAP_POP removes the oldest capture. -/
  | tpinCapPop (k : Fin 16) (v : Word)
  /-- ETH_MODE_WRITE (R380): A write of ETH_P_CFG.mode drops the port's links and brings up the new mode within 100 ms. -/
  | ethModeWrite (p : Fin 8) (v : Word)
  /-- ETH_LINK_UP (R380): A sub-port link comes up. -/
  | ethLinkUp (m : MacId)
  /-- ETH_LINK_DOWN (R380): A sub-port link goes down, with its frames lost and its alternate routes taking effect. -/
  | ethLinkDown (m : MacId)
  /-- ETH_FRAME_RX (R382): A received Ethernet frame is checked and classified to PTP, SyncE, fronthaul, northbound or dropped. -/
  | ethFrameRx (f : EthFrame)
  /-- ECPRI_OWD_REQUEST (R386): An eCPRI type 5 request is answered from its MAC with time stamps. -/
  | ecpriOwdRequest (f : OwdMsg)
  /-- OWD_START (R386): A write of FHX_OWD_CTL.start sends one one-way-delay request to the named RU. -/
  | owdStart (v : Word)
  /-- OWD_RESPONSE_RX (R386): The RU's one-way-delay response writes the result to FHX_OWD_RESULT. -/
  | owdResponseRx (f : OwdMsg)
  /-- OWD_TIMEOUT (R386): A one-way-delay measurement without a response after 10 ms is marked timed out. -/
  | owdTimeout
  /-- UPLANE_RX (R389): An uplink U-plane frame is checked, converted to CX16 and written to the slot buffer, the DMRS rings or the RXM store. -/
  | uplaneRx (f : UPlaneMsg)
  /-- UL_RX_WINDOW_END (R52): The end of ul_rx_window for an uplink symbol fills missing sections with zero and can set T0. -/
  | ulRxWindowEnd (c : CarrierId) (n : Nat) (l : Nat)
  /-- NF_SNAPSHOT (R374): At a slot start the RXM rewrites the noise-floor snapshot for a later slot. -/
  | nfSnapshot (c : CarrierId) (n : Nat)
  /-- UL_CPLANE_SEND (R393): At cp_lead before an uplink symbol, one section type 1 C-plane message is sent per configured eAxC. -/
  | ulCplaneSend (c : CarrierId) (n : Nat) (k : Nat)
  /-- PRACH_CPLANE_SEND (R393): At cp_lead before a PRACH occasion, its section type 3 C-plane messages are sent. -/
  | prachCplaneSend (c : CarrierId) (n : Nat) (k : Nat)
  /-- PRACH_SEARCH_DONE (R362): A PRACH occasion's search completes with its detections and reports. -/
  | prachSearchDone (r : PrachResult)
  /-- UL_TTI_REQUEST (R68): A complete UL_TTI.request is accepted, judged against its cutoff, compared with predictions and committed by page flip, or reported late or discarded. -/
  | ulTtiRequest (r : UlTti)
  /-- UL_TTI_CUTOFF (R75): At the UL_TTI.request cutoff of a slot with no complete request, its speculative state is discarded. -/
  | ulTtiCutoff (c : CarrierId) (n : Nat)
  /-- DL_TTI_REQUEST (R80): A complete DL_TTI.request is checked and accepted for its downlink slot, or handled as late. -/
  | dlTtiRequest (r : DlTti)
  /-- UL_DCI_REQUEST (R80): A complete UL_DCI.request is checked and accepted, or its PDCCH PDUs are omitted as late. -/
  | ulDciRequest (r : UlDci)
  /-- TX_DATA_REQUEST (R80): A complete TX_Data.request is checked and its payloads accepted for encoding, or its PDSCH is sent as zero. -/
  | txDataRequest (r : TxData)
  /-- NB_SEG_TIMEOUT (R398): Segments of a message still missing at seg_timeout reject the message with code 5. -/
  | nbSegTimeout (p : Fin 16)
  /-- DL_CUTOFF (R80): At the slot's start minus dl_cutoff, missing downlink requests are counted and posted as missing. -/
  | dlCutoff (c : CarrierId) (n : Nat)
  /-- DL_CPLANE_SEND (R394): The downlink C-plane of a symbol is sent at the later of its lead and 10 µs after acceptance of DL_TTI.request. -/
  | dlCplaneSend (c : CarrierId) (n : Nat) (k : Nat)
  /-- DL_MARK_POLL (R396): Every 1 µs from dl_up_lead_max the mark of a downlink symbol is read, and egress begins when the tag is found. -/
  | dlMarkPoll (c : CarrierId) (n : Nat) (k : Nat)
  /-- DL_UPLANE_DEADLINE (R81): At the latest start or the dl_up_lead_min bound a downlink symbol not begun or not sent is dropped and counted. -/
  | dlUplaneDeadline (c : CarrierId) (n : Nat) (k : Nat)
  /-- LDPC_ENCODE (R345): The LDPC encoder encodes and rate-matches a PDSCH codeword into its HBM buffer. -/
  | ldpcEncode (r : CwRef)
  /-- LDPC_COMBINE (R330): Once a code block's LLRs are written, the front end descrambles and combines them into the soft buffer. -/
  | ldpcCombine (r : CbRef)
  /-- LDPC_DECODE_START (R344): A released code block goes to the lowest-numbered idle slice in release-list order. -/
  | ldpcDecodeStart
  /-- LDPC_CB_DECODED (R342): A slice finishes a code block, and the back end checks its CRCs. -/
  | ldpcCbDecoded (k : Fin 4)
  /-- PLC_DECODE_DONE (R346): The polar and Reed–Muller decoder finishes a UCI codeword. -/
  | plcDecodeDone
  /-- COMPLETION_DEADLINE (R60): At T0 plus ul_budget, undecided TBs are reported with reason deadline and late PUCCH, PRACH and SRS results are omitted. -/
  | completionDeadline (c : CarrierId) (n : Nat)
  /-- HARQ_EXPIRE (R336): The hub frees a HARQ descriptor whose age has reached harq_age. -/
  | harqExpire (h : Nat)
  /-- CTX_RELEASE (R353): A write of CTX_RELEASE requests release of the UE context of a carrier and RNTI. -/
  | ctxRelease (v : Word)
  /-- HARQ_FLUSH (R353): A write of HARQ_FLUSH requests release of one or all descriptors of a UE. -/
  | harqFlush (v : Word)
  /-- CARRIER_SLOT_BOUNDARY (R388): At a carrier's slot boundary, pending eAxC rewrites and pending CTX or HARQ releases take effect. -/
  | carrierSlotBoundary (c : CarrierId)
  /-- CARRIER_FRAME_BOUNDARY (R402): At a carrier's frame boundary, configured-grant rewrites and carrier run or stop requests take effect. -/
  | carrierFrameBoundary (c : CarrierId)
  /-- NB_CC_RUN (R402): A write of NB_CC_CTL.run requests that a carrier stop or run from its next frame boundary. -/
  | nbCcRun (c : CarrierId) (v : Word)
  /-- NB_CC_LOAD (R402): A write of NB_CC_CTL.load = 1 checks a stopped carrier's P5 block within 1 ms. -/
  | nbCcLoad (c : CarrierId)
  /-- EXPOSURE_CYCLE_START (R264): An Exposure Plan cycle starts, arming the plan or re-arming faulted contexts where due. -/
  | exposureCycleStart
  /-- EXPOSURE_WAKE_LEAD (R274): 2 µs before an exposure's planned start, its power-gated tiles begin to wake. -/
  | exposureWakeLead (p : PartId) (n : Nat)
  /-- EXPOSURE_DUE (R270): An entry's start time arrives, and the exposure starts, waits, preempts or is counted as an overrun. -/
  | exposureDue (p : PartId) (n : Nat)
  /-- EXPOSURE_START (R270): A waiting exposure whose whole tile set is free starts, loading its pinned translations and its first-start state. -/
  | exposureStart (c : CtxId)
  /-- EXPOSURE_DEADLINE (R276): An exposure's deadline passes before SEQ.END completes, and the miss is counted and posted. -/
  | exposureDeadline (c : CtxId)
  /-- SHUTTER_STOP (R282): An accepted or no-longer-deferred Shutter request stops the context on every tile of its set and starts the drains. -/
  | shutterStop (c : CtxId)
  /-- SCH_SHUTTER_STOP (R282): A driver write of SCH_SHUTTER with action stop requests a Shutter stop of a context. -/
  | schShutterStop (v : Word)
  /-- SCH_SHUTTER_RESUME (R282): A driver write of SCH_SHUTTER with action resume lets a driver-stopped context rejoin the start order. -/
  | schShutterResume (v : Word)
  /-- NEGATIVE_SAVED (R284): A tile's drains end and its Negative is complete in the save region, and the tile is handed on. -/
  | negativeSaved (c : CtxId) (t : TileId)
  /-- NEGATIVE_IN_HBM (R286): The background copy of a Negative reaches its HBM store slot and sets neg_in_hbm. -/
  | negativeInHbm (c : CtxId)
  /-- RESUME (R290): A stopped exposure whose tiles are free restores its Negative, copies redirected arrivals and issues at its PC. -/
  | resume (c : CtxId)
  /-- CONTEXT_FAULT (R292): A context fault tears the context down on every tile, releases its resources, marks pages foreign-dirty and decides replay. -/
  | contextFault (c : CtxId) (t : TileId) (cause : Nat)
  /-- HOLD_EXPIRED (R281): A semaphore hold reaches its maximum hold time and faults the holding context. -/
  | holdExpired (c : CtxId) (m : Fin 256)
  /-- SCH_REARM (R294): A write of a SCH_REARM bit re-arms a faulted context whose scrub has completed. -/
  | schRearm (k : Fin 4) (v : Word)
  /-- FOREIGN_DIRTY_SCRUB (R293): The scrub engine finishes zeroing a foreign-dirty page and releases it to readers. -/
  | foreignDirtyScrub (page : Nat)
  /-- RING_WATCHDOG (R320): 20 µs of running time with rings waiting on each other fires the watchdog, which spills a ring or faults the context. -/
  | ringWatchdog (t : TileId)
  /-- BARRIER_RELEASE (R277): 30 ns after the last tile arrives, a local barrier releases every tile of the set at T_rel. -/
  | barrierRelease (c : CtxId) (b : Nat)
  /-- ENL_WAVE_RELEASE (R149): The barrier wave delay of 16 ns times the wave passes and the Enlarger may ramp and issue. -/
  | enlWaveRelease (t : TileId)
  /-- ENL_LOADS (R135): ENL.LOADS writes the shadow bank from scratchpad one row per cycle, waiting on in-flight vectors of that bank. -/
  | enlLoads (t : TileId) (w : Word128)
  /-- ENL_LOADS_COMPLETE (R130): A LOADS writes its last row and the shadow bank is loaded. -/
  | enlLoadsComplete (t : TileId)
  /-- ENL_SWAP (R131): ENL.SWAP exchanges the active and shadow banks in one cycle. -/
  | enlSwap (t : TileId) (w : Word128)
  /-- ENL_PASS (R136): ENL.PASS streams vectors or beats through the array in its dataflow, allocating queue entries per block. -/
  | enlPass (t : TileId) (w : Word128)
  /-- ENL_WAKE (R148): ENL.WAKE ramps the activity level to 64 ahead of work and holds it with dummy vectors. -/
  | enlWake (t : TileId) (w : Word128)
  /-- ENL_IDLE (R147): ENL.IDLE starts ramp-down at its dispatch. -/
  | enlIdle (t : TileId) (w : Word128)
  /-- ENL_MODE (R134): ENL.MODE sets the dummy-fill level. -/
  | enlMode (t : TileId) (w : Word128)
  /-- ENL_FENCE (R134): ENL.FENCE stalls the sequencer until every earlier Enlarger command has completed and written its outputs. -/
  | enlFence (t : TileId) (w : Word128)
  /-- ENL_LEVEL_STEP (R146): After a level has been held 64 cycles, the activity level steps one step of 16 rows toward its target. -/
  | enlLevelStep (t : TileId)
  /-- ENL_RAMPDOWN_START (R147): A gap with no real vector for 512 cycles begins ramp-down to level 0. -/
  | enlRampdownStart (t : TileId)
  /-- ENL_ENTRY_FINISHED (R141): A queue entry receives its last output and becomes visible to consumers. -/
  | enlEntryFinished (t : TileId)
  /-- FIXER_COMMAND (R112): The Fixer command converts up to 256 channels, computing, holding or omitting scales, and waits for unfinished queue entries. -/
  | fixerCommand (t : TileId) (w : Word128)
  /-- FIXER_COMPLETE (R119): A Fixer command completes its last pass, releases its queue entries and sets done. -/
  | fixerComplete (t : TileId)
  /-- NOP (R175): The Developer NOP does nothing. -/
  | devNop (t : TileId) (w : Word64)
  /-- SETVL (R164): SETVL sets VLEN to the smaller of its operand and 256. -/
  | setvl (t : TileId) (w : Word64)
  /-- SLI (R175): SLI loads an immediate into a scalar register. -/
  | sli (t : TileId) (w : Word64)
  /-- SADD (R175): SADD adds two scalar registers with wrap. -/
  | sadd (t : TileId) (w : Word64)
  /-- VEXT (R175): VEXT extracts a vector element into a scalar register. -/
  | vext (t : TileId) (w : Word64)
  /-- FENCE (R175): FENCE holds dispatch until every earlier Developer instruction has completed. -/
  | devFence (t : TileId) (w : Word64)
  /-- GETF (R165): GETF reads the Developer flags into a scalar register after every earlier flag-setting instruction. -/
  | getf (t : TileId) (w : Word64)
  /-- CLRF (R175): CLRF clears the Developer flags selected by its immediate. -/
  | clrf (t : TileId) (w : Word64)
  /-- SETCB (R191): SETCB sets a circular buffer's base and length after its checks. -/
  | setcb (t : TileId) (w : Word64)
  /-- FADD (R170): FADD adds FP32 vectors. -/
  | fadd (t : TileId) (w : Word64)
  /-- FSUB (R170): FSUB subtracts FP32 vectors. -/
  | fsub (t : TileId) (w : Word64)
  /-- FMUL (R170): FMUL multiplies FP32 vectors. -/
  | fmul (t : TileId) (w : Word64)
  /-- FMA (R170): FMA computes an unmasked fused multiply-add in FP32. -/
  | fma (t : TileId) (w : Word64)
  /-- FMIN (R170): FMIN takes the FP32 minimum element by element. -/
  | fmin (t : TileId) (w : Word64)
  /-- FMAX (R170): FMAX takes the FP32 maximum element by element. -/
  | fmax (t : TileId) (w : Word64)
  /-- FABS (R175): FABS clears each element's sign bit. -/
  | fabs (t : TileId) (w : Word64)
  /-- FNEG (R175): FNEG inverts each element's sign bit. -/
  | fneg (t : TileId) (w : Word64)
  /-- FCMP (R172): FCMP writes a mask from an FP32 comparison. -/
  | fcmp (t : TileId) (w : Word64)
  /-- IADD (R171): IADD adds INT32 vectors with wrap. -/
  | iadd (t : TileId) (w : Word64)
  /-- ISUB (R171): ISUB subtracts INT32 vectors with wrap. -/
  | isub (t : TileId) (w : Word64)
  /-- IMUL (R171): IMUL returns the low 32 bits of INT32 products. -/
  | imul (t : TileId) (w : Word64)
  /-- IMIN (R171): IMIN takes the signed INT32 minimum. -/
  | imin (t : TileId) (w : Word64)
  /-- IMAX (R171): IMAX takes the signed INT32 maximum. -/
  | imax (t : TileId) (w : Word64)
  /-- AND (R171): AND performs a bitwise AND. -/
  | vand (t : TileId) (w : Word64)
  /-- OR (R171): OR performs a bitwise OR. -/
  | vor (t : TileId) (w : Word64)
  /-- XOR (R171): XOR performs a bitwise exclusive OR. -/
  | vxor (t : TileId) (w : Word64)
  /-- SHL (R171): SHL shifts left. -/
  | shl (t : TileId) (w : Word64)
  /-- SHR (R171): SHR shifts right, shifting in zeros. -/
  | shr (t : TileId) (w : Word64)
  /-- SRA (R171): SRA shifts right, copying the sign. -/
  | sra (t : TileId) (w : Word64)
  /-- ICMP (R172): ICMP writes a mask from a signed INT32 comparison. -/
  | icmp (t : TileId) (w : Word64)
  /-- SEL (R175): SEL selects elements from two vectors by a mask. -/
  | sel (t : TileId) (w : Word64)
  /-- MAND (R175): MAND ANDs two mask registers. -/
  | mand (t : TileId) (w : Word64)
  /-- MOR (R175): MOR ORs two mask registers. -/
  | mor (t : TileId) (w : Word64)
  /-- MXOR (R175): MXOR XORs two mask registers. -/
  | mxor (t : TileId) (w : Word64)
  /-- MNOT (R175): MNOT inverts a mask register. -/
  | mnot (t : TileId) (w : Word64)
  /-- MPOP (R175): MPOP counts the set mask bits below VLEN into a scalar register. -/
  | mpop (t : TileId) (w : Word64)
  /-- CVT (R173): CVT converts between register types with exact scaling and one rounding. -/
  | cvt (t : TileId) (w : Word64)
  /-- VLD (R176): VLD loads and widens elements from local scratchpad. -/
  | vld (t : TileId) (w : Word64)
  /-- VST (R176): VST narrows and stores elements to local scratchpad. -/
  | vst (t : TileId) (w : Word64)
  /-- FBQ_RD (R178): FBQ.RD reads 32-bit elements of a finished queue entry, waiting for an allocated entry to finish. -/
  | fbqRd (t : TileId) (w : Word64)
  /-- FBQ_REL (R179): FBQ.REL releases the oldest finished queue entries. -/
  | fbqRel (t : TileId) (w : Word64)
  /-- VPERM (R180): VPERM permutes a vector by unsigned indices. -/
  | vperm (t : TileId) (w : Word64)
  /-- VSLIDEUP (R181): VSLIDEUP slides elements up by n. -/
  | vslideup (t : TileId) (w : Word64)
  /-- VSLIDEDN (R181): VSLIDEDN slides elements down by n. -/
  | vslidedn (t : TileId) (w : Word64)
  /-- VREV (R181): VREV reverses the elements below VLEN. -/
  | vrev (t : TileId) (w : Word64)
  /-- SCAN (R183): SCAN computes a segmented inclusive or exclusive scan in the fixed tree order. -/
  | scan (t : TileId) (w : Word64)
  /-- RED (R184): RED reduces a vector to a scalar in the scan order. -/
  | red (t : TileId) (w : Word64)
  /-- SMAX (R186): SMAX computes a row softmax in the fixed step order. -/
  | smax (t : TileId) (w : Word64)
  /-- EXP2 (R188): EXP2 computes 2 to the x, correctly rounded. -/
  | exp2 (t : TileId) (w : Word64)
  /-- LOG2 (R188): LOG2 computes the base-2 logarithm, correctly rounded. -/
  | log2 (t : TileId) (w : Word64)
  /-- RCP (R188): RCP computes the reciprocal, correctly rounded. -/
  | rcp (t : TileId) (w : Word64)
  /-- RSQRT (R188): RSQRT computes the reciprocal square root, correctly rounded. -/
  | rsqrt (t : TileId) (w : Word64)
  /-- CADD (R175): CADD adds CF32 pairs. -/
  | cadd (t : TileId) (w : Word64)
  /-- CMUL (R170): CMUL multiplies CF32 pairs with each part rounded once. -/
  | cmul (t : TileId) (w : Word64)
  /-- CMULC (R170): CMULC multiplies by the conjugate of the second CF32 pair. -/
  | cmulc (t : TileId) (w : Word64)
  /-- CMAG2 (R170): CMAG2 computes the squared magnitude of a CF32 pair. -/
  | cmag2 (t : TileId) (w : Word64)
  /-- DSP_CMAC (R189): DSP.CMAC accumulates exact Q15 complex products into a 48-bit accumulator pair with saturation. -/
  | dspCmac (t : TileId) (w : Word64)
  /-- DSP_ACLR (R175): DSP.ACLR clears the selected accumulators below VLEN. -/
  | dspAclr (t : TileId) (w : Word64)
  /-- DSP_MOVQ (R190): DSP.MOVQ moves an accumulator pair to Q15 complex with a given or automatic shift. -/
  | dspMovq (t : TileId) (w : Word64)
  /-- DSP_LDA (R175): DSP.LDA loads an accumulator pair from Q15 complex. -/
  | dspLda (t : TileId) (w : Word64)
  /-- DSP_CMULQ (R175): DSP.CMULQ multiplies Q15 complex values with rounding and saturation. -/
  | dspCmulq (t : TileId) (w : Word64)
  /-- DSP_CADDQ (R175): DSP.CADDQ adds Q15 complex values with saturation. -/
  | dspCaddq (t : TileId) (w : Word64)
  /-- DSP_CSUBQ (R175): DSP.CSUBQ subtracts Q15 complex values with saturation. -/
  | dspCsubq (t : TileId) (w : Word64)
  /-- DSP_LDC (R191): DSP.LDC loads Q15 complex elements from a circular buffer. -/
  | dspLdc (t : TileId) (w : Word64)
  /-- DSP_STC (R191): DSP.STC stores Q15 complex elements to a circular buffer. -/
  | dspStc (t : TileId) (w : Word64)
  /-- SEQ_NOP (R244): SEQ.NOP does nothing. -/
  | seqNop (t : TileId) (w : Word64)
  /-- SEQ_LI (R244): SEQ.LI loads a zero-extended immediate into a pointer register. -/
  | seqLi (t : TileId) (w : Word64)
  /-- SEQ_LIH (R244): SEQ.LIH loads bits 47:32 of a pointer register. -/
  | seqLih (t : TileId) (w : Word64)
  /-- SEQ_ADD (R244): SEQ.ADD adds a sign-extended immediate to a pointer register. -/
  | seqAdd (t : TileId) (w : Word64)
  /-- SEQ_BNZ (R244): SEQ.BNZ decrements a pointer register and branches if the result is not zero. -/
  | seqBnz (t : TileId) (w : Word64)
  /-- SEQ_JMP (R244): SEQ.JMP branches unconditionally. -/
  | seqJmp (t : TileId) (w : Word64)
  /-- SEQ_PTOS (R244): SEQ.PTOS places an SLI of a pointer value into the Developer queue. -/
  | seqPtos (t : TileId) (w : Word64)
  /-- RING_WAIT (R214): RING.WAIT holds the sequencer until a ring is filled or free by the count. -/
  | ringWait (t : TileId) (w : Word64)
  /-- RING_ADV (R214): RING.ADV advances a ring's head or tail once older accesses to its slots are complete. -/
  | ringAdv (t : TileId) (w : Word64)
  /-- SEQ_STRIP (R239): SEQ.STRIP takes the next strip of the sheet, or branches when none remains. -/
  | seqStrip (t : TileId) (w : Word64)
  /-- SEQ_SRET (R244): SEQ.SRET retires the oldest held strip. -/
  | seqSret (t : TileId) (w : Word64)
  /-- SEQ_BAR (R277): SEQ.BAR arrives at a local or group barrier and waits for its release. -/
  | seqBar (t : TileId) (w : Word64)
  /-- SEM_ACQ (R279): SEM.ACQ acquires a partition semaphore or waits while it is held. -/
  | semAcq (t : TileId) (w : Word64)
  /-- SEM_REL (R279): SEM.REL releases a semaphore to its oldest waiter and can end a deferred stop. -/
  | semRel (t : TileId) (w : Word64)
  /-- SEQ_END (R244): SEQ.END waits for the tile's units to complete and ends the exposure's program on the tile. -/
  | seqEnd (t : TileId) (w : Word64)
  /-- DMA_GO (R217): DMA.GO starts a DMA channel at a descriptor chain with an optional scoreboard range. -/
  | dmaGo (t : TileId) (w : Word128)
  /-- DMA_DESC_FETCH (R218): A channel fetches a 512 B burst of descriptors. -/
  | dmaDescFetch (t : TileId) (ch : Fin 4)
  /-- DMA_DESC_START (R221): A descriptor whose wait is satisfied starts its copy, fill or transpose. -/
  | dmaDescStart (t : TileId) (ch : Fin 4)
  /-- DMA_DESC_COMPLETE (R223): A descriptor's last write lands and its ring advance and notify take effect. -/
  | dmaDescComplete (t : TileId) (ch : Fin 4)
  /-- REMOTE_RING_ADVANCE (R215): A ring advance sent by another tile's descriptor arrives and is applied. -/
  | remoteRingAdvance (r : RemoteAdv)
  /-- TILE_RING_CFG_WRITE (R213): A write of TILE_RING_CFGn configures a ring, or leaves it disabled when a limit is broken. -/
  | tileRingCfgWrite (t : TileId) (n : Fin 32) (v : Word)
  /-- TILE_STRIP_BASE_WRITE (R262): A write of TILE_STRIP_BASEn sets a strip slot base, ignoring reserved bits and refusing out-of-range values. -/
  | tileStripBaseWrite (t : TileId) (n : Fin 16) (v : Word)
  /-- TILE_SP_SLEEP_WRITE (R205): A write of TILE_SP_SLEEP puts scratchpad sleep groups to sleep or wakes them. -/
  | tileSpSleepWrite (t : TileId) (v : Word)
  /-- SP_GROUP_AWAKE (R206): A waking scratchpad sleep group becomes readable, zeroed, within 1 µs. -/
  | spGroupAwake (t : TileId) (g : Fin 6)
  /-- SCRUB_PATROL (R203): The patrol scrub reads the next row of a bank each period and queues rows with correctable errors. -/
  | scrubPatrol (t : TileId)
  /-- SCRUB_WRITEBACK (R204): A queued row is read and written back corrected in two idle cycles of its bank half. -/
  | scrubWriteback (t : TileId)
  /-- HBM_PATROL (R309): The HBM patrol reads the next 64 B, rewriting corrected words and leaving uncorrectable ones poisoned. -/
  | hbmPatrol (k : Fin 2)
  /-- WC_INVALIDATE (R230): A write of MEM_WC_CTL.inv = 1 starts invalidation of the whole weight cache. -/
  | wcInvalidate (v : Word)
  /-- WC_INV_COMPLETE (R230): A weight cache invalidation completes and clears inv. -/
  | wcInvComplete
  /-- PEER_FRAME_RX (R441): A Peer Link frame arrives and is acknowledged or nacked, forwarded, or delivered as data, control, roll call or barrier. -/
  | peerFrameRx (l : LinkId) (f : PeerFrame)
  /-- PEER_ACK_TIMEOUT (R441): No acknowledgement within 4 µs resends from the oldest frame, and after eight sends retry is exhausted and the link retrains. -/
  | peerAckTimeout (l : LinkId)
  /-- PEER_RETRAIN (R441): A write of PEER_L_CTL.retrain starts retraining a link. -/
  | peerRetrain (l : LinkId) (v : Word)
  /-- PEER_LINK_TRAINED (R439): A cabled link finishes training and comes up, or counts a failed retrain. -/
  | peerLinkTrained (l : LinkId) (ok : Bool)
  /-- ROLL_CALL_START (R446): A write of PEER_ROLL_CTL.start makes the manager send a roll-call nonce to every member. -/
  | rollCallStart
  /-- ROLL_PERIOD_EXPIRY (R446): The roll period passes and the manager starts a roll call. -/
  | rollPeriodExpiry
  /-- ROLL_CALL_TIMEOUT (R446): The 10 ms answer window closes and the manager records the outcome of each member, forming the group if all are accepted. -/
  | rollCallTimeout
  /-- MANAGER_LOST (R448): A worker with no roll call for three roll periods sets manager_lost. -/
  | managerLost
  /-- GROUP_BARRIER_RELEASE (R451): At T_rel, or 30 ns after a late release frame, a member releases the group barrier's tiles. -/
  | groupBarrierRelease (b : Nat)
  /-- PEER_BURST_SEND (R455): The peer engine sends a burst of a filled source ring slot once a credit is free. -/
  | peerBurstSend (st : Nat)
  /-- MULTICAST_DETACH (R458): A multicast held at its 8-burst lead for 20 µs detaches its lagging destinations. -/
  | multicastDetach (st : Nat)
  /-- PEER_COLL_POP (R460): A write of PEER_COLL_POP removes the oldest collective record. -/
  | peerCollPop (v : Word)
  /-- HOST_PORT_SERVED (R502): 5 ms after the release of a reset the host port begins to serve DEV, SAFE and CLK_STATUS, whatever stage start-up has reached. -/
  | hostPortServed
  /-- READY_REACHED (R502): The firmware finishes reading, checking and loading the sections of steps 6 to 9, and the device reaches Ready or enters Holding on a failed check. -/
  | readyReached
  /-- RELOAD_VERIFIED (R515): The flash read and verification of a warm reload end, either refusing or failing it with reload_failed, or readying the swap at the next cycle start. -/
  | reloadVerified
  /-- P5_LOAD_CHECKED (R402): The check of a stopped carrier's P5 TLV block ends within 1 ms, clearing load and either permitting run at the next frame boundary or setting bad and posting an event. -/
  | p5LoadChecked (c : CarrierId)
  /-- REMOVE_OK_RAISED (R556): The quiesce drain of DMA and HBM traffic ends, the HBM stacks enter self-refresh, the SerDes idle and REMOVE_OK rises. -/
  | removeOkRaised
  /-- SYNCE_CLOCK_RESTORED (R425): The SyncE recovered clock of the selected MAC returns and the hybrid DPLL follows it again instead of holding its last rate. -/
  | synceClockRestored
  /-- PEER_TIME_EXCHANGE (R449): At each of 16 times per second the manager and a worker with src = 2 exchange time frames along the worker's route to form a servo sample. -/
  | peerTimeExchange (m : Nat)
  /-- PTP_EVENT_MESSAGE_TX (R417): A PTP event message sent by the firmware leaves a MAC, its egress stamp going to the two-step FIFO or into originTimestamp in one-step mode. -/
  | ptpEventMessageTx (r : PtpTx)
  deriving DecidableEq, Repr

end Sys2Proof
end

