-- ==== Sys2Proof/Decode.lean ====
section
/-!
DEFINITION. Decode.lean: the command that a word of the opcode table's bits spells.
-/
namespace Sys2Proof

/-- No row of the opcode table gives bits ("fields" is empty in every row): a command of this block is no word, and no word
spells one (DESIGN CHOICE, log 2). -/
def decodeTableWord (_nbits _w : Nat) : Option Instr := none

end Sys2Proof
end

