-- ==== Sys2Proof/Machine/Maps.lean ====
section
/-!
DEFINITION. Maps.lean: sparse maps (registers, memory, tables), bit fields of a word, and byte order.
-/
namespace Sys2Proof.Machine

open Sys2Proof

variable {V : Type}

/-- The value listed at a key. -/
def mapFind : SMap V → Nat → Option V
  | [], _ => none
  | (k', v) :: rest, k => if k = k' then some v else mapFind rest k

/-- The value at a key, an unlisted key reading as the default. -/
def mapGet (d : V) (m : SMap V) (k : Nat) : V := (mapFind m k).getD d

/-- List a value at a key, at its place in the rising order. -/
def mapPut : SMap V → Nat → V → SMap V
  | [], k, v => [(k, v)]
  | (k', v') :: rest, k, v =>
    if k < k' then (k, v) :: (k', v') :: rest
    else if k = k' then (k, v) :: rest
    else (k', v') :: mapPut rest k v

/-- Unlist a key. -/
def mapErase : SMap V → Nat → SMap V
  | [], _ => []
  | (k', v') :: rest, k => if k = k' then mapErase rest k else (k', v') :: mapErase rest k

/-- Write a value at a key: the default is never listed, so equal maps are equal data. -/
def mapSet [DecidableEq V] (d : V) (m : SMap V) (k : Nat) (v : V) : SMap V :=
  if v = d then mapErase m k else mapPut m k v

/-- Every listed key is above `lo` (when given) and the keys rise strictly. -/
def mapRising : SMap V → Bool
  | [] => true
  | [_] => true
  | (k, _) :: (k', v') :: rest => decide (k < k') && mapRising ((k', v') :: rest)

/-- The canonical form of a map whose unlisted keys read as `d`. -/
def mapWf [DecidableEq V] (d : V) (m : SMap V) : Bool :=
  mapRising m && m.all (fun kv => decide (kv.2 ≠ d))

/-- Keep the entries whose key passes. -/
def mapFilter (p : Nat → Bool) (m : SMap V) : SMap V := m.filter (fun kv => p kv.1)

/-! ### Bit fields -/

/-- Bits hi down to lo of a number. -/
def nbits (x hi lo : Nat) : Nat := (x >>> lo) % 2 ^ (hi + 1 - lo)

/-- Bits hi down to lo of a word, as a number. -/
def fieldOf {n : Nat} (w : BitVec n) (hi lo : Nat) : Nat := nbits w.toNat hi lo

/-- Bit i of a word. -/
def bitOf {n : Nat} (w : BitVec n) (i : Nat) : Bool := w.getLsbD i

/-- A word whose bits hi down to lo are 1. -/
def maskOf (n hi lo : Nat) : BitVec n := BitVec.ofNat n ((2 ^ (hi + 1 - lo) - 1) <<< lo)

/-- A word with bits hi down to lo replaced by the low bits of x. -/
def setField {n : Nat} (w : BitVec n) (hi lo x : Nat) : BitVec n :=
  (w &&& ~~~ maskOf n hi lo) ||| BitVec.ofNat n ((x % 2 ^ (hi + 1 - lo)) <<< lo)

/-- A word with bit i set to b. -/
def setBit {n : Nat} (w : BitVec n) (i : Nat) (b : Bool) : BitVec n := setField w i i b.toNat

/-- The two's-complement value of the low n bits of a number. -/
def signed (n x : Nat) : Int :=
  let y := x % 2 ^ n
  if y < 2 ^ (n - 1) then (y : Int) else (y : Int) - (2 ^ n : Nat)

/-- The low n bits of an integer, as a number: wrapping modulo 2^n. -/
def wrapN (n : Nat) (x : Int) : Nat := (x % (2 ^ n : Nat)).toNat

/-- A small unsigned sum that stops at 0xFFFF_FFFF (the saturating counters of every chapter). -/
def satAdd (w : Word) (n : Nat) : Word :=
  if w.toNat + n < 2 ^ 32 then BitVec.ofNat 32 (w.toNat + n) else BitVec.ofNat 32 (2 ^ 32 - 1)

/-! ### Byte order -/

/-- The n bytes of a number, least significant first (00, Conventions). -/
def leBytes : Nat → Nat → List Byte
  | 0, _ => []
  | n + 1, x => BitVec.ofNat 8 x :: leBytes n (x / 256)

/-- The number whose bytes are given, least significant first. -/
def leNat : List Byte → Nat
  | [] => 0
  | b :: bs => b.toNat + 256 * leNat bs

/-- The n bytes of a number, most significant first (network fields, 00, Conventions). -/
def beBytes (n x : Nat) : List Byte := (leBytes n x).reverse

/-- The number whose bytes are given, most significant first. -/
def beNat (bs : List Byte) : Nat := leNat bs.reverse

/-- n items of a function of the index, in order. -/
def build {α : Type} (n : Nat) (f : Nat → α) : List α := (List.range n).map f

/-- Replace item i of a list (a list shorter than that is left alone). -/
def listSet {α : Type} (l : List α) (i : Nat) (x : α) : List α := l.set i x

/-- Item i of a list, or a given value past its end. -/
def nth {α : Type} (d : α) (l : List α) (i : Nat) : α := (l[i]?).getD d

end Sys2Proof.Machine
end

