-- ==== Sys2Proof/Machine/Numbers.lean ====
section
/-!
DEFINITION. Numbers.lean: the number formats of 03 (R87 to R105), exact values, and the one rounding that every
conversion makes. An exact value is a sign, a numerator and a denominator, so no intermediate result is rounded (R99).
-/
namespace Sys2Proof.Machine

open Sys2Proof

/-- The formats of Table 03.1. -/
inductive Fmt where
  | int4 | int8 | e4m3 | e5m2 | bf16 | fp16 | fp32 | cx16 | cf32 | int32 | q15
  deriving DecidableEq, Repr

/-- The 4-bit codes of Table 03.1; codes 11 to 15 are reserved (R87). -/
def Fmt.ofCode : Nat → Option Fmt
  | 0 => some .int4 | 1 => some .int8 | 2 => some .e4m3 | 3 => some .e5m2 | 4 => some .bf16 | 5 => some .fp16
  | 6 => some .fp32 | 7 => some .cx16 | 8 => some .cf32 | 9 => some .int32 | 10 => some .q15 | _ => none

/-- The element width in bits of Table 03.1. -/
def Fmt.width : Fmt → Nat
  | .int4 => 4 | .int8 => 8 | .e4m3 => 8 | .e5m2 => 8 | .bf16 => 16 | .fp16 => 16 | .fp32 => 32 | .cx16 => 16
  | .cf32 => 64 | .int32 => 32 | .q15 => 32

/-- The complex formats of Table 03.1. -/
def Fmt.isComplex : Fmt → Bool
  | .cx16 => true | .cf32 => true | .q15 => true | _ => false

/-- An exact value: a NaN, an infinity, or sign, numerator and denominator (the sign of a zero is kept). -/
inductive XVal where
  | nan
  | inf (neg : Bool)
  | fin (neg : Bool) (num den : Nat)
  deriving DecidableEq, Repr

/-- Positive zero. -/
def XVal.zero : XVal := .fin false 0 1

/-- An integer as an exact value. -/
def XVal.ofInt (i : Int) : XVal := .fin (decide (i < 0)) i.natAbs 1

/-- An integer times 2^-k as an exact value. -/
def XVal.dyadic (i : Int) (k : Nat) : XVal := .fin (decide (i < 0)) i.natAbs (2 ^ k)

/-- The magnitude's round to nearest, ties to even (R99). -/
def rneDiv (n d : Nat) : Nat :=
  let q := n / d
  let r := n % d
  if 2 * r < d then q
  else if d < 2 * r then q + 1
  else if q % 2 = 0 then q else q + 1

/-- An integer quotient rounded to nearest, ties to even (R99). -/
def rneInt (neg : Bool) (n d : Nat) : Int :=
  if neg then - (rneDiv n d : Int) else (rneDiv n d : Int)

/-- The magnitude n / d times 2^e, as a numerator and a denominator. -/
def scale2 (n d : Nat) (e : Int) : Nat × Nat :=
  if 0 ≤ e then (n * 2 ^ e.toNat, d) else (n, d * 2 ^ (-e).toNat)

/-- The floor of log2 (n / d), for n and d above 0. -/
def floorLog2 (n d : Nat) : Int :=
  let k : Int := (n.log2 : Int) - (d.log2 : Int)
  let nd := scale2 n d (-k)
  if nd.1 < nd.2 then k - 1 else k

/-! ### Floating-point formats (Table 03.2) -/

/-- Width, exponent and mantissa bits, bias, largest finite code, whether there is an infinity, the canonical NaN. -/
structure FloatFmt where
  width : Nat
  mant : Nat
  bias : Nat
  maxCode : Nat
  hasInf : Bool
  nan : Nat
  deriving DecidableEq, Repr

def fmtE4M3 : FloatFmt := ⟨8, 3, 7, 0x7E, false, 0x7F⟩
def fmtE5M2 : FloatFmt := ⟨8, 2, 15, 0x7B, true, 0x7E⟩
def fmtFP16 : FloatFmt := ⟨16, 10, 15, 0x7BFF, true, 0x7E00⟩
def fmtBF16 : FloatFmt := ⟨16, 7, 127, 0x7F7F, true, 0x7FC0⟩
def fmtFP32 : FloatFmt := ⟨32, 23, 127, 0x7F7FFFFF, true, 0x7FC00000⟩

/-- The value of a code (R90, R91): a code above the largest finite one is an infinity where the format has one
and the code is the very next, else a NaN (R92). -/
def FloatFmt.decode (f : FloatFmt) (code : Nat) : XVal :=
  let mag := code % 2 ^ (f.width - 1)
  let neg := decide (nbits code (f.width - 1) (f.width - 1) = 1)
  if f.maxCode < mag then
    if f.hasInf && decide (mag = f.maxCode + 1) then .inf neg else .nan
  else
    let e := mag / 2 ^ f.mant
    let m := mag % 2 ^ f.mant
    let sig := if e = 0 then m else 2 ^ f.mant + m
    let ex : Int := (max e 1 : Nat) - (f.bias : Int) - f.mant
    let nd := scale2 sig 1 ex
    .fin neg nd.1 nd.2

/-- The magnitude n / d rounded once as though the exponent range were unbounded above (R100): the code it would have. -/
def FloatFmt.roundMag (f : FloatFmt) (n d : Nat) : Nat :=
  if n = 0 then 0 else
    let e := max (floorLog2 n d) (1 - (f.bias : Int))
    let nd := scale2 n d ((f.mant : Int) - e)
    ((e + f.bias - 1).toNat) * 2 ^ f.mant + rneDiv nd.1 nd.2

/-- A converted element: its code, whether it counts as clipped, whether a NaN was met. -/
structure Conv where
  code : Nat
  clipped : Bool
  nan : Bool
  deriving DecidableEq, Repr

/-- The sign bit of a format. -/
def FloatFmt.signBit (f : FloatFmt) (neg : Bool) : Nat := if neg then 2 ^ (f.width - 1) else 0

/-- What happens to a finite value beyond the range. -/
inductive OvfMode where
  | saturate   -- R100: the largest finite code, clipped
  | ieee       -- R110: an infinity (the accumulators and the FP32 arithmetic of R170)
  | ieeeClip   -- R101: an infinity, and clipped
  deriving DecidableEq, Repr

/-- Conversion to a float format (R99 to R102, Table 03.4). -/
def FloatFmt.encode (f : FloatFmt) (ovf : OvfMode) : XVal → Conv
  | .nan => ⟨f.nan, false, true⟩
  | .inf neg =>
    if f.hasInf then ⟨f.signBit neg + (f.maxCode + 1), false, false⟩
    else ⟨f.signBit neg + f.maxCode, true, false⟩
  | .fin neg n d =>
    let m := f.roundMag n d
    if m ≤ f.maxCode then ⟨f.signBit neg + m, false, false⟩
    else match ovf with
      | .saturate => ⟨f.signBit neg + f.maxCode, true, false⟩
      | .ieee => ⟨f.signBit neg + (f.maxCode + 1), false, false⟩
      | .ieeeClip => ⟨f.signBit neg + (f.maxCode + 1), true, false⟩

/-! ### Integer targets -/

/-- Conversion to a two's-complement integer of w bits (R99, R100, Table 03.4). -/
def intEncode (w : Nat) : XVal → Conv
  | .nan => ⟨0, false, true⟩
  | .inf neg => ⟨if neg then 2 ^ (w - 1) else 2 ^ (w - 1) - 1, true, false⟩
  | .fin neg n d =>
    let q := rneInt neg n d
    let hi : Int := 2 ^ (w - 1) - 1
    let lo : Int := - 2 ^ (w - 1)
    if hi < q then ⟨wrapN w hi, true, false⟩
    else if q < lo then ⟨wrapN w lo, true, false⟩
    else ⟨wrapN w q, false, false⟩

/-- A value times 2^e, exactly. -/
def XVal.mul2 (e : Int) : XVal → XVal
  | .nan => .nan
  | .inf s => .inf s
  | .fin s n d => let nd := scale2 n d e; .fin s nd.1 nd.2

/-! ### Exact arithmetic on values -/

def XVal.neg : XVal → XVal
  | .nan => .nan
  | .inf s => .inf (!s)
  | .fin s n d => .fin (!s) n d

/-- The signed numerator. -/
def snum (s : Bool) (n : Nat) : Int := if s then -(n : Int) else (n : Int)

/-- An exact sum. An exact zero sum of opposite-signed terms is +0, of two negative zeros −0 (R110). -/
def XVal.add : XVal → XVal → XVal
  | .nan, _ => .nan
  | _, .nan => .nan
  | .inf a, .inf b => if a = b then .inf a else .nan
  | .inf a, .fin _ _ _ => .inf a
  | .fin _ _ _, .inf b => .inf b
  | .fin a n d, .fin b m e =>
    let s := snum a (n * e) + snum b (m * d)
    if s = 0 then .fin (a && b) 0 1 else .fin (decide (s < 0)) s.natAbs (d * e)

/-- An exact product (∞ × 0 is NaN, R110). -/
def XVal.mul : XVal → XVal → XVal
  | .nan, _ => .nan
  | _, .nan => .nan
  | .inf a, .inf b => .inf (a != b)
  | .inf a, .fin b m _ => if m = 0 then .nan else .inf (a != b)
  | .fin a n _, .inf b => if n = 0 then .nan else .inf (a != b)
  | .fin a n d, .fin b m e => .fin (a != b) (n * m) (d * e)

/-- The order of two values: less, equal or greater; none where either is a NaN. Zeros are equal. -/
def XVal.cmp : XVal → XVal → Option Ordering
  | .nan, _ => none
  | _, .nan => none
  | .inf a, .inf b => some (if a = b then .eq else if a then .lt else .gt)
  | .inf a, .fin _ _ _ => some (if a then .lt else .gt)
  | .fin _ _ _, .inf b => some (if b then .gt else .lt)
  | .fin a n d, .fin b m e => some (compare (snum a (n * e)) (snum b (m * d)))

/-- The magnitude of a finite value compared: n/d < m/e. -/
def magLt (n d m e : Nat) : Bool := decide (n * e < m * d)

/-! ### CX16 (R93 to R95) -/

/-- The two mantissas at exponent e, from the exact inputs. -/
def cxMant (s : Bool) (n d e : Nat) : Int :=
  let nd := scale2 n d (12 - (e : Int))
  rneInt s nd.1 nd.2

def cxInRange (m : Int) : Bool := decide (-32 ≤ m) && decide (m ≤ 31)

def cxClamp (m : Int) : Int := max (-32) (min 31 m)

/-- The normal form: while e is above 0 and both mantissas lie in −16 to 15, double them and lower e. -/
def cxNormal : Nat → Int → Int → Nat × Int × Int
  | 0, r, i => (0, r, i)
  | e + 1, r, i =>
    if decide (-16 ≤ r) && decide (r ≤ 15) && decide (-16 ≤ i) && decide (i ≤ 15) then
      cxNormal e (2 * r) (2 * i)
    else (e + 1, r, i)

/-- The word of an exponent and two mantissas; a zero is always 0x0000. -/
def cxWord (e : Nat) (r i : Int) : Nat :=
  if r = 0 ∧ i = 0 then 0 else e * 4096 + wrapN 6 r * 64 + wrapN 6 i

/-- The first exponent from e on, for a number of tries, at which both mantissas are in range. -/
def cxSearch (sx : Bool) (nx dx : Nat) (sy : Bool) (ny dy : Nat) : Nat → Nat → Option (Nat × Int × Int)
  | 0, _ => none
  | k + 1, e =>
    let r := cxMant sx nx dx e
    let i := cxMant sy ny dy e
    if cxInRange r && cxInRange i then some (e, r, i) else cxSearch sx nx dx sy ny dy k (e + 1)

/-- One part clamped at e = 15; an infinite part as a finite part far out of range. -/
def cxClamped : XVal → Int
  | .nan => 0
  | .inf s => if s then -32 else 31
  | .fin s n d => cxClamp (cxMant s n d 15)

/-- Conversion of a complex value to CX16 (R95). -/
def cxEncode (x y : XVal) : Conv :=
  match x, y with
  | .nan, _ => ⟨0, false, true⟩
  | _, .nan => ⟨0, false, true⟩
  | .fin sx nx dx, .fin sy ny dy =>
    match cxSearch sx nx dx sy ny dy 16 0 with
    | some (e, r, i) => let n := cxNormal e r i; ⟨cxWord n.1 n.2.1 n.2.2, false, false⟩
    | none => ⟨cxWord 15 (cxClamped x) (cxClamped y), true, false⟩
  | _, _ => ⟨cxWord 15 (cxClamped x) (cxClamped y), true, false⟩

/-- The value of a CX16 word (R93, R94). -/
def cxDecode (w : Nat) : XVal × XVal :=
  let e : Int := (nbits w 15 12 : Int) - 12
  ((XVal.ofInt (signed 6 (nbits w 11 6))).mul2 e, (XVal.ofInt (signed 6 (nbits w 5 0))).mul2 e)

/-! ### Q15 (R96 to R98) -/

/-- One Q15 part, q × 2^-15. -/
def q15Decode (w : Nat) : XVal := XVal.dyadic (signed 16 w) 15

/-- A Q15 part from a value in units of 1 (R102). -/
def q15Encode (v : XVal) : Conv := intEncode 16 (v.mul2 15)

/-- A move from a 48-bit accumulator to Q15 with scaling shift s (R98). -/
def q15OfAcc (a : Int) (s : Int) : Conv := intEncode 16 ((XVal.ofInt a).mul2 (-(15 + s)))

/-- Exact sums into a 48-bit accumulator saturate (R97): the value and whether it saturated. -/
def satAcc (a : Int) : Int × Bool :=
  if 2 ^ 47 - 1 < a then (2 ^ 47 - 1, true) else if a < - 2 ^ 47 then (- 2 ^ 47, true) else (a, false)

/-! ### Real elements by format -/

def Fmt.floatFmt : Fmt → Option FloatFmt
  | .e4m3 => some fmtE4M3 | .e5m2 => some fmtE5M2 | .bf16 => some fmtBF16 | .fp16 => some fmtFP16
  | .fp32 => some fmtFP32 | _ => none

/-- The value of a real element's code (R89, R90). A complex code is not read here and gives its real part's bits. -/
def Fmt.decodeReal (f : Fmt) (code : Nat) : XVal :=
  match f.floatFmt with
  | some ff => ff.decode code
  | none => XVal.ofInt (signed f.width code)

/-- Conversion to a real format, saturating (R100, R102). -/
def Fmt.encodeReal (f : Fmt) (v : XVal) : Conv :=
  match f.floatFmt with
  | some ff => ff.encode .saturate v
  | none => intEncode f.width v

/-- The two parts of a complex element's code (R88, R93, R96). -/
def Fmt.decodeComplex (f : Fmt) (code : Nat) : XVal × XVal :=
  match f with
  | .cx16 => cxDecode code
  | .q15 => (q15Decode (nbits code 15 0), q15Decode (nbits code 31 16))
  | _ => (fmtFP32.decode (nbits code 31 0), fmtFP32.decode (nbits code 63 32))

/-- Two converted parts packed into one code: it counts once (R103). -/
def pairConv (w : Nat) (a b : Conv) : Conv := ⟨a.code + b.code * 2 ^ w, a.clipped || b.clipped, a.nan || b.nan⟩

/-- Conversion to a complex format (R95, R102). -/
def Fmt.encodeComplex (f : Fmt) (v : XVal × XVal) : Conv :=
  match f with
  | .cx16 => cxEncode v.1 v.2
  | .q15 => pairConv 16 (q15Encode v.1) (q15Encode v.2)
  | _ => pairConv 32 (fmtFP32.encode .saturate v.1) (fmtFP32.encode .saturate v.2)

/-! ### FP32 arithmetic with one rounding (R110, R170) -/

def f32Val (w : Word) : XVal := fmtFP32.decode w.toNat
def f32Of (v : XVal) : Word := BitVec.ofNat 32 (fmtFP32.encode .ieee v).code
def f32Add (a b : Word) : Word := f32Of ((f32Val a).add (f32Val b))
def f32Sub (a b : Word) : Word := f32Of ((f32Val a).add (f32Val b).neg)
def f32Mul (a b : Word) : Word := f32Of ((f32Val a).mul (f32Val b))
def f32Fma (a b c : Word) : Word := f32Of (((f32Val a).mul (f32Val b)).add (f32Val c))

/-- Whether a word is a NaN. -/
def f32IsNan (w : Word) : Bool := decide (f32Val w = .nan)

/-- The canonical FP32 NaN (Table 03.2). -/
def f32Nan : Word := 0x7FC00000#32

end Sys2Proof.Machine
end

