-- ==== Sys2Proof/Machine/RegMap.lean ====
section
/-!
DEFINITION. RegMap.lean: the register map of the host-port space, row by row from the register and field tables of the
spec (01 Table 01.8, 03 Table 03.9, 04 Table 04.8, 05 Table 05.8, 06 Tables 06.6 and 06.7, 07 Tables 07.9 and 07.11,
08 Table 08.10, 09 Table 09.6, 10 Tables 10.8 to 10.11, 11 Table 11.7, 12 Tables 12.10 to 12.12, 13 Tables 13.8 and
13.9, 14 Table 14.6, 15 Tables 15.8 to 15.11, 16 Tables 16.11 and 16.12, 17 Tables 17.9 to 17.11, with their fields).
`Reg.NAME` is a register's host-port address (01 Table 01.6 gives the bases).
-/
namespace Sys2Proof.Machine

open Sys2Proof

/-- The access codes of Table 00.4 (R15). -/
inductive Acc where
  | ro | rw | w1c | w1s | wo | rc | rwl
  deriving DecidableEq, Repr

/-- A field: bits hi to lo, its access, and the range of values a write may give it where its chapter states one
(17 R537). Bits of a register outside every field are reserved. -/
structure RegField where
  name : String
  hi : Nat
  lo : Nat
  acc : Acc
  range : Option (Nat × Nat)
  deriving DecidableEq, Repr

/-- A row of a register map: first address, its array dimensions (stride, count), reset value, fields. A reset value
the spec gives as 'plan', 'fuse', 'OTP', 'ROM', 'strap' or 'random' stands here as 0 and is written when its source is
read. -/
structure RegRow where
  name : String
  base : Nat
  dims : List (Nat × Nat)
  reset : Nat
  fields : List RegField
  deriving DecidableEq, Repr

namespace Reg

def PHYS_STATUS : Nat := 0x02000000
def PHYS_TILE_AVAIL (a : Nat) : Nat := 0x02000010 + 0x4 * a
def PHYS_SPARE_DIGEST (a : Nat) : Nat := 0x02000040 + 0x4 * a
def PHYS_FIELD_REPAIR : Nat := 0x02000080
def PHYS_ROW_MAP (a : Nat) : Nat := 0x02000100 + 0x4 * a
def PHYS_ENL_SPARE (a : Nat) : Nat := 0x02000800 + 0x4 * a
def TILE_FIX_STATUS (a : Nat) : Nat := 0x01003000 + 0x10000 * a
def TILE_FIX_FLAGS (a : Nat) : Nat := 0x01003004 + 0x10000 * a
def TILE_FIX_WRAP_CNT (a : Nat) : Nat := 0x01003008 + 0x10000 * a
def TILE_FIX_OVF (a b : Nat) : Nat := 0x01003020 + 0x10000 * a + 0x4 * b
def TILE_FIX_SCALE (a b : Nat) : Nat := 0x01003400 + 0x10000 * a + 0x4 * b
def TILE_FIX_CLIP (a b : Nat) : Nat := 0x01003800 + 0x10000 * a + 0x4 * b
def TILE_FIX_TOTAL (a b : Nat) : Nat := 0x01003C00 + 0x10000 * a + 0x4 * b
def TILE_ENL_STATUS (a : Nat) : Nat := 0x01001000 + 0x10000 * a
def TILE_ENL_FLAGS (a : Nat) : Nat := 0x01001004 + 0x10000 * a
def TILE_ENL_FBQ (a : Nat) : Nat := 0x01001008 + 0x10000 * a
def TILE_ENL_MAC_LO (a : Nat) : Nat := 0x01001010 + 0x10000 * a
def TILE_ENL_MAC_HI (a : Nat) : Nat := 0x01001014 + 0x10000 * a
def TILE_ENL_DUMMY_CYC (a : Nat) : Nat := 0x01001018 + 0x10000 * a
def TILE_ENL_RAMP_CYC (a : Nat) : Nat := 0x0100101C + 0x10000 * a
def TILE_ENL_STALL_FBQ (a : Nat) : Nat := 0x01001020 + 0x10000 * a
def TILE_ENL_BANK_WAIT (a : Nat) : Nat := 0x01001024 + 0x10000 * a
def TILE_ENL_WAVE (a : Nat) : Nat := 0x01001028 + 0x10000 * a
def TILE_DEV_STATUS (a : Nat) : Nat := 0x01002000 + 0x10000 * a
def TILE_DEV_FLAGS (a : Nat) : Nat := 0x01002004 + 0x10000 * a
def TILE_DEV_INSTR (a : Nat) : Nat := 0x01002008 + 0x10000 * a
def TILE_DEV_STALL_DEP (a : Nat) : Nat := 0x01002010 + 0x10000 * a
def TILE_DEV_STALL_FBQ (a : Nat) : Nat := 0x01002014 + 0x10000 * a
def TILE_DEV_STALL_SB (a : Nat) : Nat := 0x01002018 + 0x10000 * a
def TILE_SP_STATUS (a : Nat) : Nat := 0x01004000 + 0x10000 * a
def TILE_SP_SLEEP (a : Nat) : Nat := 0x01004004 + 0x10000 * a
def TILE_SP_SCRUB (a : Nat) : Nat := 0x01004008 + 0x10000 * a
def TILE_SP_CE_CNT (a : Nat) : Nat := 0x01004010 + 0x10000 * a
def TILE_SP_UE_CNT (a : Nat) : Nat := 0x01004014 + 0x10000 * a
def TILE_SP_ERR_ADDR (a : Nat) : Nat := 0x01004018 + 0x10000 * a
def TILE_SP_SCRUB_OVF (a : Nat) : Nat := 0x0100401C + 0x10000 * a
def TILE_SP_CONFLICT (a : Nat) : Nat := 0x01004020 + 0x10000 * a
def TILE_SP_WAKE_STALL (a : Nat) : Nat := 0x01004024 + 0x10000 * a
def TILE_DMA_STATUS (a : Nat) : Nat := 0x01005000 + 0x10000 * a
def TILE_DMA_FLAGS (a : Nat) : Nat := 0x01005004 + 0x10000 * a
def TILE_DMA_DONE (a : Nat) : Nat := 0x01005008 + 0x10000 * a
def TILE_DMA_BYTES_LO (a : Nat) : Nat := 0x01005010 + 0x10000 * a
def TILE_DMA_BYTES_HI (a : Nat) : Nat := 0x01005014 + 0x10000 * a
def TILE_DMA_DESC_CNT (a : Nat) : Nat := 0x01005018 + 0x10000 * a
def TILE_RING_CFG (a b : Nat) : Nat := 0x01005100 + 0x10000 * a + 0x4 * b
def TILE_RING_PTR (a b : Nat) : Nat := 0x01005180 + 0x10000 * a + 0x4 * b
def TILE_SB_STATUS (a : Nat) : Nat := 0x01006000 + 0x10000 * a
def TILE_SB_STALL (a : Nat) : Nat := 0x01006004 + 0x10000 * a
def TILE_SB_FULL (a : Nat) : Nat := 0x01006008 + 0x10000 * a
def MEM_WC_CTL : Nat := 0x00480000
def MEM_WC_STATUS : Nat := 0x00480004
def MEM_WC_HIT_LO : Nat := 0x00480010
def MEM_WC_HIT_HI : Nat := 0x00480014
def MEM_WC_MISS_LO : Nat := 0x00480018
def MEM_WC_MISS_HI : Nat := 0x0048001C
def MEM_WC_MERGE : Nat := 0x00480020
def TILE_SEQ_STATUS (a : Nat) : Nat := 0x01000000 + 0x10000 * a
def TILE_SEQ_PC (a : Nat) : Nat := 0x01000004 + 0x10000 * a
def TILE_SEQ_ISSUE (a : Nat) : Nat := 0x01000008 + 0x10000 * a
def TILE_SEQ_STALL (a : Nat) : Nat := 0x0100000C + 0x10000 * a
def TILE_TLB_MISS (a : Nat) : Nat := 0x01000010 + 0x10000 * a
def TILE_STRIP_BASE (a b : Nat) : Nat := 0x01000040 + 0x10000 * a + 0x4 * b
def MEM_SHADOW_FREE : Nat := 0x00480100
def MEM_SCRUB_CLEAN : Nat := 0x00480104
def MEM_SCRUB_PEND : Nat := 0x00480108
def MEM_PAIR_USED : Nat := 0x0048010C
def MEM_ALLOC_EXH : Nat := 0x00480110
def SCH_STATUS : Nat := 0x00200000
def SCH_CYCLE_CNT : Nat := 0x00200004
def SCH_SHUTTER : Nat := 0x00200008
def SCH_SHUTTER_STATUS : Nat := 0x0020000C
def SCH_REARM (a : Nat) : Nat := 0x00200010 + 0x4 * a
def SCH_CTX_STATE (a : Nat) : Nat := 0x00201000 + 0x4 * a
def SCH_P_PREEMPT (a : Nat) : Nat := 0x00202000 + 0x40 * a
def SCH_P_DEFER (a : Nat) : Nat := 0x00202004 + 0x40 * a
def SCH_P_WAITED (a : Nat) : Nat := 0x00202008 + 0x40 * a
def SCH_P_OVERRUN (a : Nat) : Nat := 0x0020200C + 0x40 * a
def SCH_P_DEADLINE (a : Nat) : Nat := 0x00202010 + 0x40 * a
def SCH_P_SKIPPED (a : Nat) : Nat := 0x00202014 + 0x40 * a
def SCH_P_FAULT (a : Nat) : Nat := 0x00202018 + 0x40 * a
def SCH_CC_CFG (a b : Nat) : Nat := 0x00204000 + 0x100 * a + 0x4 * b
def SCH_CC_SPEC_COMMIT (a : Nat) : Nat := 0x00204020 + 0x100 * a
def SCH_CC_SPEC_RERUN (a : Nat) : Nat := 0x00204024 + 0x100 * a
def SCH_CC_SPEC_DISCARD (a : Nat) : Nat := 0x00204028 + 0x100 * a
def SCH_CC_SPEC_UNPRED (a : Nat) : Nat := 0x0020402C + 0x100 * a
def SCH_CC_SPEC_EXH (a : Nat) : Nat := 0x00204030 + 0x100 * a
def SCH_CC_UL_LATE (a : Nat) : Nat := 0x00204034 + 0x100 * a
def SCH_CC_UL_DISCARD (a : Nat) : Nat := 0x00204038 + 0x100 * a
def SCH_CC_UL_OMIT (a : Nat) : Nat := 0x0020403C + 0x100 * a
def SCH_CC_DL_TTI_MISS (a : Nat) : Nat := 0x00204040 + 0x100 * a
def SCH_CC_UL_DCI_LATE (a : Nat) : Nat := 0x00204044 + 0x100 * a
def SCH_CC_TX_DATA_MISS (a : Nat) : Nat := 0x00204048 + 0x100 * a
def ERR_LOG_STATUS : Nat := 0x00501000
def ERR_LOG_POP : Nat := 0x00501004
def ERR_LOG_LOST : Nat := 0x00501008
def ERR_REPLAY_CFG : Nat := 0x00501010
def ERR_HBM_PATROL : Nat := 0x00501014
def ERR_JNL_REPLAYED : Nat := 0x00501020
def ERR_JNL_FAULTED : Nat := 0x00501024
def ERR_JNL_FULL : Nat := 0x00501028
def ERR_CAPTURE_LOST : Nat := 0x0050102C
def ERR_SPILL_CNT : Nat := 0x00501030
def ERR_LOG_REC (a : Nat) : Nat := 0x00501100 + 0x4 * a
def ERR_CLASS_CNT (a : Nat) : Nat := 0x00501200 + 0x4 * a
def CTX_EXT_BASE_LO : Nat := 0x00240000
def CTX_EXT_BASE_HI : Nat := 0x00240004
def CTX_CFG : Nat := 0x00240008
def CTX_USED : Nat := 0x0024000C
def CTX_RELEASE : Nat := 0x00240010
def CTX_RELEASE_STATUS : Nat := 0x00240014
def CTX_EVICT_AGE : Nat := 0x00240020
def CTX_EVICT_QUOTA : Nat := 0x00240024
def CTX_ALLOC_FAIL : Nat := 0x00240028
def CTX_COLD_READ : Nat := 0x0024002C
def CTX_CC_Q (a : Nat) : Nat := 0x00240100 + 0x4 * a
def HARQ_CFG : Nat := 0x00280000
def HARQ_USED : Nat := 0x00280004
def HARQ_PAGES_USED : Nat := 0x00280008
def HARQ_PREFETCH : Nat := 0x0028000C
def HARQ_EVICT_AGE : Nat := 0x00280010
def HARQ_EVICT_QUOTA : Nat := 0x00280014
def HARQ_NO_BUFFER : Nat := 0x00280018
def HARQ_RETX_MISS : Nat := 0x0028001C
def HARQ_MISMATCH : Nat := 0x00280020
def HARQ_DUP : Nat := 0x00280024
def HARQ_FLUSH : Nat := 0x00280030
def HARQ_FLUSH_STATUS : Nat := 0x00280034
def HARQ_POOL_BASE_LO : Nat := 0x00280040
def HARQ_POOL_BASE_HI : Nat := 0x00280044
def HARQ_CC_DQ (a : Nat) : Nat := 0x00280100 + 0x4 * a
def HARQ_CC_PQ (a : Nat) : Nat := 0x00280200 + 0x4 * a
def LDC_STATUS : Nat := 0x00300000
def LDC_FLAGS : Nat := 0x00300004
def LDC_CB_CNT : Nat := 0x00300010
def LDC_ITER_SUM : Nat := 0x00300014
def LDC_CB_MAXITER : Nat := 0x00300018
def LDC_TB_PASS : Nat := 0x0030001C
def LDC_TB_FAIL : Nat := 0x00300020
def LDC_COMB_CLIP : Nat := 0x00300024
def LDC_ENC_TB : Nat := 0x00300028
def LDC_CC_CFG (a : Nat) : Nat := 0x00300100 + 0x4 * a
def PLC_STATUS : Nat := 0x00340000
def PLC_FLAGS : Nat := 0x00340004
def PLC_POLAR_CNT : Nat := 0x00340010
def PLC_RM_CNT : Nat := 0x00340014
def PLC_CRC_FAIL : Nat := 0x00340018
def PLC_DTX : Nat := 0x0034001C
def PLC_CC_DTX (a : Nat) : Nat := 0x00340100 + 0x4 * a
def RXM_STATUS : Nat := 0x00380000
def RXM_FLAGS : Nat := 0x00380004
def RXM_CFG : Nat := 0x00380008
def RXM_REF_BASE_LO : Nat := 0x00380010
def RXM_REF_BASE_HI : Nat := 0x00380014
def RXM_NF_BASE_LO : Nat := 0x00380018
def RXM_NF_BASE_HI : Nat := 0x0038001C
def RXM_PRACH_OCC : Nat := 0x00380020
def RXM_PRACH_DET : Nat := 0x00380024
def RXM_PRACH_UNCLAIMED : Nat := 0x00380028
def RXM_PRACH_BIND_HIT : Nat := 0x0038002C
def RXM_FO_EST : Nat := 0x00380030
def RXM_FO_COLD : Nat := 0x00380034
def RXM_FO_LOWQ : Nat := 0x00380038
def RXM_NF_SAMPLES : Nat := 0x0038003C
def RXM_NF_RESET : Nat := 0x00380040
def RXM_CC_THR (a : Nat) : Nat := 0x00380100 + 0x20 * a
def RXM_CC_CAL (a : Nat) : Nat := 0x00380104 + 0x20 * a
def RXM_CC_NF (a : Nat) : Nat := 0x00380108 + 0x20 * a
def RXM_CC_NF_DEF (a : Nat) : Nat := 0x0038010C + 0x20 * a
def RXM_BIND_KEY (a : Nat) : Nat := 0x00381000 + 0x8 * a
def RXM_BIND_RNTI (a : Nat) : Nat := 0x00381004 + 0x8 * a
def ETH_P_CFG (a : Nat) : Nat := 0x00100000 + 0x2000 * a
def ETH_P_STATUS (a : Nat) : Nat := 0x00100004 + 0x2000 * a
def ETH_P_FLAGS (a : Nat) : Nat := 0x00100008 + 0x2000 * a
def ETH_PQ_MAC_LO (a b : Nat) : Nat := 0x00100010 + 0x2000 * a + 0x8 * b
def ETH_PQ_MAC_HI (a b : Nat) : Nat := 0x00100014 + 0x2000 * a + 0x8 * b
def ETH_PQ_RX_FRAMES (a b : Nat) : Nat := 0x00100100 + 0x2000 * a + 0x40 * b
def ETH_PQ_RX_ERR (a b : Nat) : Nat := 0x00100104 + 0x2000 * a + 0x40 * b
def ETH_PQ_RX_UNCLASS (a b : Nat) : Nat := 0x00100108 + 0x2000 * a + 0x40 * b
def ETH_PQ_RX_PAUSE (a b : Nat) : Nat := 0x0010010C + 0x2000 * a + 0x40 * b
def ETH_PQ_TX_FRAMES (a b : Nat) : Nat := 0x00100110 + 0x2000 * a + 0x40 * b
def ETH_PQ_TX_DROP (a b : Nat) : Nat := 0x00100114 + 0x2000 * a + 0x40 * b
def ETH_PQ_FEC_CORR (a b : Nat) : Nat := 0x00100118 + 0x2000 * a + 0x40 * b
def ETH_PQ_FEC_UNCORR (a b : Nat) : Nat := 0x0010011C + 0x2000 * a + 0x40 * b
def FHX_FLAGS : Nat := 0x00140000
def FHX_RX_UNKNOWN : Nat := 0x00140010
def FHX_RX_BADHDR : Nat := 0x00140014
def FHX_RX_EARLY : Nat := 0x00140018
def FHX_RX_LATE : Nat := 0x0014001C
def FHX_RX_DUP_PRB : Nat := 0x00140020
def FHX_RX_SEQ_GAP : Nat := 0x00140024
def FHX_DMRS_DROP : Nat := 0x00140028
def FHX_DL_MISS : Nat := 0x0014002C
def FHX_OWD_CTL : Nat := 0x00140040
def FHX_OWD_RESULT : Nat := 0x00140044
def FHX_CC_ULBUF_LO (a : Nat) : Nat := 0x00140100 + 0x40 * a
def FHX_CC_ULBUF_HI (a : Nat) : Nat := 0x00140104 + 0x40 * a
def FHX_CC_ULCFG (a : Nat) : Nat := 0x00140108 + 0x40 * a
def FHX_CC_DLBUF_LO (a : Nat) : Nat := 0x00140110 + 0x40 * a
def FHX_CC_DLBUF_HI (a : Nat) : Nat := 0x00140114 + 0x40 * a
def FHX_CC_DLCFG (a : Nat) : Nat := 0x00140118 + 0x40 * a
def FHX_CC_CAP_LO (a : Nat) : Nat := 0x00140120 + 0x40 * a
def FHX_CC_CAP_HI (a : Nat) : Nat := 0x00140124 + 0x40 * a
def FHX_CC_CAPSZ (a : Nat) : Nat := 0x00140128 + 0x40 * a
def FHX_RU_MAC_LO (a : Nat) : Nat := 0x00141000 + 0x8 * a
def FHX_RU_MAC_HI (a : Nat) : Nat := 0x00141004 + 0x8 * a
def FHX_CLIP (a : Nat) : Nat := 0x00148000 + 0x4 * a
def NB_CFG : Nat := 0x00180000
def NB_REJECT : Nat := 0x00180004
def NB_MAC_SEL : Nat := 0x00180010
def NB_VLAN : Nat := 0x00180014
def NB_UDP_PORT : Nat := 0x00180018
def NB_LOCAL_IP (a : Nat) : Nat := 0x00180020 + 0x4 * a
def NB_PEER_IP (a : Nat) : Nat := 0x00180030 + 0x4 * a
def NB_NEXTHOP_MAC_LO : Nat := 0x00180040
def NB_NEXTHOP_MAC_HI : Nat := 0x00180044
def NB_TIMING : Nat := 0x00180048
def NB_RX_MSG : Nat := 0x00180100
def NB_TX_MSG : Nat := 0x00180104
def NB_UNKNOWN : Nat := 0x00180108
def NB_UNSUPPORTED : Nat := 0x0018010C
def NB_CSUM_ERR : Nat := 0x00180110
def NB_REASM_TO : Nat := 0x00180114
def NB_MALFORMED : Nat := 0x00180118
def NB_EARLY : Nat := 0x0018011C
def NB_DUP : Nat := 0x00180120
def NB_CC_PHYID (a : Nat) : Nat := 0x00180200 + 0x4 * a
def NB_CC_CTL (a : Nat) : Nat := 0x00180300 + 0x4 * a
def NB_CC_P5_LO (a : Nat) : Nat := 0x00180400 + 0x8 * a
def NB_CC_P5_HI (a : Nat) : Nat := 0x00180404 + 0x8 * a
def TIME_STATUS : Nat := 0x00080000
def TIME_FLAGS : Nat := 0x00080004
def TIME_CTL : Nat := 0x00080008
def TIME_NOW_SEC_LO : Nat := 0x00080010
def TIME_NOW_SEC_HI : Nat := 0x00080014
def TIME_NOW_NS : Nat := 0x00080018
def TIME_NOW_FRAC : Nat := 0x0008001C
def TIME_SET_SEC_LO : Nat := 0x00080020
def TIME_SET_SEC_HI : Nat := 0x00080024
def TIME_SET_NS : Nat := 0x00080028
def TIME_SET_FRAC : Nat := 0x0008002C
def TIME_ADJ_LO : Nat := 0x00080030
def TIME_ADJ_HI : Nat := 0x00080034
def TIME_SFN : Nat := 0x00080040
def TIME_DPLL_CFG : Nat := 0x00080050
def TIME_DPLL_STATUS : Nat := 0x00080054
def TIME_SWITCH_CFG : Nat := 0x00080060
def TIME_HOLD_LIMIT : Nat := 0x00080064
def TIME_PPS_OUT : Nat := 0x00080070
def TIME_PPS_OUT_OFS : Nat := 0x00080074
def TIME_PPS_IN_CFG : Nat := 0x00080078
def TIME_PPS_IN_ERR : Nat := 0x0008007C
def TIME_SYNCE_OUT (a : Nat) : Nat := 0x00080080 + 0x4 * a
def TIME_S_CFG (a : Nat) : Nat := 0x00080100 + 0x80 * a
def TIME_S_KP (a : Nat) : Nat := 0x00080104 + 0x80 * a
def TIME_S_KI (a : Nat) : Nat := 0x00080108 + 0x80 * a
def TIME_S_FMAX (a : Nat) : Nat := 0x0008010C + 0x80 * a
def TIME_S_STEP_THR (a : Nat) : Nat := 0x00080110 + 0x80 * a
def TIME_S_LOCK (a : Nat) : Nat := 0x00080114 + 0x80 * a
def TIME_S_UNLOCK (a : Nat) : Nat := 0x00080118 + 0x80 * a
def TIME_S_LOSS (a : Nat) : Nat := 0x0008011C + 0x80 * a
def TIME_S_OFFSET_LO (a : Nat) : Nat := 0x00080120 + 0x80 * a
def TIME_S_OFFSET_HI (a : Nat) : Nat := 0x00080124 + 0x80 * a
def TIME_S_STATUS (a : Nat) : Nat := 0x00080128 + 0x80 * a
def TIME_S_FREQ (a : Nat) : Nat := 0x0008012C + 0x80 * a
def TIME_S_PHASE (a : Nat) : Nat := 0x00080130 + 0x80 * a
def TIME_S_HOLD_SEC (a : Nat) : Nat := 0x00080134 + 0x80 * a
def TIME_S_SAMPLES (a : Nat) : Nat := 0x00080138 + 0x80 * a
def TIME_S_STEPS (a : Nat) : Nat := 0x0008013C + 0x80 * a
def TIME_P_TSCFG (a : Nat) : Nat := 0x00080400 + 0x10 * a
def TIME_P_CORR (a : Nat) : Nat := 0x00080404 + 0x10 * a
def TIME_P_ASYM (a : Nat) : Nat := 0x00080408 + 0x10 * a
def TIME_CC_OFFSET (a : Nat) : Nat := 0x00080800 + 0x4 * a
def TPIN_STATUS : Nat := 0x00090000
def TPIN_I_CFG (a : Nat) : Nat := 0x00090100 + 0x40 * a
def TPIN_I_T_SEC_LO (a : Nat) : Nat := 0x00090104 + 0x40 * a
def TPIN_I_T_SEC_HI (a : Nat) : Nat := 0x00090108 + 0x40 * a
def TPIN_I_T_NS (a : Nat) : Nat := 0x0009010C + 0x40 * a
def TPIN_I_T_FRAC (a : Nat) : Nat := 0x00090110 + 0x40 * a
def TPIN_I_PERIOD_NS (a : Nat) : Nat := 0x00090114 + 0x40 * a
def TPIN_I_PERIOD_FRAC (a : Nat) : Nat := 0x00090118 + 0x40 * a
def TPIN_I_WIDTH (a : Nat) : Nat := 0x0009011C + 0x40 * a
def TPIN_I_CAP_SEC_LO (a : Nat) : Nat := 0x00090120 + 0x40 * a
def TPIN_I_CAP_SEC_HI (a : Nat) : Nat := 0x00090124 + 0x40 * a
def TPIN_I_CAP_NS (a : Nat) : Nat := 0x00090128 + 0x40 * a
def TPIN_I_CAP_FRAC (a : Nat) : Nat := 0x0009012C + 0x40 * a
def TPIN_I_CAP_POP (a : Nat) : Nat := 0x00090130 + 0x40 * a
def TPIN_I_STATUS (a : Nat) : Nat := 0x00090134 + 0x40 * a
def TPIN_I_FLAGS (a : Nat) : Nat := 0x00090138 + 0x40 * a
def PEER_GRP_STATUS : Nat := 0x00400000
def PEER_GRP_FLAGS : Nat := 0x00400004
def PEER_GRP_CFG : Nat := 0x00400008
def PEER_EPOCH : Nat := 0x0040000C
def PEER_ROLL_CTL : Nat := 0x00400010
def PEER_ROLL_STATUS : Nat := 0x00400014
def PEER_MEMBER_OK_LO : Nat := 0x00400018
def PEER_MEMBER_OK_HI : Nat := 0x0040001C
def PEER_COLL_WAIT_US : Nat := 0x00400040
def PEER_COLL_THR_US : Nat := 0x00400044
def PEER_DETACH_CNT : Nat := 0x00400048
def PEER_BAR_LATE : Nat := 0x0040004C
def PEER_COLL_LOST : Nat := 0x00400050
def PEER_COLL_POP : Nat := 0x00400060
def PEER_COLL_REC (a : Nat) : Nat := 0x00400080 + 0x4 * a
def PEER_L_STATUS (a : Nat) : Nat := 0x00400100 + 0x40 * a
def PEER_L_CTL (a : Nat) : Nat := 0x00400104 + 0x40 * a
def PEER_L_FLAGS (a : Nat) : Nat := 0x00400108 + 0x40 * a
def PEER_L_TX_FRAMES (a : Nat) : Nat := 0x00400110 + 0x40 * a
def PEER_L_RX_FRAMES (a : Nat) : Nat := 0x00400114 + 0x40 * a
def PEER_L_CRC_ERR (a : Nat) : Nat := 0x00400118 + 0x40 * a
def PEER_L_RETRY (a : Nat) : Nat := 0x0040011C + 0x40 * a
def PEER_L_EPOCH_ERR (a : Nat) : Nat := 0x00400120 + 0x40 * a
def PEER_L_HOP_DROP (a : Nat) : Nat := 0x00400124 + 0x40 * a
def PEER_L_FWD (a : Nat) : Nat := 0x00400128 + 0x40 * a
def PEER_P_POOL (a b : Nat) : Nat := 0x00400200 + 0x10 * a + 0x4 * b
def PEER_ROUTE (a : Nat) : Nat := 0x00401000 + 0x4 * a
def PEER_ST_DET_LO (a : Nat) : Nat := 0x00402000 + 0x8 * a
def PEER_ST_DET_HI (a : Nat) : Nat := 0x00402004 + 0x8 * a
def CLK_STATUS : Nat := 0x00020000
def CLK_FLAGS : Nat := 0x00020004
def CLK_GATE_EN0 : Nat := 0x00020010
def CLK_GATE_EN1 : Nat := 0x00020014
def CLK_COMP_FREQ : Nat := 0x00020020
def PWR_STATUS : Nat := 0x00030000
def PWR_FLAGS : Nat := 0x00030004
def PWR_CAP : Nat := 0x00030008
def PWR_CAP_CFG : Nat := 0x0003000C
def PWR_OP_CEIL : Nat := 0x00030010
def PWR_ILIM : Nat := 0x00030014
def PWR_BRAKE_CFG : Nat := 0x00030018
def PWR_DROOP_CFG : Nat := 0x0003001C
def PWR_MEAS : Nat := 0x00030020
def PWR_ENERGY_LO : Nat := 0x00030028
def PWR_ENERGY_HI : Nat := 0x0003002C
def PWR_DIE_CTL (a : Nat) : Nat := 0x00030030 + 0x4 * a
def PWR_DIE_STATUS (a : Nat) : Nat := 0x00030038 + 0x4 * a
def PWR_HUB_EN : Nat := 0x00030040
def PWR_DOM_STATUS (a : Nat) : Nat := 0x00030050 + 0x4 * a
def PWR_OP_V (a : Nat) : Nat := 0x00030060 + 0x4 * a
def PWR_DIE_SKIP (a : Nat) : Nat := 0x00030080 + 0x4 * a
def PWR_THR_US_LO (a : Nat) : Nat := 0x00030100 + 0x8 * a
def PWR_THR_US_HI (a : Nat) : Nat := 0x00030104 + 0x8 * a
def THM_STATUS : Nat := 0x00040000
def THM_FLAGS : Nat := 0x00040004
def THM_CFG : Nat := 0x00040008
def THM_COOLANT : Nat := 0x0004000C
def THM_COOLANT_CFG : Nat := 0x00040010
def THM_TJ_A : Nat := 0x00040020
def THM_TJ_B : Nat := 0x00040024
def THM_TJ_HUB : Nat := 0x00040028
def THM_SENSOR (a : Nat) : Nat := 0x00040100 + 0x4 * a
def TILE_PWR_STATUS (a : Nat) : Nat := 0x01000800 + 0x10000 * a
def TILE_PWR_CTL (a : Nat) : Nat := 0x01000804 + 0x10000 * a
def TILE_PWR_WAKES (a : Nat) : Nat := 0x01000808 + 0x10000 * a
def SEC_STATUS : Nat := 0x00050000
def SEC_FLAGS : Nat := 0x00050004
def SEC_DEV_ID (a : Nat) : Nat := 0x00050010 + 0x4 * a
def SEC_ROOT_DIGEST (a : Nat) : Nat := 0x00050020 + 0x4 * a
def SEC_CUST_DIGEST (a : Nat) : Nat := 0x00050040 + 0x4 * a
def SEC_SECVER : Nat := 0x00050060
def SEC_SECVER_CTL : Nat := 0x00050064
def SEC_ID_PUB (a : Nat) : Nat := 0x00050080 + 0x4 * a
def SEC_PROOF_NONCE (a : Nat) : Nat := 0x00050100 + 0x4 * a
def SEC_PROOF_CTL : Nat := 0x00050110
def SEC_PROOF_STATUS : Nat := 0x00050114
def SEC_PROOF (a : Nat) : Nat := 0x00050200 + 0x4 * a
def SEC_LC_NONCE (a : Nat) : Nat := 0x00050300 + 0x4 * a
def SEC_LC_REQ : Nat := 0x00050310
def SEC_LC_CTL : Nat := 0x00050314
def SEC_LC_STATUS : Nat := 0x00050318
def SEC_LC_SIG (a : Nat) : Nat := 0x00050340 + 0x4 * a
def BOOT_STATUS : Nat := 0x00060000
def BOOT_FLAGS : Nat := 0x00060004
def BOOT_REASON : Nat := 0x00060008
def BOOT_RST_CAUSE : Nat := 0x0006000C
def BOOT_CTL : Nat := 0x00060010
def BOOT_RST_REQ : Nat := 0x00060014
def BOOT_WDOG_CFG : Nat := 0x00060018
def BOOT_WDOG_KICK : Nat := 0x0006001C
def BOOT_RECOV_LEN : Nat := 0x00060020
def BOOT_RECOV_STATUS : Nat := 0x00060024
def BOOT_SECVER : Nat := 0x00060028
def BOOT_READY_MS : Nat := 0x0006002C
def BOOT_FW_DIGEST (a : Nat) : Nat := 0x00060040 + 0x4 * a
def BOOT_SHEET_DIGEST (a : Nat) : Nat := 0x00060060 + 0x4 * a
def DEV_ID : Nat := 0x00000000
def DEV_HP_CFG : Nat := 0x00000004
def DEV_SCRATCH : Nat := 0x00000008
def DEV_FLB_CMD : Nat := 0x00000010
def DEV_FLB_ADDR : Nat := 0x00000014
def DEV_FLB_LEN : Nat := 0x00000018
def DEV_FLB_STATUS : Nat := 0x0000001C
def DEV_FLB_BUF (a : Nat) : Nat := 0x00001000 + 0x4 * a
def SAFE_STATUS : Nat := 0x00010000
def SAFE_FLAGS : Nat := 0x00010004
def SAFE_ALERT_MASK : Nat := 0x00010008
def SAFE_UPTIME_LO : Nat := 0x00010010
def SAFE_UPTIME_HI : Nat := 0x00010014
def SAFE_TIME_SEC_LO : Nat := 0x00010018
def SAFE_TIME_SEC_HI : Nat := 0x0001001C
def SAFE_TIME_US : Nat := 0x00010020
def SAFE_EVT_LOST : Nat := 0x00010030
def SAFE_EVT (a : Nat) : Nat := 0x00010040 + 0x4 * a
def SAFE_EVT_POP : Nat := 0x00010050
def SAFE_WAKE_CTL (a : Nat) : Nat := 0x00010100 + 0x10 * a
def SAFE_WAKE_AT_LO (a : Nat) : Nat := 0x00010104 + 0x10 * a
def SAFE_WAKE_AT_HI (a : Nat) : Nat := 0x00010108 + 0x10 * a
def ERR_HOST_STATUS : Nat := 0x00500000
def ERR_HOST_LAST : Nat := 0x00500004
def ERR_HOST_LAST_ADDR_LO : Nat := 0x00500008
def ERR_HOST_LAST_ADDR_HI : Nat := 0x0050000C
def ERR_HOST_BUSERR_CNT : Nat := 0x00500010
def ERR_HOST_CRC_CNT : Nat := 0x00500014
def ERR_HOST_CMD_CNT : Nat := 0x00500018
def ERR_HOST_NOTREADY_CNT : Nat := 0x0050001C

end Reg

/-- Table 01.8. -/
def regs01_8 : List RegRow := [
  ⟨"PHYS_STATUS", 0x02000000, [], 0x00000000, [⟨"repaired_rows", 15, 8, .ro, none⟩, ⟨"field_pending", 1, 1, .ro, none⟩, ⟨"map_applied", 0, 0, .ro, none⟩]⟩,
  ⟨"PHYS_TILE_AVAIL", 0x02000010, [(0x4, 8)], 0x00000000, [⟨"value", 31, 0, .ro, none⟩]⟩,
  ⟨"PHYS_SPARE_DIGEST", 0x02000040, [(0x4, 8)], 0x00000000, [⟨"value", 31, 0, .ro, none⟩]⟩,
  ⟨"PHYS_FIELD_REPAIR", 0x02000080, [], 0x00000000, [⟨"arm", 31, 31, .rw, none⟩, ⟨"die", 8, 8, .rw, none⟩, ⟨"row", 7, 5, .rw, none⟩, ⟨"col", 4, 0, .rw, none⟩]⟩,
  ⟨"PHYS_ROW_MAP", 0x02000100, [(0x4, 16)], 0x00000000, [⟨"source", 9, 8, .ro, none⟩, ⟨"spare_failed", 7, 7, .ro, none⟩, ⟨"repaired", 6, 6, .ro, none⟩, ⟨"fail_col", 4, 0, .ro, none⟩]⟩,
  ⟨"PHYS_ENL_SPARE", 0x02000800, [(0x4, 256)], 0x00000000, [⟨"used_b", 13, 13, .ro, none⟩, ⟨"row_b", 12, 7, .ro, none⟩, ⟨"used_a", 6, 6, .ro, none⟩, ⟨"row_a", 5, 0, .ro, none⟩]⟩ ]

/-- Table 03.9. -/
def regs03_9 : List RegRow := [
  ⟨"TILE_FIX_STATUS", 0x01003000, [(0x10000, 256)], 0x00000000, [⟨"busy", 31, 31, .ro, none⟩, ⟨"pass", 30, 30, .ro, none⟩, ⟨"cur_chan", 23, 16, .ro, none⟩, ⟨"cur_group", 6, 0, .ro, none⟩]⟩,
  ⟨"TILE_FIX_FLAGS", 0x01003004, [(0x10000, 256)], 0x00000000, [⟨"bad_scale", 7, 7, .w1c, none⟩, ⟨"zero_chan", 6, 6, .w1c, none⟩, ⟨"ctr_sat", 5, 5, .w1c, none⟩, ⟨"wrap", 4, 4, .w1c, none⟩, ⟨"inf_in", 3, 3, .w1c, none⟩, ⟨"nan_in", 2, 2, .w1c, none⟩, ⟨"clipped", 1, 1, .w1c, none⟩, ⟨"done", 0, 0, .w1c, none⟩]⟩,
  ⟨"TILE_FIX_WRAP_CNT", 0x01003008, [(0x10000, 256)], 0x00000000, [⟨"value", 31, 0, .rw, none⟩]⟩,
  ⟨"TILE_FIX_OVF", 0x01003020, [(0x10000, 256), (0x4, 8)], 0x00000000, [⟨"value", 31, 0, .rw, none⟩]⟩,
  ⟨"TILE_FIX_SCALE", 0x01003400, [(0x10000, 256), (0x4, 256)], 0x3F800000, [⟨"value", 31, 0, .rw, none⟩]⟩,
  ⟨"TILE_FIX_CLIP", 0x01003800, [(0x10000, 256), (0x4, 256)], 0x00000000, [⟨"value", 31, 0, .rw, none⟩]⟩,
  ⟨"TILE_FIX_TOTAL", 0x01003C00, [(0x10000, 256), (0x4, 256)], 0x00000000, [⟨"value", 31, 0, .rw, none⟩]⟩ ]

/-- Table 04.8. -/
def regs04_8 : List RegRow := [
  ⟨"TILE_ENL_STATUS", 0x01001000, [(0x10000, 256)], 0x00000000, [⟨"busy", 31, 31, .ro, none⟩, ⟨"state", 30, 28, .ro, none⟩, ⟨"level", 27, 25, .ro, none⟩, ⟨"active_bank", 24, 24, .ro, none⟩, ⟨"shadow_loaded", 23, 23, .ro, none⟩, ⟨"flow", 22, 21, .ro, none⟩, ⟨"chain_open", 20, 20, .ro, none⟩, ⟨"tag", 19, 12, .ro, none⟩, ⟨"next_vec", 11, 0, .ro, none⟩]⟩,
  ⟨"TILE_ENL_FLAGS", 0x01001004, [(0x10000, 256)], 0x00000000, [⟨"ramp_down", 5, 5, .w1c, none⟩, ⟨"fbq_stall", 4, 4, .w1c, none⟩, ⟨"bank_wait", 3, 3, .w1c, none⟩, ⟨"nan_out", 2, 2, .w1c, none⟩, ⟨"inf_out", 1, 1, .w1c, none⟩, ⟨"pass_done", 0, 0, .w1c, none⟩]⟩,
  ⟨"TILE_ENL_FBQ", 0x01001008, [(0x10000, 256)], 0x00000800, [⟨"finished", 15, 12, .ro, none⟩, ⟨"free", 11, 8, .ro, none⟩, ⟨"open", 7, 4, .ro, none⟩, ⟨"head", 2, 0, .ro, none⟩]⟩,
  ⟨"TILE_ENL_MAC_LO", 0x01001010, [(0x10000, 256)], 0x00000000, [⟨"value", 31, 0, .rw, none⟩]⟩,
  ⟨"TILE_ENL_MAC_HI", 0x01001014, [(0x10000, 256)], 0x00000000, [⟨"value", 31, 0, .rw, none⟩]⟩,
  ⟨"TILE_ENL_DUMMY_CYC", 0x01001018, [(0x10000, 256)], 0x00000000, [⟨"value", 31, 0, .rw, none⟩]⟩,
  ⟨"TILE_ENL_RAMP_CYC", 0x0100101C, [(0x10000, 256)], 0x00000000, [⟨"value", 31, 0, .rw, none⟩]⟩,
  ⟨"TILE_ENL_STALL_FBQ", 0x01001020, [(0x10000, 256)], 0x00000000, [⟨"value", 31, 0, .rw, none⟩]⟩,
  ⟨"TILE_ENL_BANK_WAIT", 0x01001024, [(0x10000, 256)], 0x00000000, [⟨"value", 31, 0, .rw, none⟩]⟩,
  ⟨"TILE_ENL_WAVE", 0x01001028, [(0x10000, 256)], 0x00000000, [⟨"wave", 2, 0, .ro, none⟩]⟩ ]

/-- Table 05.8. -/
def regs05_8 : List RegRow := [
  ⟨"TILE_DEV_STATUS", 0x01002000, [(0x10000, 256)], 0x01000000, [⟨"busy", 31, 31, .ro, none⟩, ⟨"queue_depth", 30, 27, .ro, none⟩, ⟨"arith_busy", 26, 26, .ro, none⟩, ⟨"mem_busy", 25, 25, .ro, none⟩, ⟨"vlen", 24, 16, .ro, none⟩, ⟨"fbq_wait", 15, 15, .ro, none⟩, ⟨"last_opcode", 7, 0, .ro, none⟩]⟩,
  ⟨"TILE_DEV_FLAGS", 0x01002004, [(0x10000, 256)], 0x00000000, [⟨"div_zero", 8, 8, .w1c, none⟩, ⟨"wrap_in", 7, 7, .w1c, none⟩, ⟨"invalid", 6, 6, .w1c, none⟩, ⟨"acc_sat", 5, 5, .w1c, none⟩, ⟨"clipped", 4, 4, .w1c, none⟩, ⟨"nan_cvt", 3, 3, .w1c, none⟩, ⟨"smax_nan", 2, 2, .w1c, none⟩, ⟨"smax_empty", 1, 1, .w1c, none⟩, ⟨"perm_oor", 0, 0, .w1c, none⟩]⟩,
  ⟨"TILE_DEV_INSTR", 0x01002008, [(0x10000, 256)], 0x00000000, [⟨"value", 31, 0, .rw, none⟩]⟩,
  ⟨"TILE_DEV_STALL_DEP", 0x01002010, [(0x10000, 256)], 0x00000000, [⟨"value", 31, 0, .rw, none⟩]⟩,
  ⟨"TILE_DEV_STALL_FBQ", 0x01002014, [(0x10000, 256)], 0x00000000, [⟨"value", 31, 0, .rw, none⟩]⟩,
  ⟨"TILE_DEV_STALL_SB", 0x01002018, [(0x10000, 256)], 0x00000000, [⟨"value", 31, 0, .rw, none⟩]⟩ ]

/-- Table 06.6. -/
def regs06_6 : List RegRow := [
  ⟨"TILE_SP_STATUS", 0x01004000, [(0x10000, 256)], 0x00000000, [⟨"scrub_busy", 31, 31, .ro, none⟩, ⟨"scrub_queue", 20, 16, .ro, none⟩, ⟨"waking", 13, 8, .ro, none⟩, ⟨"asleep", 5, 0, .ro, none⟩]⟩,
  ⟨"TILE_SP_SLEEP", 0x01004004, [(0x10000, 256)], 0x00000000, [⟨"asleep", 5, 0, .rw, none⟩]⟩,
  ⟨"TILE_SP_SCRUB", 0x01004008, [(0x10000, 256)], 0x80000010, [⟨"en", 31, 31, .rw, none⟩, ⟨"period", 7, 0, .rw, none⟩]⟩,
  ⟨"TILE_SP_CE_CNT", 0x01004010, [(0x10000, 256)], 0x00000000, [⟨"value", 31, 0, .rw, none⟩]⟩,
  ⟨"TILE_SP_UE_CNT", 0x01004014, [(0x10000, 256)], 0x00000000, [⟨"value", 31, 0, .rw, none⟩]⟩,
  ⟨"TILE_SP_ERR_ADDR", 0x01004018, [(0x10000, 256)], 0x00000000, [⟨"valid", 31, 31, .rc, none⟩, ⟨"ue", 30, 30, .rc, none⟩, ⟨"word", 17, 15, .rc, none⟩, ⟨"row", 14, 0, .rc, none⟩]⟩,
  ⟨"TILE_SP_SCRUB_OVF", 0x0100401C, [(0x10000, 256)], 0x00000000, [⟨"value", 31, 0, .rw, none⟩]⟩,
  ⟨"TILE_SP_CONFLICT", 0x01004020, [(0x10000, 256)], 0x00000000, [⟨"value", 31, 0, .rw, none⟩]⟩,
  ⟨"TILE_SP_WAKE_STALL", 0x01004024, [(0x10000, 256)], 0x00000000, [⟨"value", 31, 0, .rw, none⟩]⟩,
  ⟨"TILE_DMA_STATUS", 0x01005000, [(0x10000, 256)], 0x00000000, [⟨"ring_wait", 11, 8, .ro, none⟩, ⟨"fetching", 7, 4, .ro, none⟩, ⟨"busy", 3, 0, .ro, none⟩]⟩,
  ⟨"TILE_DMA_FLAGS", 0x01005004, [(0x10000, 256)], 0x00000000, [⟨"ue_read", 5, 5, .w1c, none⟩, ⟨"ring_drop", 4, 4, .w1c, none⟩, ⟨"chan_done", 3, 0, .w1c, none⟩]⟩,
  ⟨"TILE_DMA_DONE", 0x01005008, [(0x10000, 256)], 0x00000000, [⟨"value", 31, 0, .ro, none⟩]⟩,
  ⟨"TILE_DMA_BYTES_LO", 0x01005010, [(0x10000, 256)], 0x00000000, [⟨"value", 31, 0, .rw, none⟩]⟩,
  ⟨"TILE_DMA_BYTES_HI", 0x01005014, [(0x10000, 256)], 0x00000000, [⟨"value", 31, 0, .rw, none⟩]⟩,
  ⟨"TILE_DMA_DESC_CNT", 0x01005018, [(0x10000, 256)], 0x00000000, [⟨"value", 31, 0, .rw, none⟩]⟩,
  ⟨"TILE_RING_CFG", 0x01005100, [(0x10000, 256), (0x4, 32)], 0x00000000, [⟨"en", 31, 31, .rw, none⟩, ⟨"slots_m1", 28, 25, .rw, none⟩, ⟨"slot_size_m1", 24, 15, .rw, none⟩, ⟨"base", 14, 0, .rw, none⟩]⟩,
  ⟨"TILE_RING_PTR", 0x01005180, [(0x10000, 256), (0x4, 32)], 0x00000000, [⟨"tail", 31, 16, .rw, none⟩, ⟨"head", 15, 0, .rw, none⟩]⟩,
  ⟨"TILE_SB_STATUS", 0x01006000, [(0x10000, 256)], 0x00000000, [⟨"stalled", 31, 31, .ro, none⟩, ⟨"high_water", 21, 16, .ro, none⟩, ⟨"in_use", 5, 0, .ro, none⟩]⟩,
  ⟨"TILE_SB_STALL", 0x01006004, [(0x10000, 256)], 0x00000000, [⟨"value", 31, 0, .rw, none⟩]⟩,
  ⟨"TILE_SB_FULL", 0x01006008, [(0x10000, 256)], 0x00000000, [⟨"value", 31, 0, .rw, none⟩]⟩ ]

/-- Table 06.7. -/
def regs06_7 : List RegRow := [
  ⟨"MEM_WC_CTL", 0x00480000, [], 0x0000000F, [⟨"inv", 31, 31, .w1s, none⟩, ⟨"bank_en", 3, 0, .rw, none⟩]⟩,
  ⟨"MEM_WC_STATUS", 0x00480004, [], 0x00000000, [⟨"value", 31, 0, .ro, none⟩]⟩,
  ⟨"MEM_WC_HIT_LO", 0x00480010, [], 0x00000000, [⟨"value", 31, 0, .rw, none⟩]⟩,
  ⟨"MEM_WC_HIT_HI", 0x00480014, [], 0x00000000, [⟨"value", 31, 0, .rw, none⟩]⟩,
  ⟨"MEM_WC_MISS_LO", 0x00480018, [], 0x00000000, [⟨"value", 31, 0, .rw, none⟩]⟩,
  ⟨"MEM_WC_MISS_HI", 0x0048001C, [], 0x00000000, [⟨"value", 31, 0, .rw, none⟩]⟩,
  ⟨"MEM_WC_MERGE", 0x00480020, [], 0x00000000, [⟨"value", 31, 0, .rw, none⟩]⟩ ]

/-- Table 07.9. -/
def regs07_9 : List RegRow := [
  ⟨"TILE_SEQ_STATUS", 0x01000000, [(0x10000, 256)], 0x00000000, [⟨"state", 31, 29, .ro, none⟩, ⟨"held", 28, 24, .ro, none⟩, ⟨"wait_op", 23, 16, .ro, none⟩, ⟨"context", 14, 8, .ro, none⟩, ⟨"slot_next", 4, 0, .ro, none⟩]⟩,
  ⟨"TILE_SEQ_PC", 0x01000004, [(0x10000, 256)], 0x00000000, [⟨"value", 31, 0, .ro, none⟩]⟩,
  ⟨"TILE_SEQ_ISSUE", 0x01000008, [(0x10000, 256)], 0x00000000, [⟨"value", 31, 0, .rw, none⟩]⟩,
  ⟨"TILE_SEQ_STALL", 0x0100000C, [(0x10000, 256)], 0x00000000, [⟨"value", 31, 0, .rw, none⟩]⟩,
  ⟨"TILE_TLB_MISS", 0x01000010, [(0x10000, 256)], 0x00000000, [⟨"value", 31, 0, .rw, none⟩]⟩,
  ⟨"TILE_STRIP_BASE", 0x01000040, [(0x10000, 256), (0x4, 16)], 0x00000000, [⟨"base", 20, 6, .rw, none⟩]⟩ ]

/-- Table 07.11. -/
def regs07_11 : List RegRow := [
  ⟨"MEM_SHADOW_FREE", 0x00480100, [], 0x00000000, [⟨"value", 31, 0, .ro, none⟩]⟩,
  ⟨"MEM_SCRUB_CLEAN", 0x00480104, [], 0x00000000, [⟨"value", 31, 0, .ro, none⟩]⟩,
  ⟨"MEM_SCRUB_PEND", 0x00480108, [], 0x00000000, [⟨"value", 31, 0, .ro, none⟩]⟩,
  ⟨"MEM_PAIR_USED", 0x0048010C, [], 0x00000000, [⟨"value", 31, 0, .ro, none⟩]⟩,
  ⟨"MEM_ALLOC_EXH", 0x00480110, [], 0x00000000, [⟨"value", 31, 0, .rw, none⟩]⟩ ]

/-- Table 08.10. -/
def regs08_10 : List RegRow := [
  ⟨"SCH_STATUS", 0x00200000, [], 0x00000000, [⟨"armed", 31, 31, .ro, none⟩, ⟨"cycle", 30, 28, .ro, none⟩, ⟨"parts", 15, 0, .ro, none⟩]⟩,
  ⟨"SCH_CYCLE_CNT", 0x00200004, [], 0x00000000, [⟨"value", 31, 0, .ro, none⟩]⟩,
  ⟨"SCH_SHUTTER", 0x00200008, [], 0x00000000, [⟨"action", 31, 30, .wo, none⟩, ⟨"context", 6, 0, .wo, none⟩]⟩,
  ⟨"SCH_SHUTTER_STATUS", 0x0020000C, [], 0x00000000, [⟨"busy", 31, 31, .ro, none⟩, ⟨"context", 6, 0, .ro, none⟩]⟩,
  ⟨"SCH_REARM", 0x00200010, [(0x4, 4)], 0x00000000, [⟨"value", 31, 0, .w1s, none⟩]⟩,
  ⟨"SCH_CTX_STATE", 0x00201000, [(0x4, 128)], 0x00000000, [⟨"state", 31, 29, .ro, none⟩, ⟨"neg_in_hbm", 28, 28, .ro, none⟩, ⟨"partition", 27, 24, .ro, none⟩, ⟨"entry", 23, 12, .ro, none⟩]⟩,
  ⟨"SCH_P_PREEMPT", 0x00202000, [(0x40, 16)], 0x00000000, [⟨"value", 31, 0, .rw, none⟩]⟩,
  ⟨"SCH_P_DEFER", 0x00202004, [(0x40, 16)], 0x00000000, [⟨"value", 31, 0, .rw, none⟩]⟩,
  ⟨"SCH_P_WAITED", 0x00202008, [(0x40, 16)], 0x00000000, [⟨"value", 31, 0, .rw, none⟩]⟩,
  ⟨"SCH_P_OVERRUN", 0x0020200C, [(0x40, 16)], 0x00000000, [⟨"value", 31, 0, .rw, none⟩]⟩,
  ⟨"SCH_P_DEADLINE", 0x00202010, [(0x40, 16)], 0x00000000, [⟨"value", 31, 0, .rw, none⟩]⟩,
  ⟨"SCH_P_SKIPPED", 0x00202014, [(0x40, 16)], 0x00000000, [⟨"value", 31, 0, .rw, none⟩]⟩,
  ⟨"SCH_P_FAULT", 0x00202018, [(0x40, 16)], 0x00000000, [⟨"value", 31, 0, .rw, none⟩]⟩,
  ⟨"SCH_CC_CFG", 0x00204000, [(0x100, 32), (0x4, 4)], 0x00000000, [⟨"value", 31, 0, .ro, none⟩]⟩,
  ⟨"SCH_CC_SPEC_COMMIT", 0x00204020, [(0x100, 32)], 0x00000000, [⟨"value", 31, 0, .rw, none⟩]⟩,
  ⟨"SCH_CC_SPEC_RERUN", 0x00204024, [(0x100, 32)], 0x00000000, [⟨"value", 31, 0, .rw, none⟩]⟩,
  ⟨"SCH_CC_SPEC_DISCARD", 0x00204028, [(0x100, 32)], 0x00000000, [⟨"value", 31, 0, .rw, none⟩]⟩,
  ⟨"SCH_CC_SPEC_UNPRED", 0x0020402C, [(0x100, 32)], 0x00000000, [⟨"value", 31, 0, .rw, none⟩]⟩,
  ⟨"SCH_CC_SPEC_EXH", 0x00204030, [(0x100, 32)], 0x00000000, [⟨"value", 31, 0, .rw, none⟩]⟩,
  ⟨"SCH_CC_UL_LATE", 0x00204034, [(0x100, 32)], 0x00000000, [⟨"value", 31, 0, .rw, none⟩]⟩,
  ⟨"SCH_CC_UL_DISCARD", 0x00204038, [(0x100, 32)], 0x00000000, [⟨"value", 31, 0, .rw, none⟩]⟩,
  ⟨"SCH_CC_UL_OMIT", 0x0020403C, [(0x100, 32)], 0x00000000, [⟨"value", 31, 0, .rw, none⟩]⟩,
  ⟨"SCH_CC_DL_TTI_MISS", 0x00204040, [(0x100, 32)], 0x00000000, [⟨"value", 31, 0, .rw, none⟩]⟩,
  ⟨"SCH_CC_UL_DCI_LATE", 0x00204044, [(0x100, 32)], 0x00000000, [⟨"value", 31, 0, .rw, none⟩]⟩,
  ⟨"SCH_CC_TX_DATA_MISS", 0x00204048, [(0x100, 32)], 0x00000000, [⟨"value", 31, 0, .rw, none⟩]⟩ ]

/-- Table 09.6. -/
def regs09_6 : List RegRow := [
  ⟨"ERR_LOG_STATUS", 0x00501000, [], 0x00000000, [⟨"fatal", 31, 31, .ro, none⟩, ⟨"unread", 25, 16, .ro, none⟩, ⟨"next_seq", 15, 0, .ro, none⟩]⟩,
  ⟨"ERR_LOG_POP", 0x00501004, [], 0x00000000, [⟨"pop", 0, 0, .wo, none⟩]⟩,
  ⟨"ERR_LOG_LOST", 0x00501008, [], 0x00000000, [⟨"value", 31, 0, .rw, none⟩]⟩,
  ⟨"ERR_REPLAY_CFG", 0x00501010, [], 0x80000028, [⟨"en", 31, 31, .rw, none⟩, ⟨"guard", 9, 0, .rw, none⟩]⟩,
  ⟨"ERR_HBM_PATROL", 0x00501014, [], 0x80000018, [⟨"en", 31, 31, .rw, none⟩, ⟨"period", 7, 0, .rw, none⟩]⟩,
  ⟨"ERR_JNL_REPLAYED", 0x00501020, [], 0x00000000, [⟨"value", 31, 0, .rw, none⟩]⟩,
  ⟨"ERR_JNL_FAULTED", 0x00501024, [], 0x00000000, [⟨"value", 31, 0, .rw, none⟩]⟩,
  ⟨"ERR_JNL_FULL", 0x00501028, [], 0x00000000, [⟨"value", 31, 0, .rw, none⟩]⟩,
  ⟨"ERR_CAPTURE_LOST", 0x0050102C, [], 0x00000000, [⟨"value", 31, 0, .rw, none⟩]⟩,
  ⟨"ERR_SPILL_CNT", 0x00501030, [], 0x00000000, [⟨"value", 31, 0, .rw, none⟩]⟩,
  ⟨"ERR_LOG_REC", 0x00501100, [(0x4, 8)], 0x00000000, [⟨"value", 31, 0, .ro, none⟩]⟩,
  ⟨"ERR_CLASS_CNT", 0x00501200, [(0x4, 32)], 0x00000000, [⟨"value", 31, 0, .rw, none⟩]⟩ ]

/-- Table 10.8. -/
def regs10_8 : List RegRow := [
  ⟨"CTX_EXT_BASE_LO", 0x00240000, [], 0x00000000, [⟨"value", 31, 0, .ro, none⟩]⟩,
  ⟨"CTX_EXT_BASE_HI", 0x00240004, [], 0x00000000, [⟨"value", 31, 0, .ro, none⟩]⟩,
  ⟨"CTX_CFG", 0x00240008, [], 0x00000000, [⟨"value", 31, 0, .ro, none⟩]⟩,
  ⟨"CTX_USED", 0x0024000C, [], 0x00000000, [⟨"value", 31, 0, .ro, none⟩]⟩,
  ⟨"CTX_RELEASE", 0x00240010, [], 0x00000000, [⟨"carrier", 28, 24, .wo, none⟩, ⟨"rnti", 15, 0, .wo, none⟩]⟩,
  ⟨"CTX_RELEASE_STATUS", 0x00240014, [], 0x00000000, [⟨"value", 31, 0, .ro, none⟩]⟩,
  ⟨"CTX_EVICT_AGE", 0x00240020, [], 0x00000000, [⟨"value", 31, 0, .rw, none⟩]⟩,
  ⟨"CTX_EVICT_QUOTA", 0x00240024, [], 0x00000000, [⟨"value", 31, 0, .rw, none⟩]⟩,
  ⟨"CTX_ALLOC_FAIL", 0x00240028, [], 0x00000000, [⟨"value", 31, 0, .rw, none⟩]⟩,
  ⟨"CTX_COLD_READ", 0x0024002C, [], 0x00000000, [⟨"value", 31, 0, .rw, none⟩]⟩,
  ⟨"CTX_CC_Q", 0x00240100, [(0x4, 32)], 0x00000000, [⟨"value", 31, 0, .ro, none⟩]⟩ ]

/-- Table 10.9. -/
def regs10_9 : List RegRow := [
  ⟨"HARQ_CFG", 0x00280000, [], 0x00000000, [⟨"value", 31, 0, .ro, none⟩]⟩,
  ⟨"HARQ_USED", 0x00280004, [], 0x00000000, [⟨"value", 31, 0, .ro, none⟩]⟩,
  ⟨"HARQ_PAGES_USED", 0x00280008, [], 0x00000000, [⟨"value", 31, 0, .ro, none⟩]⟩,
  ⟨"HARQ_PREFETCH", 0x0028000C, [], 0x00000000, [⟨"value", 31, 0, .ro, none⟩]⟩,
  ⟨"HARQ_EVICT_AGE", 0x00280010, [], 0x00000000, [⟨"value", 31, 0, .rw, none⟩]⟩,
  ⟨"HARQ_EVICT_QUOTA", 0x00280014, [], 0x00000000, [⟨"value", 31, 0, .rw, none⟩]⟩,
  ⟨"HARQ_NO_BUFFER", 0x00280018, [], 0x00000000, [⟨"value", 31, 0, .rw, none⟩]⟩,
  ⟨"HARQ_RETX_MISS", 0x0028001C, [], 0x00000000, [⟨"value", 31, 0, .rw, none⟩]⟩,
  ⟨"HARQ_MISMATCH", 0x00280020, [], 0x00000000, [⟨"value", 31, 0, .rw, none⟩]⟩,
  ⟨"HARQ_DUP", 0x00280024, [], 0x00000000, [⟨"value", 31, 0, .rw, none⟩]⟩,
  ⟨"HARQ_FLUSH", 0x00280030, [], 0x00000000, [⟨"all", 31, 31, .wo, none⟩, ⟨"harq_id", 19, 16, .wo, none⟩, ⟨"ue", 15, 0, .wo, none⟩]⟩,
  ⟨"HARQ_FLUSH_STATUS", 0x00280034, [], 0x00000000, [⟨"value", 31, 0, .ro, none⟩]⟩,
  ⟨"HARQ_POOL_BASE_LO", 0x00280040, [], 0x00000000, [⟨"value", 31, 0, .ro, none⟩]⟩,
  ⟨"HARQ_POOL_BASE_HI", 0x00280044, [], 0x00000000, [⟨"value", 31, 0, .ro, none⟩]⟩,
  ⟨"HARQ_CC_DQ", 0x00280100, [(0x4, 32)], 0x00000000, [⟨"value", 31, 0, .ro, none⟩]⟩,
  ⟨"HARQ_CC_PQ", 0x00280200, [(0x4, 32)], 0x00000000, [⟨"value", 31, 0, .ro, none⟩]⟩ ]

/-- Table 10.10. -/
def regs10_10 : List RegRow := [
  ⟨"LDC_STATUS", 0x00300000, [], 0x00000000, [⟨"wsets_loaded", 31, 31, .ro, none⟩, ⟨"slice_busy", 19, 16, .ro, none⟩, ⟨"release_q", 15, 0, .ro, none⟩]⟩,
  ⟨"LDC_FLAGS", 0x00300004, [], 0x00000000, [⟨"cb_crc_fail", 3, 3, .w1c, none⟩, ⟨"comb_clip", 2, 2, .w1c, none⟩, ⟨"maxiter", 1, 1, .w1c, none⟩, ⟨"tb_done", 0, 0, .w1c, none⟩]⟩,
  ⟨"LDC_CB_CNT", 0x00300010, [], 0x00000000, [⟨"value", 31, 0, .rw, none⟩]⟩,
  ⟨"LDC_ITER_SUM", 0x00300014, [], 0x00000000, [⟨"value", 31, 0, .rw, none⟩]⟩,
  ⟨"LDC_CB_MAXITER", 0x00300018, [], 0x00000000, [⟨"value", 31, 0, .rw, none⟩]⟩,
  ⟨"LDC_TB_PASS", 0x0030001C, [], 0x00000000, [⟨"value", 31, 0, .rw, none⟩]⟩,
  ⟨"LDC_TB_FAIL", 0x00300020, [], 0x00000000, [⟨"value", 31, 0, .rw, none⟩]⟩,
  ⟨"LDC_COMB_CLIP", 0x00300024, [], 0x00000000, [⟨"value", 31, 0, .rw, none⟩]⟩,
  ⟨"LDC_ENC_TB", 0x00300028, [], 0x00000000, [⟨"value", 31, 0, .rw, none⟩]⟩,
  ⟨"LDC_CC_CFG", 0x00300100, [(0x4, 32)], 0x00000000, [⟨"valid", 31, 31, .ro, none⟩, ⟨"wset", 11, 8, .ro, none⟩, ⟨"max_iter", 4, 0, .ro, none⟩]⟩ ]

/-- Table 10.11. -/
def regs10_11 : List RegRow := [
  ⟨"PLC_STATUS", 0x00340000, [], 0x00000000, [⟨"value", 31, 0, .ro, none⟩]⟩,
  ⟨"PLC_FLAGS", 0x00340004, [], 0x00000000, [⟨"dtx", 2, 2, .w1c, none⟩, ⟨"crc_fail", 1, 1, .w1c, none⟩, ⟨"done", 0, 0, .w1c, none⟩]⟩,
  ⟨"PLC_POLAR_CNT", 0x00340010, [], 0x00000000, [⟨"value", 31, 0, .rw, none⟩]⟩,
  ⟨"PLC_RM_CNT", 0x00340014, [], 0x00000000, [⟨"value", 31, 0, .rw, none⟩]⟩,
  ⟨"PLC_CRC_FAIL", 0x00340018, [], 0x00000000, [⟨"value", 31, 0, .rw, none⟩]⟩,
  ⟨"PLC_DTX", 0x0034001C, [], 0x00000000, [⟨"value", 31, 0, .rw, none⟩]⟩,
  ⟨"PLC_CC_DTX", 0x00340100, [(0x4, 32)], 0x00000000, [⟨"value", 31, 0, .ro, none⟩]⟩ ]

/-- Table 11.7. -/
def regs11_7 : List RegRow := [
  ⟨"RXM_STATUS", 0x00380000, [], 0x00000000, [⟨"searching", 23, 16, .ro, none⟩]⟩,
  ⟨"RXM_FLAGS", 0x00380004, [], 0x00000000, [⟨"load_over", 3, 3, .w1c, none⟩, ⟨"unclaimed", 2, 2, .w1c, none⟩, ⟨"bind_hit", 1, 1, .w1c, none⟩, ⟨"detect", 0, 0, .w1c, none⟩]⟩,
  ⟨"RXM_CFG", 0x00380008, [], 0x00000000, [⟨"rho_min", 31, 16, .ro, none⟩, ⟨"ref_max_age", 15, 0, .ro, none⟩]⟩,
  ⟨"RXM_REF_BASE_LO", 0x00380010, [], 0x00000000, [⟨"value", 31, 0, .ro, none⟩]⟩,
  ⟨"RXM_REF_BASE_HI", 0x00380014, [], 0x00000000, [⟨"value", 31, 0, .ro, none⟩]⟩,
  ⟨"RXM_NF_BASE_LO", 0x00380018, [], 0x00000000, [⟨"value", 31, 0, .ro, none⟩]⟩,
  ⟨"RXM_NF_BASE_HI", 0x0038001C, [], 0x00000000, [⟨"value", 31, 0, .ro, none⟩]⟩,
  ⟨"RXM_PRACH_OCC", 0x00380020, [], 0x00000000, [⟨"value", 31, 0, .rw, none⟩]⟩,
  ⟨"RXM_PRACH_DET", 0x00380024, [], 0x00000000, [⟨"value", 31, 0, .rw, none⟩]⟩,
  ⟨"RXM_PRACH_UNCLAIMED", 0x00380028, [], 0x00000000, [⟨"value", 31, 0, .rw, none⟩]⟩,
  ⟨"RXM_PRACH_BIND_HIT", 0x0038002C, [], 0x00000000, [⟨"value", 31, 0, .rw, none⟩]⟩,
  ⟨"RXM_FO_EST", 0x00380030, [], 0x00000000, [⟨"value", 31, 0, .rw, none⟩]⟩,
  ⟨"RXM_FO_COLD", 0x00380034, [], 0x00000000, [⟨"value", 31, 0, .rw, none⟩]⟩,
  ⟨"RXM_FO_LOWQ", 0x00380038, [], 0x00000000, [⟨"value", 31, 0, .rw, none⟩]⟩,
  ⟨"RXM_NF_SAMPLES", 0x0038003C, [], 0x00000000, [⟨"value", 31, 0, .rw, none⟩]⟩,
  ⟨"RXM_NF_RESET", 0x00380040, [], 0x00000000, [⟨"value", 31, 0, .rw, none⟩]⟩,
  ⟨"RXM_CC_THR", 0x00380100, [(0x20, 32)], 0x00000000, [⟨"thr_long", 31, 16, .ro, none⟩, ⟨"thr_short", 15, 0, .ro, none⟩]⟩,
  ⟨"RXM_CC_CAL", 0x00380104, [(0x20, 32)], 0x00000000, [⟨"value", 31, 0, .ro, none⟩]⟩,
  ⟨"RXM_CC_NF", 0x00380108, [(0x20, 32)], 0x00000000, [⟨"nf_grp", 31, 30, .ro, none⟩, ⟨"nf_k", 29, 26, .ro, none⟩, ⟨"nf_stale", 13, 0, .ro, none⟩]⟩,
  ⟨"RXM_CC_NF_DEF", 0x0038010C, [(0x20, 32)], 0x00000000, [⟨"value", 31, 0, .ro, none⟩]⟩,
  ⟨"RXM_BIND_KEY", 0x00381000, [(0x8, 64)], 0x00000000, [⟨"valid", 31, 31, .rw, none⟩, ⟨"one_shot", 30, 30, .rw, none⟩, ⟨"carrier", 20, 16, .rw, none⟩, ⟨"fd_mask", 15, 8, .rw, none⟩, ⟨"preamble", 5, 0, .rw, none⟩]⟩,
  ⟨"RXM_BIND_RNTI", 0x00381004, [(0x8, 64)], 0x00000000, [⟨"rnti", 15, 0, .rw, none⟩]⟩ ]

/-- Table 12.10. -/
def regs12_10 : List RegRow := [
  ⟨"ETH_P_CFG", 0x00100000, [(0x2000, 8)], 0x24000000, [⟨"max_frame", 29, 16, .rw, some (64, 9216)⟩, ⟨"untagged", 11, 8, .rw, none⟩, ⟨"mode", 1, 0, .rw, none⟩]⟩,
  ⟨"ETH_P_STATUS", 0x00100004, [(0x2000, 8)], 0x00000000, [⟨"fec_lock", 7, 4, .ro, none⟩, ⟨"link_up", 3, 0, .ro, none⟩]⟩,
  ⟨"ETH_P_FLAGS", 0x00100008, [(0x2000, 8)], 0x00000000, [⟨"link_lost", 3, 0, .w1c, none⟩]⟩,
  ⟨"ETH_PQ_MAC_LO", 0x00100010, [(0x2000, 8), (0x8, 4)], 0x00000000, [⟨"value", 31, 0, .rw, none⟩]⟩,
  ⟨"ETH_PQ_MAC_HI", 0x00100014, [(0x2000, 8), (0x8, 4)], 0x00000000, [⟨"mac", 15, 0, .rw, none⟩]⟩,
  ⟨"ETH_PQ_RX_FRAMES", 0x00100100, [(0x2000, 8), (0x40, 4)], 0x00000000, [⟨"value", 31, 0, .rw, none⟩]⟩,
  ⟨"ETH_PQ_RX_ERR", 0x00100104, [(0x2000, 8), (0x40, 4)], 0x00000000, [⟨"value", 31, 0, .rw, none⟩]⟩,
  ⟨"ETH_PQ_RX_UNCLASS", 0x00100108, [(0x2000, 8), (0x40, 4)], 0x00000000, [⟨"value", 31, 0, .rw, none⟩]⟩,
  ⟨"ETH_PQ_RX_PAUSE", 0x0010010C, [(0x2000, 8), (0x40, 4)], 0x00000000, [⟨"value", 31, 0, .rw, none⟩]⟩,
  ⟨"ETH_PQ_TX_FRAMES", 0x00100110, [(0x2000, 8), (0x40, 4)], 0x00000000, [⟨"value", 31, 0, .rw, none⟩]⟩,
  ⟨"ETH_PQ_TX_DROP", 0x00100114, [(0x2000, 8), (0x40, 4)], 0x00000000, [⟨"value", 31, 0, .rw, none⟩]⟩,
  ⟨"ETH_PQ_FEC_CORR", 0x00100118, [(0x2000, 8), (0x40, 4)], 0x00000000, [⟨"value", 31, 0, .rw, none⟩]⟩,
  ⟨"ETH_PQ_FEC_UNCORR", 0x0010011C, [(0x2000, 8), (0x40, 4)], 0x00000000, [⟨"value", 31, 0, .rw, none⟩]⟩ ]

/-- Table 12.11. -/
def regs12_11 : List RegRow := [
  ⟨"FHX_FLAGS", 0x00140000, [], 0x00000000, [⟨"dl_miss", 2, 2, .w1c, none⟩, ⟨"dup_key", 1, 1, .w1c, none⟩, ⟨"late", 0, 0, .w1c, none⟩]⟩,
  ⟨"FHX_RX_UNKNOWN", 0x00140010, [], 0x00000000, [⟨"value", 31, 0, .rw, none⟩]⟩,
  ⟨"FHX_RX_BADHDR", 0x00140014, [], 0x00000000, [⟨"value", 31, 0, .rw, none⟩]⟩,
  ⟨"FHX_RX_EARLY", 0x00140018, [], 0x00000000, [⟨"value", 31, 0, .rw, none⟩]⟩,
  ⟨"FHX_RX_LATE", 0x0014001C, [], 0x00000000, [⟨"value", 31, 0, .rw, none⟩]⟩,
  ⟨"FHX_RX_DUP_PRB", 0x00140020, [], 0x00000000, [⟨"value", 31, 0, .rw, none⟩]⟩,
  ⟨"FHX_RX_SEQ_GAP", 0x00140024, [], 0x00000000, [⟨"value", 31, 0, .rw, none⟩]⟩,
  ⟨"FHX_DMRS_DROP", 0x00140028, [], 0x00000000, [⟨"value", 31, 0, .rw, none⟩]⟩,
  ⟨"FHX_DL_MISS", 0x0014002C, [], 0x00000000, [⟨"value", 31, 0, .rw, none⟩]⟩,
  ⟨"FHX_OWD_CTL", 0x00140040, [], 0x00000000, [⟨"start", 31, 31, .w1s, none⟩, ⟨"ru", 5, 0, .rw, none⟩]⟩,
  ⟨"FHX_OWD_RESULT", 0x00140044, [], 0x00000000, [⟨"value", 31, 0, .ro, none⟩]⟩,
  ⟨"FHX_CC_ULBUF_LO", 0x00140100, [(0x40, 32)], 0x00000000, [⟨"value", 31, 0, .ro, none⟩]⟩,
  ⟨"FHX_CC_ULBUF_HI", 0x00140104, [(0x40, 32)], 0x00000000, [⟨"value", 31, 0, .ro, none⟩]⟩,
  ⟨"FHX_CC_ULCFG", 0x00140108, [(0x40, 32)], 0x00000000, [⟨"ul_nbuf", 31, 28, .ro, none⟩, ⟨"cp_lead", 27, 19, .ro, none⟩, ⟨"ul_stride", 11, 0, .ro, none⟩]⟩,
  ⟨"FHX_CC_DLBUF_LO", 0x00140110, [(0x40, 32)], 0x00000000, [⟨"value", 31, 0, .ro, none⟩]⟩,
  ⟨"FHX_CC_DLBUF_HI", 0x00140114, [(0x40, 32)], 0x00000000, [⟨"value", 31, 0, .ro, none⟩]⟩,
  ⟨"FHX_CC_DLCFG", 0x00140118, [(0x40, 32)], 0x00000000, [⟨"dl_nbuf", 31, 28, .ro, none⟩, ⟨"dl_fmt", 27, 24, .ro, none⟩, ⟨"sparse", 23, 23, .ro, none⟩, ⟨"dl_stride", 11, 0, .ro, none⟩]⟩,
  ⟨"FHX_CC_CAP_LO", 0x00140120, [(0x40, 32)], 0x00000000, [⟨"value", 31, 0, .ro, none⟩]⟩,
  ⟨"FHX_CC_CAP_HI", 0x00140124, [(0x40, 32)], 0x00000000, [⟨"value", 31, 0, .ro, none⟩]⟩,
  ⟨"FHX_CC_CAPSZ", 0x00140128, [(0x40, 32)], 0x00000000, [⟨"value", 31, 0, .ro, none⟩]⟩,
  ⟨"FHX_RU_MAC_LO", 0x00141000, [(0x8, 64)], 0x00000000, [⟨"value", 31, 0, .rw, none⟩]⟩,
  ⟨"FHX_RU_MAC_HI", 0x00141004, [(0x8, 64)], 0x00000000, [⟨"mac", 15, 0, .rw, none⟩]⟩,
  ⟨"FHX_CLIP", 0x00148000, [(0x4, 8192)], 0x00000000, [⟨"value", 31, 0, .rw, none⟩]⟩ ]

/-- Table 12.12. -/
def regs12_12 : List RegRow := [
  ⟨"NB_CFG", 0x00180000, [], 0x00000000, [⟨"en", 31, 31, .rw, none⟩, ⟨"ipv6", 30, 30, .rw, none⟩, ⟨"csum_tx", 29, 29, .rw, none⟩, ⟨"csum_rx", 28, 28, .rw, none⟩, ⟨"ext_en", 27, 27, .rw, none⟩, ⟨"pcp", 13, 11, .rw, none⟩, ⟨"dscp", 5, 0, .rw, none⟩]⟩,
  ⟨"NB_REJECT", 0x00180004, [], 0x00000000, [⟨"valid", 31, 31, .rc, none⟩, ⟨"carrier", 28, 24, .rc, none⟩, ⟨"msg_id", 23, 16, .rc, none⟩, ⟨"code", 3, 0, .rc, none⟩]⟩,
  ⟨"NB_MAC_SEL", 0x00180010, [], 0x00000000, [⟨"alt_en", 15, 15, .rw, none⟩, ⟨"alt_mac", 12, 8, .rw, none⟩, ⟨"mac", 4, 0, .rw, none⟩]⟩,
  ⟨"NB_VLAN", 0x00180014, [], 0x00000000, [⟨"vlan", 11, 0, .rw, none⟩]⟩,
  ⟨"NB_UDP_PORT", 0x00180018, [], 0x00000000, [⟨"local", 31, 16, .rw, none⟩, ⟨"peer", 15, 0, .rw, none⟩]⟩,
  ⟨"NB_LOCAL_IP", 0x00180020, [(0x4, 4)], 0x00000000, [⟨"value", 31, 0, .rw, none⟩]⟩,
  ⟨"NB_PEER_IP", 0x00180030, [(0x4, 4)], 0x00000000, [⟨"value", 31, 0, .rw, none⟩]⟩,
  ⟨"NB_NEXTHOP_MAC_LO", 0x00180040, [], 0x00000000, [⟨"value", 31, 0, .rw, none⟩]⟩,
  ⟨"NB_NEXTHOP_MAC_HI", 0x00180044, [], 0x00000000, [⟨"mac", 15, 0, .rw, none⟩]⟩,
  ⟨"NB_TIMING", 0x00180048, [], 0x01F41388, [⟨"seg_timeout", 31, 16, .rw, some (50, 2000)⟩, ⟨"accept_max", 15, 0, .rw, some (1000, 20000)⟩]⟩,
  ⟨"NB_RX_MSG", 0x00180100, [], 0x00000000, [⟨"value", 31, 0, .rw, none⟩]⟩,
  ⟨"NB_TX_MSG", 0x00180104, [], 0x00000000, [⟨"value", 31, 0, .rw, none⟩]⟩,
  ⟨"NB_UNKNOWN", 0x00180108, [], 0x00000000, [⟨"value", 31, 0, .rw, none⟩]⟩,
  ⟨"NB_UNSUPPORTED", 0x0018010C, [], 0x00000000, [⟨"value", 31, 0, .rw, none⟩]⟩,
  ⟨"NB_CSUM_ERR", 0x00180110, [], 0x00000000, [⟨"value", 31, 0, .rw, none⟩]⟩,
  ⟨"NB_REASM_TO", 0x00180114, [], 0x00000000, [⟨"value", 31, 0, .rw, none⟩]⟩,
  ⟨"NB_MALFORMED", 0x00180118, [], 0x00000000, [⟨"value", 31, 0, .rw, none⟩]⟩,
  ⟨"NB_EARLY", 0x0018011C, [], 0x00000000, [⟨"value", 31, 0, .rw, none⟩]⟩,
  ⟨"NB_DUP", 0x00180120, [], 0x00000000, [⟨"value", 31, 0, .rw, none⟩]⟩,
  ⟨"NB_CC_PHYID", 0x00180200, [(0x4, 32)], 0x00000000, [⟨"value", 31, 0, .ro, none⟩]⟩,
  ⟨"NB_CC_CTL", 0x00180300, [(0x4, 32)], 0x00000000, [⟨"run", 31, 31, .rw, none⟩, ⟨"load", 30, 30, .w1s, none⟩, ⟨"bad", 29, 29, .ro, none⟩]⟩,
  ⟨"NB_CC_P5_LO", 0x00180400, [(0x8, 32)], 0x00000000, [⟨"value", 31, 0, .ro, none⟩]⟩,
  ⟨"NB_CC_P5_HI", 0x00180404, [(0x8, 32)], 0x00000000, [⟨"value", 31, 0, .ro, none⟩]⟩ ]

/-- Table 13.8. -/
def regs13_8 : List RegRow := [
  ⟨"TIME_STATUS", 0x00080000, [], 0x00000000, [⟨"valid", 31, 31, .ro, none⟩, ⟨"active", 30, 30, .ro, none⟩, ⟨"state_act", 29, 28, .ro, none⟩, ⟨"state_sh", 27, 26, .ro, none⟩, ⟨"hold_expired", 25, 25, .ro, none⟩, ⟨"pps_in_present", 24, 24, .ro, none⟩]⟩,
  ⟨"TIME_FLAGS", 0x00080004, [], 0x00000000, [⟨"synce_lost", 7, 7, .w1c, none⟩, ⟨"pps_in_lost", 6, 6, .w1c, none⟩, ⟨"hold_expired", 5, 5, .w1c, none⟩, ⟨"switch_refused", 4, 4, .w1c, none⟩, ⟨"switch", 3, 3, .w1c, none⟩, ⟨"step", 2, 2, .w1c, none⟩, ⟨"lost", 1, 1, .w1c, none⟩, ⟨"locked", 0, 0, .w1c, none⟩]⟩,
  ⟨"TIME_CTL", 0x00080008, [], 0x00000000, [⟨"force", 4, 4, .w1s, none⟩, ⟨"switch", 3, 3, .w1s, none⟩, ⟨"adj", 2, 2, .w1s, none⟩, ⟨"set_valid", 1, 1, .w1s, none⟩, ⟨"set", 0, 0, .w1s, none⟩]⟩,
  ⟨"TIME_NOW_SEC_LO", 0x00080010, [], 0x00000000, [⟨"value", 31, 0, .ro, none⟩]⟩,
  ⟨"TIME_NOW_SEC_HI", 0x00080014, [], 0x00000000, [⟨"value", 31, 0, .ro, none⟩]⟩,
  ⟨"TIME_NOW_NS", 0x00080018, [], 0x00000000, [⟨"value", 31, 0, .ro, none⟩]⟩,
  ⟨"TIME_NOW_FRAC", 0x0008001C, [], 0x00000000, [⟨"value", 31, 0, .ro, none⟩]⟩,
  ⟨"TIME_SET_SEC_LO", 0x00080020, [], 0x00000000, [⟨"value", 31, 0, .rw, none⟩]⟩,
  ⟨"TIME_SET_SEC_HI", 0x00080024, [], 0x00000000, [⟨"sec", 15, 0, .rw, none⟩]⟩,
  ⟨"TIME_SET_NS", 0x00080028, [], 0x00000000, [⟨"value", 31, 0, .rw, some (0, 999999999)⟩]⟩,
  ⟨"TIME_SET_FRAC", 0x0008002C, [], 0x00000000, [⟨"frac", 15, 0, .rw, none⟩]⟩,
  ⟨"TIME_ADJ_LO", 0x00080030, [], 0x00000000, [⟨"value", 31, 0, .rw, none⟩]⟩,
  ⟨"TIME_ADJ_HI", 0x00080034, [], 0x00000000, [⟨"adj", 15, 0, .rw, none⟩]⟩,
  ⟨"TIME_SFN", 0x00080040, [], 0x00000000, [⟨"value", 31, 0, .ro, none⟩]⟩,
  ⟨"TIME_DPLL_CFG", 0x00080050, [], 0x00000000, [⟨"synce_src", 12, 8, .rw, none⟩, ⟨"bw", 5, 4, .rw, some (0, 2)⟩, ⟨"mode", 1, 0, .rw, some (0, 2)⟩]⟩,
  ⟨"TIME_DPLL_STATUS", 0x00080054, [], 0x00000000, [⟨"value", 31, 0, .ro, none⟩]⟩,
  ⟨"TIME_SWITCH_CFG", 0x00080060, [], 0x00000000, [⟨"switch_revert", 1, 1, .rw, none⟩, ⟨"switch_policy", 0, 0, .rw, none⟩]⟩,
  ⟨"TIME_HOLD_LIMIT", 0x00080064, [], 0x00000E10, [⟨"value", 31, 0, .rw, none⟩]⟩,
  ⟨"TIME_PPS_OUT", 0x00080070, [], 0x00000064, [⟨"en", 31, 31, .rw, none⟩, ⟨"width", 8, 0, .rw, some (1, 500)⟩]⟩,
  ⟨"TIME_PPS_OUT_OFS", 0x00080074, [], 0x00000000, [⟨"value", 31, 0, .rw, none⟩]⟩,
  ⟨"TIME_PPS_IN_CFG", 0x00080078, [], 0x00000000, [⟨"en", 31, 31, .rw, none⟩, ⟨"falling", 30, 30, .rw, none⟩]⟩,
  ⟨"TIME_PPS_IN_ERR", 0x0008007C, [], 0x00000000, [⟨"value", 31, 0, .ro, none⟩]⟩,
  ⟨"TIME_SYNCE_OUT", 0x00080080, [(0x4, 2)], 0x00000000, [⟨"en", 31, 31, .rw, none⟩, ⟨"freq", 30, 30, .rw, none⟩, ⟨"src", 4, 0, .rw, none⟩]⟩,
  ⟨"TIME_S_CFG", 0x00080100, [(0x80, 2)], 0x08000018, [⟨"en", 31, 31, .rw, none⟩, ⟨"src", 29, 28, .rw, some (0, 2)⟩, ⟨"step_en", 27, 27, .rw, none⟩, ⟨"step_armed", 26, 26, .rw, none⟩, ⟨"domain", 7, 0, .rw, none⟩]⟩,
  ⟨"TIME_S_KP", 0x00080104, [(0x80, 2)], 0x00B33333, [⟨"value", 31, 0, .rw, none⟩]⟩,
  ⟨"TIME_S_KI", 0x00080108, [(0x80, 2)], 0x00051EB8, [⟨"value", 31, 0, .rw, none⟩]⟩,
  ⟨"TIME_S_FMAX", 0x0008010C, [(0x80, 2)], 0x000186A0, [⟨"value", 31, 0, .rw, some (1, 100000)⟩]⟩,
  ⟨"TIME_S_STEP_THR", 0x00080110, [(0x80, 2)], 0x000F4240, [⟨"value", 31, 0, .rw, none⟩]⟩,
  ⟨"TIME_S_LOCK", 0x00080114, [(0x80, 2)], 0x00100064, [⟨"lock_count", 23, 16, .rw, none⟩, ⟨"lock_thr", 15, 0, .rw, none⟩]⟩,
  ⟨"TIME_S_UNLOCK", 0x00080118, [(0x80, 2)], 0x000403E8, [⟨"unlock_count", 23, 16, .rw, none⟩, ⟨"unlock_thr", 15, 0, .rw, none⟩]⟩,
  ⟨"TIME_S_LOSS", 0x0008011C, [(0x80, 2)], 0x000003E8, [⟨"value", 31, 0, .rw, some (1, 10000)⟩]⟩,
  ⟨"TIME_S_OFFSET_LO", 0x00080120, [(0x80, 2)], 0x00000000, [⟨"value", 31, 0, .wo, none⟩]⟩,
  ⟨"TIME_S_OFFSET_HI", 0x00080124, [(0x80, 2)], 0x00000000, [⟨"sample", 15, 0, .wo, none⟩]⟩,
  ⟨"TIME_S_STATUS", 0x00080128, [(0x80, 2)], 0x00000000, [⟨"state", 31, 30, .ro, none⟩, ⟨"run", 7, 0, .ro, none⟩]⟩,
  ⟨"TIME_S_FREQ", 0x0008012C, [(0x80, 2)], 0x00000000, [⟨"value", 31, 0, .ro, none⟩]⟩,
  ⟨"TIME_S_PHASE", 0x00080130, [(0x80, 2)], 0x00000000, [⟨"value", 31, 0, .ro, none⟩]⟩,
  ⟨"TIME_S_HOLD_SEC", 0x00080134, [(0x80, 2)], 0x00000000, [⟨"value", 31, 0, .ro, none⟩]⟩,
  ⟨"TIME_S_SAMPLES", 0x00080138, [(0x80, 2)], 0x00000000, [⟨"value", 31, 0, .rw, none⟩]⟩,
  ⟨"TIME_S_STEPS", 0x0008013C, [(0x80, 2)], 0x00000000, [⟨"value", 31, 0, .rw, none⟩]⟩,
  ⟨"TIME_P_TSCFG", 0x00080400, [(0x10, 8)], 0x00000001, [⟨"medium", 1, 1, .rw, none⟩, ⟨"corr_en", 0, 0, .rw, none⟩]⟩,
  ⟨"TIME_P_CORR", 0x00080404, [(0x10, 8)], 0x01B3029A, [⟨"value", 31, 0, .ro, none⟩]⟩,
  ⟨"TIME_P_ASYM", 0x00080408, [(0x10, 8)], 0x00000000, [⟨"asym_tx", 31, 16, .rwl, none⟩, ⟨"asym_rx", 15, 0, .rwl, none⟩]⟩,
  ⟨"TIME_CC_OFFSET", 0x00080800, [(0x4, 32)], 0x00000000, [⟨"value", 31, 0, .ro, none⟩]⟩ ]

/-- Table 13.9. -/
def regs13_9 : List RegRow := [
  ⟨"TPIN_STATUS", 0x00090000, [], 0x00000000, [⟨"value", 31, 0, .ro, none⟩]⟩,
  ⟨"TPIN_I_CFG", 0x00090100, [(0x40, 16)], 0x00000000, [⟨"arm", 31, 31, .w1s, none⟩, ⟨"disarm", 30, 30, .w1s, none⟩, ⟨"edge", 5, 4, .rw, some (0, 2)⟩, ⟨"polarity", 3, 3, .rw, none⟩, ⟨"mode", 2, 0, .rw, some (0, 5)⟩]⟩,
  ⟨"TPIN_I_T_SEC_LO", 0x00090104, [(0x40, 16)], 0x00000000, [⟨"value", 31, 0, .rw, none⟩]⟩,
  ⟨"TPIN_I_T_SEC_HI", 0x00090108, [(0x40, 16)], 0x00000000, [⟨"sec", 15, 0, .rw, none⟩]⟩,
  ⟨"TPIN_I_T_NS", 0x0009010C, [(0x40, 16)], 0x00000000, [⟨"value", 31, 0, .rw, none⟩]⟩,
  ⟨"TPIN_I_T_FRAC", 0x00090110, [(0x40, 16)], 0x00000000, [⟨"frac", 15, 0, .rw, none⟩]⟩,
  ⟨"TPIN_I_PERIOD_NS", 0x00090114, [(0x40, 16)], 0x00000000, [⟨"value", 31, 0, .rw, none⟩]⟩,
  ⟨"TPIN_I_PERIOD_FRAC", 0x00090118, [(0x40, 16)], 0x00000000, [⟨"frac", 15, 0, .rw, none⟩]⟩,
  ⟨"TPIN_I_WIDTH", 0x0009011C, [(0x40, 16)], 0x00000000, [⟨"value", 31, 0, .rw, none⟩]⟩,
  ⟨"TPIN_I_CAP_SEC_LO", 0x00090120, [(0x40, 16)], 0x00000000, [⟨"value", 31, 0, .ro, none⟩]⟩,
  ⟨"TPIN_I_CAP_SEC_HI", 0x00090124, [(0x40, 16)], 0x00000000, [⟨"value", 31, 0, .ro, none⟩]⟩,
  ⟨"TPIN_I_CAP_NS", 0x00090128, [(0x40, 16)], 0x00000000, [⟨"value", 31, 0, .ro, none⟩]⟩,
  ⟨"TPIN_I_CAP_FRAC", 0x0009012C, [(0x40, 16)], 0x00000000, [⟨"value", 31, 0, .ro, none⟩]⟩,
  ⟨"TPIN_I_CAP_POP", 0x00090130, [(0x40, 16)], 0x00000000, [⟨"pop", 0, 0, .wo, none⟩]⟩,
  ⟨"TPIN_I_STATUS", 0x00090134, [(0x40, 16)], 0x00000000, [⟨"value", 31, 0, .ro, none⟩]⟩,
  ⟨"TPIN_I_FLAGS", 0x00090138, [(0x40, 16)], 0x00000000, [⟨"bad_cfg", 3, 3, .w1c, none⟩, ⟨"ovf", 2, 2, .w1c, none⟩, ⟨"late", 1, 1, .w1c, none⟩, ⟨"fired", 0, 0, .w1c, none⟩]⟩ ]

/-- Table 14.6. -/
def regs14_6 : List RegRow := [
  ⟨"PEER_GRP_STATUS", 0x00400000, [], 0x00000000, [⟨"formed", 31, 31, .ro, none⟩, ⟨"member", 21, 16, .ro, none⟩, ⟨"size", 6, 0, .ro, none⟩]⟩,
  ⟨"PEER_GRP_FLAGS", 0x00400004, [], 0x00000000, [⟨"link_down", 6, 6, .w1c, none⟩, ⟨"manager_lost", 5, 5, .w1c, none⟩, ⟨"roll_fail", 4, 4, .w1c, none⟩, ⟨"epoch_mismatch", 3, 3, .w1c, none⟩, ⟨"detached", 2, 2, .w1c, none⟩, ⟨"hop_drop", 1, 1, .w1c, none⟩, ⟨"formed", 0, 0, .w1c, none⟩]⟩,
  ⟨"PEER_GRP_CFG", 0x00400008, [], 0x00000000, [⟨"wait_min", 29, 24, .ro, none⟩, ⟨"rel_margin", 22, 16, .ro, none⟩, ⟨"roll_period", 15, 0, .ro, none⟩]⟩,
  ⟨"PEER_EPOCH", 0x0040000C, [], 0x00000000, [⟨"value", 31, 0, .ro, none⟩]⟩,
  ⟨"PEER_ROLL_CTL", 0x00400010, [], 0x00000000, [⟨"start", 0, 0, .w1s, none⟩]⟩,
  ⟨"PEER_ROLL_STATUS", 0x00400014, [], 0x00000000, [⟨"busy", 31, 31, .ro, none⟩, ⟨"answered", 13, 8, .ro, none⟩, ⟨"refused", 5, 0, .ro, none⟩]⟩,
  ⟨"PEER_MEMBER_OK_LO", 0x00400018, [], 0x00000000, [⟨"value", 31, 0, .ro, none⟩]⟩,
  ⟨"PEER_MEMBER_OK_HI", 0x0040001C, [], 0x00000000, [⟨"value", 31, 0, .ro, none⟩]⟩,
  ⟨"PEER_COLL_WAIT_US", 0x00400040, [], 0x00000000, [⟨"value", 31, 0, .rw, none⟩]⟩,
  ⟨"PEER_COLL_THR_US", 0x00400044, [], 0x00000000, [⟨"value", 31, 0, .rw, none⟩]⟩,
  ⟨"PEER_DETACH_CNT", 0x00400048, [], 0x00000000, [⟨"value", 31, 0, .rw, none⟩]⟩,
  ⟨"PEER_BAR_LATE", 0x0040004C, [], 0x00000000, [⟨"value", 31, 0, .rw, none⟩]⟩,
  ⟨"PEER_COLL_LOST", 0x00400050, [], 0x00000000, [⟨"value", 31, 0, .rw, none⟩]⟩,
  ⟨"PEER_COLL_POP", 0x00400060, [], 0x00000000, [⟨"pop", 0, 0, .wo, none⟩]⟩,
  ⟨"PEER_COLL_REC", 0x00400080, [(0x4, 8)], 0x00000000, [⟨"value", 31, 0, .ro, none⟩]⟩,
  ⟨"PEER_L_STATUS", 0x00400100, [(0x40, 4)], 0x00000000, [⟨"state", 31, 29, .ro, none⟩, ⟨"fails", 9, 8, .ro, none⟩, ⟨"lanes_ok", 7, 0, .ro, none⟩]⟩,
  ⟨"PEER_L_CTL", 0x00400104, [(0x40, 4)], 0x00000000, [⟨"retrain", 0, 0, .w1s, none⟩]⟩,
  ⟨"PEER_L_FLAGS", 0x00400108, [(0x40, 4)], 0x00000000, [⟨"failed", 3, 3, .w1c, none⟩, ⟨"retry_exh", 2, 2, .w1c, none⟩, ⟨"down", 1, 1, .w1c, none⟩, ⟨"up", 0, 0, .w1c, none⟩]⟩,
  ⟨"PEER_L_TX_FRAMES", 0x00400110, [(0x40, 4)], 0x00000000, [⟨"value", 31, 0, .rw, none⟩]⟩,
  ⟨"PEER_L_RX_FRAMES", 0x00400114, [(0x40, 4)], 0x00000000, [⟨"value", 31, 0, .rw, none⟩]⟩,
  ⟨"PEER_L_CRC_ERR", 0x00400118, [(0x40, 4)], 0x00000000, [⟨"value", 31, 0, .rw, none⟩]⟩,
  ⟨"PEER_L_RETRY", 0x0040011C, [(0x40, 4)], 0x00000000, [⟨"value", 31, 0, .rw, none⟩]⟩,
  ⟨"PEER_L_EPOCH_ERR", 0x00400120, [(0x40, 4)], 0x00000000, [⟨"value", 31, 0, .rw, none⟩]⟩,
  ⟨"PEER_L_HOP_DROP", 0x00400124, [(0x40, 4)], 0x00000000, [⟨"value", 31, 0, .rw, none⟩]⟩,
  ⟨"PEER_L_FWD", 0x00400128, [(0x40, 4)], 0x00000000, [⟨"value", 31, 0, .rw, none⟩]⟩,
  ⟨"PEER_P_POOL", 0x00400200, [(0x10, 16), (0x4, 4)], 0x00000000, [⟨"size", 31, 16, .ro, none⟩, ⟨"free", 15, 0, .ro, none⟩]⟩,
  ⟨"PEER_ROUTE", 0x00401000, [(0x4, 64)], 0x00000000, [⟨"value", 31, 0, .ro, none⟩]⟩,
  ⟨"PEER_ST_DET_LO", 0x00402000, [(0x8, 1024)], 0x00000000, [⟨"value", 31, 0, .ro, none⟩]⟩,
  ⟨"PEER_ST_DET_HI", 0x00402004, [(0x8, 1024)], 0x00000000, [⟨"value", 31, 0, .ro, none⟩]⟩ ]

/-- Table 15.8. -/
def regs15_8 : List RegRow := [
  ⟨"CLK_STATUS", 0x00020000, [], 0x00000000, [⟨"pll_locked", 31, 31, .ro, none⟩, ⟨"xo_fail", 30, 30, .ro, none⟩, ⟨"refclk", 29, 29, .ro, none⟩, ⟨"xo_dly", 2, 0, .ro, none⟩]⟩,
  ⟨"CLK_FLAGS", 0x00020004, [], 0x00000000, [⟨"ref_lost", 0, 0, .w1c, none⟩]⟩,
  ⟨"CLK_GATE_EN0", 0x00020010, [], 0x00000000, [⟨"gate", 10, 0, .rw, none⟩]⟩,
  ⟨"CLK_GATE_EN1", 0x00020014, [], 0x00000000, [⟨"gate", 11, 0, .rw, none⟩]⟩,
  ⟨"CLK_COMP_FREQ", 0x00020020, [], 0x00000000, [⟨"value", 31, 0, .ro, none⟩]⟩ ]

/-- Table 15.9. -/
def regs15_9 : List RegRow := [
  ⟨"PWR_STATUS", 0x00030000, [], 0x00000000, [⟨"brake", 31, 31, .ro, none⟩, ⟨"op_a", 30, 28, .ro, none⟩, ⟨"op_b", 26, 24, .ro, none⟩, ⟨"thr_a", 22, 16, .ro, none⟩, ⟨"thr_b", 14, 8, .ro, none⟩]⟩,
  ⟨"PWR_FLAGS", 0x00030004, [], 0x00000000, [⟨"avs_timeout", 4, 4, .w1c, none⟩, ⟨"brake", 3, 3, .w1c, none⟩, ⟨"droop", 2, 2, .w1c, none⟩, ⟨"ilim", 1, 1, .w1c, none⟩, ⟨"cap", 0, 0, .w1c, none⟩]⟩,
  ⟨"PWR_CAP", 0x00030008, [], 0x000002BC, [⟨"cap", 9, 0, .rw, some (200, 700)⟩]⟩,
  ⟨"PWR_CAP_CFG", 0x0003000C, [], 0x00000001, [⟨"win_ms", 9, 0, .rw, some (1, 1000)⟩]⟩,
  ⟨"PWR_OP_CEIL", 0x00030010, [], 0x00000077, [⟨"ceil_b", 6, 4, .rw, none⟩, ⟨"ceil_a", 2, 0, .rw, none⟩]⟩,
  ⟨"PWR_ILIM", 0x00030014, [], 0x01C201C2, [⟨"b", 24, 16, .rwl, some (100, 450)⟩, ⟨"a", 8, 0, .rwl, some (100, 450)⟩]⟩,
  ⟨"PWR_BRAKE_CFG", 0x00030018, [], 0x00100064, [⟨"duty", 20, 16, .rwl, some (8, 16)⟩, ⟨"hold_us", 9, 0, .rwl, some (0, 1000)⟩]⟩,
  ⟨"PWR_DROOP_CFG", 0x0003001C, [], 0x00000028, [⟨"thr_mv", 7, 0, .rwl, some (20, 100)⟩]⟩,
  ⟨"PWR_MEAS", 0x00030020, [], 0x00000000, [⟨"value", 31, 0, .ro, none⟩]⟩,
  ⟨"PWR_ENERGY_LO", 0x00030028, [], 0x00000000, [⟨"value", 31, 0, .rw, none⟩]⟩,
  ⟨"PWR_ENERGY_HI", 0x0003002C, [], 0x00000000, [⟨"value", 31, 0, .rw, none⟩]⟩,
  ⟨"PWR_DIE_CTL", 0x00030030, [(0x4, 2)], 0x00000000, [⟨"dormant", 31, 31, .rw, none⟩, ⟨"auto_wake", 30, 30, .rw, none⟩]⟩,
  ⟨"PWR_DIE_STATUS", 0x00030038, [(0x4, 2)], 0x00000000, [⟨"state", 31, 29, .ro, none⟩, ⟨"duty", 28, 24, .ro, none⟩, ⟨"ceiling", 23, 21, .ro, none⟩, ⟨"requested", 20, 18, .ro, none⟩]⟩,
  ⟨"PWR_HUB_EN", 0x00030040, [], 0x00000000, [⟨"wc_bank", 17, 14, .rw, none⟩, ⟨"rxm", 13, 13, .rw, none⟩, ⟨"polar", 12, 12, .rw, none⟩, ⟨"ldpc", 11, 8, .rw, none⟩, ⟨"peer", 7, 4, .rw, none⟩, ⟨"eth", 3, 0, .rw, none⟩]⟩,
  ⟨"PWR_DOM_STATUS", 0x00030050, [(0x4, 4)], 0x00000000, [⟨"value", 31, 0, .ro, none⟩]⟩,
  ⟨"PWR_OP_V", 0x00030060, [(0x4, 8)], 0x00000000, [⟨"value", 31, 0, .ro, none⟩]⟩,
  ⟨"PWR_DIE_SKIP", 0x00030080, [(0x4, 2)], 0x00000000, [⟨"value", 31, 0, .rw, none⟩]⟩,
  ⟨"PWR_THR_US_LO", 0x00030100, [(0x8, 7)], 0x00000000, [⟨"value", 31, 0, .rw, none⟩]⟩,
  ⟨"PWR_THR_US_HI", 0x00030104, [(0x8, 7)], 0x00000000, [⟨"value", 31, 0, .rw, none⟩]⟩ ]

/-- Table 15.10. -/
def regs15_10 : List RegRow := [
  ⟨"THM_STATUS", 0x00040000, [], 0x00000000, [⟨"thr_hub", 2, 2, .ro, none⟩, ⟨"thr_b", 1, 1, .ro, none⟩, ⟨"thr_a", 0, 0, .ro, none⟩]⟩,
  ⟨"THM_FLAGS", 0x00040004, [], 0x00000000, [⟨"coolant_warn", 2, 2, .w1c, none⟩, ⟨"throttle", 1, 1, .w1c, none⟩, ⟨"warn", 0, 0, .w1c, none⟩]⟩,
  ⟨"THM_CFG", 0x00040008, [], 0x0000005F, [⟨"warn_c", 7, 0, .rw, none⟩]⟩,
  ⟨"THM_COOLANT", 0x0004000C, [], 0x00000000, [⟨"valid", 31, 31, .rw, none⟩, ⟨"temp", 15, 0, .rw, none⟩]⟩,
  ⟨"THM_COOLANT_CFG", 0x00040010, [], 0x002D0005, [⟨"warn_c", 23, 16, .rwl, none⟩, ⟨"ceil", 2, 0, .rwl, none⟩]⟩,
  ⟨"THM_TJ_A", 0x00040020, [], 0x00000000, [⟨"value", 31, 0, .ro, none⟩]⟩,
  ⟨"THM_TJ_B", 0x00040024, [], 0x00000000, [⟨"value", 31, 0, .ro, none⟩]⟩,
  ⟨"THM_TJ_HUB", 0x00040028, [], 0x00000000, [⟨"value", 31, 0, .ro, none⟩]⟩,
  ⟨"THM_SENSOR", 0x00040100, [(0x4, 40)], 0x00000000, [⟨"value", 31, 0, .ro, none⟩]⟩ ]

/-- Table 15.11. -/
def regs15_11 : List RegRow := [
  ⟨"TILE_PWR_STATUS", 0x01000800, [(0x10000, 256)], 0x00000000, [⟨"value", 31, 0, .ro, none⟩]⟩,
  ⟨"TILE_PWR_CTL", 0x01000804, [(0x10000, 256)], 0x00000000, [⟨"value", 31, 0, .ro, none⟩]⟩,
  ⟨"TILE_PWR_WAKES", 0x01000808, [(0x10000, 256)], 0x00000000, [⟨"value", 31, 0, .rw, none⟩]⟩ ]

/-- Table 16.11. -/
def regs16_11 : List RegRow := [
  ⟨"SEC_STATUS", 0x00050000, [], 0x00000000, [⟨"busy", 31, 31, .ro, none⟩, ⟨"id_valid", 30, 30, .ro, none⟩, ⟨"keys_destroyed", 29, 29, .ro, none⟩, ⟨"test_open", 28, 28, .ro, none⟩, ⟨"lc_state", 1, 0, .ro, none⟩]⟩,
  ⟨"SEC_FLAGS", 0x00050004, [], 0x00000000, [⟨"lc_refused", 3, 3, .w1c, none⟩, ⟨"secver_refused", 2, 2, .w1c, none⟩, ⟨"secver_committed", 1, 1, .w1c, none⟩, ⟨"proof_done", 0, 0, .w1c, none⟩]⟩,
  ⟨"SEC_DEV_ID", 0x00050010, [(0x4, 4)], 0x00000000, [⟨"value", 31, 0, .ro, none⟩]⟩,
  ⟨"SEC_ROOT_DIGEST", 0x00050020, [(0x4, 8)], 0x00000000, [⟨"value", 31, 0, .ro, none⟩]⟩,
  ⟨"SEC_CUST_DIGEST", 0x00050040, [(0x4, 8)], 0x00000000, [⟨"value", 31, 0, .ro, none⟩]⟩,
  ⟨"SEC_SECVER", 0x00050060, [], 0x00000000, [⟨"value", 31, 0, .ro, none⟩]⟩,
  ⟨"SEC_SECVER_CTL", 0x00050064, [], 0x00000000, [⟨"commit", 0, 0, .w1s, none⟩]⟩,
  ⟨"SEC_ID_PUB", 0x00050080, [(0x4, 16)], 0x00000000, [⟨"value", 31, 0, .ro, none⟩]⟩,
  ⟨"SEC_PROOF_NONCE", 0x00050100, [(0x4, 4)], 0x00000000, [⟨"value", 31, 0, .rw, none⟩]⟩,
  ⟨"SEC_PROOF_CTL", 0x00050110, [], 0x00000000, [⟨"go", 0, 0, .w1s, none⟩]⟩,
  ⟨"SEC_PROOF_STATUS", 0x00050114, [], 0x00000000, [⟨"busy", 31, 31, .ro, none⟩, ⟨"valid", 30, 30, .ro, none⟩, ⟨"refused", 29, 29, .ro, none⟩]⟩,
  ⟨"SEC_PROOF", 0x00050200, [(0x4, 64)], 0x00000000, [⟨"value", 31, 0, .ro, none⟩]⟩,
  ⟨"SEC_LC_NONCE", 0x00050300, [(0x4, 4)], 0x00000000, [⟨"value", 31, 0, .ro, none⟩]⟩,
  ⟨"SEC_LC_REQ", 0x00050310, [], 0x00000000, [⟨"target", 1, 0, .rw, none⟩]⟩,
  ⟨"SEC_LC_CTL", 0x00050314, [], 0x00000000, [⟨"go", 0, 0, .w1s, none⟩]⟩,
  ⟨"SEC_LC_STATUS", 0x00050318, [], 0x00000000, [⟨"busy", 31, 31, .ro, none⟩, ⟨"refused", 30, 30, .ro, none⟩, ⟨"reason", 1, 0, .ro, none⟩]⟩,
  ⟨"SEC_LC_SIG", 0x00050340, [(0x4, 16)], 0x00000000, [⟨"value", 31, 0, .rw, none⟩]⟩ ]

/-- Table 16.12. -/
def regs16_12 : List RegRow := [
  ⟨"BOOT_STATUS", 0x00060000, [], 0x00000000, [⟨"state", 31, 28, .ro, none⟩, ⟨"boot_mode", 27, 26, .ro, none⟩, ⟨"from_recovery", 25, 25, .ro, none⟩]⟩,
  ⟨"BOOT_FLAGS", 0x00060004, [], 0x00000000, [⟨"reload_failed", 2, 2, .w1c, none⟩, ⟨"reload_done", 1, 1, .w1c, none⟩, ⟨"ready", 0, 0, .w1c, none⟩]⟩,
  ⟨"BOOT_REASON", 0x00060008, [], 0x00000000, [⟨"valid", 31, 31, .rc, none⟩, ⟨"during_reload", 30, 30, .rc, none⟩, ⟨"section", 23, 16, .rc, none⟩, ⟨"code", 4, 0, .rc, none⟩]⟩,
  ⟨"BOOT_RST_CAUSE", 0x0006000C, [], 0x00000000, [⟨"lifecycle", 4, 4, .rc, none⟩, ⟨"watchdog", 3, 3, .rc, none⟩, ⟨"host", 2, 2, .rc, none⟩, ⟨"sys_pin", 1, 1, .rc, none⟩, ⟨"power_on", 0, 0, .rc, none⟩]⟩,
  ⟨"BOOT_CTL", 0x00060010, [], 0x00000000, [⟨"recov_start", 2, 2, .w1s, none⟩, ⟨"reload", 1, 1, .w1s, none⟩, ⟨"arm", 0, 0, .w1s, none⟩]⟩,
  ⟨"BOOT_RST_REQ", 0x00060014, [], 0x00000000, [⟨"value", 31, 0, .wo, none⟩]⟩,
  ⟨"BOOT_WDOG_CFG", 0x00060018, [], 0x0000003F, [⟨"en", 31, 31, .rw, none⟩, ⟨"timeout_m1", 5, 0, .rwl, none⟩]⟩,
  ⟨"BOOT_WDOG_KICK", 0x0006001C, [], 0x00000000, [⟨"value", 31, 0, .wo, none⟩]⟩,
  ⟨"BOOT_RECOV_LEN", 0x00060020, [], 0x00000000, [⟨"len", 17, 0, .rw, none⟩]⟩,
  ⟨"BOOT_RECOV_STATUS", 0x00060024, [], 0x00000000, [⟨"value", 31, 0, .ro, none⟩]⟩,
  ⟨"BOOT_SECVER", 0x00060028, [], 0x00000000, [⟨"value", 31, 0, .ro, none⟩]⟩,
  ⟨"BOOT_READY_MS", 0x0006002C, [], 0x00000000, [⟨"value", 31, 0, .ro, none⟩]⟩,
  ⟨"BOOT_FW_DIGEST", 0x00060040, [(0x4, 8)], 0x00000000, [⟨"value", 31, 0, .ro, none⟩]⟩,
  ⟨"BOOT_SHEET_DIGEST", 0x00060060, [(0x4, 8)], 0x00000000, [⟨"value", 31, 0, .ro, none⟩]⟩ ]

/-- Table 17.9. -/
def regs17_9 : List RegRow := [
  ⟨"DEV_ID", 0x00000000, [], 0x7140A100, [⟨"part", 31, 16, .ro, none⟩, ⟨"stepping", 15, 8, .ro, none⟩]⟩,
  ⟨"DEV_HP_CFG", 0x00000004, [], 0x00000014, [⟨"lat", 5, 0, .rw, some (8, 40)⟩]⟩,
  ⟨"DEV_SCRATCH", 0x00000008, [], 0x00000000, [⟨"value", 31, 0, .rw, none⟩]⟩,
  ⟨"DEV_FLB_CMD", 0x00000010, [], 0x00000000, [⟨"go", 31, 31, .w1s, none⟩, ⟨"op", 3, 0, .rw, none⟩]⟩,
  ⟨"DEV_FLB_ADDR", 0x00000014, [], 0x00000000, [⟨"addr", 28, 0, .rw, none⟩]⟩,
  ⟨"DEV_FLB_LEN", 0x00000018, [], 0x00000000, [⟨"len", 12, 0, .rw, some (1, 4096)⟩]⟩,
  ⟨"DEV_FLB_STATUS", 0x0000001C, [], 0x00000000, [⟨"busy", 31, 31, .ro, none⟩, ⟨"error", 30, 30, .ro, none⟩, ⟨"result", 7, 0, .ro, none⟩]⟩,
  ⟨"DEV_FLB_BUF", 0x00001000, [(0x4, 1024)], 0x00000000, [⟨"value", 31, 0, .rw, none⟩]⟩ ]

/-- Table 17.10. -/
def regs17_10 : List RegRow := [
  ⟨"SAFE_STATUS", 0x00010000, [], 0x00000000, [⟨"stopped", 31, 31, .ro, none⟩, ⟨"cause_coolant", 30, 30, .ro, none⟩, ⟨"cause_trip", 29, 29, .ro, none⟩, ⟨"fatal", 28, 28, .ro, none⟩, ⟨"holding", 27, 27, .ro, none⟩, ⟨"alert", 26, 26, .ro, none⟩, ⟨"evt_count", 8, 0, .ro, none⟩]⟩,
  ⟨"SAFE_FLAGS", 0x00010004, [], 0x00000000, [⟨"evt_lost", 1, 1, .w1c, none⟩, ⟨"evt_posted", 0, 0, .w1c, none⟩]⟩,
  ⟨"SAFE_ALERT_MASK", 0x00010008, [], 0x00000000, [⟨"mask", 15, 0, .rw, none⟩]⟩,
  ⟨"SAFE_UPTIME_LO", 0x00010010, [], 0x00000000, [⟨"value", 31, 0, .ro, none⟩]⟩,
  ⟨"SAFE_UPTIME_HI", 0x00010014, [], 0x00000000, [⟨"value", 31, 0, .ro, none⟩]⟩,
  ⟨"SAFE_TIME_SEC_LO", 0x00010018, [], 0x00000000, [⟨"value", 31, 0, .ro, none⟩]⟩,
  ⟨"SAFE_TIME_SEC_HI", 0x0001001C, [], 0x00000000, [⟨"value", 31, 0, .ro, none⟩]⟩,
  ⟨"SAFE_TIME_US", 0x00010020, [], 0x00000000, [⟨"value", 31, 0, .ro, none⟩]⟩,
  ⟨"SAFE_EVT_LOST", 0x00010030, [], 0x00000000, [⟨"value", 31, 0, .rw, none⟩]⟩,
  ⟨"SAFE_EVT", 0x00010040, [(0x4, 4)], 0x00000000, [⟨"value", 31, 0, .ro, none⟩]⟩,
  ⟨"SAFE_EVT_POP", 0x00010050, [], 0x00000000, [⟨"pop", 0, 0, .wo, none⟩]⟩,
  ⟨"SAFE_WAKE_CTL", 0x00010100, [(0x10, 4)], 0x00000000, [⟨"arm", 31, 31, .w1s, none⟩, ⟨"disarm", 30, 30, .w1s, none⟩, ⟨"action", 1, 0, .rw, none⟩]⟩,
  ⟨"SAFE_WAKE_AT_LO", 0x00010104, [(0x10, 4)], 0x00000000, [⟨"value", 31, 0, .rw, none⟩]⟩,
  ⟨"SAFE_WAKE_AT_HI", 0x00010108, [(0x10, 4)], 0x00000000, [⟨"value", 31, 0, .rw, none⟩]⟩ ]

/-- Table 17.11. -/
def regs17_11 : List RegRow := [
  ⟨"ERR_HOST_STATUS", 0x00500000, [], 0x00000000, [⟨"locked_write", 5, 5, .w1c, none⟩, ⟨"cmd_err", 4, 4, .w1c, none⟩, ⟨"crc_err", 3, 3, .w1c, none⟩, ⟨"bus_err", 2, 2, .w1c, none⟩, ⟨"foreign_dirty", 1, 1, .w1c, none⟩, ⟨"reserved_write", 0, 0, .w1c, none⟩]⟩,
  ⟨"ERR_HOST_LAST", 0x00500004, [], 0x00000000, [⟨"valid", 31, 31, .rc, none⟩, ⟨"mem", 30, 30, .rc, none⟩, ⟨"code", 12, 8, .rc, none⟩, ⟨"command", 7, 0, .rc, none⟩]⟩,
  ⟨"ERR_HOST_LAST_ADDR_LO", 0x00500008, [], 0x00000000, [⟨"value", 31, 0, .ro, none⟩]⟩,
  ⟨"ERR_HOST_LAST_ADDR_HI", 0x0050000C, [], 0x00000000, [⟨"value", 31, 0, .ro, none⟩]⟩,
  ⟨"ERR_HOST_BUSERR_CNT", 0x00500010, [], 0x00000000, [⟨"value", 31, 0, .rw, none⟩]⟩,
  ⟨"ERR_HOST_CRC_CNT", 0x00500014, [], 0x00000000, [⟨"value", 31, 0, .rw, none⟩]⟩,
  ⟨"ERR_HOST_CMD_CNT", 0x00500018, [], 0x00000000, [⟨"value", 31, 0, .rw, none⟩]⟩,
  ⟨"ERR_HOST_NOTREADY_CNT", 0x0050001C, [], 0x00000000, [⟨"value", 31, 0, .rw, none⟩]⟩ ]

/-- The rows whose registers can lie at an address, by the block extents of Table 01.6. -/
def regRowsAt (a : Nat) : List RegRow :=

  if 0x01000000 ≤ a ∧ a < 0x02000000 then regs03_9 ++ regs04_8 ++ regs05_8 ++ regs06_6 ++ regs07_9 ++ regs15_11
  else if 0x00000000 ≤ a ∧ a < 0x00010000 then regs17_9
  else if 0x00010000 ≤ a ∧ a < 0x00020000 then regs17_10
  else if 0x00020000 ≤ a ∧ a < 0x00030000 then regs15_8
  else if 0x00030000 ≤ a ∧ a < 0x00040000 then regs15_9
  else if 0x00040000 ≤ a ∧ a < 0x00050000 then regs15_10
  else if 0x00050000 ≤ a ∧ a < 0x00060000 then regs16_11
  else if 0x00060000 ≤ a ∧ a < 0x00070000 then regs16_12
  else if 0x00080000 ≤ a ∧ a < 0x00090000 then regs13_8
  else if 0x00090000 ≤ a ∧ a < 0x000A0000 then regs13_9
  else if 0x00100000 ≤ a ∧ a < 0x00110000 then regs12_10
  else if 0x00140000 ≤ a ∧ a < 0x00180000 then regs12_11
  else if 0x00180000 ≤ a ∧ a < 0x00200000 then regs12_12
  else if 0x00200000 ≤ a ∧ a < 0x00240000 then regs08_10
  else if 0x00240000 ≤ a ∧ a < 0x00280000 then regs10_8
  else if 0x00280000 ≤ a ∧ a < 0x00300000 then regs10_9
  else if 0x00300000 ≤ a ∧ a < 0x00340000 then regs10_10
  else if 0x00340000 ≤ a ∧ a < 0x00380000 then regs10_11
  else if 0x00380000 ≤ a ∧ a < 0x00400000 then regs11_7
  else if 0x00400000 ≤ a ∧ a < 0x00480000 then regs14_6
  else if 0x00480000 ≤ a ∧ a < 0x00500000 then regs06_7 ++ regs07_11
  else if 0x00500000 ≤ a ∧ a < 0x00580000 then regs09_6 ++ regs17_11
  else if 0x02000000 ≤ a ∧ a < 0x02001000 then regs01_8
  else []

/-- Whether an address lies in an array of the given dimensions from a base on. -/
def dimsHold : List (Nat × Nat) → Nat → Nat → Bool
  | [], base, a => decide (a = base)
  | (stride, count) :: rest, base, a =>
    decide (base ≤ a) && dimsHold rest (base + stride * min ((a - base) / stride) (count - 1)) a

/-- The row of the register at an address. -/
def regRow (a : Nat) : Option RegRow := (regRowsAt a).find? (fun r => dimsHold r.dims r.base a)

/-- The value a register holds after reset (the Reset columns). TIME_S0_CFG and TIME_S1_CFG differ (13 Table 13.8);
TILE_ENL_WAVE is the tile's wave (04 R149); CLK_STATUS and SAFE_STATUS are views of the state (Machine/RegRead.lean). -/
def resetValue (a : Nat) : Word :=
  if a = Reg.TIME_S_CFG 0 then 0x88000018#32
  else if a = Reg.TIME_S_CFG 1 then 0x08000019#32
  else match regRow a with
    | some r => BitVec.ofNat 32 r.reset
    | none => 0#32

end Sys2Proof.Machine
end

