-- ==== Sys2Proof/Config.lean ====
section
/-!
DEFINITION. Config.lean: the free values (DESIGN CHOICE, log 4) and the functions the spec names without stating: what other standards
define (DESIGN CHOICE, log 15), and the names a plan bundle gives in a form the spec does not lay out (DESIGN CHOICE, log 16). Each is opaque, so a
statement about it holds for every value it can take.
-/
namespace Sys2Proof.Config

open Sys2Proof

/-- A fresh unconstrained number for each index of `State.freeCtr`. -/
opaque freeValue : Nat → Nat

/-- The Fixer's scale where 03 R115 asks for a power of two beyond FP32's range, by the channel's maximum as a fraction (DESIGN CHOICE, log 111). -/
opaque scaleBeyond (num den : Nat) : Nat

/-- What the plan bundle names for a piece of slot work, by the plan's digest, the kind of name and up to four indices:
02 R57, R345 release ranks, 10 R352 pending-state pages, 12 R401 result buffers, the context a PDU runs in. -/
opaque planName (digest kind c n k : Nat) : Nat

/-- The TDD pattern of a carrier's P5 block (12 R402): whether a symbol of a slot is uplink, or downlink, by the block's bytes
as one number, the slot number and the symbol. -/
opaque tddUplink (p5 n l : Nat) : Bool
opaque tddDownlink (p5 n l : Nat) : Bool

/-- Whether a carrier's P5 block, its PRACH part apart, passes the checks of 11 R358 and 02 Table 02.1. -/
opaque p5Valid (p5 : Nat) : Bool

/-- Positions of the UL-SCH LLRs in its buffer, in order, and of part k of its UCI, of a PDU that hops within its slot (TS 38.212 clause 6.2.7). -/
opaque ulschPositions (p : PuschPdu) : List Nat
opaque uciPositions (p : PuschPdu) (part : Nat) : List Nat

/-- The columns and shifts of a row of an LDPC base graph for a set of lifting sizes (TS 38.212 Tables 5.3.2-2, 5.3.2-3). -/
opaque bgRow (bg2 : Bool) (ils row : Nat) : List (Nat × Nat)

/-- The phase of element n of the low-PAPR sequence of group u with 6, 12, 18 or 24 elements: φ(n) of TS 38.211 Tables 5.2.2.2-1
to 5.2.2.2-4, as 0 to 3 for −3, −1, 1, 3. -/
opaque papr (len u n : Nat) : Nat

/-- The order in which a configuration sums a correlation's terms (11 R356), and the scale of its sequence and transform as FP32. -/
opaque prachOrder (p5 len : Nat) : List Nat
opaque prachScale (p5 len : Nat) : Word

/-- The PRACH configuration of a carrier's P5 block (11 R358): kind of value by number, for an occasion. -/
opaque prachCfg (p5 kind occ : Nat) : Nat

/-- Bytes of the frames of an indication's datagrams (SCF 222, SCF nFAPI): by its message ID, the bytes and results it
carries, and the largest frame. -/
opaque fapiBytes (msgId items payload maxFrame : Nat) : List Nat

/-- Whether a result record's length agrees with its PDU (12 R401). -/
opaque recordAgrees (kind : Nat) (bytes : List Byte) : Bool

/-- The polar reliability order of TS 38.212 Table 5.3.1.2-1. -/
opaque polarOrder : List Nat

/-- The DTX measure of a short codeword of n LLRs: its best correlation normalised by the LLR energy, in units of 2^-16 (10 R348). -/
opaque dtxMeasure (n : Nat) (best : Int) (energy : Nat) : Nat

/-- Bytes of a fronthaul or PTP frame that carries a payload of n bytes. -/
opaque frameBytes (kind n : Nat) : Nat

/-- The payload of a Peer Link frame of kind 1 or 2 by what it carries (14 Table 14.1): byte 0 its length less 1, then its bytes. -/
opaque peerCtlByte (b : PeerBody) (i : Nat) : Byte

/-- SHA-256 of the Beyxon root public key, as the ROM holds it (16 R509 check 3), as a number, big-endian. -/
opaque rootDigest : Nat

/-- Whether a plan bundle passes the capacity check of 02 R47 and R83, which rests on the planner's figures; by the sheet's digest. -/
opaque capacityOk (digest : Nat) : Bool

/-- Whether every route of a group map reaches its member within 7 hops over listed members (14 R437, 16 R575): the map does not
say which member stands at the other end of a link. -/
opaque routesOk (policy : List Byte) : Bool

end Sys2Proof.Config
end

