-- ==== Sys2Proof/Machine/State.lean ====
section
/-!
DEFINITION. State.lean: everything the spec gives the machine, as plain data. A value that a register shows lives in
`State.regs` at the register's host-port address, the one home of every register; what no register holds is a field.
-/
namespace Sys2Proof.Machine

open Sys2Proof

/-! ### Tiles (03 to 07) -/

/-- The functional units of a tile that take instructions from its sequencer (07 Table 07.1). -/
inductive TileUnit where
  | enlarger | fixer | developer | dma (chan : Nat) | sequencer
  deriving DecidableEq, Repr

/-- An entry of the address-range scoreboard: rows lo to hi − 1 of the scratchpad, in program order (06 R208). -/
structure SbEntry where
  pos : Nat
  unit : TileUnit
  lo : Nat
  hi : Nat
  rd : Bool
  wr : Bool
  deriving DecidableEq, Repr

/-- One entry of the finished-block queue: a 64×64 block of 32-bit elements, element (m, n) at 64m + n, its wrap
bits, its tag and its owner (04 R138). -/
structure FbqEntry where
  owner : Nat
  tag : Nat
  data : SMap Word
  wrap : SMap Bool
  finished : Bool
  deriving DecidableEq, Repr

/-- A stationary bank: element (r, c) at 64r + c in a 16-bit slot, with the format code of the LOADS that filled
it (04 R129). -/
structure EnlBank where
  fmt : Nat
  elems : SMap (BitVec 16)
  deriving DecidableEq, Repr

/-- The pass that is issuing: its instruction and the next vector or beat (04 R152). -/
structure PassProg where
  pos : Nat
  cmd : Word128
  next : Nat
  deriving DecidableEq, Repr

/-- Vectors or beats in flight whose outputs are not all written: the entries they finish, whether they end their pass and the
MACs it then adds, and the bank their vectors name: none in flow 1 (04 R131, R132, R141, R145). -/
structure PassTail where
  entries : Nat
  ends : Bool
  macs : Nat
  bank : Option Bool             -- true = bank 1
  deriving DecidableEq, Repr

/-- A LOADS in progress: its position and word, the next row to write, and the part of a core cycle gone since the last row, in
800ths × 16ths of a MHz (04 R130, R152). -/
structure LoadProg where
  pos : Nat
  cmd : Word128
  row : Nat
  acc : Nat
  deriving DecidableEq, Repr

/-- An open chain: the first pass's instruction and the entries it holds, the newest of the queue (04 R139, R142). -/
structure Chain where
  first : Word128
  entries : Nat
  deriving DecidableEq, Repr

/-- What the activity level does (04 R146 to R148). TILE_ENL_STATUS shows a wave wait in its place while one holds work. -/
inductive EnlPhase where
  | idle | rampUp | issuing | gap | rampDown
  deriving DecidableEq, Repr

/-- The Enlarger of a tile (04 R129, R138 to R153). -/
structure Enlarger where
  bank0 : EnlBank
  bank1 : EnlBank
  active1 : Bool                 -- bank 1 is the active bank
  loading : Option LoadProg
  shadowLoaded : Bool
  queue : List (Nat × Word128)   -- undispatched commands with their program-order position, at most 4
  pass : Option PassProg
  tails : List PassTail          -- oldest first
  chain : Option Chain
  fbq : List FbqEntry            -- position 0 first, at most 8
  fbqHead : Nat                  -- physical index of position 0
  accRe : SMap Word              -- flow 1 accumulators, element 64m + n
  accIm : SMap Word
  accWrap : SMap Bool
  level : Nat                    -- activity level ÷ 16, 0 to 4
  phase : EnlPhase
  fill : Nat                     -- the dummy-fill level D ÷ 16, 1 to 4
  gapCycles : Nat                -- cycles of the present gap already counted
  waveUntil : Option Nat         -- picoseconds of `now` at which the barrier wave passes (R149)
  wakeHeld : Bool                -- an ENL.WAKE whose ramp waits for the wave
  deriving DecidableEq, Repr

/-- The Developer state of Table 05.1, its queue of undispatched instructions and the last opcode (05 R158, R161). -/
structure Developer where
  v : SMap Word          -- element i of V[n] at 256n + i
  m : SMap (BitVec 256)  -- M[n]
  s : SMap Word          -- S[n]
  a : SMap (BitVec 48)   -- element i of A[n] at 256n + i
  vlen : Nat
  cbb : SMap Word
  cbl : SMap Word
  queue : List (Nat × Word64)
  lastOp : Nat
  deriving DecidableEq, Repr

/-- A Fixer command in progress (03 R113, R119, R120): whether it waits for unfinished queue entries, whether it is in its
converting pass, the groups of that pass done, the part of a core cycle gone as in `LoadProg`, and the partial maxima of pass
one by channel register, as magnitudes of the source's 32-bit code. -/
structure FixJob where
  pos : Nat
  cmd : Word128
  waiting : Bool
  converting : Bool
  group : Nat
  acc : Nat
  maxima : SMap Word
  deriving DecidableEq, Repr

/-- A DMA descriptor as fetched: its virtual address and its 64 bytes as one number, least significant first
(06 Table 06.3). -/
structure Desc where
  va : Nat
  raw : Nat
  deriving DecidableEq, Repr

/-- A descriptor in progress: the scratchpad offsets that space 3 starts from at its source and destination, the ring count of its
destination's first slot, the first of its steps whose writes have not all landed, and the weight-cache lines it fills
(06 R220, R229, R232; 09 R321). -/
structure DescRun where
  desc : Desc
  src : Nat
  dst : Nat
  pos : Nat
  step : Nat
  fills : List Nat
  deriving DecidableEq, Repr

/-- A DMA channel (06 R217 to R223). -/
structure DmaChan where
  busy : Bool
  nextFetch : Nat            -- virtual address of the next descriptor to fetch
  fetchDone : Bool           -- the descriptor with last = 1 has been fetched
  fetched : List Desc        -- fetched, not started
  inFlight : List DescRun    -- started, last write not landed
  range : Option SbEntry     -- the DMA.GO range
  deriving DecidableEq, Repr

/-- A RING.ADV that has issued and not yet taken effect (06 R214, R233). -/
structure RingAdv where
  pos : Nat
  ring : Nat
  tail : Bool
  count : Nat
  deriving DecidableEq, Repr

/-- A ring advance that a descriptor has sent to another tile and that has not arrived (06 R215): the context, the tile,
the ring, the count. -/
structure RingTransit where
  ctx : Nat
  tile : Nat
  ring : Nat
  tail : Bool
  count : Nat
  deriving DecidableEq, Repr

/-- A cached translation (07 R251). -/
structure TlbEntry where
  ctx : Nat
  vpn : Nat          -- VA[47:21]
  pte : Nat
  pinned : Bool
  deriving DecidableEq, Repr

/-- The sequencer's state codes of TILE_SEQ_STATUS (07 Table 07.10). -/
inductive SeqState where
  | idle | issuing | waiting | ending | stopped
  deriving DecidableEq, Repr

/-- The power state of a tile (15 R473 to R475). -/
inductive TilePower where
  | asleep | waking | awake
  deriving DecidableEq, Repr

/-- One tile. Its counters, flags, scale registers, ring registers and strip bases live in `State.regs`, at their
addresses of the tile window; everything else it holds is here. -/
structure Tile where
  run : Option CtxId          -- the context whose exposure runs on the tile
  lastCtx : Option Nat        -- the context whose unit state the tile still holds (15 R474)
  seq : SeqState
  waitOp : Nat
  pc : Nat                    -- in words
  p : SMap (BitVec 48)        -- P0 to P15
  stripNext : Nat             -- ordinal of the next strip
  held : List Nat             -- held strip numbers, oldest first
  imem : SMap Word64
  tlb : List TlbEntry         -- most recently used first
  enl : Enlarger
  dev : Developer
  fix : Option FixJob
  dma : List DmaChan          -- four
  advQ : List RingAdv         -- oldest first
  sb : List SbEntry
  sbSeq : Nat                 -- next program-order position
  sbHigh : Nat
  asleep : List Nat           -- sleep groups asleep
  wakingG : List Nat          -- sleep groups waking
  patrolRow : Nat
  barWait : Option Nat        -- barrier number the sequencer waits at
  power : TilePower
  wakeAt : Nat                -- `now` when the wake in progress began
  wdSince : Option Nat        -- running time at which the ring watchdog's window opened (09 R320)
  deriving DecidableEq, Repr

/-- A bank that reads as zero with format code 1 (04 R129). -/
def EnlBank.zero : EnlBank := ⟨1, []⟩

/-- The Enlarger at the first start of a context (04 R129, R146, R147). -/
def Enlarger.first : Enlarger :=
  { bank0 := EnlBank.zero, bank1 := EnlBank.zero, active1 := false, loading := none, shadowLoaded := false, queue := [],
    pass := none, tails := [], chain := none, fbq := [], fbqHead := 0, accRe := [], accIm := [], accWrap := [],
    level := 0, phase := .idle, fill := 4, gapCycles := 0, waveUntil := none, wakeHeld := false }

/-- The Developer at the first start of a context (05 R159). -/
def Developer.first : Developer :=
  { v := [], m := [], s := [], a := [], vlen := 256, cbb := [], cbl := [], queue := [], lastOp := 0 }

/-- An idle DMA channel. -/
def DmaChan.idle : DmaChan :=
  { busy := false, nextFetch := 0, fetchDone := false, fetched := [], inFlight := [], range := none }

/-- A tile after start-up: no context, everything at its first-start value, asleep (15 R473). -/
def Tile.init : Tile :=
  { run := none, lastCtx := none, seq := .idle, waitOp := 0, pc := 0, p := [], stripNext := 0, held := [], imem := [], tlb := [],
    enl := Enlarger.first, dev := Developer.first, fix := none, dma := [DmaChan.idle, DmaChan.idle, DmaChan.idle, DmaChan.idle],
    advQ := [], sb := [], sbSeq := 0, sbHigh := 0, asleep := [], wakingG := [], patrolRow := 0, barWait := none,
    power := .asleep, wakeAt := 0, wdSince := none }

/-! ### The plan bundle as loaded (07 R255 to R257, 08 R267, R268, 16) -/

/-- An entry of the Exposure Plan (08 Table 08.2). Times are in ns. -/
structure PlanEntry where
  start : Nat
  deadline : Nat           -- 0 = none
  ctx : Nat
  op : Nat
  spec : Bool
  preempt : Bool
  sems : List Nat
  program : Nat
  tiles : BitVec 256
  deriving DecidableEq, Repr

/-- A partition's Exposure Plan (08 Table 08.1). -/
structure PartPlan where
  part : Nat
  cycle : Nat              -- cycle code
  tiles : BitVec 256
  negStore : Nat
  policy : Nat
  entries : List PlanEntry
  deriving DecidableEq, Repr

/-- A Program record (07 Table 07.6). -/
structure Program where
  entry : Nat
  threads : Nat
  tiles : BitVec 256
  pins : List Nat
  deriving DecidableEq, Repr

/-- A context's resource declaration with its hold records (07 Table 07.7). -/
structure Decl where
  ctx : Nat
  seat : Nat
  part : Nat
  spec : Bool
  tiles : BitVec 256
  ptRoot : Nat
  imemBase : Nat
  imemWords : Nat
  negOff : Nat             -- in 64 B units
  groups : Nat
  shadowMax : Nat
  sems : BitVec 256
  credits : List Nat       -- four
  recvVa : Nat
  recvPages : Nat
  ovfVa : Nat
  ovfPages : Nat
  holds : List (Nat × Nat) -- semaphore, maximum hold in µs
  deriving DecidableEq, Repr

/-- Ring and strip setup of a context on a tile (07 Table 07.6). -/
structure RingSetup where
  ctx : Nat
  tile : Nat
  cfg : List Word          -- TILE_RING_CFG0 to 31
  ptr : List Word          -- TILE_RING_PTR0 to 31
  strips : List Word       -- TILE_STRIP_BASE0 to 15
  deriving DecidableEq, Repr

/-- A tile program: instruction-memory words from a first word on (07 Table 07.6). -/
structure ImemImage where
  ctx : Nat
  tile : Nat
  first : Nat
  words : List Word64
  deriving DecidableEq, Repr

/-- A region the device reservation sets aside (07 R258, 16 Table 16.6). -/
structure Region where
  base : Nat
  bytes : Nat
  deriving DecidableEq, Repr

/-! ### The running schedule (08) -/

/-- The context states of SCH_CTX_STATEn (08 Table 08.11). -/
inductive CtxSt where
  | idle | waiting | running | deferred | stopped | scrubbing | held
  deriving DecidableEq, Repr

/-- An exposure instance: its entry, the cycle and planned start it belongs to (device time, units of 2^-16 ns), its
deadline, and how far it has come. -/
structure ExpInst where
  entry : Nat
  cycle : Nat
  planned : Nat
  deadline : Option Nat
  missed : Bool
  spec : Bool
  dueAt : Nat              -- `now` when it became due
  startAt : Nat            -- `now` when it first started
  stopped : List Nat       -- contexts that its preemption stops (R271)
  started : List Nat       -- tiles on which it has started
  ended : List Nat         -- tiles whose SEQ.END has completed
  deriving DecidableEq, Repr

/-- What a Negative holds of one tile (08 R287): the unit state and the tile-window registers that belong to the
context, with the header's facts. -/
structure Negative where
  unit : Tile
  regs : SMap Word
  cause : Nat
  entry : Nat
  stopTime : Nat
  cycle : Nat
  bytes : Nat
  deriving DecidableEq, Repr

/-- A remote arrival that waits in a context's receive area (08 R289): its target, the ring its bytes belong to and the tail
advance that follows them, and the place of its bytes in the area. -/
structure Arrival where
  tile : Nat
  offset : Nat
  ring : Nat
  advance : Nat
  at' : Nat
  len : Nat
  deriving DecidableEq, Repr

/-- A run of slots of one ring in the overflow area (09 R321, R323): the tile, the ring, the ring count of the first slot, its
place in 64 B units of the area, and the number of slots, one after the other. A ring that is being spilled and has no slot there
yet has a run of 0 slots. -/
structure SpillRun where
  tile : Nat
  ring : Nat
  pos : Nat
  unit : Nat
  count : Nat
  deriving DecidableEq, Repr

/-- One execution context (08). -/
structure Ctx where
  st : CtxSt
  inst : Option ExpInst
  queued : List ExpInst        -- later instances that became due while an earlier one runs or waits
  lastEntry : Nat
  stopping : List Nat          -- tiles whose Negative is not yet complete
  stopReq : Option Nat         -- a Shutter request not yet taken: 0 preemption, 1 driver
  stopCause : Nat
  stopTime : Nat               -- device time T_s
  driverStop : Bool
  negs : SMap Negative         -- by tile
  negHbm : List Nat            -- tiles whose Negative is in its store slot
  sems : List (Nat × Nat)      -- semaphores held, with the running time at the grant
  runAcc : Nat                 -- running time in ticks before the present run
  runSince : Option Nat
  barArr : List (Nat × Nat)    -- (barrier, tile) arrivals
  barRel : List (Nat × Nat)    -- (barrier, `now` at T_rel) fully arrived
  recv : List Arrival          -- in arrival order
  recvAt : Nat                 -- the receive area's write position
  recvLost : SMap Nat          -- arrivals dropped, by tile
  credits : List Nat           -- held per virtual channel
  spill : List SpillRun        -- oldest first
  scrub : List Nat             -- foreign-dirty pages of it not yet zeroed
  cause : Nat                  -- the last fault's cause
  deriving DecidableEq, Repr

/-- A context that has never run. -/
def Ctx.init : Ctx :=
  { st := .idle, inst := none, queued := [], lastEntry := 0, stopping := [], stopReq := none, stopCause := 0, stopTime := 0,
    driverStop := false, negs := [], negHbm := [], sems := [], runAcc := 0, runSince := none, barArr := [],
    barRel := [], recv := [], recvAt := 0, recvLost := [], credits := [0, 0, 0, 0], spill := [], scrub := [], cause := 0 }

/-- A waiting SEM.ACQ: semaphore, context, tile, and `now` when it began to wait (08 R279). -/
structure SemWait where
  sem : Nat
  ctx : Nat
  tile : Nat
  since : Nat
  deriving DecidableEq, Repr

/-- One partition at run time. -/
structure Part where
  nextDue : Nat                -- next entry of the cycle to become due
  woken : List Nat             -- entries of the cycle whose wake lead has begun
  waiters : List SemWait
  deriving DecidableEq, Repr

def Part.init : Part := { nextDue := 0, woken := [], waiters := [] }

/-- The Exposure Plan sequencer (08 R264 to R266). -/
structure Sched where
  permitted : Bool             -- the plan may arm (16 R502)
  armed : Bool
  cycleStart : Nat             -- device time of the present cycle's start
  nextCycle : Nat              -- device time of the next cycle's start
  opReq : List Nat             -- the point each compute die last requested (R275)
  deriving DecidableEq, Repr

/-- One pair of the page-pair table (07 R252): physical pages of 64 KiB, by address. -/
structure PagePair where
  primary : Nat
  shadow : Option Nat
  discarded : Bool
  holder : Option Nat          -- the speculative context that holds the shadow
  deriving DecidableEq, Repr

/-- The shadow and scrubbed-page allocators (07 R258). -/
structure PageAlloc where
  clean : List Nat             -- zeroed pages of the shadow pool
  dirty : List Nat             -- pool pages waiting for a scrub
  deriving DecidableEq, Repr

/-- A line of the weight cache: its HBM line number (address div 512) and data (06 R228). -/
structure WcLine where
  line : Nat
  data : List Byte
  deriving DecidableEq, Repr

/-- The weight cache: the lines of each set by most recent use first with their way, the places of its data array (way × 12,288 +
set) that a line has filled since they were last zeroed, and an invalidation in progress. -/
structure WeightCache where
  sets : SMap (List (Nat × WcLine))
  filled : SMap Bool
  inv : Bool
  deriving DecidableEq, Repr

/-- The cache empty and zeroed (15 R472, 16 R504). -/
def WeightCache.init : WeightCache := { sets := [], filled := [], inv := false }

/-- A stream entry (14 Table 14.3). -/
structure Stream where
  num : Nat
  multicast : Bool
  vc : Nat
  srcSeat : Nat
  srcCtx : Nat
  srcTile : Nat
  srcRing : Nat
  dstCtx : Nat
  dstTile : Nat
  dstRing : Nat
  stagePa : Nat
  dstSeats : Nat
  stageSlots : Nat
  deriving DecidableEq, Repr

/-- The plan bundle as the device holds it once loaded. -/
structure Plan where
  parts : List PartPlan
  programs : List Program
  decls : List Decl
  setups : List RingSetup
  images : List ImemImage
  streams : List Stream
  bars : List (Nat × Nat)      -- group barrier records: number, seat mask (14 R450)
  wsets : List (List Byte)     -- LDPC weight sets (10 Table 10.3)
  resv : List Byte             -- the device reservation's body (16 Table 16.6)
  placed : List Region         -- every HBM region the bundle places
  deriving DecidableEq, Repr

/-! ### Time and the Safelight (13, 17) -/

/-- An event record (17 Table 17.6). -/
structure EvtRec where
  seq : Nat
  cls : Nat
  code : Nat
  carrier : Nat
  ctx : Nat
  arg : Nat
  uptime : Nat
  deriving DecidableEq, Repr

/-- The Safelight's state that a system reset keeps (15 Table 15.6, 16 Table 16.1, 17 R540 to R544). -/
structure Safe where
  upTicks : Nat              -- ticks of 1.25 ns since power-on
  events : List EvtRec       -- oldest first, at most 256
  evtSeq : Nat
  coolant : Bool             -- the coolant stop is in force
  trip : Bool                -- the trip latch, and with it THERM_TRIP_N
  devCopy : Nat              -- the copy of device time, taken every µs (13 R407)
  deriving DecidableEq, Repr

/-- A servo (13 R419 to R424). Rates are integers in units of 2^-40 ppb; phase is in units of 2^-16 ns, with the part of a
unit that has not added up yet. -/
structure Servo where
  i : Int
  y : Int
  st : Nat                   -- Table 13.4
  run : Nat                  -- consecutive samples toward lock or unlock
  last : Option Nat          -- `now` of the last sample
  holdAt : Nat               -- `now` when holdover began
  phi : Int
  phiAcc : Int
  started : Bool             -- the shadow's virtual clock has taken its first sample
  ever : Bool                -- it has locked since reset
  deriving DecidableEq, Repr

def Servo.init : Servo :=
  { i := 0, y := 0, st := 0, run := 0, last := none, holdAt := 0, phi := 0, phiAcc := 0, started := false, ever := false }

/-- A timed pin (13 R429 to R432): the times an arm took, the next trigger, its output, its capture FIFO. Instants are device
time in units of 2^-16 ns. -/
structure Tpin where
  mode : Nat                 -- as armed
  t : Nat
  period : Nat
  width : Nat
  next : Nat                 -- the next trigger instant
  late : Bool                -- it fires at the next edge and sets late
  active : Bool
  until' : Option Nat        -- end of the pulse in progress
  fifo : List Nat            -- captures, oldest first, at most 4
  level : Bool               -- an input pin's level
  deriving DecidableEq, Repr

def Tpin.init : Tpin :=
  { mode := 0, t := 0, period := 0, width := 0, next := 0, late := false, active := false, until' := none, fifo := [], level := false }

/-- The time-stamp generator (13 R405), device time in units of 2^-16 ns, and what hangs on it. -/
structure TimeGen where
  dev : Nat
  acc : Nat                  -- the part of a unit that has not added up yet
  running : Bool             -- the time domain runs (13 R406)
  servos : List Servo        -- two
  former : Option Nat        -- the servo that a switch has made the shadow (13 R424)
  rateHeld : Option Int      -- the DPLL rate held while the SyncE clock or the reference is lost (13 R425)
  synceLost : Bool
  ppsIn : Option Nat         -- `now` of the last PPS_IN edge
  ppsUntil : Option Nat      -- device time at which PPS_OUT falls
  ppsDone : Nat              -- instants of PPS_OUT up to here are past
  setAt : Option Nat         -- `now` of the last set of device time by the driver (13 Table 13.7)
  switchAt : Option Nat      -- `now` of the last automatic switch of the active servo (13 Table 13.7)
  frame : Nat                -- the device frame last started
  pins : SMap Tpin
  deriving DecidableEq, Repr

def TimeGen.init : TimeGen :=
  { dev := 0, acc := 0, running := false, servos := [Servo.init, Servo.init], former := none, rateHeld := none, synceLost := false, ppsIn := none,
    ppsUntil := none, ppsDone := 0, setAt := none, switchAt := none, frame := 0, pins := [] }

/-! ### Power (15) -/

/-- The states of a compute die (15 R476 to R478, R494). -/
inductive DieSt where
  | awake | entering | dormant | waking | stopped
  deriving DecidableEq, Repr

/-- A raise of the operating point in progress: the point, and `now` when it began (15 R480). -/
structure Raise where
  to' : Nat
  at' : Nat
  deriving DecidableEq, Repr

/-- A compute die's clock and voltage (15 R480 to R492). Times are `now`. -/
structure DieClk where
  op : Nat                   -- current point
  raise' : Option Raise
  volt : Nat                 -- the point whose voltage the rail is commanded to
  blocked : Option Nat       -- the effective point at which a raise timed out
  thCeil : Nat
  thDuty : Nat
  thMoved : Nat              -- when the thermal ceiling or duty last moved
  ilCeil : Nat
  ilLow : Option Nat         -- since when the current has been below 95 % of the limit
  halved : Bool
  droop : Bool
  wakeAt : Nat
  deriving DecidableEq, Repr

def DieClk.init : DieClk :=
  { op := 0, raise' := none, volt := 0, blocked := none, thCeil := 7, thDuty := 16, thMoved := 0, ilCeil := 7, ilLow := none,
    halved := false, droop := false, wakeAt := 0 }

structure Power where
  dies : List DieSt
  clk : List DieClk          -- two
  capCeil : Nat
  capDuty : Nat
  capLow : Nat               -- consecutive evaluations below 95 % of the cap
  window : List Nat          -- energy of each 100 µs of the cap window, newest first, in µJ
  brakeLow : Bool
  brakeUntil : Option Nat    -- end of the brake hold
  coolHot : Bool             -- the coolant-warning ceiling is in force (R489)
  hubOn : Nat                -- switched hub domains that are on, in the order of PWR_HUB_EN
  gateOff : List (Nat × Nat) -- gates that close at the block's next idle cycle: register number, bit
  seen : Nat                 -- reasons active in the present µs
  deriving DecidableEq, Repr

def Power.init : Power :=
  { dies := [.awake, .awake], clk := [DieClk.init, DieClk.init], capCeil := 7, capDuty := 16, capLow := 0, window := [],
    brakeLow := false, brakeUntil := none, coolHot := false, hubOn := 0, gateOff := [], seen := 0 }

/-! ### Start-up, keys, flash (16) -/

/-- How far start-up has come (16 Table 16.2). -/
inductive BootStage where
  | judging                  -- steps 1 and 2: the strap delay
  | noReference              -- R466: the second judgement failed
  | locking                  -- step 3
  | wiping                   -- step 4
  | loading                  -- steps 5 to 9, from the end of the wipe
  | ready | holding | recovery
  | stopped                  -- Table 15.6
  | halted                   -- R557: start-up stopped for a removal
  deriving DecidableEq, Repr

/-- A removal in progress (18 R556 to R558). -/
inductive Quiesce where
  | none | requested | stopping | removed
  deriving DecidableEq, Repr

structure Boot where
  stage : BootStage
  relAt : Nat                -- `now` at the release of the reset
  served : Bool              -- the host port serves
  refOk : Bool               -- the reference is in use: judged stable, and not found lost since (R466, R467)
  tries : Nat                -- judgements that failed
  fwAt : Option Nat          -- `now` when the firmware started
  recovAt : Nat              -- `now` of the last streaming command
  header : List Byte         -- the running sheet's header
  image : SMap Byte          -- the flash as a warm reload read it
  reloading : Bool
  swap : Bool                -- the new plan is ready for the next cycle start
  wdogAt : Nat               -- `now` of the last kick
  quiesce : Quiesce
  quiesceAt : Nat
  quiesceLow : Bool          -- the pin's level
  deriving DecidableEq, Repr

def Boot.init : Boot :=
  { stage := .judging, relAt := 0, served := false, refOk := false, tries := 0, fwAt := none, recovAt := 0, header := [], image := [], reloading := false,
    swap := false, wdogAt := 0, quiesce := .none, quiesceAt := 0, quiesceLow := false }

/-- One-time-programmable memory and the fuse map: nothing but a life-cycle transition, a commit and a field record
changes it (01 R24 to R30, 16 R510, R516 to R521). -/
structure Otp where
  lc : Nat                   -- Table 16.8
  custDigest : List Byte
  idKey : Option Nat         -- the private key
  idPub : List Byte
  destroyed : Bool
  secver : Nat
  devId : Nat
  opMv : List Nat            -- the fused voltage of each point
  rows : SMap Nat            -- PHYS_ROW_MAP words
  enlSpare : SMap Nat
  failed : List Nat          -- logical tiles marked unavailable
  deriving DecidableEq, Repr

/-- The security engine's requests in order of arrival (16 R518): the driver's, or a roll call's by its nonce. -/
inductive ProofReq where
  | driver (nonce : Nat)
  | roll (nonce : Nat)
  deriving DecidableEq, Repr

structure Sec where
  queue : List ProofReq
  count : Nat
  deriving DecidableEq, Repr

/-- What the host port last answered (17 R525 to R529). -/
inductive HpResp where
  | none                     -- no response (R532)
  | notReady
  | read (words : List Word) (status : Nat) (crc : Byte)
  | write (status : Nat) (crc : Byte)
  deriving DecidableEq, Repr

/-- A read that answered not ready, or whose delivery was cut short, and its result (17 R528). -/
structure HeldRead where
  mem : Bool
  addr : Nat
  len : Nat
  result : Option (List Word × Nat)
  deriving DecidableEq, Repr

/-- A posted write (17 R531). -/
inductive Posted where
  | reg (addr : Nat) (v : Word)
  | mem (addr : Nat) (v : Word)
  | recov (index : Nat) (data : List Word)
  deriving DecidableEq, Repr

structure HostPort where
  held : Option HeldRead
  buffer : List Posted       -- in order of acceptance, at most 8 KiB
  captures : SMap Word       -- captured partners (17 Table 17.14), by address
  resp : HpResp
  flb : Option Nat           -- the flash bridge operation in progress: `now` of its start
  flbFail : Option Nat       -- a result fixed at its start
  deriving DecidableEq, Repr

def HostPort.init : HostPort := { held := none, buffer := [], captures := [], resp := .none, flb := none, flbFail := none }

/-! ### Slots (02), coding (10), measurements (11), the journal (09) -/

/-- What a code block of a TB has come to. -/
inductive CbStage where
  | waiting | combined | released | decoding | decoded
  deriving DecidableEq, Repr

/-- A code block of a PUSCH TB: its stage, its decoded bits and its own CRC. -/
structure CbState where
  stage : CbStage
  soft : List Int          -- soft values of a TB that holds no descriptor, before decoding
  softExp : Int
  bits : List Bool
  crcOk : Bool
  deriving DecidableEq, Repr

/-- One result of UCI: not detected, failed its CRC, or its payload bits (10 R348). -/
inductive UciOut where
  | dtx | fail | bits (b : List Bool)
  deriving DecidableEq, Repr

/-- A frequency-offset estimate as frozen (11 R368), with the cells it measured (real and imaginary parts, FP32). -/
structure FoRec where
  fo : Word
  flags : Nat
  sym : Nat
  rho : Word
  dt : Word
  cells : SMap (Word × Word)
  deriving DecidableEq, Repr

/-- What a frequency-offset estimate reads of a UE (11 R368): its reference record, and afc where it is valid. -/
structure RefRec where
  valid : Bool
  slot : Nat
  sym : Nat
  cells : SMap (Word × Word)
  afc : Option Int
  deriving DecidableEq, Repr

/-- A PUSCH PDU of an accepted request. -/
structure UlPdu where
  pdu : PuschPdu
  work : Nat               -- the work index under which the plan names its buffers
  committed : Bool         -- it kept a prediction's work (02 R69)
  dup : Bool               -- reason 4 (10 R354)
  ue : Option Nat
  desc : Option Nat        -- its HARQ descriptor
  fresh : Bool             -- combine into zero
  combinedAny : Bool
  ctx : Option Nat         -- the context in which its tile work runs
  stage3 : Bool
  stage4 : Bool
  wrote : List (Nat × Nat) -- bytes of its LLR buffer written so far: rising, disjoint ranges, end exclusive
  commitDue : Bool         -- its state write waits for its turn (11 Table 11.6, 09 Table 09.4)
  version : Nat            -- committed version its stage 3 read
  jnlVersion : Nat
  jnlState : List Byte
  jnlValid : Bool
  fo : Option FoRec
  missing : Bool
  cbs : List CbState
  uciOut : List (Option UciOut)
  decided : Option (Bool × Nat)   -- passed, reason
  replays : Nat
  replayIn : Option Nat    -- the context of the re-run exposure it is queued for
  deriving DecidableEq, Repr

/-- A predicted PDU (02 R63, R68). -/
structure Pred where
  alloc : List Byte
  version : Option Nat     -- the version its stage 3 read
  foVersion : Option Nat   -- the version its frequency-offset record read (11 R369)
  matched : Bool
  dropped : Bool           -- no longer speculated (02 R70, R72)
  refused : Bool           -- for want of a shadow page (02 R72)
  ctx : Option Nat
  fo : Option FoRec
  stage4 : Bool
  wrote : List (Nat × Nat)
  deriving DecidableEq, Repr

/-- A PUCCH or SRS PDU's result: not yet, or its record's bytes, or a reason. -/
structure CtlRes where
  ue : Option Nat
  done : Bool
  reason : Nat
  bytes : List Byte
  uci : Option UciOut
  missing : Bool
  ctx : Option Nat
  replays : Nat
  replayIn : Option Nat
  taken : Bool                   -- its record is complete: the exposure that wrote it has ended
  wrote : List (Nat × Nat)       -- bytes of its result buffer written so far, as in UlPdu
  llr : List (Nat × Nat)         -- bytes of its LLR buffer written so far (PUCCH formats 2 to 4)
  deriving DecidableEq, Repr

/-- A detected preamble as reported (11 Table 11.2); the frequency offset is an FP32 word in Hz. -/
structure Preamble where
  index : Nat
  ta : Nat
  power : Nat
  metric : Nat
  freq : Option Word
  deriving DecidableEq, Repr

/-- A PRACH occasion's search (11 R359 to R364). -/
structure PrachOcc where
  occ : Nat
  since : Nat                    -- grid instant at which its search started
  searching : Bool
  done : Bool
  missing : Bool
  found : List Preamble
  deriving DecidableEq, Repr

/-- How a slot's UL_TTI.request was judged (02 R73 to R75). -/
inductive UlClass where
  | open | onTime | late | noRequest
  deriving DecidableEq, Repr

/-- PRBs of a section as the capture area keeps it (09 R313), with the comp code, scale shift and antenna port of its entry. -/
structure CapSec where
  entry : Nat
  symbol : Nat
  startPrb : Nat
  comp : Nat
  k : Nat
  port : Nat
  prbs : List PrbIq
  deriving DecidableEq, Repr

/-- A DMRS symbol on its way to a tile's ring (06 R216): eAxC entry, symbol, tile, and the ring count of the slot it fills. -/
structure DmrsFill where
  entry : Nat
  symbol : Nat
  tile : Nat
  pos : Nat
  deriving DecidableEq, Repr

/-- An uplink slot of a carrier context, from its first event to its slot-result. -/
structure UlSlot where
  cls : UlClass
  req : Option UlTti
  held : Option UlTti            -- complete, waiting for earlier slots (02 R76)
  heldAt : Nat                   -- device time at which the held request completed
  rx : SMap Nat                  -- received PRBs, a bit map at 16 × eAxC entry + symbol
  filled : SMap Nat              -- PRBs filled with zero, likewise
  closed : List Nat              -- symbols whose window has ended or that are complete
  t0 : Option Nat
  preds : List Pred
  predicted : Bool
  pdus : List UlPdu
  pucch : List CtlRes
  srs : List CtlRes
  occs : List PrachOcc
  sent : List Nat                -- message types already sent or passed over, 1 to 5 in R58's order
  expired : Bool                 -- its completion deadline has passed
  jnl : Bool                     -- a journal entry is held
  capStart : Nat
  capEnd : Nat
  capLost : Bool
  secs : List CapSec             -- its captured sections, oldest first
  dmrs : List DmrsFill           -- DMRS symbols not yet whole in their ring slots, oldest first
  cpSent : List Nat              -- symbols whose uplink C-plane has left
  prachSent : List Nat           -- PRACH occasions whose C-plane has left
  cpDigest : Nat                 -- C-plane digest (09 Table 09.3)
  reqDigest : Nat
  refSeen : SMap RefRec          -- by UE: what the first estimate of this slot read, which its others read too (11 Table 11.6)
  deriving DecidableEq, Repr

def UlSlot.init : UlSlot :=
  { cls := .open, req := none, held := none, heldAt := 0, rx := [], filled := [], closed := [], t0 := none,
    preds := [], predicted := false, pdus := [], pucch := [], srs := [], occs := [], sent := [],
    expired := false, jnl := false, capStart := 0, capEnd := 0, capLost := false, secs := [], dmrs := [],
    cpSent := [], prachSent := [], cpDigest := 0, reqDigest := 0, refSeen := [] }

/-- How far a downlink symbol has come. -/
inductive DlSym where
  | waiting | cplane | sending | sent | missed | silent
  deriving DecidableEq, Repr

/-- A downlink PDU's work in a context (09 R314). -/
structure DlWork where
  ctx : Option Nat
  done : Bool
  replays : Nat
  replayIn : Option Nat
  dropped : Bool
  deriving DecidableEq, Repr

/-- A downlink slot of a carrier context (02 R79 to R85). -/
structure DlSlot where
  tti : Option DlTti
  accAt : Nat                    -- device time of DL_TTI.request's acceptance
  dci : Option UlDci
  data : Option TxData
  cut : Bool                     -- its cutoff has passed
  lateTti : Bool
  lateDci : Bool
  lateData : Bool
  syms : SMap DlSym
  cpAt : SMap Nat                -- device time at which symbol k's C-plane left
  encoded : List (Nat × Nat)     -- (PDU index, codeword) encoded
  works : List DlWork            -- by PDSCH PDU
  jnl : Bool
  digests : SMap Nat             -- of its requests as received: 0 DL_TTI, 1 UL_DCI, 2 TX_Data (09 Table 09.3)
  lost : List Nat                -- symbols whose miss is counted
  deriving DecidableEq, Repr

def DlSlot.init : DlSlot :=
  { tti := none, accAt := 0, dci := none, data := none, cut := false, lateTti := false, lateDci := false, lateData := false,
    syms := [], cpAt := [], encoded := [], works := [], jnl := false, digests := [], lost := [] }

/-- A noise-floor cell (11 R371): power, count, the slot of its last sample. -/
structure NfCell where
  p : Word
  count : Nat
  last : Nat
  deriving DecidableEq, Repr

/-- A carrier context at run time. Slots are numbered from the GPS epoch. -/
structure Carrier where
  ul : SMap UlSlot
  dl : SMap DlSlot
  history : SMap (List (List Byte))  -- allocation records of requests accepted on time, by slot
  runReq : Option Bool               -- a change of `run` waiting for the frame boundary
  running : Bool
  p5 : Nat                           -- the P5 block in force, its bytes as one number
  cgPend : List (Nat × Byte)         -- configured-grant bytes waiting for the frame boundary
  capPos : Nat                       -- capture write position, free-running bytes
  nf : SMap NfCell
  nfNext : Nat                       -- slots below this one have been applied to the cells
  rxStore : SMap (List (Int × Int))  -- PRACH input store: samples as CX16 parts × 2^12, by slot, eAxC entry, symbol
  deriving DecidableEq, Repr

def Carrier.init : Carrier :=
  { ul := [], dl := [], history := [], runReq := none, running := false, p5 := 0, cgPend := [], capPos := 0, nf := [],
    nfNext := 0, rxStore := [] }

/-- The coding blocks of the hub: released code blocks with their rank in the plan's release list, the code block in each
slice, the UCI codewords waiting. -/
structure Coding where
  release : List CbRef
  slices : List (Option CbRef)
  uciQ : List UciRef
  cbExp : SMap Int                   -- exponents of combined code blocks, at 256 × descriptor + code block
  harqLinks : SMap Nat               -- LLR pages in use: page to next page + 1, 0 at the end of a chain
  prefetch : List (Nat × Nat)        -- descriptors whose pages are prefetched, with the KiB they take
  relPend : List (Nat × Nat)         -- CTX_RELEASE waiting: carrier, RNTI
  flushPend : List (Nat × Option Nat)  -- HARQ_FLUSH waiting: UE index, process
  deriving DecidableEq, Repr

def Coding.init : Coding :=
  { release := [], slices := [none, none, none, none], uciQ := [], cbExp := [], harqLinks := [], prefetch := [], relPend := [], flushPend := [] }

/-! ### Messages out (12, 13) -/

/-- One PDU of an indication (12 Table 12.8). -/
structure IndItem where
  handle : Nat
  pass : Bool
  reason : Nat
  missing : Bool
  numCb : Nat
  cbOk : List Bool
  uci : List (Option UciOut)
  found : List Preamble
  bytes : List Byte
  deriving DecidableEq, Repr

/-- An indication as sent: FAPI message ID, SFN, slot, its PDUs, whether the result extension follows. -/
structure Indication where
  carrier : Nat
  msgId : Nat
  sfn : Nat
  slot : Nat
  items : List IndItem
  ext : Bool
  csum : Bool
  deriving DecidableEq, Repr

/-- The transport of a northbound datagram (12 R397): local and peer address and port, VLAN ID (0 untagged), DSCP. -/
structure NbPath where
  ipv6 : Bool
  localIp : Nat
  localPort : Nat
  peerIp : Nat
  peerPort : Nat
  vlan : Nat
  dscp : Nat
  deriving DecidableEq, Repr

/-- What a frame sent carries. -/
inductive TxMsg where
  /-- section type 1: PRBs from startPrb, numPrb (0 = all), and extension 6 as (rbgSize, rbgMask, symbolMask) -/
  | cplane (entry seq dir sfn slot symbol startPrb numPrb comp : Nat) (ext6 : Option (Nat × Nat × Nat))
  /-- section type 3 for a PRACH occasion -/
  | prach (entry seq sfn slot symbol occ timeOffset frameStructure cpLength : Nat) (freqOffset : Int)
  | uplane (entry seq sfn slot symbol comp : Nat) (sections : List (Nat × List PrbIq))
  | owd (action measId : Nat) (stamp : Nat) (comp : Int)
  /-- datagram k of n of an indication, under its UDP and IP addresses -/
  | ind (i : Indication) (k n : Nat) (path : NbPath)
  | ptp (msgType seqId : Nat) (stamp : Option Nat)
  deriving DecidableEq, Repr

/-- A frame in an egress queue (12 R383): its MAC, its queue, its bytes, its destination, and its message. -/
structure TxFrame where
  mac : Nat
  queue : Nat
  bytes : Nat
  dst : Nat
  msg : TxMsg
  deriving DecidableEq, Repr

/-- The frame a MAC is sending: the bits it still has to send, and the device time at which the first bit after its
start-of-frame delimiter passes the MAC (13 R414). -/
structure Leaving where
  bits : Nat
  raw : Nat
  frame : TxFrame
  deriving DecidableEq, Repr

/-- A downlink U-plane packet that the fronthaul engine has yet to hand to its queue (12 R396), and the instant of the
symbol's C-plane plus 25 µs, before which it must not leave. -/
structure Paced where
  after : Nat
  frame : TxFrame
  deriving DecidableEq, Repr

/-- A northbound message being reassembled (12 R398): arrived segments and the first one's time. -/
structure Reasm where
  mac : Nat
  phyId : Nat
  msgId : Nat
  seq : Nat
  segs : List Nat
  last : Option Nat
  first : Nat
  deriving DecidableEq, Repr

/-- A one-way-delay measurement in progress (12 R386): RU, measurement identifier, its start, the corrected egress stamp. -/
structure Owd where
  ru : Nat
  measId : Nat
  start : Nat
  stamp : Nat
  deriving DecidableEq, Repr

/-- The Ethernet side: egress queues, frames sent (newest last), the eAxC table and what waits for a slot boundary. -/
structure Net where
  egress : List TxFrame
  wire : SMap Leaving                -- the frame each MAC is sending
  pace : List Paced
  sent : List TxFrame
  eaxc : SMap (BitVec 128)
  eaxcPend : SMap (BitVec 128)
  seqTx : SMap Nat
  seqRx : SMap Nat
  reasm : List Reasm
  owd : Option Owd
  stamps : SMap (List (Nat × Nat × Nat))  -- egress stamp FIFO of each MAC: messageType, sequenceId, stamp
  ingress : List (Nat × Nat × Nat × Nat)  -- PTP frames delivered: MAC, messageType, sequenceId, stamp
  deriving DecidableEq, Repr

def Net.init : Net :=
  { egress := [], wire := [], pace := [], sent := [], eaxc := [], eaxcPend := [], seqTx := [], seqRx := [], reasm := [], owd := none,
    stamps := [], ingress := [] }

/-! ### Peer Links and the group (14) -/

/-- A member of the group map (16 Table 16.15). -/
structure Member where
  devId : Nat
  keyDigest : List Byte
  route : List Byte
  cabled : Nat
  seats : Nat
  deriving DecidableEq, Repr

/-- A frame in a replay buffer: how often it has been sent, and `now` when it was last sent (14 R441). -/
structure Kept where
  frame : PeerFrame
  sends : Nat
  at' : Nat
  deriving DecidableEq, Repr

/-- One direction pair of a Peer Link: its state stands in PEER_L_STATUS. -/
structure PeerLink where
  txSeq : Nat
  rxNext : Nat
  replay : List Kept          -- oldest first, at most 512
  waiting : List PeerFrame    -- frames that found the replay buffer full or the link down, control frames first
  out : List PeerFrame        -- frames sent, oldest first
  since : Nat                 -- `now` when the link began to train
  rr : Nat                    -- virtual channel served last
  deriving DecidableEq, Repr

def PeerLink.init : PeerLink := { txSeq := 0, rxNext := 0, replay := [], waiting := [], out := [], since := 0, rr := 3 }

/-- A burst that has left its source (14 R442, R457): its number, the destination seats that have yet to land it, and
whether it went by unicast to a detached destination. -/
structure Burst where
  no : Nat
  seats : Nat
  uni : Bool
  deriving DecidableEq, Repr

/-- A slot in staging (14 R455): its number in the stream's count and the seats that have yet to land it. -/
structure Staged where
  slot : Nat
  seats : Nat
  deriving DecidableEq, Repr

/-- A stream at its source. Bursts and slots are numbered from the device's start; `base` is the first burst of the
present transfer. -/
structure StreamTx where
  next : Nat                  -- number of the next burst
  base : Nat
  slots : Nat                 -- slots staged so far, multicast only
  out : List Burst            -- oldest first
  staged : List Staged
  detached : Nat              -- seats
  uniNext : SMap Nat          -- next burst of a detached seat
  heldAt : Option Nat         -- `now` since which the multicast is held at its limit
  endAt : Option Nat          -- tail count of the source ring at the instance's SEQ.END
  fresh : Bool                -- the next burst starts a transfer
  deriving DecidableEq, Repr

def StreamTx.init : StreamTx :=
  { next := 0, base := 0, slots := 0, out := [], staged := [], detached := 0, uniNext := [], heldAt := none, endAt := none, fresh := true }

/-- A burst at its destination: stream, offset in the transfer, source member, data; complete once its last frame is here. -/
structure RxBurst where
  stream : Nat
  offset : Nat
  src : Nat
  data : List Byte
  deriving DecidableEq, Repr

/-- A group barrier as the manager counts it (14 R451): arrived seats, T_rel once fixed. -/
structure BarMgr where
  num : Nat
  arrived : Nat
  rel : Option Nat
  deriving DecidableEq, Repr

/-- The span of a collective (14 R460): when it began and when this member arrived, in ticks of `now`, the reasons met in it
and the ticks they slowed a die that the context uses. -/
structure Span where
  arrivedAt : Option Nat
  reasons : Nat
  throttled : Nat
  deriving DecidableEq, Repr

def Span.init : Span := { arrivedAt := none, reasons := 0, throttled := 0 }

/-- A collective record (14 Table 14.4). -/
structure CollRec where
  barrier : Nat
  seat : Nat
  ctx : Nat
  status : Nat
  cycle : Nat
  waitUs : Nat
  thrUs : Nat
  reasons : Nat
  relNs : Nat
  deriving DecidableEq, Repr

/-- A roll call in progress on the manager (14 R446): nonce, start, members answered and accepted. -/
structure RollCall where
  nonce : Nat
  start : Nat
  ok : Nat
  bad : Nat
  deriving DecidableEq, Repr

structure Peer where
  members : List Member
  links : SMap PeerLink
  tx : SMap StreamTx
  partial' : List RxBurst     -- bursts whose last frame has not come
  recv : List RxBurst         -- the receive buffer: bursts that found their ring full
  roll : Option RollCall
  lastRoll : Nat              -- `now` of the last roll call: started (manager), received (worker)
  lost : Bool                 -- no roll call for three periods
  formed : Bool
  armAt : Option Nat          -- device time of the arm cycle
  bars : List BarMgr
  rel : List (Nat × Nat × Nat × Bool)  -- releases due on this member: barrier, seat, `now` at which, late
  relNs : SMap Nat            -- device time of T_rel by barrier
  spans : SMap Span           -- by context
  coll : List CollRec         -- at most 64
  timeReq : Option Nat        -- the time request a worker has sent: its egress stamp
  timeAt : Option Nat         -- `now` of the last time exchange (R449)
  deriving DecidableEq, Repr

def Peer.init : Peer :=
  { members := [], links := [], tx := [], partial' := [], recv := [], roll := none, lastRoll := 0, lost := false,
    formed := false, armAt := none, bars := [], rel := [], relNs := [], spans := [], coll := [], timeReq := none, timeAt := none }

/-! ### The machine -/

/-- An error record as kept (09 Table 09.5): its fields, the bytes being a view of them. -/
structure ErrRec where
  seq : Nat
  cls : Nat
  cause : Nat
  action : Nat
  source : Nat
  tile : Nat
  ctx : Nat
  carrier : Nat
  sfn : Nat
  slot : Nat
  detail : Nat
  addr : Nat
  sec : Nat
  ns : Nat
  tick : Nat       -- when it was recorded, no part of its 32 bytes
  deriving DecidableEq, Repr

/-- A scratchpad row that waits for its scrub write-back: bit i of `fresh` says that its byte i has been rewritten since
(06 R202, R204). -/
structure ScrubRow where
  tile : Nat
  row : Nat
  fresh : BitVec 64
  deriving DecidableEq, Repr

/-- Latent errors of the memories (06 R199 to R204, 09 R307, R309): 64-bit word numbers (physical address div 8), words of
instruction memories (65,536 × tile + word), and weight-cache lines (HBM address div 512) whose cached copy is bad. -/
structure Ecc where
  single : List Nat
  bad : List Nat
  imemSingle : List Nat
  imemBad : List Nat
  wcBad : List Nat
  scrubQ : List ScrubRow       -- at most 16 rows of each tile, oldest first
  deriving DecidableEq, Repr

def Ecc.init : Ecc := { single := [], bad := [], imemSingle := [], imemBad := [], wcBad := [], scrubQ := [] }

structure State where
  pending : List Instr
  freeCtr : Nat
  now : Nat
  regs : SMap Word
  mem : SMap Byte
  ecc : Ecc
  foreignDirty : List Nat
  scrubWant : List Nat             -- foreign-dirty pages that an access waits for, oldest first (08 R293)
  patrol : List Nat                -- next 64 B unit of each stack's patrol (09 R309; at reset: DESIGN CHOICE, log 113)
  tiles : SMap Tile
  advances : List RingTransit      -- oldest first
  plan : Option Plan
  sched : Sched
  ctxs : SMap Ctx
  parts : SMap Part
  pairs : SMap PagePair
  alloc : PageAlloc
  wc : WeightCache
  errLog : List ErrRec
  errSeq : Nat
  time : TimeGen
  safe : Safe
  power : Power
  carriers : SMap Carrier
  coding : Coding
  net : Net
  peer : Peer
  boot : Boot
  otp : Otp
  sec : Sec
  flash : Flash
  host : HostPort
  deriving DecidableEq, Repr

/-- Why a step stops. -/
inductive Fault where
  /-- Raised by `exec` for THERMAL_EVAL on a list that is not one reading for each of the 40 sensors: no such command exists
  (WellFormed.lean). Safe: nothing is claimed of it. -/
  | illFormed
  deriving DecidableEq, Repr

/-- Why a command has no meaning. -/
inductive Refusal where
  /-- Raised by `exec` for a command whose meaning is not yet written: no arm does. Safe: the step stops. -/
  | notModelled (mnemonic : String)
  deriving DecidableEq, Repr

/-! ### Reset (16 Table 16.1) -/

/-- Registers whose value after a power-on reset stands in no register table: the fuse map of a device with no repair (01 R42,
log 6) and its digest (01 R43), the random transition nonce (16 Table 16.11), the cause of the reset (16 Table 16.13). -/
def resetRegs : SMap Word :=
  (List.range 4).map (fun k => (Reg.SEC_LC_NONCE k, BitVec.ofNat 32 (Config.freeValue k))) ++
  [(Reg.BOOT_RST_CAUSE, 1#32), (Reg.PHYS_STATUS, 1#32)] ++
  (List.range 8).map (fun k => (Reg.PHYS_TILE_AVAIL k, 0xFFFFFFFF#32)) ++
  [(Reg.PHYS_SPARE_DIGEST 0, 0x9da0400e#32), (Reg.PHYS_SPARE_DIGEST 1, 0xb5d8c3d6#32),
   (Reg.PHYS_SPARE_DIGEST 2, 0x5409c003#32), (Reg.PHYS_SPARE_DIGEST 3, 0x258c4844#32),
   (Reg.PHYS_SPARE_DIGEST 4, 0x3519faf0#32), (Reg.PHYS_SPARE_DIGEST 5, 0x779bdd6d#32),
   (Reg.PHYS_SPARE_DIGEST 6, 0xcb1962a1#32), (Reg.PHYS_SPARE_DIGEST 7, 0xe669ec1c#32)]

/-- OTP and fuses as the model takes them at its first power-on (DESIGN CHOICE, log 6): Blank, no key, no repair, the fused voltages at the
limits of 15 R479. -/
def Otp.blank : Otp :=
  { lc := 0, custDigest := [], idKey := none, idPub := [], destroyed := false, secver := 0, devId := 0,
    opMv := [600, 630, 660, 690, 730, 770, 810, 850], rows := [], enlSpare := [], failed := [] }

/-- The machine right after PWRON_RST_N has risen on a board whose straps read 0, whose flash is absent, and whose COOLANT_OK,
QUIESCE_N and PWR_BRAKE_N are high (DESIGN CHOICE, log 6). -/
def State.reset : State :=
  { pending := [], freeCtr := 4, now := 0, regs := resetRegs, mem := [], ecc := Ecc.init, foreignDirty := [], scrubWant := [],
    patrol := [0, 0], tiles := [], advances := [], plan := none,
    sched := { permitted := false, armed := false, cycleStart := 0, nextCycle := 0, opReq := [0, 0] },
    ctxs := [], parts := [], pairs := [], alloc := { clean := [], dirty := [] }, wc := WeightCache.init,
    errLog := [], errSeq := 0, time := TimeGen.init,
    safe := { upTicks := 0, events := [], evtSeq := 0, coolant := false, trip := false, devCopy := 0 },
    power := Power.init, carriers := [], coding := Coding.init, net := Net.init, peer := Peer.init, boot := Boot.init,
    otp := Otp.blank, sec := { queue := [], count := 0 },
    flash := { size0 := 0, size1 := 0, bytes := [], sfdp0 := [], sfdp1 := [] }, host := HostPort.init }

end Sys2Proof.Machine
end

