-- ==== Sys2Proof/Machine/Ops.lean ====
section
/-!
DEFINITION. Ops.lean: the named operations over registers, memory, tiles and contexts, the event FIFO and the error
log. Every meaning reads and writes State through these.
-/
namespace Sys2Proof.Machine

open Sys2Proof

/-! ### Registers -/

/-- The value a register holds, as last written by the driver or the device. -/
def getR (s : State) (a : Nat) : Word := (mapFind s.regs a).getD (resetValue a)

/-- Write a register's value. -/
def setR (s : State) (a : Nat) (v : Word) : State := { s with regs := mapSet (resetValue a) s.regs a v }

/-- A register as a number. -/
def getN (s : State) (a : Nat) : Nat := (getR s a).toNat

/-- Bits hi to lo of a register, as a number. -/
def getF (s : State) (a hi lo : Nat) : Nat := fieldOf (getR s a) hi lo

/-- Bit i of a register. -/
def getB (s : State) (a i : Nat) : Bool := bitOf (getR s a) i

/-- Write bits hi to lo of a register. -/
def setF (s : State) (a hi lo x : Nat) : State := setR s a (setField (getR s a) hi lo x)

/-- Write bit i of a register. -/
def setBitR (s : State) (a i : Nat) (b : Bool) : State := setR s a (setBit (getR s a) i b)

/-- Set bit i of a register: a sticky flag. -/
def flag (s : State) (a i : Nat) : State := setBitR s a i true

/-- Set bit i of a register when a condition holds. -/
def flagIf (s : State) (c : Bool) (a i : Nat) : State := if c then flag s a i else s

/-- Add to a 32-bit counter, which stops at 0xFFFF_FFFF. -/
def incR (s : State) (a n : Nat) : State := setR s a (satAdd (getR s a) n)

/-- The 64-bit value of a _LO and _HI pair. -/
def getN64 (s : State) (lo hi : Nat) : Nat := getN s lo + 2 ^ 32 * getN s hi

/-- Write a _LO and _HI pair. -/
def setN64 (s : State) (lo hi x : Nat) : State := setR (setR s lo (BitVec.ofNat 32 x)) hi (BitVec.ofNat 32 (x / 2 ^ 32))

/-- Add to a 64-bit counter pair, which stops at its maximum. -/
def incR64 (s : State) (lo hi n : Nat) : State := setN64 s lo hi (min (getN64 s lo hi + n) (2 ^ 64 - 1))

/-! ### Memory (01 R33) -/

/-- A byte of the physical map: an address nothing has written since the wipe reads as 0 (16 R504). -/
def getByte (s : State) (a : Nat) : Byte := mapGet 0#8 s.mem a

/-- n bytes from an address on. -/
def getBytes (s : State) (a n : Nat) : List Byte := build n (fun i => getByte s (a + i))

/-- The little-endian number of n bytes at an address. -/
def getLe (s : State) (a n : Nat) : Nat := leNat (getBytes s a n)

/-- Write bytes from an address on. -/
def putBytes (m : SMap Byte) (a : Nat) : List Byte → SMap Byte
  | [] => m
  | b :: bs => putBytes (mapSet 0#8 m a b) (a + 1) bs

/-- The canonical form of memory: addresses strictly rising, no byte listed that reads as the wipe left it. -/
def Memory.wf (s : State) : Bool := mapWf 0#8 s.mem

/-- The 64-bit words that n bytes from a on touch. -/
def wordsOf (a n : Nat) : List Nat := if n = 0 then [] else (List.range ((a + n - 1) / 8 - a / 8 + 1)).map (· + a / 8)

/-- Whether n bytes from a on cover the whole of word w. -/
def coversWord (a n w : Nat) : Bool := decide (a ≤ 8 * w) && decide (8 * w + 8 ≤ a + n)

/-- The queued rows after bytes a to a + n − 1 have been rewritten: a row rewritten completely is queued no longer
(06 R204). -/
def freshen (q : List ScrubRow) (a n : Nat) : List ScrubRow :=
  (q.map (fun r =>
    let b := 0x100000000000 + r.tile * 0x200000 + r.row * 64
    if a + n ≤ b ∨ b + 64 ≤ a then r else { r with fresh := r.fresh ||| maskOf 64 (min 63 (a + n - 1 - b)) (a - b) })).filter
    (fun r => r.fresh != BitVec.allOnes 64)

/-- Store bytes. A word written whole carries fresh check bits; a word written in part by a read-modify-write is
corrected when it had a single error, and keeps its poison when it was uncorrectable (06 R198, R200, R204, 09 R309). -/
def setBytes (s : State) (a : Nat) (bs : List Byte) : State :=
  { s with
    mem := putBytes s.mem a bs
    ecc :=
      if s.ecc.single.isEmpty && s.ecc.bad.isEmpty && s.ecc.scrubQ.isEmpty then s.ecc
      else { s.ecc with
             single := s.ecc.single.filter (fun w => !(wordsOf a bs.length).contains w)
             bad := s.ecc.bad.filter (fun w => !coversWord a bs.length w)
             scrubQ := freshen s.ecc.scrubQ a bs.length } }

/-- Store a little-endian number in n bytes. -/
def setLe (s : State) (a n x : Nat) : State := setBytes s a (leBytes n x)

/-- Remove every byte of a range: it reads as zero, with valid check bits. -/
def zeroRange (s : State) (a n : Nat) : State :=
  { s with
    mem := s.mem.filter (fun kv => !(decide (a ≤ kv.1) && decide (kv.1 < a + n)))
    ecc := { s.ecc with
             single := s.ecc.single.filter (fun w => !(decide (a ≤ 8 * w) && decide (8 * w < a + n)))
             bad := s.ecc.bad.filter (fun w => !(decide (a ≤ 8 * w) && decide (8 * w < a + n)))
             scrubQ := freshen s.ecc.scrubQ a n } }

/-- The physical base of a tile's scratchpad (01 Table 01.5). -/
def spBase (t : Nat) : Nat := 0x100000000000 + t * 0x200000

/-- The bytes of a scratchpad: 1.5 MiB (01 Table 01.3). -/
def spBytes : Nat := 0x180000

def hbmBytes : Nat := 0x000C00000000
def hbmStackBytes : Nat := 0x000600000000
def ctxCoreBase : Nat := 0x300000000000
def ctxExtBase : Nat := 0x300001000000
def harqBase : Nat := 0x300004000000
def mirrorBase : Nat := 0x3F0000000000
def wcBase : Nat := 0x200000000000

/-- Whether a compute die takes exposures (15 R476, R477): until it is dormant. -/
def dieAwake (s : State) (d : Nat) : Bool := decide (nth DieSt.awake s.power.dies d = .awake ∨ nth DieSt.awake s.power.dies d = .entering)

/-- Whether the HBM stack that an address names is served: that of a dormant die is not (15 R477). -/
def engineOpen (s : State) (a : Nat) : Bool := decide (hbmBytes ≤ a) || dieAwake s (a / hbmStackBytes)

/-- A write of the fronthaul or peer engine: to a dormant die's stack it is dropped and counted (15 R477). -/
def engineWrite (s : State) (a : Nat) (bs : List Byte) : State :=
  if engineOpen s a then setBytes s a bs else incR s (Reg.PWR_DIE_SKIP (a / hbmStackBytes)) 1

/-! ### Tiles, contexts, partitions -/

def getT (s : State) (t : Nat) : Tile := mapGet Tile.init s.tiles t
def setT (s : State) (t : Nat) (x : Tile) : State := { s with tiles := mapSet Tile.init s.tiles t x }
def modT (s : State) (t : Nat) (f : Tile → Tile) : State := setT s t (f (getT s t))
def getC (s : State) (c : Nat) : Ctx := mapGet Ctx.init s.ctxs c
def setC (s : State) (c : Nat) (x : Ctx) : State := { s with ctxs := mapSet Ctx.init s.ctxs c x }
def modC (s : State) (c : Nat) (f : Ctx → Ctx) : State := setC s c (f (getC s c))
def getP (s : State) (p : Nat) : Part := mapGet Part.init s.parts p
def setP (s : State) (p : Nat) (x : Part) : State := { s with parts := mapSet Part.init s.parts p x }
def modP (s : State) (p : Nat) (f : Part → Part) : State := setP s p (f (getP s p))

/-- Apply a state change for each item of a list, in order. -/
def forEach {α : Type} (l : List α) (s : State) (f : α → State → State) : State := l.foldl (fun s x => f x s) s

/-- The members of a 256-bit tile set, ascending. -/
def tilesOf (w : BitVec 256) : List Nat := (List.range 256).filter (fun i => bitOf w i)

/-- The die of a logical tile: 0 below 128, else 1 (01 R21). -/
def dieOf (t : Nat) : Nat := t / 128

/-! ### Time -/

/-- Units of 2^-16 ns in a second. -/
def unitsPerSec : Nat := 1000000000 * 65536

/-- Units of 2^-16 ns in a microsecond. -/
def unitsPerUs : Nat := 1000 * 65536

/-- Seconds and nanoseconds of device time (13 Table 13.1). -/
def devSec (s : State) : Nat := s.time.dev / unitsPerSec
def devNs (s : State) : Nat := s.time.dev % unitsPerSec / 65536

/-- SAFE_UPTIME in µs: 800 ticks of 1.25 ns each (17 R544, log 1). -/
def uptime (s : State) : Nat := s.safe.upTicks / 800

/-! ### Free values (DESIGN CHOICE, log 4) -/

/-- Take the next free-value index. -/
def fresh (s : State) : Nat × State := (s.freeCtr, { s with freeCtr := s.freeCtr + 1 })

/-! ### Events and errors -/

/-- Post an event (17 R540, Table 17.6): a full FIFO drops it, counts it and consumes its sequence number. -/
def postEvent (s : State) (cls code carrier ctx arg : Nat) : State :=
  let r : EvtRec := { seq := s.safe.evtSeq, cls := cls, code := code, carrier := carrier, ctx := ctx,
                      arg := arg % 2 ^ 32, uptime := uptime s % 2 ^ 32 }
  let s := { s with safe := { s.safe with evtSeq := (s.safe.evtSeq + 1) % 2 ^ 32 } }
  if s.safe.events.length < 256 then
    flag { s with safe := { s.safe with events := s.safe.events ++ [r] } } Reg.SAFE_FLAGS 0
  else flag (incR s Reg.SAFE_EVT_LOST 1) Reg.SAFE_FLAGS 1

/-- Post an event that names no carrier and no context. -/
def event (s : State) (cls code arg : Nat) : State := postEvent s cls code 0xFF 0xFF arg

/-- An error record that names nothing but its class. -/
def ErrRec.of (cls : Nat) : ErrRec :=
  { seq := 0, cls := cls, cause := 0, action := 0, source := 2, tile := 0xFFFF, ctx := 0xFF, carrier := 0xFF,
    sfn := 0xFFFF, slot := 0xFF, detail := 0, addr := 0, sec := 0, ns := 0, tick := 0 }

/-- Count an error of a class (09 R307). -/
def countError (s : State) (cls : Nat) : State := incR s (Reg.ERR_CLASS_CNT cls) 1

/-- The order of records of one cycle: die A, die B, hub, then the tile, then the class (09 Table 09.4). -/
def ErrRec.rank (r : ErrRec) : Nat := (r.source * 65536 + r.tile) * 32 + r.cls

/-- The records at the end of the log that a record of the present tick goes before (DESIGN CHOICE, log 107: a cycle is a tick). -/
def laterRecs (s : State) (r : ErrRec) : List ErrRec :=
  (s.errLog.reverse.takeWhile (fun x => decide (x.tick = s.now) && decide (r.rank < x.rank))).reverse

/-- Put a record before those that it precedes: the records take the sequence numbers in their order, and their events follow them. -/
def insertRec (s : State) (r : ErrRec) : State :=
  let tail := laterRecs s r
  let seqs := tail.map (·.seq) ++ [s.errSeq]
  let moved := List.zipWith (fun (x : ErrRec) n => { x with seq := n }) (r :: tail) seqs
  let renum := fun (e : EvtRec) => match (tail.zip (seqs.drop 1)).find? (fun y => decide (e.cls = 8 ∧ e.code = 1 ∧ e.arg = y.1.seq)) with
    | some y => { e with arg := y.2 }
    | none => e
  { s with errLog := s.errLog.take (s.errLog.length - tail.length) ++ moved, safe := { s.safe with events := s.safe.events.map renum } }

/-- Put a record into the log (09 R325): a full log drops it and counts it. -/
def putRec (s : State) (r : ErrRec) : State :=
  if 512 ≤ s.errLog.length then incR s Reg.ERR_LOG_LOST 1
  else if laterRecs s r = [] then { s with errLog := s.errLog ++ [r] }
  else insertRec s r

/-- The sequence number that a record comes to carry: the next one, or that of the first record it goes before. -/
def recSeq (s : State) (r : ErrRec) : Nat :=
  if 512 ≤ s.errLog.length then s.errSeq else ((laterRecs s r).head?.map (·.seq)).getD s.errSeq

/-- Count an error, write its record and post its event (09 R307, R325). A dropped record consumes its sequence number. -/
def logError (s : State) (r : ErrRec) : State :=
  let s := countError s r.cls
  let r := { r with seq := s.errSeq, sec := devSec s % 2 ^ 32, ns := devNs s, tick := s.now }
  postEvent { putRec s r with errSeq := (s.errSeq + 1) % 2 ^ 32 } 8 1 r.carrier r.ctx (recSeq s r)

/-- ERR_HOST_STATUS.reserved_write (17 R537). -/
def reservedWrite (s : State) : State := flag s Reg.ERR_HOST_STATUS 0

end Sys2Proof.Machine
end

