-- ==== Sys2Proof/Machine/Operands.lean ====
section
/-!
DEFINITION. Operands.lean: how a tile's units reach operands: scratchpad elements with their checks (06), queue
entries, translations (07 R247 to R253), and the outcome of an attempt: it completes, it waits, or its context faults.
-/
namespace Sys2Proof.Machine

open Sys2Proof

/-- What an attempt by a tile's unit comes to. -/
inductive TRes where
  | ok (s : State)
  | wait (s : State)
  | fault (s : State) (r : ErrRec)

/-- The state an attempt leaves. -/
def TRes.state : TRes → State
  | .ok s => s
  | .wait s => s
  | .fault s _ => s

/-- Continue an attempt that completed. -/
def TRes.andThen (r : TRes) (f : State → TRes) : TRes :=
  match r with
  | .ok s => f s
  | r => r

/-- The record of a context fault: its class follows the cause (09 Table 09.1, Table 09.2). -/
def faultRec (cause t c addr : Nat) : ErrRec :=
  { ErrRec.of (if cause = 5 then 0x02 else if cause = 9 then 0x0C else if cause = 10 then 0x0D
               else if cause = 11 then 0x05 else 0x0E) with
    cause := cause, action := 1, source := dieOf t, tile := t, ctx := c, addr := addr }

/-- An illegal instruction of the context (cause 1). -/
def illegal (s : State) (t c : Nat) : TRes := .fault s (faultRec 1 t c 0)

/-- An address fault of the context (cause 2). -/
def addrFault (s : State) (t c addr : Nat) : TRes := .fault s (faultRec 2 t c addr)

/-- A DMA fault of the context (cause 3). -/
def dmaFault (s : State) (t c addr : Nat) : TRes := .fault s (faultRec 3 t c addr)

/-! ### Scratchpad access -/

/-- Whether an access to a range of a tile's scratchpad proceeds, waits or faults: a sleeping group faults, a waking
group waits (06 R206), a foreign-dirty bank waits for its scrub (08 R293). -/
inductive SpAccess where
  | ready | waking | asleep | dirty
  deriving DecidableEq, Repr

def groupsOf (off n : Nat) : List Nat :=
  if n = 0 then [] else (List.range ((off + n - 1) / 0x40000 - off / 0x40000 + 1)).map (· + off / 0x40000)

/-- The 64 KiB pages that n bytes from a on touch. -/
def pagesOf (a n : Nat) : List Nat :=
  if n = 0 then [] else (List.range ((a + n - 1) / 0x10000 - a / 0x10000 + 1)).map (· + a / 0x10000)

def isDirty (s : State) (a n : Nat) : Bool :=
  !s.foreignDirty.isEmpty && (pagesOf a n).any (fun p => s.foreignDirty.contains p)

/-- An access waits for the foreign-dirty pages among n bytes from a on: the scrub engine takes them next (08 R293). -/
def wantScrub (s : State) (a n : Nat) : State :=
  { s with scrubWant := s.scrubWant ++ (pagesOf a n).filter (fun p => s.foreignDirty.contains p && !s.scrubWant.contains p) }

def spAccess (s : State) (t off n : Nat) : SpAccess :=
  let x := getT s t
  if (groupsOf off n).any (fun g => x.asleep.contains g) then .asleep
  else if (groupsOf off n).any (fun g => x.wakingG.contains g) then .waking
  else if isDirty s (spBase t + off) n then .dirty
  else .ready

/-- Run an access to a range of a tile's own scratchpad: a wait on a waking group counts a cycle (06 R206). -/
def withSp (s : State) (t c off n : Nat) (f : State → TRes) : TRes :=
  match spAccess s t off n with
  | .ready => f s
  | .waking => .wait (incR s (Reg.TILE_SP_WAKE_STALL t) 1)
  | .dirty => .wait (wantScrub s (spBase t + off) n)
  | .asleep => addrFault s t c off

/-- The 64 KiB banks that n bytes of a scratchpad from an offset on touch. -/
def banksOf (off n : Nat) : List Nat := if n = 0 then [] else (List.range ((off + n - 1) / 0x10000 - off / 0x10000 + 1)).map (· + off / 0x10000)

/-- The declaration of a context in the loaded plan. -/
def declOf (s : State) (c : Nat) : Option Decl := s.plan.bind (fun p => p.decls.find? (fun d => decide (d.ctx = c)))

/-- Whether a write by context c (or by none) to a scratchpad range must wait: another context's Negative lies in those
banks and has not reached its store slot (08 R286). -/
def negHeld (s : State) (t : Nat) (c : Option Nat) (off n : Nat) : Bool :=
  s.ctxs.any (fun kv =>
    decide (some kv.1 ≠ c) && !kv.2.negHbm.contains t &&
    (match mapFind kv.2.negs t, declOf s kv.1 with
      | some g, some d => (banksOf (d.negOff * 64) g.bytes).any (fun b => (banksOf off n).contains b)
      | _, _ => false))

/-- Run a write to a range of a tile's own scratchpad. -/
def withSpW (s : State) (t c off n : Nat) (f : State → TRes) : TRes :=
  if negHeld s t (some c) off n then .wait s else withSp s t c off n f

/-- Latch the first error location: an uncorrectable error replaces a correctable one, never the reverse (06 R201). -/
def latchErr (s : State) (t row word : Nat) (ue : Bool) : State :=
  let a := Reg.TILE_SP_ERR_ADDR t
  if getB s a 31 && (getB s a 30 || !ue) then s
  else setR s a (BitVec.ofNat 32 (0x80000000 + (if ue then 0x40000000 else 0) + word * 0x8000 + row))

/-- Whether a row of a tile's scratchpad holds a latent single-bit error. -/
def rowSingle (s : State) (t row : Nat) : Bool := s.ecc.single.any (fun w => decide (w / 8 = spBase t / 64 + row))

/-- The rows of a tile that wait for a scrub write-back, oldest first (06 R202, R204). -/
def scrubRows (s : State) (t : Nat) : List Nat := (s.ecc.scrubQ.filter (fun r => decide (r.tile = t))).map (·.row)

/-- Queue a corrected row for a scrub write-back, or count it (06 R202). A row already queued is not queued twice. -/
def queueScrub (s : State) (t row : Nat) : State :=
  let q := scrubRows s t
  if q.contains row then s
  else if q.length < 16 then { s with ecc := { s.ecc with scrubQ := s.ecc.scrubQ ++ [{ tile := t, row := row, fresh := 0#64 }] } }
  else incR s (Reg.TILE_SP_SCRUB_OVF t) 1

/-- One corrected word of a scratchpad: counted, latched, queued (06 R199, R201, R202; class 0x01). -/
def noteSingle (s : State) (t off : Nat) : State :=
  let s := incR s (Reg.TILE_SP_CE_CNT t) 1
  let s := countError s 0x01
  queueScrub (latchErr s t (off / 64) (off / 8 % 8) false) t (off / 64)

/-- One uncorrectable word of a scratchpad: counted and latched (06 R200, R201). -/
def noteBad (s : State) (t off : Nat) : State :=
  latchErr (incR s (Reg.TILE_SP_UE_CNT t) 1) t (off / 64) (off / 8 % 8) true

/-- Whether a physical address lies in a populated scratchpad, and in which tile and at which offset. -/
def spOf (a : Nat) : Option (Nat × Nat) :=
  if 0x100000000000 ≤ a ∧ a < 0x100000000000 + 256 * 0x200000 ∧ (a - 0x100000000000) % 0x200000 < spBytes then
    some ((a - 0x100000000000) / 0x200000, (a - 0x100000000000) % 0x200000)
  else none

/-- Whether a word lies in the UE context cores or the HARQ descriptors, the hub's tables (09 R307 classes 0x09 to 0x0B). -/
def tableWord (w : Nat) : Bool :=
  decide (ctxCoreBase ≤ 8 * w ∧ 8 * w < ctxCoreBase + 65536 * 128) || decide (harqBase ≤ 8 * w ∧ 8 * w < harqBase + 131072 * 32)

/-- The effects of reading n bytes of scratchpad or HBM on the error state, and the first uncorrectable word met
(06 R199 to R202, 09 R307 classes 0x01, 0x06). -/
def checkRead (s : State) (a n : Nat) : State × Option Nat :=
  if s.ecc.single.isEmpty && s.ecc.bad.isEmpty then (s, none)
  else
    let ws := (wordsOf a n).filter (fun w => !tableWord w)
    let s := forEach (ws.filter (fun w => s.ecc.single.contains w)) s (fun w s =>
      match spOf (8 * w) with
      | some (t, off) => noteSingle s t off
      | none => countError s 0x06)
    let bads := ws.filter (fun w => s.ecc.bad.contains w)
    let s := forEach bads s (fun w s =>
      match spOf (8 * w) with
      | some (t, off) => noteBad s t off
      | none => s)
    (s, bads.head?)

/-- The record of an uncorrectable read: class 0x02 for a scratchpad, 0x07 for HBM (cause 5). -/
def ueRec (w t c : Nat) : ErrRec :=
  match spOf (8 * w) with
  | some (t', off) => { faultRec 5 t' c off with detail := off / 8 % 8, tile := t' }
  | none => { faultRec 5 t c (8 * w) with cls := 0x07, source := (8 * w) / hbmStackBytes, tile := t, detail := w % 8 }

/-- Read a range for a unit of tile t on behalf of context c: an uncorrectable word faults the context (06 R200). -/
def readFor (s : State) (t c a n : Nat) (f : State → TRes) : TRes :=
  match checkRead s a n with
  | (s, none) => f s
  | (s, some w) => .fault s (ueRec w t c)

/-- Run an access to several ranges of a tile's own scratchpad. -/
def withSpans (s : State) (t c : Nat) (l : List (Nat × Nat)) (f : State → TRes) : TRes :=
  let r := l.map (fun x => spAccess s t x.1 x.2)
  if r.all (fun a => decide (a = .ready)) then f s
  else if r.any (fun a => decide (a = .asleep)) then
    addrFault s t c (((l.filter (fun x => decide (spAccess s t x.1 x.2 = .asleep))).map (·.1)).headD 0)
  else if r.any (fun a => decide (a = .waking)) then .wait (incR s (Reg.TILE_SP_WAKE_STALL t) 1)
  else .wait (forEach l s (fun x s => wantScrub s (spBase t + x.1) x.2))

/-- Run a write to several ranges of a tile's own scratchpad. -/
def withSpansW (s : State) (t c : Nat) (l : List (Nat × Nat)) (f : State → TRes) : TRes :=
  if l.any (fun x => negHeld s t (some c) x.1 x.2) then .wait s else withSpans s t c l f

/-- Read several ranges of a tile's own scratchpad for its context, in order (06 R199, R200). -/
def readSpans (s : State) (t c : Nat) (l : List (Nat × Nat)) (f : State → TRes) : TRes :=
  if s.ecc.single.isEmpty && s.ecc.bad.isEmpty then f s
  else
    match l.foldl (fun (r : State × Option Nat) x =>
        let y := checkRead r.1 (spBase t + x.1) x.2
        (y.1, r.2.or y.2)) (s, none) with
    | (s, none) => f s
    | (s, some w) => .fault s (ueRec w t c)

/-! ### Elements (03 R88) -/

/-- The code of element i of a tensor at a physical base (INT4 packs two to a byte). -/
def elemAt (s : State) (f : Fmt) (base i : Nat) : Nat :=
  match f with
  | .int4 => nbits (getByte s (base + i / 2)).toNat (4 * (i % 2) + 3) (4 * (i % 2))
  | f => getLe s (base + i * (f.width / 8)) (f.width / 8)

/-- Store the code of element i of a tensor. -/
def putElem (s : State) (f : Fmt) (base i code : Nat) : State :=
  match f with
  | .int4 =>
    let a := base + i / 2
    setBytes s a [setField (getByte s a) (4 * (i % 2) + 3) (4 * (i % 2)) code]
  | f => setLe s (base + i * (f.width / 8)) (f.width / 8) code

/-- The bytes that n elements of a format occupy from their base on. -/
def elemBytes (f : Fmt) (n : Nat) : Nat := (n * f.width + 7) / 8

/-! ### The scoreboard (06 R208 to R210) -/

/-- Rows lo to hi − 1 that bytes off to off + n − 1 touch. -/
def rowSpan (off n : Nat) : Nat × Nat := (off / 64, (off + n + 63) / 64)

/-- Whether an older entry of another unit overlaps and at least one of the two writes (06 R209). -/
def sbBlocks (sb : List SbEntry) (e : SbEntry) : Bool :=
  sb.any (fun o => decide (o.pos < e.pos) && decide (o.unit ≠ e.unit) && decide (o.lo < e.hi) && decide (e.lo < o.hi)
    && (o.wr || e.wr))

/-- Enter a range in the scoreboard. -/
def sbEnter (x : Tile) (e : SbEntry) : Tile :=
  let sb := x.sb ++ [e]
  { x with sb := sb, sbHigh := max x.sbHigh sb.length }

/-- Release the entry of a program-order position. -/
def sbRelease (x : Tile) (pos : Nat) : Tile := { x with sb := x.sb.filter (fun e => decide (e.pos ≠ pos)) }

/-! ### Translation (07 R247 to R253) -/

/-- Whether a context's running exposure is speculative. -/
def ctxSpec (s : State) (c : Nat) : Bool := ((getC s c).inst.map (·.spec)).getD false

/-- What a translated access reaches. -/
inductive Target where
  | phys (a : Nat)
  | dropped               -- a discarded shadow: writes dropped, reads zero (07 R253)
  | fault
  | exhausted             -- no shadow page is free (02 R72)
  | waiting               -- the next shadow page is still being scrubbed (07 Table 07.8)
  deriving DecidableEq, Repr

/-- The level-2 entry of a virtual address, by the two-level walk in HBM (07 R248); 0 where the walk meets an invalid
level-1 entry. -/
def walk (s : State) (root va : Nat) : Nat :=
  let l1 := getLe s (root + 8 * nbits va 47 34) 8
  if nbits l1 63 63 = 1 then getLe s (nbits l1 31 0 * 0x10000 + 8 * nbits va 33 21) 8 else 0

/-- Take a clean shadow page for a pair (07 R253, R258): it arrives zeroed. A request that finds only pages to be scrubbed
waits (Table 07.8); one beyond the declaration's shadow_max, or that finds no page, is refused (02 R72). -/
def takeShadow (s : State) (c n : Nat) (p : PagePair) : Target × State :=
  let held := (s.pairs.filter (fun kv => decide (kv.2.holder = some c) && kv.2.shadow.isSome)).length
  if ((declOf s c).map (·.shadowMax)).getD 0 ≤ held then (.exhausted, incR s Reg.MEM_ALLOC_EXH 1)
  else match s.alloc.clean with
    | pg :: rest =>
      (.phys pg, { s with alloc := { s.alloc with clean := rest }
                          pairs := mapPut s.pairs n { p with shadow := some pg, holder := some c } })
    | [] => if s.alloc.dirty.isEmpty then (.exhausted, incR s Reg.MEM_ALLOC_EXH 1) else (.waiting, s)

/-- The page that an access through a pair selects (07 R253). A pair that a flip has committed while its exposure runs keeps
its holder and has no shadow: writes go on into the primary (02 R69). -/
def pairPage (s : State) (c n : Nat) : Target × State :=
  match mapFind s.pairs n with
  | none => (.fault, s)
  | some p =>
    if !ctxSpec s c then (.phys p.primary, s)
    else if p.discarded then (.dropped, s)
    else match p.shadow with
      | some pg => (.phys pg, s)
      | none => if p.holder = some c then (.phys p.primary, s) else takeShadow s c n p

/-- Translate through a level-2 entry (07 R249). -/
def applyPte (s : State) (c pte va : Nat) (write : Bool) : Target × State :=
  if nbits pte 63 63 = 0 then (.fault, s)
  else if (if write then nbits pte 58 58 else nbits pte 59 59) = 0 then (.fault, s)
  else
    match nbits pte 62 60 with
    | 1 => (.phys (nbits pte 26 0 * 0x200000 + nbits va 20 0), s)
    | 2 =>
      let b := nbits va 20 16
      if 24 ≤ b then (.fault, s)
      else if nbits pte (32 + b) (32 + b) = 0 then (.fault, s)
      else (.phys (spBase (nbits pte 7 0) + nbits va 20 0), s)
    | 3 =>
      let a := nbits pte 26 0 * 0x200000 + nbits va 20 0
      if write && decide (mirrorBase ≤ a) then (.fault, s) else (.phys a, s)
    | 4 =>
      match pairPage s c (nbits pte 15 0 + nbits va 20 16) with
      | (.phys pg, s) => (.phys (pg + nbits va 15 0), s)
      | r => r
    | _ => (.fault, s)

/-- Look a page up in a tile's translation cache, loading it on a miss (07 R251): most recently used first, the least
recently used entry that is not pinned giving way. -/
def tlbLookup (s : State) (t c root va : Nat) : Nat × State :=
  let x := getT s t
  let vpn := va / 0x200000
  match x.tlb.find? (fun e => decide (e.ctx = c) && decide (e.vpn = vpn)) with
  | some e => (e.pte, setT s t { x with tlb := e :: x.tlb.filter (fun o => !(decide (o.ctx = c) && decide (o.vpn = vpn))) })
  | none =>
    let pte := walk s root va
    let e : TlbEntry := { ctx := c, vpn := vpn, pte := pte, pinned := false }
    let pinned := x.tlb.filter (·.pinned)
    let loose := (x.tlb.filter (fun o => !o.pinned)).take (63 - pinned.length)
    (pte, incR (setT s t { x with tlb := e :: (x.tlb.filter (fun o => o.pinned || loose.contains o)) }) (Reg.TILE_TLB_MISS t) 1)

/-- Translate a virtual address for tile t and context c (07 R249, R251). -/
def translate (s : State) (t c va : Nat) (write : Bool) : Target × State :=
  match declOf s c with
  | none => (.fault, s)
  | some d =>
    let va := va % 2 ^ 48
    let r := tlbLookup s t c d.ptRoot va
    applyPte r.2 c r.1 va write

/-! ### Areas of a context's virtual space that the device itself uses (08 R289, 09 R321) -/

/-- Cut n bytes from an address into pieces that lie within 64 KiB: start and length. -/
def pieces (a n : Nat) : List (Nat × Nat) :=
  if n = 0 then []
  else (List.range ((a + n - 1) / 65536 - a / 65536 + 1)).map (fun i =>
    let lo := max a ((a / 65536 + i) * 65536)
    (lo, min (a + n) ((a / 65536 + i + 1) * 65536) - lo))

/-- The HBM address that a context's tables give a virtual address, through a direct page (07 R249). -/
def areaAt (s : State) (c va : Nat) : Option Nat :=
  (declOf s c).bind (fun d =>
    let pte := walk s d.ptRoot va
    if nbits pte 63 63 = 1 ∧ nbits pte 62 60 = 1 then some (nbits pte 26 0 * 0x200000 + va % 0x200000) else none)

/-- Whether every page of n bytes from va on is mapped so. -/
def areaMapped (s : State) (c va n : Nat) : Bool := (pieces va n).all (fun p => (areaAt s c p.1).isSome)

/-- Store bytes at a virtual address of such an area. -/
def areaPut (s : State) (c va : Nat) (bs : List Byte) : State :=
  forEach (pieces va bs.length) s (fun p s => match areaAt s c p.1 with
    | some a => setBytes s a ((bs.drop (p.1 - va)).take p.2)
    | none => s)

/-- n bytes at a virtual address of such an area. -/
def areaGet (s : State) (c va n : Nat) : List Byte :=
  (pieces va n).flatMap (fun p => match areaAt s c p.1 with
    | some a => getBytes s a p.2
    | none => List.replicate p.2 0#8)

end Sys2Proof.Machine
end

