-- ==== Sys2Proof/Machine/Fixer.lean ====
section
/-!
DEFINITION. Fixer.lean: the conversion and quantisation unit (03 R112 to R122).
-/
namespace Sys2Proof.Machine

open Sys2Proof

/-- A Fixer command's fields (03 Table 03.6). -/
structure FixCmd where
  clipThr : Nat
  srcOff : Nat
  dstOff : Nat
  base : Nat
  count : Nat       -- channels
  elems : Nat       -- elements per channel
  src : Option Fmt
  dst : Option Fmt
  scaleSrc : Nat
  pow2 : Bool
  axis1 : Bool
  fromFbq : Bool
  entries : Nat
  countEn : Bool
  deriving DecidableEq, Repr

def FixCmd.of (w : Word128) : FixCmd :=
  { clipThr := fieldOf w 127 96, srcOff := fieldOf w 95 80, dstOff := fieldOf w 79 64, base := fieldOf w 55 48,
    count := fieldOf w 47 40 + 1, elems := fieldOf w 39 28 + 1, src := Fmt.ofCode (fieldOf w 27 24),
    dst := Fmt.ofCode (fieldOf w 23 20), scaleSrc := fieldOf w 19 18, pow2 := bitOf w 17, axis1 := bitOf w 16,
    fromFbq := bitOf w 15, entries := fieldOf w 14 12 + 1, countEn := bitOf w 11 }

/-- The formats a Fixer source may have (03 Table 03.6, R113). -/
def fixSrcOk (fbq : Bool) : Fmt → Bool
  | .int32 => true | .fp32 => true | .cf32 => true | .bf16 => !fbq | .fp16 => !fbq | _ => false

/-- The formats a Fixer destination may have: any code but 8 and 9. -/
def fixDstOk : Fmt → Bool
  | .cf32 => false | .int32 => false | _ => true

/-- qmax as a numerator and a denominator (03 Table 03.7); a Q15 target's is 32,767 units of 2^-15 (DEDUCED, log 10). -/
def qmaxOf : Fmt → Option (Nat × Nat)
  | .int4 => some (7, 1) | .int8 => some (127, 1) | .e4m3 => some (448, 1) | .e5m2 => some (57344, 1)
  | .cx16 => some (248, 1) | .q15 => some (32767, 32768) | _ => none

/-- The blocks of a queue source: a CF32 block takes two entries (03 R113). -/
def FixCmd.blocks (f : FixCmd) : Nat := if f.src = some .cf32 then f.entries / 2 else f.entries

/-- The checks of R112 and R113 that need no queue position. The reserved scale_src 3 is one of them (DESIGN CHOICE, log 89). -/
def FixCmd.legal (f : FixCmd) : Bool :=
  match f.src, f.dst with
  | some src, some dst =>
    decide (f.base + f.count ≤ 256) && fixSrcOk f.fromFbq src && fixDstOk dst && (src.isComplex == dst.isComplex)
      && decide (f.scaleSrc ≠ 3) && !(decide (f.scaleSrc = 0) && (qmaxOf dst).isNone)
      && (if f.fromFbq then
            decide (f.count = 64) && (decide (src ≠ .cf32) || decide (f.entries % 2 = 0)) && decide (f.elems = 64 * f.blocks)
          else decide (f.srcOff * 64 + elemBytes src (f.count * f.elems) ≤ spBytes))
      && decide (f.dstOff * 64 + elemBytes dst (f.count * f.elems) ≤ spBytes)
  | _, _ => false

/-- One source element: its parts (a real element has a zero second part) and its wrap bit. -/
structure FixElem where
  re : XVal
  im : XVal
  wrap : Bool
  deriving DecidableEq, Repr

/-- The place of element j of channel i for an axis (03 Table 03.6). -/
def fixIndex (f : FixCmd) (axis1 : Bool) (i j : Nat) : Nat := if axis1 then j * f.count + i else i * f.elems + j

/-- Element j of channel i of the source (03 R113: a queue source reads row j of column i, block after block). -/
def fixElem (s : State) (t : Nat) (f : FixCmd) (i j : Nat) : FixElem :=
  let src := f.src.getD .fp32
  if f.fromFbq then
    let q := (getT s t).enl.fbq
    let k := 64 * (j % 64) + i
    if src = .cf32 then
      let a := q[2 * (j / 64)]?
      let b := q[2 * (j / 64) + 1]?
      ⟨fmtFP32.decode (mapGet 0#32 ((a.map (·.data)).getD []) k).toNat,
       fmtFP32.decode (mapGet 0#32 ((b.map (·.data)).getD []) k).toNat, false⟩
    else
      let a := q[j / 64]?
      ⟨src.decodeReal (mapGet 0#32 ((a.map (·.data)).getD []) k).toNat, XVal.zero,
       mapGet false ((a.map (·.wrap)).getD []) k⟩
  else
    let code := elemAt s src (spBase t + f.srcOff * 64) (fixIndex f f.axis1 i j)
    if src.isComplex then let p := src.decodeComplex code; ⟨p.1, p.2, false⟩ else ⟨src.decodeReal code, XVal.zero, false⟩

/-- The magnitude of a source part as the partial maxima hold it (03 R114): an INT32 part's as a number, any other's as its
FP32 code, which every source format's value has; 0 for a NaN or an infinity. -/
def magCode (src : Fmt) : XVal → Nat
  | .fin _ n d => if src = .int32 then n / d else fmtFP32.roundMag n d
  | _ => 0

/-- The magnitude that a partial maximum stands for. -/
def magOf (src : Fmt) (m : Nat) : Nat × Nat :=
  if src = .int32 then (m, 1) else match fmtFP32.decode m with
    | .fin _ n d => (n, d)
    | _ => (0, 1)

/-- The flags a source part sets (03 Table 03.11: nan_in, inf_in). -/
def partFlags (s : State) (t : Nat) : XVal → State
  | .nan => flag s (Reg.TILE_FIX_FLAGS t) 2
  | .inf _ => flag s (Reg.TILE_FIX_FLAGS t) 3
  | .fin _ _ _ => s

/-- The scale that pass one writes for a channel (03 R115): its FP32 code and whether the channel was zero. A ratio beyond FP32's
range saturates (03 R100; DEDUCED, log 10); a power of two beyond it is a free value (DESIGN CHOICE, log 111). -/
def fixScale (f : FixCmd) (m : Nat × Nat) : Nat × Bool :=
  if m.1 = 0 then (0x3F800000, true)
  else
    let q := (qmaxOf (f.dst.getD .int8)).getD (1, 1)
    let c := min (fmtFP32.roundMag (m.1 * q.2) (m.2 * q.1)) 0x7F7FFFFF
    let c := if f.pow2 && decide (c % 0x800000 ≠ 0) then
        (if c < 0x7F000000 then (c / 0x800000 + 1) * 0x800000 else Config.scaleBeyond m.1 m.2 % 2 ^ 32) else c
    (max c 0x00800000, false)

/-! ### Groups (03 R119) -/

/-- The elements of a command. -/
def FixCmd.total (f : FixCmd) : Nat := f.count * f.elems

/-- The elements of a 64-value group: a complex element counts as two values. -/
def FixCmd.perGroup (f : FixCmd) : Nat := if f.src = some .cf32 then 32 else 64

/-- The groups of one pass. -/
def FixCmd.groups (f : FixCmd) : Nat := (f.total + f.perGroup - 1) / f.perGroup

/-- The channel and the place in it of element e in the order in which the source stores them. -/
def FixCmd.place (f : FixCmd) (e : Nat) : Nat × Nat :=
  if f.axis1 || f.fromFbq then (e % f.count, e / f.count) else (e / f.elems, e % f.elems)

/-- The elements of group g, in order. -/
def FixCmd.group (f : FixCmd) (g : Nat) : List (Nat × Nat) :=
  ((List.range (min f.perGroup (f.total - g * f.perGroup))).map (fun k => f.place (g * f.perGroup + k)))

/-- The scratchpad bytes that group g reads: offset and length. -/
def FixCmd.groupSrc (f : FixCmd) (g : Nat) : Nat × Nat :=
  if f.fromFbq then (0, 0)
  else
    let w := (f.src.getD .fp32).width / 8
    (f.srcOff * 64 + g * f.perGroup * w, min f.perGroup (f.total - g * f.perGroup) * w)

/-- Pass one over a group: the partial maxima, and the flags (03 R114). A complex element with one NaN or infinite part still
counts its other part (DESIGN CHOICE, log 89). -/
def fixPassOne (s : State) (t : Nat) (f : FixCmd) (j : FixJob) : State :=
  let src := f.src.getD .fp32
  let es := (f.group j.group).map (fun p => (p.1, fixElem s t f p.1 p.2))
  let s := forEach es s (fun e s => partFlags (partFlags s t e.2.re) t e.2.im)
  let maxima := es.foldl (fun m e =>
    let k := f.base + e.1
    let v := max (mapGet 0#32 m k).toNat (max (magCode src e.2.re) (magCode src e.2.im))
    mapSet 0#32 m k (BitVec.ofNat 32 v)) j.maxima
  modT s t (fun x => { x with fix := some { j with group := j.group + 1, maxima := maxima } })

/-- The end of pass one: each channel's scale is written (03 R115), and the converting pass begins. -/
def fixScales (s : State) (t : Nat) (f : FixCmd) (j : FixJob) : State :=
  let s := forEach (List.range f.count) s (fun i s =>
    let r := fixScale f (magOf (f.src.getD .fp32) (mapGet 0#32 j.maxima (f.base + i)).toNat)
    flagIf (setR s (Reg.TILE_FIX_SCALE t (f.base + i)) (BitVec.ofNat 32 r.1)) r.2 (Reg.TILE_FIX_FLAGS t) 6)
  modT s t (fun x => { x with fix := some { j with converting := true, group := 0, maxima := [] } })

/-- The scale a channel converts with, and whether a bad held scale was replaced by 1.0 (03 R116). -/
def fixUseScale (s : State) (t : Nat) (f : FixCmd) (i : Nat) : XVal × Bool :=
  let one : XVal := .fin false 1 1
  if f.scaleSrc = 2 then (one, false)
  else
    let c := getN s (Reg.TILE_FIX_SCALE t (f.base + i))
    if f.scaleSrc = 1 then
      if 0x00800000 ≤ c ∧ c ≤ 0x7F7FFFFF then (fmtFP32.decode c, false) else (one, true)
    else (fmtFP32.decode c, false)

/-- The exact quotient of a part, or the special value itself (03 R116). -/
def quot (x scale : XVal) : XVal :=
  match x, scale with
  | .fin s n d, .fin _ m e => .fin s (n * e) (d * m)
  | x, _ => x

/-- The clip threshold, when finite, positive and below qmax (03 R117); for a Q15 target in units of 2^-15. -/
def fixThr (f : FixCmd) : Option (Nat × Nat) :=
  match fmtFP32.decode f.clipThr with
  | .fin false n d =>
    if n = 0 then none
    else
      let thr := if f.dst = some .q15 then (n, d * 32768) else (n, d)
      match (f.dst.bind qmaxOf) with
      | some q => if magLt thr.1 thr.2 q.1 q.2 then some thr else none
      | none => some thr
  | _ => none

/-- A quotient whose magnitude exceeds the threshold is replaced by it (03 R117). An infinite quotient is left to Table 03.4
(DESIGN CHOICE, log 89). -/
def clipTo (thr : Option (Nat × Nat)) : XVal → XVal × Bool
  | .fin s n d =>
    match thr with
    | some (m, e) => if magLt m e n d then (.fin s m e, true) else (.fin s n d, false)
    | none => (.fin s n d, false)
  | x => (x, false)

/-- One element converted (03 R116, R117): its code and whether it counts as clipped (once, R103). -/
def fixConvert (f : FixCmd) (ieee : Bool) (scale : XVal) (e : FixElem) : Nat × Bool :=
  let dst := f.dst.getD .int8
  let a := clipTo (fixThr f) (quot e.re scale)
  if dst.isComplex then
    let b := clipTo (fixThr f) (quot e.im scale)
    let c := dst.encodeComplex (a.1, b.1)
    (c.code, a.2 || b.2 || c.clipped)
  else
    let c := if ieee && decide (dst = .e5m2) then fmtE5M2.encode .ieeeClip a.1 else dst.encodeReal a.1
    (c.code, a.2 || c.clipped)

/-- A Fixer counter: at 0xFFFF_FFFF it stays there and sets ctr_sat (03 R118). -/
def fixCount (s : State) (t a : Nat) : State :=
  let s := incR s a 1
  flagIf s (decide (getN s a = 0xFFFFFFFF)) (Reg.TILE_FIX_FLAGS t) 5

/-- Convert and store one element, with its counters and flags (03 R116 to R118). -/
def fixStore (s : State) (t : Nat) (f : FixCmd) (scale : XVal) (i j : Nat) (e : FixElem) : State :=
  let ch := f.base + i
  let r := fixConvert f (getB s (Reg.TILE_FIX_OVF t (ch / 32)) (ch % 32)) scale e
  let s := partFlags (partFlags s t e.re) t e.im
  let s := if e.wrap then flag (fixCount s t (Reg.TILE_FIX_WRAP_CNT t)) (Reg.TILE_FIX_FLAGS t) 4 else s
  let s := flagIf s r.2 (Reg.TILE_FIX_FLAGS t) 1
  let s := if f.countEn then fixCount s t (Reg.TILE_FIX_TOTAL t ch) else s
  let s := if f.countEn && r.2 then fixCount s t (Reg.TILE_FIX_CLIP t ch) else s
  putElem s (f.dst.getD .int8) (spBase t + f.dstOff * 64) (fixIndex f f.axis1 i j) r.1

/-- The converting pass over a group (03 R116 to R118): each channel's scale is read for the group (R121), and the group is
read before it is written. -/
def fixPassTwo (s : State) (t : Nat) (f : FixCmd) (j : FixJob) : State :=
  let es := (f.group j.group).map (fun p => (p, fixElem s t f p.1 p.2))
  let s := forEach es s (fun e s =>
    let sc := fixUseScale s t f e.1.1
    fixStore (flagIf s sc.2 (Reg.TILE_FIX_FLAGS t) 7) t f sc.1 e.1.1 e.1.2 e.2)
  modT s t (fun x => { x with fix := some { j with group := j.group + 1 } })

/-- Entries of the queue that are finished. -/
def fbqFinished (x : Tile) : Nat := (x.enl.fbq.filter (·.finished)).length

/-- The entries a queued or issuing pass will still allocate (05 R178). -/
def passBlocks (cmd : Word128) : Nat :=
  let vecs := fieldOf cmd 111 100 + 1
  let per := if fieldOf cmd 51 48 = 7 then 2 else 1
  if fieldOf cmd 55 54 = 1 then per else ((vecs + 63) / 64) * per

def chainContinues (cmd : Word128) : Bool := decide (2 ≤ fieldOf cmd 53 52)

/-- Entries already allocated by the issuing pass. -/
def passAllocated (p : PassProg) : Nat :=
  let per := if fieldOf p.cmd 51 48 = 7 then 2 else 1
  if fieldOf p.cmd 55 54 = 1 then (if p.next = 0 then 0 else per) else ((p.next + 63) / 64) * per

/-- Queue positions that an instruction may name: allocated entries and those that passes in issue or in the command
queue will allocate (05 R178, 03 R113). -/
def fbqPositions (x : Tile) : Nat :=
  x.enl.fbq.length
    + ((x.enl.pass.map (fun p => if chainContinues p.cmd then 0 else passBlocks p.cmd - passAllocated p)).getD 0)
    + (x.enl.queue.map (fun c => if fieldOf c.2 63 56 = 0xE2 && !chainContinues c.2 then passBlocks c.2 else 0)).sum

/-- Release the n oldest entries of the queue (03 R113, 05 R179). -/
def fbqDrop (x : Tile) (n : Nat) : Tile :=
  { x with enl := { x.enl with fbq := x.enl.fbq.drop n, fbqHead := (x.enl.fbqHead + min n x.enl.fbq.length) % 8 } }

/-- The scoreboard ranges of a command: source read, destination written, one entry spanning both (06 R208). -/
def fixRange (f : FixCmd) (pos : Nat) : SbEntry :=
  let d := rowSpan (f.dstOff * 64) (elemBytes (f.dst.getD .int8) (f.count * f.elems))
  let r := rowSpan (f.srcOff * 64) (elemBytes (f.src.getD .fp32) (f.count * f.elems))
  if f.fromFbq then { pos := pos, unit := .fixer, lo := d.1, hi := d.2, rd := false, wr := true }
  else { pos := pos, unit := .fixer, lo := min d.1 r.1, hi := max d.2 r.2, rd := true, wr := true }

/-- The next group of a command that runs: of pass one, whose end writes the scales, or of the converting pass. A group whose
scratchpad is not ready waits (06 R206, 08 R293). -/
def fixGroup (s : State) (t c : Nat) (j : FixJob) : TRes :=
  let f := FixCmd.of j.cmd
  let r := f.groupSrc j.group
  if j.waiting || decide (f.groups ≤ j.group) then .ok s
  else if j.converting then
    withSp s t c r.1 r.2 fun s =>
    withSpW s t c (f.dstOff * 64) (elemBytes (f.dst.getD .int8) f.total) fun s =>
    readFor s t c (spBase t + r.1) r.2 fun s => .ok (fixPassTwo s t f j)
  else
    withSp s t c r.1 r.2 fun s =>
    readFor s t c (spBase t + r.1) r.2 fun s =>
      let s := fixPassOne s t f j
      .ok (match (getT s t).fix with
        | some j => if f.groups ≤ j.group then fixScales s t f j else s
        | none => s)

/-- The next n groups of a tile's command. -/
def fixGroups : Nat → State → Nat → Nat → TRes
  | 0, s, _, _ => .ok s
  | n + 1, s, t, c =>
    match (getT s t).fix with
    | some j => (fixGroup s t c j).andThen (fun s => fixGroups n s t c)
    | none => .ok s

/-- Whether a command has converted its last group. -/
def fixDone (j : FixJob) : Bool := !j.waiting && j.converting && decide ((FixCmd.of j.cmd).groups ≤ j.group)

/-- Dispatch a command: the checks of R112 and R113, then its first group is next, or it waits for unfinished entries (03 R113). -/
def fixDispatch (s : State) (t c pos : Nat) (w : Word128) : TRes :=
  let f := FixCmd.of w
  let x := getT s t
  if !f.legal then illegal s t c
  else if f.fromFbq && decide (fbqPositions x < f.entries) then illegal s t c
  else
    .ok (setT s t { x with fix := some { pos := pos, cmd := w, waiting := f.fromFbq && decide (fbqFinished x < f.entries),
                                         converting := decide (f.scaleSrc ≠ 0), group := 0, acc := 0, maxima := [] } })

/-- A command completes: its entries are released, done is set, its scoreboard entry goes (03 R113, R119). -/
def fixComplete (s : State) (t : Nat) (j : FixJob) : State :=
  let f := FixCmd.of j.cmd
  let s := modT s t (fun x =>
    let x := sbRelease { x with fix := none } j.pos
    if f.fromFbq then fbqDrop x f.entries else x)
  flag s (Reg.TILE_FIX_FLAGS t) 0

/-- TILE_FIX_STATUS (03 Table 03.10): busy, the pass, and the channel and place of the first value of the group in progress. -/
def fixStatus (j : FixJob) : Nat :=
  let f := FixCmd.of j.cmd
  let p := f.place (min j.group (f.groups - 1) * f.perGroup)
  if j.waiting then 0x80000000
  else 0x80000000 + (if j.converting then 0x40000000 else 0) + (f.base + p.1) * 0x10000 + p.2 * (64 / f.perGroup) / 64

end Sys2Proof.Machine
end

