-- ==== Sys2Proof/Machine/Enlarger.lean ====
section
/-!
DEFINITION. Enlarger.lean: the matrix array (04): banks, passes, the finished-block queue, and current management.
-/
namespace Sys2Proof.Machine

open Sys2Proof

/-! ### Operand classes (04 Table 04.1, 03 Table 03.5) -/

inductive EnlClass where
  | int | fp8 | bf16 | fp16 | cx16
  deriving DecidableEq, Repr

/-- The class of a pair of format codes; any other pairing is illegal (R124). -/
def EnlClass.of (a b : Nat) : Option EnlClass :=
  if a ≤ 1 ∧ b ≤ 1 then some .int
  else if (a = 2 ∨ a = 3) ∧ (b = 2 ∨ b = 3) then some .fp8
  else if a = 4 ∧ b = 4 then some .bf16
  else if a = 5 ∧ b = 5 then some .fp16
  else if a = 7 ∧ b = 7 then some .cx16
  else none

/-- One accumulator element: an INT32 or FP32 word, or the two parts of a CF32, and the sticky wrap bit. -/
structure AccElem where
  re : Word
  im : Word
  wrap : Bool
  deriving DecidableEq, Repr

def AccElem.zero : AccElem := ⟨0#32, 0#32, false⟩

/-- One addition into an accumulator element of the product of two operand codes (03 R107 to R110). -/
def macStep (k : EnlClass) (fa fb : Fmt) (acc : AccElem) (a b : Nat) : AccElem :=
  match k with
  | .int =>
    let t := acc.re.toInt + signed fa.width a * signed fb.width b
    { acc with re := BitVec.ofInt 32 t, wrap := acc.wrap || decide (t < -2147483648) || decide (2147483647 < t) }
  | .cx16 =>
    let x := cxDecode a
    let y := cxDecode b
    let re := (x.1.mul y.1).add (x.2.mul y.2).neg
    let im := (x.1.mul y.2).add (x.2.mul y.1)
    { acc with re := f32Of ((f32Val acc.re).add re), im := f32Of ((f32Val acc.im).add im) }
  | _ => { acc with re := f32Of ((f32Val acc.re).add ((fa.decodeReal a).mul (fb.decodeReal b))) }

/-- A reduction over K rows in increasing order of the index (03 R108); rows at or beyond K are skipped. -/
def macRow (k : EnlClass) (fa fb : Fmt) (start : AccElem) (n : Nat) (a b : Nat → Nat) : AccElem :=
  (List.range n).foldl (fun acc i => macStep k fa fb acc (a i) (b i)) start

/-! ### Commands (04 Tables 04.4, 04.5) -/

structure LoadsCmd where
  src : Nat
  stride : Nat
  fmt : Nat
  rows : Nat
  cols : Nat
  deriving DecidableEq, Repr

def LoadsCmd.of (w : Word128) : LoadsCmd :=
  { src := fieldOf w 127 112, stride := fieldOf w 111 96, fmt := fieldOf w 55 52, rows := fieldOf w 51 46 + 1,
    cols := fieldOf w 45 40 + 1 }

/-- The last byte a LOADS reads, plus one (R135). -/
def LoadsCmd.bytes (l : LoadsCmd) : Nat :=
  (l.rows - 1) * l.stride * 64 + elemBytes ((Fmt.ofCode l.fmt).getD .int8) l.cols

/-- The ranges a LOADS reads, row by row. -/
def LoadsCmd.spans (l : LoadsCmd) : List (Nat × Nat) :=
  (List.range l.rows).map (fun r => ((l.src + r * l.stride) * 64, elemBytes ((Fmt.ofCode l.fmt).getD .int8) l.cols))

/-- The checks of R134 and R135. A row_stride of 0, which Table 04.4 does not list, reads one row again and again (DEDUCED, log 20). -/
def LoadsCmd.legal (l : LoadsCmd) : Bool :=
  (decide (l.fmt ≤ 5) || decide (l.fmt = 7)) && decide (l.src * 64 + l.bytes ≤ spBytes)

structure PassCmd where
  src : Nat
  count : Nat
  src2 : Nat
  stride : Nat
  stride2 : Nat
  flow : Nat
  chain : Nat
  aFmt : Nat
  bFmt : Nat
  k : Nat
  width : Nat
  tag : Nat
  deriving DecidableEq, Repr

def PassCmd.of (w : Word128) : PassCmd :=
  { src := fieldOf w 127 112, count := fieldOf w 111 100 + 1, src2 := fieldOf w 95 80, stride := fieldOf w 79 72,
    stride2 := fieldOf w 71 64, flow := fieldOf w 55 54, chain := fieldOf w 53 52, aFmt := fieldOf w 51 48,
    bFmt := fieldOf w 47 44, k := fieldOf w 43 38 + 1, width := fieldOf w 37 32 + 1, tag := fieldOf w 31 24 }

def PassCmd.cls (p : PassCmd) : Option EnlClass := EnlClass.of p.aFmt p.bFmt

/-- Entries per block: two in the CX16 class (R139). -/
def PassCmd.perBlock (p : PassCmd) : Nat := if p.cls = some .cx16 then 2 else 1

/-- Blocks a pass writes (R139). -/
def PassCmd.blocks (p : PassCmd) : Nat := if p.flow = 1 then 1 else (p.count + 63) / 64

/-- Bytes of one streamed vector: K elements, or 64 in flow 1. -/
def PassCmd.vecBytes (p : PassCmd) (fmt : Nat) : Nat :=
  elemBytes ((Fmt.ofCode fmt).getD .int8) (if p.flow = 1 then 64 else p.k)

/-- The extent of the first streamed read, from src_off × 64 on. -/
def PassCmd.bytesA (p : PassCmd) : Nat := (p.count - 1) * p.stride * 64 + p.vecBytes p.aFmt

/-- The extent of the second stream of flow 1. -/
def PassCmd.bytesB (p : PassCmd) : Nat := if p.flow = 1 then (p.count - 1) * p.stride2 * 64 + p.vecBytes p.bFmt else 0

/-- The ranges a pass streams, vector by vector. -/
def PassCmd.spans (p : PassCmd) : List (Nat × Nat) :=
  (List.range p.count).map (fun v => ((p.src + v * p.stride) * 64, p.vecBytes p.aFmt))
    ++ (if p.flow = 1 then (List.range p.count).map (fun v => ((p.src2 + v * p.stride2) * 64, p.vecBytes p.bFmt)) else [])

def activeBank (e : Enlarger) : EnlBank := if e.active1 then e.bank1 else e.bank0

/-- The checks of R124, R136 and R137 at dispatch. -/
def PassCmd.legal (p : PassCmd) (e : Enlarger) : Bool :=
  p.cls.isSome && decide (p.flow ≠ 3)
    && (decide (p.flow = 1) || decide (p.bFmt = (activeBank e).fmt))
    && (decide (p.flow ≠ 1) || (decide (p.count ≤ 64) && decide (p.k = p.count) && decide (p.width = 64)))
    && decide (p.src * 64 + p.bytesA ≤ spBytes)
    && (decide (p.flow ≠ 1) || decide (p.src2 * 64 + p.bytesB ≤ spBytes))
    && (match e.chain with
        | none => decide (p.chain ≤ 1) && (decide (p.chain = 0) || decide (p.blocks * p.perBlock ≤ 8))
        | some ch =>
          let f := PassCmd.of ch.first
          decide (2 ≤ p.chain) && decide (f.flow = p.flow) && decide (f.cls = p.cls) && decide (f.count = p.count)
            && decide (f.width = p.width))

/-! ### Register views -/

def EnlPhase.code : EnlPhase → Nat
  | .idle => 0 | .rampUp => 2 | .issuing => 3 | .gap => 4 | .rampDown => 5

/-- A change of the Enlarger of a tile. -/
def modE (s : State) (t : Nat) (f : Enlarger → Enlarger) : State := modT s t (fun x => { x with enl := f x.enl })

/-- Cycles of dummy activity (R147). -/
def countDummy (s : State) (t n : Nat) : State := incR s (Reg.TILE_ENL_DUMMY_CYC t) n

/-! ### Loading and swapping (R129 to R132) -/

/-- Whether a vector in flight names the bank a LOADS targets, the shadow bank: a pass whose outputs are not all written (R132). -/
def bankBusy (e : Enlarger) : Bool := e.tails.any (fun tl => decide (tl.bank = some (!e.active1)))

/-- Change the shadow bank. -/
def modShadow (e : Enlarger) (f : EnlBank → EnlBank) : Enlarger :=
  if e.active1 then { e with bank0 := f e.bank0 } else { e with bank1 := f e.bank1 }

/-- ENL.LOADS dispatched: the load starts at row 0, and shadow_loaded clears until it completes (R130, R132). Bank rows and
elements that it does not write read as zero. -/
def loadsDispatch (s : State) (t c pos : Nat) (w : Word128) : TRes :=
  let l := LoadsCmd.of w
  if !l.legal then illegal s t c
  else
    let busy := bankBusy (getT s t).enl
    let s := modE s t (fun e =>
      { modShadow e (fun _ => { fmt := l.fmt, elems := [] }) with loading := some { pos := pos, cmd := w, row := 0, acc := 0 }, shadowLoaded := false })
    .ok (if busy then flag (incR s (Reg.TILE_ENL_BANK_WAIT t) 1) (Reg.TILE_ENL_FLAGS t) 3 else s)

/-- Write the next row of a load into the shadow bank (R130, R135). -/
def loadRow (s : State) (t c : Nat) (p : LoadProg) : TRes :=
  let l := LoadsCmd.of p.cmd
  let f := (Fmt.ofCode l.fmt).getD .int8
  let off := (l.src + p.row * l.stride) * 64
  if l.rows ≤ p.row then .ok s
  else
    withSp s t c off (elemBytes f l.cols) fun s =>
    readFor s t c (spBase t + off) (elemBytes f l.cols) fun s =>
      .ok (modE s t (fun e =>
        { modShadow e (fun b => { b with elems := (List.range l.cols).foldl (fun m k =>
            mapSet 0#16 m (64 * p.row + k) (BitVec.ofNat 16 (elemAt s f (spBase t + off) k))) b.elems }) with
          loading := some { p with row := p.row + 1 } }))

/-- The next n rows of a tile's load. -/
def loadRows : Nat → State → Nat → Nat → TRes
  | 0, s, _, _ => .ok s
  | n + 1, s, t, c =>
    match (getT s t).enl.loading with
    | some p => (loadRow s t c p).andThen (fun s => loadRows n s t c)
    | none => .ok s

/-- ENL.SWAP in effect: the banks exchange roles, and shadow_loaded clears (R131, Table 04.9). -/
def swapDispatch (s : State) (t : Nat) : State :=
  modE s t (fun e => { e with active1 := !e.active1, shadowLoaded := false })

/-! ### Computing a pass -/

/-- The starting value of an element of a block: +0, or the open entry's value when a chain continues (R126, R142). -/
def startElem (e : Enlarger) (p : PassCmd) (block k : Nat) : AccElem :=
  if p.chain < 2 then .zero
  else
    let n := e.fbq.length - ((e.chain.map (·.entries)).getD 0)
    let i := n + block * p.perBlock
    let a := e.fbq[i]?
    let b := e.fbq[i + 1]?
    ⟨mapGet 0#32 ((a.map (·.data)).getD []) k,
     if p.perBlock = 2 then mapGet 0#32 ((b.map (·.data)).getD []) k else 0#32,
     mapGet false ((a.map (·.wrap)).getD []) k⟩

/-- The code of element i of streamed vector v. -/
def streamElem (s : State) (t off stride fmt v i : Nat) : Nat :=
  elemAt s ((Fmt.ofCode fmt).getD .int8) (spBase t + (off + v * stride) * 64) i

/-- Output elements of a block in flows 0 and 2, by place 64m + n: vectors block × 64 on (R125, R128). -/
def blockElems (s : State) (t : Nat) (p : PassCmd) (block : Nat) : List (Nat × AccElem) :=
  let e := (getT s t).enl
  let k := p.cls.getD .int
  let fa := (Fmt.ofCode p.aFmt).getD .int8
  let fb := (Fmt.ofCode p.bFmt).getD .int8
  let vecs := min 64 (p.count - 64 * block)
  (List.range vecs).flatMap (fun v => (List.range p.width).map (fun x =>
    let place := if p.flow = 0 then 64 * v + x else 64 * x + v
    (place, macRow k fa fb (startElem e p block place) p.k (fun i => streamElem s t p.src p.stride p.aFmt (64 * block + v) i)
      (fun i => (mapGet 0#16 (activeBank e).elems (64 * i + x)).toNat))))

/-- The flow 1 accumulators after a pass, by place 64m + n, from the value the chain left (R125, R142). -/
def flow1Elems (s : State) (t : Nat) (p : PassCmd) : List (Nat × AccElem) :=
  let e := (getT s t).enl
  let k := p.cls.getD .int
  let fa := (Fmt.ofCode p.aFmt).getD .int8
  let fb := (Fmt.ofCode p.bFmt).getD .int8
  (List.range 64).flatMap (fun m => (List.range 64).map (fun n =>
    let place := 64 * m + n
    let start : AccElem := if p.chain < 2 then .zero
      else ⟨mapGet 0#32 e.accRe place, mapGet 0#32 e.accIm place, mapGet false e.accWrap place⟩
    (place, macRow k fa fb start p.count (fun i => streamElem s t p.src p.stride p.aFmt i m)
      (fun i => streamElem s t p.src2 p.stride2 p.bFmt i n))))

/-- The entries of a block from its elements: one, or real and imaginary parts in two (R138). -/
def entriesOf (c : Nat) (p : PassCmd) (es : List (Nat × AccElem)) : List FbqEntry :=
  let re := es.foldl (fun m x => mapSet 0#32 m x.1 x.2.re) []
  let wr := es.foldl (fun m x => mapSet false m x.1 x.2.wrap) []
  let a : FbqEntry := { owner := c, tag := p.tag, data := re, wrap := wr, finished := false }
  if p.perBlock = 2 then
    [a, { a with data := es.foldl (fun m x => mapSet 0#32 m x.1 x.2.im) [], wrap := [] }]
  else [a]

/-- nan_out and inf_out for the outputs of a floating class (Table 04.10). -/
def outFlags (s : State) (t : Nat) (p : PassCmd) (es : List (Nat × AccElem)) : State :=
  if p.cls = some .int then s
  else
    let nan := es.any (fun x => f32IsNan x.2.re || f32IsNan x.2.im)
    let inf := es.any (fun x => (match f32Val x.2.re with | .inf _ => true | _ => false)
      || (match f32Val x.2.im with | .inf _ => true | _ => false))
    flagIf (flagIf s nan (Reg.TILE_ENL_FLAGS t) 2) inf (Reg.TILE_ENL_FLAGS t) 1

/-- The MACs a finished pass adds (R145). -/
def PassCmd.macs (p : PassCmd) : Nat := if p.flow = 1 then p.count * 64 * 64 else p.count * p.k * p.width

/-- pass_done and TILE_ENL_MAC (R145). -/
def passDone (s : State) (t macs : Nat) : State :=
  flag (incR64 s (Reg.TILE_ENL_MAC_LO t) (Reg.TILE_ENL_MAC_HI t) macs) (Reg.TILE_ENL_FLAGS t) 0

/-- Replace the entries of a chain's block in place (R139). -/
def replaceEntries (q : List FbqEntry) (i : Nat) (es : List FbqEntry) : List FbqEntry :=
  q.take i ++ es ++ q.drop (i + es.length)

/-- The first place of a chain's entries in the queue. -/
def chainAt (e : Enlarger) : Nat := e.fbq.length - ((e.chain.map (·.entries)).getD 0)

/-- Issue the flow 1 pass: its products go to the accumulators. A single or first pass allocates its entries, and a single or
last pass shifts the sums out to them (R139, R142, R145). -/
def issueFlow1 (s : State) (t c : Nat) (p : PassCmd) (w : Word128) : State :=
  let es := flow1Elems s t p
  let out := decide (p.chain = 0 ∨ p.chain = 3)
  let s := outFlags s t p (if out then es else [])
  let new := entriesOf c p (if out then es else [])
  modE s t (fun e => { e with
    fbq := if p.chain < 2 then e.fbq ++ new else if p.chain = 3 then replaceEntries e.fbq (chainAt e) new else e.fbq
    tails := e.tails ++ [{ entries := if out then p.perBlock else 0, ends := true, macs := p.macs, bank := none }]
    chain := if out then none else if p.chain = 1 then some ⟨w, p.perBlock⟩ else e.chain
    accRe := if out then [] else es.foldl (fun m x => mapSet 0#32 m x.1 x.2.re) []
    accIm := if out then [] else es.foldl (fun m x => mapSet 0#32 m x.1 x.2.im) []
    accWrap := if out then [] else es.foldl (fun m x => mapSet false m x.1 x.2.wrap) []
    pass := none })

/-- Issue one block of 64 vectors in flows 0 and 2: new entries for a single or first pass, the chain's entries
rewritten in place otherwise (R139, R142). A block that receives its last outputs, and the pass's last vectors, are in flight. -/
def issueBlock (s : State) (t c : Nat) (p : PassCmd) (pr : PassProg) : State :=
  let block := pr.next / 64
  let es := blockElems s t p block
  let s := outFlags s t p es
  let new := entriesOf c p es
  let out := decide (p.chain = 0 ∨ p.chain = 3)
  let done := decide (p.count ≤ 64 * (block + 1))
  modE s t (fun e => { e with
    fbq := if p.chain < 2 then e.fbq ++ new else replaceEntries e.fbq (chainAt e + block * p.perBlock) new
    tails := if out || done then
        e.tails ++ [{ entries := if out then p.perBlock else 0, ends := done, macs := if done then p.macs else 0, bank := some e.active1 }]
      else e.tails
    chain := if !done then e.chain else match p.chain with
      | 1 => some ⟨pr.cmd, p.blocks * p.perBlock⟩
      | 2 => e.chain
      | _ => none
    pass := if done then none else some { pr with next := 64 * (block + 1) } })

/-! ### Current management (R146 to R149) -/

/-- Begin a ramp toward level 64 (R148): one in progress goes on. -/
def startRamp (s : State) (t : Nat) : State :=
  modE s t (fun e =>
    if e.phase = .rampUp then e
    else if 4 ≤ e.level then { e with phase := if e.pass.isSome then .issuing else .gap, gapCycles := 0 }
    else { e with level := e.level + 1, phase := .rampUp })

/-- A gap begins at level 64 when no real vector issues (R147). -/
def beginGap (s : State) (t : Nat) : State :=
  modE s t (fun e => if e.phase = .issuing then { e with phase := .gap, gapCycles := 0 } else e)

/-- Issue the blocks of the pass in progress. A vector waits for its entries (R140), for the barrier wave (R149) and for the
ramp to level 64 (R148), in this order; the gap that such a hold opens is filled as R147 says. The number of tries bounds the
blocks of one pass. -/
def passPump : Nat → State → Nat → Nat → State
  | 0, s, _, _ => s
  | n + 1, s, t, c =>
    let e := (getT s t).enl
    match e.pass with
    | none => s
    | some pr =>
      let p := PassCmd.of pr.cmd
      if p.chain < 2 ∧ 8 < e.fbq.length + p.perBlock then
        beginGap (flag (incR s (Reg.TILE_ENL_STALL_FBQ t) 1) (Reg.TILE_ENL_FLAGS t) 4) t
      else if e.waveUntil.isSome then beginGap s t
      else if e.level < 4 ∨ e.phase = .rampUp then startRamp s t
      else
        let s := modE s t (fun e => { e with phase := .issuing })
        let s := if p.flow = 1 then issueFlow1 s t c p pr.cmd else issueBlock s t c p pr
        if (getT s t).enl.pass.isNone then beginGap s t else passPump n s t c

/-- ENL.PASS dispatched: its checks, then its vectors as far as entries and the activity level let them (R134 to R137). -/
def passDispatch (s : State) (t c pos : Nat) (w : Word128) : TRes :=
  let p := PassCmd.of w
  if !p.legal (getT s t).enl then illegal s t c
  else
    withSpans s t c p.spans fun s =>
    readSpans s t c p.spans fun s =>
      .ok (passPump 65 (modE s t (fun e => { e with pass := some ⟨pos, w, 0⟩ })) t c)

/-- ENL.WAKE dispatched: the ramp without a vector, then a hold at level 64 (R148); a barrier wave holds it (R149). -/
def wakeDispatch (s : State) (t : Nat) : State :=
  if (getT s t).enl.waveUntil.isSome then modE s t (fun e => { e with wakeHeld := true }) else startRamp s t

/-- ENL.IDLE dispatched: ramp-down begins (R147). -/
def idleDispatch (s : State) (t : Nat) : State :=
  if (getT s t).enl.level = 0 then s
  else flag (modE s t (fun e => { e with phase := .rampDown })) (Reg.TILE_ENL_FLAGS t) 5

/-- ENL.MODE dispatched: the dummy-fill level, bits 1:0 (Table 04.3). -/
def modeDispatch (s : State) (t : Nat) (w : Word128) : State := modE s t (fun e => { e with fill := fieldOf w 1 0 + 1 })

/-- Whether the command at the head of the queue may dispatch (Table 04.3). The queue dispatches in issue order, so the PASS that
holds an ENL.IDLE is an earlier one (DEDUCED, log 90). -/
def enlReady (e : Enlarger) (op : Nat) : Bool :=
  if op = 0xE0 then e.loading.isNone
  else if op = 0xE1 then e.loading.isNone && e.pass.isNone
  else if op = 0xE2 then e.pass.isNone
  else if op = 0xE3 then e.pass.isNone
  else if op = 0xE4 then e.pass.isNone
  else true

/-- The scoreboard range of an Enlarger command (06 R208). -/
def enlRange (pos : Nat) (w : Word128) : Option SbEntry :=
  let op := fieldOf w 63 56
  if op = 0xE0 then
    let l := LoadsCmd.of w
    let r := rowSpan (l.src * 64) l.bytes
    some { pos := pos, unit := .enlarger, lo := r.1, hi := r.2, rd := true, wr := false }
  else if op = 0xE2 then
    let p := PassCmd.of w
    let r := rowSpan (p.src * 64) p.bytesA
    let r2 := rowSpan (p.src2 * 64) p.bytesB
    some { pos := pos, unit := .enlarger, lo := if p.flow = 1 then min r.1 r2.1 else r.1, hi := max r.2 r2.2, rd := true, wr := false }
  else none

/-- Dispatch one command. -/
def enlDispatch (s : State) (t c pos : Nat) (w : Word128) : TRes :=
  match fieldOf w 63 56 with
  | 0xE0 => loadsDispatch s t c pos w
  | 0xE1 => .ok (swapDispatch s t)
  | 0xE2 => passDispatch s t c pos w
  | 0xE3 => .ok (wakeDispatch s t)
  | 0xE4 => .ok (idleDispatch s t)
  | 0xE5 => .ok (modeDispatch s t w)
  | _ => illegal s t c

/-- Every earlier command complete and every earlier pass's last output written (ENL.FENCE, Table 04.3). -/
def enlQuiet (e : Enlarger) : Bool := e.queue.isEmpty && e.pass.isNone && e.loading.isNone && e.tails.isEmpty

/-! ### Events of the array -/

/-- A LOADS that has written its last row completes: the shadow bank is loaded (R130, Table 04.9). -/
def loadsComplete (s : State) (t : Nat) : State :=
  match (getT s t).enl.loading with
  | some p => if (LoadsCmd.of p.cmd).rows ≤ p.row then modE s t (fun e => { e with loading := none, shadowLoaded := true }) else s
  | none => s

/-- Mark the n oldest open entries finished. -/
def finishN : Nat → List FbqEntry → List FbqEntry
  | 0, q => q
  | _, [] => []
  | n + 1, e :: q => if e.finished then e :: finishN (n + 1) q else { e with finished := true } :: finishN n q

/-- The oldest outputs in flight are written: their entries become finished, and with the last of its outputs a pass is done
(R141, R145). -/
def entryFinished (s : State) (t : Nat) : State :=
  match (getT s t).enl.tails with
  | [] => s
  | tl :: rest =>
    let s := modE s t (fun e => { e with fbq := finishN tl.entries e.fbq, tails := rest })
    if tl.ends then passDone s t tl.macs else s

/-- One level step: 64 cycles at the present level have passed (R146 to R148); during a barrier wave the level is not raised
(R149). -/
def levelStep (s : State) (t : Nat) : State :=
  let e := (getT s t).enl
  match e.phase with
  | .rampUp =>
    if e.waveUntil.isSome && decide (e.level < 4) then s
    else
      let s := if e.pass.isSome then incR s (Reg.TILE_ENL_RAMP_CYC t) 64 else countDummy s t 64
      if e.level < 4 then modE s t (fun e => { e with level := e.level + 1 })
      else modE s t (fun e => { e with phase := if e.pass.isSome then .issuing else .gap, gapCycles := 0 })
  | .gap =>
    if e.fill < e.level then
      countDummy (modE s t (fun e => { e with level := e.level - 1, gapCycles := e.gapCycles + 64 })) t 64
    else s
  | .rampDown =>
    let s := countDummy (modE s t (fun e => { e with level := e.level - 1 })) t 64
    modE s t (fun e => if e.level = 0 then { e with phase := .idle } else e)
  | _ => s

/-- 512 cycles of gap without a real vector: ramp-down begins (R147). The gap's remaining cycles are counted here. -/
def rampDownStart (s : State) (t : Nat) : State :=
  let e := (getT s t).enl
  if e.phase = .gap then
    flag (countDummy (modE s t (fun e => { e with phase := .rampDown, gapCycles := 0 })) t (512 - e.gapCycles))
      (Reg.TILE_ENL_FLAGS t) 5
  else s

/-- The barrier wave passes (R149): a held ENL.WAKE begins its ramp. -/
def waveRelease (s : State) (t : Nat) : State :=
  let held := (getT s t).enl.wakeHeld
  let s := modE s t (fun e => { e with waveUntil := none, wakeHeld := false })
  if held then startRamp s t else s

end Sys2Proof.Machine
end

