-- ==== Sys2Proof/Machine/Transcend.lean ====
section
/-!
DEFINITION. Transcend.lean: EXP2, LOG2, RCP and RSQRT of 05 R188: the exact result rounded once to FP32. A value that is
not rational is bracketed in fixed point with 192 fraction bits, far below the closest a binary32 result comes to a
rounding boundary (DEDUCED, log 11).
-/
namespace Sys2Proof.Machine

open Sys2Proof

/-- Fraction bits of the fixed-point work. -/
def fxBits : Nat := 192
def fxOne : Nat := 2 ^ fxBits

/-- The sum z + z^3/3 + z^5/5 + … in fixed point: `term` holds the odd power of z. -/
def atanhSum (z2 : Nat) : Nat → Nat → Nat → Nat
  | 0, _, _ => 0
  | k + 1, term, d => term / d + atanhSum z2 k (term * z2 / fxOne) (d + 2)

/-- ln of n / d (at least 1, below 2) in fixed point: 2 atanh ((n − d) / (n + d)). -/
def lnFx (n d : Nat) : Nat :=
  let z := (n - d) * fxOne / (n + d)
  2 * atanhSum (z * z / fxOne) 64 z 1

/-- ln 2 in fixed point. -/
def ln2Fx : Nat := lnFx 2 1

/-- The exponential series of y in fixed point, from the k-th term on. -/
def expSum (y : Nat) : Nat → Nat → Nat → Nat
  | 0, _, _ => 0
  | n + 1, term, k => term + expSum y n (term * y / fxOne / k) (k + 1)

/-- 2 to a fraction f = n / d (0 ≤ f < 1) in fixed point. -/
def exp2Fx (n d : Nat) : Nat := expSum (ln2Fx * n / d) 60 fxOne 1

/-- 2 to the x, as an exact value where x is an integer and bracketed otherwise (05 R188). -/
def exp2Val : XVal → XVal
  | .nan => .nan
  | .inf true => .fin false 0 1
  | .inf false => .inf false
  | .fin s n d =>
    let x : Int := snum s n
    let k : Int := x / (d : Int)
    if 200 < k then .fin false (2 ^ 200) 1
    else if k < -200 then .fin false 1 (2 ^ 200)
    else
      let r := (x % (d : Int)).toNat
      let m := if r = 0 then fxOne else exp2Fx r d
      (XVal.fin false m fxOne).mul2 k

/-- The base-2 logarithm of a positive value. -/
def log2Pos (n d : Nat) : XVal :=
  let e := floorLog2 n d
  let nd := scale2 n d (-e)
  if nd.1 = nd.2 then XVal.ofInt e
  else
    let m := lnFx nd.1 nd.2 * fxOne / ln2Fx
    let t : Int := e * (fxOne : Int) + (m : Int)
    .fin (decide (t < 0)) t.natAbs fxOne

/-- The floor of a square root, bit by bit from the top. -/
def isqrt (n : Nat) : Nat → Nat → Nat
  | 0, r => if (r + 1) * (r + 1) ≤ n then r + 1 else r
  | k + 1, r => isqrt n k (if (r + 2 ^ (k + 1)) * (r + 2 ^ (k + 1)) ≤ n then r + 2 ^ (k + 1) else r)

/-- 1 / √(n/d), scaled by an even power of two so that the root keeps more than 120 bits. -/
def rsqrtVal (n d : Nat) : XVal :=
  let e := floorLog2 d n
  let h : Int := e / 2
  let nd := scale2 d n (256 - 2 * h)
  (XVal.fin false (isqrt (nd.1 / nd.2) 131 0) 1).mul2 (h - 128)

/-- The four functions. -/
inductive TransFn where
  | exp2 | log2 | rcp | rsqrt
  deriving DecidableEq, Repr

/-- Bits of TILE_DEV_FLAGS (05 Table 05.10), as masks. -/
def fPermOor : Nat := 0x001
def fSmaxEmpty : Nat := 0x002
def fSmaxNan : Nat := 0x004
def fNanCvt : Nat := 0x008
def fClipped : Nat := 0x010
def fAccSat : Nat := 0x020
def fInvalid : Nat := 0x040
def fWrapIn : Nat := 0x080
def fDivZero : Nat := 0x100

/-- A function's result and its flags (05 Table 05.7). -/
def transEval (f : TransFn) (w : Word) : Word × Nat :=
  match f, f32Val w with
  | _, .nan => (f32Nan, 0)
  | .exp2, x => (f32Of (exp2Val x), 0)
  | .log2, .fin s n d =>
    if n = 0 then (0xFF800000#32, fDivZero)
    else if s then (f32Nan, fInvalid)
    else (f32Of (log2Pos n d), 0)
  | .log2, .inf s => if s then (f32Nan, fInvalid) else (0x7F800000#32, 0)
  | .rcp, .fin s n d =>
    if n = 0 then (if s then 0xFF800000#32 else 0x7F800000#32, fDivZero) else (f32Of (.fin s d n), 0)
  | .rcp, .inf s => (if s then 0x80000000#32 else 0#32, 0)
  | .rsqrt, .fin s n d =>
    if n = 0 then (if s then 0xFF800000#32 else 0x7F800000#32, fDivZero)
    else if s then (f32Nan, fInvalid)
    else (f32Of (rsqrtVal n d), 0)
  | .rsqrt, .inf s => if s then (f32Nan, fInvalid) else (0#32, 0)

end Sys2Proof.Machine
end

