-- ==== Sys2Proof/Machine/Flags.lean ====
section
/-!
DEFINITION. Flags.lean: the Developer's per-element computations with the flags each raises (05 R170 to R174, R189 to
R191, Table 05.10): a result word and a mask of TILE_DEV_FLAGS bits.
-/
namespace Sys2Proof.Machine

open Sys2Proof

/-- invalid: an FP32 operation produced NaN from operands that were not NaN. -/
def invalidOf (r : Word) (ops : List Word) : Nat := if f32IsNan r && !ops.any f32IsNan then fInvalid else 0

def fp2 (f : Word → Word → Word) (a b : Word) : Word × Nat := let r := f a b; (r, invalidOf r [a, b])

/-- FMIN and FMAX order −0 below +0, and give the canonical NaN if either operand is NaN (R170). -/
def fpLess (a b : Word) : Bool :=
  match (f32Val a).cmp (f32Val b) with
  | some .lt => true
  | some .eq => bitOf a 31 && !bitOf b 31
  | _ => false

def fpMin (a b : Word) : Word := if f32IsNan a || f32IsNan b then f32Nan else if fpLess b a then b else a
def fpMax (a b : Word) : Word := if f32IsNan a || f32IsNan b then f32Nan else if fpLess a b then b else a

/-- FABS and FNEG: a NaN becomes canonical (Table 05.5). -/
def fpAbs (a : Word) : Word := if f32IsNan a then f32Nan else a &&& 0x7FFFFFFF#32
def fpNeg (a : Word) : Word := if f32IsNan a then f32Nan else a ^^^ 0x80000000#32

/-- A comparison by its condition code (R172): eq, ne, lt, le, gt, ge, unordered. -/
def condHolds (c : Nat) (o : Option Ordering) : Bool :=
  match c, o with
  | 0, o => decide (o = some .eq)
  | 1, o => decide (o ≠ some .eq)
  | 2, o => decide (o = some .lt)
  | 3, o => decide (o = some .lt) || decide (o = some .eq)
  | 4, o => decide (o = some .gt)
  | 5, o => decide (o = some .gt) || decide (o = some .eq)
  | _, o => decide (o = none)

def fpCmp (c : Nat) (a b : Word) : Bool := condHolds c ((f32Val a).cmp (f32Val b))
def intCmp (c : Nat) (a b : Word) : Bool := condHolds c (some (compare a.toInt b.toInt))

/-- INT32 and bitwise operations wrap without a flag; a shift takes its count from bits 4:0 (R171). -/
def intMin (a b : Word) : Word := if b.toInt < a.toInt then b else a
def intMax (a b : Word) : Word := if a.toInt < b.toInt then b else a
def shCount (b : Word) : Nat := b.toNat % 32
def opShl (a b : Word) : Word := a <<< shCount b
def opShr (a b : Word) : Word := a >>> shCount b
def opSra (a b : Word) : Word := a.sshiftRight (shCount b)

/-- clipped and nan_cvt of a conversion; nan_cvt only for an integer, Q15 or CX16 target (Table 05.10). -/
def convFlags (c : Conv) (nanTarget : Bool) : Nat :=
  (if c.clipped then fClipped else 0) + (if c.nan && nanTarget then fNanCvt else 0)

/-! ### Q15 parts -/

def q15Re (w : Word) : Int := signed 16 (fieldOf w 15 0)
def q15Im (w : Word) : Int := signed 16 (fieldOf w 31 16)

/-- Two integer parts saturated to 16 bits, with clipped. -/
def q15Pack (re im : Conv) : Word × Nat :=
  (BitVec.ofNat 32 (re.code + im.code * 65536), if re.clipped || im.clipped then fClipped else 0)

def q15Add (a b : Word) : Word × Nat :=
  q15Pack (intEncode 16 (XVal.ofInt (q15Re a + q15Re b))) (intEncode 16 (XVal.ofInt (q15Im a + q15Im b)))
def q15Sub (a b : Word) : Word × Nat :=
  q15Pack (intEncode 16 (XVal.ofInt (q15Re a - q15Re b))) (intEncode 16 (XVal.ofInt (q15Im a - q15Im b)))

/-- The Q15 complex product, rounded to 2^-15 and saturated per part (Table 05.5, 0x84). -/
def q15Mul (a b : Word) : Word × Nat :=
  q15Pack (intEncode 16 (XVal.dyadic (q15Re a * q15Re b - q15Im a * q15Im b) 15))
    (intEncode 16 (XVal.dyadic (q15Re a * q15Im b + q15Im a * q15Re b) 15))

/-- The exact parts of x × y or x × conj y, in units of 2^-30 (R189). -/
def q15Prod (conj : Bool) (x y : Word) : Int × Int :=
  let yi := if conj then - q15Im y else q15Im y
  (q15Re x * q15Re y - q15Im x * yi, q15Re x * yi + q15Im x * q15Re y)

/-! ### CF32 -/

/-- A product of CF32 elements, each part exact and rounded once (R170). -/
def cfMul (conj : Bool) (ar ai br bi : Word) : Word × Word × Nat :=
  let a := f32Val ar
  let b := f32Val ai
  let c := f32Val br
  let d := if conj then (f32Val bi).neg else f32Val bi
  let re := f32Of ((a.mul c).add (b.mul d).neg)
  let im := f32Of ((a.mul d).add (b.mul c))
  (re, im, invalidOf re [ar, ai, br, bi] ||| invalidOf im [ar, ai, br, bi])

def cfAdd (ar ai br bi : Word) : Word × Word × Nat :=
  let re := f32Add ar br
  let im := f32Add ai bi
  (re, im, invalidOf re [ar, br] ||| invalidOf im [ai, bi])

/-- re² + im², rounded once (R170). -/
def cfMag2 (ar ai : Word) : Word × Nat :=
  let r := f32Of (((f32Val ar).mul (f32Val ar)).add ((f32Val ai).mul (f32Val ai)))
  (r, invalidOf r [ar, ai])

/-! ### CVT (R173) -/

def cvtReal (dst : Fmt) (src : Fmt) (k : Int) (a : Word) : Word × Nat :=
  let c := dst.encodeReal ((src.decodeReal a.toNat).mul2 k)
  (BitVec.ofNat 32 c.code, convFlags c (decide (dst = .int32)))

def cvtToQ15 (k : Int) (re im : Word) : Word × Nat :=
  let c := pairConv 16 (q15Encode ((f32Val re).mul2 k)) (q15Encode ((f32Val im).mul2 k))
  (BitVec.ofNat 32 c.code, convFlags c true)

def cvtFromQ15 (k : Int) (a : Word) : Word × Word :=
  (f32Of ((q15Decode (fieldOf a 15 0)).mul2 k), f32Of ((q15Decode (fieldOf a 31 16)).mul2 k))

/-! ### Memory formats (R174) -/

/-- The register words a memory code widens to: one, or a CF32 pair. A NaN becomes canonical (R92). -/
def widen (f : Fmt) (code : Nat) : Word × Word :=
  match f with
  | .int4 => (BitVec.ofInt 32 (signed 4 code), 0#32)
  | .int8 => (BitVec.ofInt 32 (signed 8 code), 0#32)
  | .int32 => (BitVec.ofNat 32 code, 0#32)
  | .q15 => (BitVec.ofNat 32 code, 0#32)
  | .cx16 => let p := cxDecode code; (f32Of p.1, f32Of p.2)
  | .cf32 => (f32Of (fmtFP32.decode (nbits code 31 0)), f32Of (fmtFP32.decode (nbits code 63 32)))
  | f => (f32Of (f.decodeReal code), 0#32)

/-- The register type a memory format widens to. -/
def regType : Fmt → Fmt
  | .int4 => .int32 | .int8 => .int32 | .int32 => .int32 | .cx16 => .cf32 | .cf32 => .cf32 | .q15 => .q15
  | _ => .fp32

/-- Narrowing to a memory format: the code and its flags (R99 to R102, R95). -/
def narrow (f : Fmt) (re im : Word) : Nat × Nat :=
  match f with
  | .q15 => (re.toNat, 0)
  | .cx16 => let c := cxEncode (f32Val re) (f32Val im); (c.code, convFlags c true)
  | .cf32 => ((f32Of (f32Val re)).toNat + (f32Of (f32Val im)).toNat * 2 ^ 32, 0)
  | .int4 => let c := intEncode 4 (XVal.ofInt re.toInt); (c.code, convFlags c true)
  | .int8 => let c := intEncode 8 (XVal.ofInt re.toInt); (c.code, convFlags c true)
  | .int32 => (re.toNat, 0)
  | f => let c := f.encodeReal (f32Val re); (c.code, convFlags c false)

end Sys2Proof.Machine
end

