-- ==== Sys2Proof/Machine/DevOps.lean ====
section
/-!
DEFINITION. DevOps.lean: the Developer's instructions (05 R158 to R191), one definition for each opcode of Table 05.5,
over shared forms for element-wise, mask, permutation, scan and memory instructions. Each takes the state at its
dispatch and gives the state after it completes, a wait, or a fault of its context.
-/
namespace Sys2Proof.Machine

open Sys2Proof

/-! ### The instruction word (Table 05.2) -/

structure DevWord where
  vd : Nat
  vs1 : Nat
  vs2 : Nat
  vs3 : Nat
  imm : Nat
  deriving DecidableEq, Repr

def DevWord.of (w : Word64) : DevWord :=
  { vd := fieldOf w 55 50, vs1 := fieldOf w 49 44, vs2 := fieldOf w 43 38, vs3 := fieldOf w 37 32, imm := fieldOf w 31 0 }

/-- Bits hi to lo of the immediate. -/
def DevWord.i (w : DevWord) (hi lo : Nat) : Nat := nbits w.imm hi lo

/-! ### Registers -/

def vGet (d : Developer) (n i : Nat) : Word := mapGet 0#32 d.v (256 * n + i)
def vSet (d : Developer) (n i : Nat) (x : Word) : Developer := { d with v := mapSet 0#32 d.v (256 * n + i) x }
def sGet (d : Developer) (n : Nat) : Word := mapGet 0#32 d.s n
def sSet (d : Developer) (n : Nat) (x : Word) : Developer := { d with s := mapSet 0#32 d.s n x }
def mGet (d : Developer) (n : Nat) : BitVec 256 := mapGet 0#256 d.m n
def mSet (d : Developer) (n : Nat) (x : BitVec 256) : Developer := { d with m := mapSet 0#256 d.m n x }
def aGet (d : Developer) (n i : Nat) : Int := (mapGet 0#48 d.a (256 * n + i)).toInt
def aSet (d : Developer) (n i : Nat) (x : Int) : Developer := { d with a := mapSet 0#48 d.a (256 * n + i) (BitVec.ofInt 48 x) }

def getD (s : State) (t : Nat) : Developer := (getT s t).dev
def setD (s : State) (t : Nat) (d : Developer) : State := modT s t (fun x => { x with dev := d })

/-- Raise flags of the running context (Table 05.10). -/
def raise (s : State) (t f : Nat) : State :=
  setR s (Reg.TILE_DEV_FLAGS t) (getR s (Reg.TILE_DEV_FLAGS t) ||| BitVec.ofNat 32 f)

/-- A finished instruction: its Developer state and the flags it raised. -/
def devDone (s : State) (t : Nat) (r : Developer × Nat) : TRes := .ok (raise (setD s t r.1) t r.2)

/-- A specifier that must name a V register. -/
def isV (x : Nat) : Bool := decide (x < 32)
/-- A specifier that must name an S register. -/
def isS (x : Nat) : Bool := decide (32 ≤ x)
/-- A specifier of a CF32 operand: an even V register (R162). -/
def isPair (x : Nat) : Bool := decide (x < 32) && decide (x % 2 = 0)
/-- A mask specifier: bits above 2:0 are 0 (R162). An instruction that breaks this, or the like for accumulators and SEL, is
illegal (DESIGN CHOICE, log 91). -/
def isM (x : Nat) : Bool := decide (x < 8)
/-- An accumulator-pair specifier: bits above 1:0 are 0 and the pair is even (R160, R162). -/
def isAcc (x : Nat) : Bool := decide (x = 0) || decide (x = 2)

/-- Element i of a source: a V register's element, or an S register's value for every element (R162). -/
def srcGet (d : Developer) (x i : Nat) : Word := if x < 32 then vGet d x i else sGet d (x - 32)

/-- Whether element i is active under the mask control of bits 37:32 (R163). -/
def active (d : Developer) (vs3 i : Nat) : Bool :=
  decide (nbits vs3 5 5 = 0) || (bitOf (mGet d (nbits vs3 2 0)) i != decide (nbits vs3 3 3 = 1))

/-- Whether inactive elements are written 0. -/
def zeroing (vs3 : Nat) : Bool := decide (nbits vs3 4 4 = 1)

/-- Write elements 0 to VLEN − 1 of a destination: f gives an active element's write and its flags, z the write of an
inactive element when zero = 1 (R163). -/
def eachElem (d : Developer) (vs3 : Nat) (f : Nat → Developer → Developer × Nat) (z : Nat → Developer → Developer) :
    Developer × Nat :=
  (List.range d.vlen).foldl (fun r i =>
    if active d vs3 i then let x := f i r.1; (x.1, r.2 ||| x.2)
    else if zeroing vs3 then (z i r.1, r.2)
    else r) (d, 0)

/-- Element-wise work into one V register. -/
def elemV (d : Developer) (vd vs3 : Nat) (f : Nat → Word × Nat) : Developer × Nat :=
  eachElem d vs3 (fun i r => let x := f i; (vSet r vd i x.1, x.2)) (fun i r => vSet r vd i 0#32)

/-- Element-wise work into a CF32 pair. -/
def elemPair (d : Developer) (vd vs3 : Nat) (f : Nat → Word × Word × Nat) : Developer × Nat :=
  eachElem d vs3 (fun i r => let x := f i; (vSet (vSet r vd i x.1) (vd + 1) i x.2.1, x.2.2))
    (fun i r => vSet (vSet r vd i 0#32) (vd + 1) i 0#32)

/-- Element-wise work into a mask register. -/
def elemM (d : Developer) (vd vs3 : Nat) (f : Nat → Bool) : Developer × Nat :=
  eachElem d vs3 (fun i r => (mSet r vd (setBit (mGet r vd) i (f i)), 0)) (fun i r => mSet r vd (setBit (mGet r vd) i false))

/-- Element-wise work into an accumulator pair. -/
def elemAcc (d : Developer) (p vs3 : Nat) (f : Nat → Int × Int × Nat) : Developer × Nat :=
  eachElem d vs3 (fun i r => let x := f i; (aSet (aSet r p i x.1) (p + 1) i x.2.1, x.2.2))
    (fun i r => aSet (aSet r p i 0) (p + 1) i 0)

/-! ### Shared forms -/

/-- vd ← f (vs1, vs2), both elements, vs2 broadcast from S when it is an S code. -/
def devBin (f : Word → Word → Word × Nat) (s : State) (t c : Nat) (w : DevWord) : TRes :=
  if isV w.vd && isV w.vs1 then
    let d := getD s t
    devDone s t (elemV d w.vd w.vs3 (fun i => f (srcGet d w.vs1 i) (srcGet d w.vs2 i)))
  else illegal s t c

/-- vd ← f (vs1). -/
def devUn (f : Word → Word × Nat) (s : State) (t c : Nat) (w : DevWord) : TRes :=
  if isV w.vd && isV w.vs1 then
    let d := getD s t
    devDone s t (elemV d w.vd w.vs3 (fun i => f (vGet d w.vs1 i)))
  else illegal s t c

/-- M[vd] ← condition (vs1, vs2), the condition codes being those below `lim` (R172). A reserved code is illegal (DESIGN CHOICE,
log 91). -/
def devCmp (lim : Nat) (f : Nat → Word → Word → Bool) (s : State) (t c : Nat) (w : DevWord) : TRes :=
  if isM w.vd && isV w.vs1 && decide (w.i 2 0 < lim) then
    let d := getD s t
    devDone s t (elemM d w.vd w.vs3 (fun i => f (w.i 2 0) (srcGet d w.vs1 i) (srcGet d w.vs2 i)))
  else illegal s t c

/-- CF32 pairs: vd ← f (vs1, vs2). -/
def devPairBin (f : Word → Word → Word → Word → Word × Word × Nat) (s : State) (t c : Nat) (w : DevWord) : TRes :=
  if isPair w.vd && isPair w.vs1 && isPair w.vs2 then
    let d := getD s t
    devDone s t (elemPair d w.vd w.vs3 (fun i => f (vGet d w.vs1 i) (vGet d (w.vs1 + 1) i) (vGet d w.vs2 i) (vGet d (w.vs2 + 1) i)))
  else illegal s t c

/-- Mask logic on the bits below VLEN, unmasked (Table 05.5, 0x31 to 0x34). -/
def devMask (two : Bool) (f : Bool → Bool → Bool) (s : State) (t c : Nat) (w : DevWord) : TRes :=
  if isM w.vd && isM w.vs1 && (!two || isM w.vs2) then
    let d := getD s t
    let a := mGet d w.vs1
    let b := mGet d (w.vs2 % 8)
    devDone s t ((List.range d.vlen).foldl (fun r i => mSet r w.vd (setBit (mGet r w.vd) i (f (bitOf a i) (bitOf b i)))) d, 0)
  else illegal s t c

/-- vd[i] ← an element chosen by position, or 0 outside 0 to VLEN − 1, with flags for a position outside (R180, R181). -/
def devPerm (src : Developer → Nat → Int) (oor : Nat) (legal : Bool) (s : State) (t c : Nat) (w : DevWord) : TRes :=
  if isV w.vd && isV w.vs1 && legal then
    let d := getD s t
    devDone s t (elemV d w.vd w.vs3 (fun i =>
      let j := src d i
      if 0 ≤ j ∧ j < (d.vlen : Int) then (vGet d w.vs1 j.toNat, 0) else (0#32, oor)))
  else illegal s t c

/-! ### Control -/

def devNop (s : State) (_t _c : Nat) (_w : DevWord) : TRes := .ok s

def devSetvl (s : State) (t c : Nat) (w : DevWord) : TRes :=
  if isS w.vd && (decide (w.i 31 31 = 1) || isS w.vs1) then
    let d := getD s t
    let n := if w.i 31 31 = 1 then w.i 8 0 else (sGet d (w.vs1 - 32)).toNat
    let v := min n 256
    devDone s t ({ sSet d (w.vd - 32) (BitVec.ofNat 32 v) with vlen := v }, 0)
  else illegal s t c

def devSli (s : State) (t c : Nat) (w : DevWord) : TRes :=
  if isS w.vd then devDone s t (sSet (getD s t) (w.vd - 32) (BitVec.ofNat 32 w.imm), 0) else illegal s t c

def devSadd (s : State) (t c : Nat) (w : DevWord) : TRes :=
  if isS w.vd && isS w.vs1 && isS w.vs2 then
    let d := getD s t
    devDone s t (sSet d (w.vd - 32) (sGet d (w.vs1 - 32) + sGet d (w.vs2 - 32)), 0)
  else illegal s t c

def devVext (s : State) (t c : Nat) (w : DevWord) : TRes :=
  if isS w.vd && isV w.vs1 && isS w.vs2 then
    let d := getD s t
    let i := (sGet d (w.vs2 - 32)).toNat
    if i < d.vlen then devDone s t (sSet d (w.vd - 32) (vGet d w.vs1 i), 0)
    else devDone s t (sSet d (w.vd - 32) 0#32, fPermOor)
  else illegal s t c

/-- FENCE: every earlier Developer instruction has completed, execution being in program order (R168). -/
def devFence (s : State) (_t _c : Nat) (_w : DevWord) : TRes := .ok s

def devGetf (s : State) (t c : Nat) (w : DevWord) : TRes :=
  if isS w.vd then
    devDone s t (sSet (getD s t) (w.vd - 32) (getR s (Reg.TILE_DEV_FLAGS t) &&& 0x1FF#32), 0)
  else illegal s t c

def devClrf (s : State) (t _c : Nat) (w : DevWord) : TRes :=
  .ok (setR s (Reg.TILE_DEV_FLAGS t) (getR s (Reg.TILE_DEV_FLAGS t) &&& ~~~ BitVec.ofNat 32 (w.i 8 0)))

def devSetcb (s : State) (t c : Nat) (w : DevWord) : TRes :=
  let d := getD s t
  let b := sGet d (w.vs1 - 32)
  let l := sGet d (w.vs2 - 32)
  if isS w.vs1 && isS w.vs2 && decide (b.toNat % 4 = 0) && decide (l.toNat ≠ 0) && decide (l.toNat % 4 = 0)
      && decide (b.toNat + l.toNat ≤ spBytes) then
    devDone s t ({ d with cbb := mapSet 0#32 d.cbb (w.i 2 0) b, cbl := mapSet 0#32 d.cbl (w.i 2 0) l }, 0)
  else illegal s t c

/-! ### FP32, INT32, bitwise, shifts -/

def devFadd := devBin (fp2 f32Add)
def devFsub := devBin (fp2 f32Sub)
def devFmul := devBin (fp2 f32Mul)

/-- FMA: bits 37:32 name its third source, and it is unmasked (R163). -/
def devFma (s : State) (t c : Nat) (w : DevWord) : TRes :=
  if isV w.vd && isV w.vs1 then
    let d := getD s t
    devDone s t (elemV d w.vd 0 (fun i =>
      let a := srcGet d w.vs1 i
      let b := srcGet d w.vs2 i
      let e := srcGet d w.vs3 i
      let r := f32Fma a b e
      (r, invalidOf r [a, b, e])))
  else illegal s t c

def devFmin := devBin (fun a b => (fpMin a b, 0))
def devFmax := devBin (fun a b => (fpMax a b, 0))
def devFabs := devUn (fun a => (fpAbs a, 0))
def devFneg := devUn (fun a => (fpNeg a, 0))
def devFcmp := devCmp 7 fpCmp
def devIadd := devBin (fun a b => (a + b, 0))
def devIsub := devBin (fun a b => (a - b, 0))
def devImul := devBin (fun a b => (a * b, 0))
def devImin := devBin (fun a b => (intMin a b, 0))
def devImax := devBin (fun a b => (intMax a b, 0))
def devAnd := devBin (fun a b => (a &&& b, 0))
def devOr := devBin (fun a b => (a ||| b, 0))
def devXor := devBin (fun a b => (a ^^^ b, 0))
def devShl := devBin (fun a b => (opShl a b, 0))
def devShr := devBin (fun a b => (opShr a b, 0))
def devSra := devBin (fun a b => (opSra a b, 0))
def devIcmp := devCmp 6 intCmp

/-- SEL: bits 34:32 name the mask, bits 37:35 must be 0. -/
def devSel (s : State) (t c : Nat) (w : DevWord) : TRes :=
  if isV w.vd && isV w.vs1 && decide (w.vs3 < 8) then
    let d := getD s t
    devDone s t (elemV d w.vd 0 (fun i => (if bitOf (mGet d w.vs3) i then srcGet d w.vs1 i else srcGet d w.vs2 i, 0)))
  else illegal s t c

def devMand := devMask true (fun a b => a && b)
def devMor := devMask true (fun a b => a || b)
def devMxor := devMask true (fun a b => a != b)
def devMnot := devMask false (fun a _ => !a)

def devMpop (s : State) (t c : Nat) (w : DevWord) : TRes :=
  if isS w.vd && isM w.vs1 then
    let d := getD s t
    let n := ((List.range d.vlen).filter (fun i => bitOf (mGet d w.vs1) i)).length
    devDone s t (sSet d (w.vd - 32) (BitVec.ofNat 32 n), 0)
  else illegal s t c

/-- CVT: the pairs of Table 05.4 and no other; the scaling exponent lies in −64 to 63 (R173). -/
def devCvt (s : State) (t c : Nat) (w : DevWord) : TRes :=
  let k := signed 8 (w.i 23 16)
  let d := getD s t
  if k < -64 ∨ 63 < k then illegal s t c
  else
    match w.i 31 28, w.i 27 24 with
    | 6, 9 => devUn (cvtReal .int32 .fp32 k) s t c w
    | 9, 6 => devUn (cvtReal .fp32 .int32 k) s t c w
    | 6, 6 => devUn (cvtReal .fp32 .fp32 k) s t c w
    | 8, 10 =>
      if isV w.vd && isPair w.vs1 then
        devDone s t (elemV d w.vd w.vs3 (fun i => cvtToQ15 k (vGet d w.vs1 i) (vGet d (w.vs1 + 1) i)))
      else illegal s t c
    | 10, 8 =>
      if isPair w.vd && isV w.vs1 then
        devDone s t (elemPair d w.vd w.vs3 (fun i => let r := cvtFromQ15 k (vGet d w.vs1 i); (r.1, r.2, 0)))
      else illegal s t c
    | _, _ => illegal s t c

/-! ### Scratchpad (R174, R176) -/

/-- Where element i of a VLD or VST lies: the format's tensor from the start address, in steps of the stride. -/
structure MemPlan where
  fmt : Fmt
  start : Nat
  stride : Nat
  deriving DecidableEq, Repr

/-- The address check of every element below VLEN, active or not (R163, R176): aligned start, last byte in range. -/
def memOk (p : MemPlan) (n : Nat) : Bool :=
  decide (n = 0) || (decide (p.start % max 1 (p.fmt.width / 8) = 0)
    && decide (p.start + elemBytes p.fmt ((n - 1) * p.stride + 1) ≤ spBytes))

def memRange (p : MemPlan) (n : Nat) : Nat × Nat :=
  if n = 0 then (0, 0) else (p.start, elemBytes p.fmt ((n - 1) * p.stride + 1))

/-- The bytes of each active element (only active elements are read or written, R176). -/
def memSpans (d : Developer) (vs3 : Nat) (p : MemPlan) : List (Nat × Nat) :=
  ((List.range d.vlen).filter (fun i => active d vs3 i)).map (fun i =>
    if p.fmt = .int4 then (p.start + i * p.stride / 2, 1)
    else (p.start + i * p.stride * (p.fmt.width / 8), p.fmt.width / 8))

def vldPlan (d : Developer) (w : DevWord) : Option MemPlan :=
  (Fmt.ofCode (w.i 31 28)).map (fun f => { fmt := f, start := (sGet d (w.vs1 - 32)).toNat + w.i 15 0, stride := w.i 23 16 })

def vstPlan (d : Developer) (w : DevWord) : Option MemPlan :=
  (Fmt.ofCode (w.i 31 28)).map (fun f => { fmt := f, start := (sGet d (w.vs2 - 32)).toNat + w.i 15 0, stride := w.i 23 16 })

def devVld (s : State) (t c : Nat) (w : DevWord) : TRes :=
  let d := getD s t
  match vldPlan d w with
  | none => illegal s t c
  | some p =>
    let pair := decide (regType p.fmt = .cf32)
    if !(isS w.vs1 && (if pair then isPair w.vd else isV w.vd)) then illegal s t c
    else if !memOk p d.vlen then addrFault s t c p.start
    else
      withSpans s t c (memSpans d w.vs3 p) fun s =>
      readSpans s t c (memSpans d w.vs3 p) fun s =>
        let elem := fun i => widen p.fmt (elemAt s p.fmt (spBase t + p.start) (i * p.stride))
        if pair then devDone s t (elemPair d w.vd w.vs3 (fun i => let x := elem i; (x.1, x.2, 0)))
        else devDone s t (elemV d w.vd w.vs3 (fun i => ((elem i).1, 0)))

/-- VST: an inactive element is never written, and zero is ignored (R163). -/
def devVst (s : State) (t c : Nat) (w : DevWord) : TRes :=
  let d := getD s t
  match vstPlan d w, Fmt.ofCode (w.i 27 24) with
  | some p, some rt =>
    let pair := decide (rt = .cf32)
    if !(decide (regType p.fmt = rt) && decide (p.stride ≠ 0) && isS w.vs2 && (if pair then isPair w.vs1 else isV w.vs1)) then
      illegal s t c
    else if !memOk p d.vlen then addrFault s t c p.start
    else
      withSpansW s t c (memSpans d w.vs3 p) fun s =>
        let r := (List.range d.vlen).foldl (fun (r : State × Nat) i =>
          if active d w.vs3 i then
            let x := narrow p.fmt (vGet d w.vs1 i) (if pair then vGet d (w.vs1 + 1) i else 0#32)
            (putElem r.1 p.fmt (spBase t + p.start) (i * p.stride) x.1, r.2 ||| x.2)
          else r) (s, 0)
        .ok (raise r.1 t r.2)
  | _, _ => illegal s t c

/-! ### The finished-block queue (R178, R179) -/

/-- FBQ.RD: a position beyond those that will be allocated is illegal; an entry not yet finished waits. -/
def devFbqRd (s : State) (t c : Nat) (w : DevWord) : TRes :=
  let d := getD s t
  let x := getT s t
  let j := w.i 18 16
  let e := w.i 11 0
  let step := if w.i 31 31 = 1 then 64 else 1
  let cplx := decide (w.i 30 30 = 1)
  let need := if cplx then j + 2 else j + 1
  if !(if cplx then isPair w.vd else isV w.vd) then illegal s t c
  else if d.vlen ≠ 0 ∧ 4095 < e + step * (d.vlen - 1) then illegal s t c
  else if fbqPositions x < need then illegal s t c
  else if fbqFinished x < need then .wait (incR s (Reg.TILE_DEV_STALL_FBQ t) 1)
  else
    let at' := fun (q i : Nat) => mapGet 0#32 ((x.enl.fbq[q]?.map (·.data)).getD []) (e + step * i)
    let wr := fun (q i : Nat) => if mapGet false ((x.enl.fbq[q]?.map (·.wrap)).getD []) (e + step * i) then fWrapIn else 0
    if cplx then devDone s t (elemPair d w.vd 0 (fun i => (at' j i, at' (j + 1) i, wr j i ||| wr (j + 1) i)))
    else devDone s t (elemV d w.vd 0 (fun i => (at' j i, wr j i)))

/-- FBQ.REL: waits for as many finished entries as it names; an entry a running Fixer command holds is not its to
release. -/
def devFbqRel (s : State) (t c : Nat) (w : DevWord) : TRes :=
  let x := getT s t
  let n := w.i 2 0 + 1
  let fixHolds := match x.fix with
    | some j => !j.waiting && (FixCmd.of j.cmd).fromFbq
    | none => false
  if fixHolds then illegal s t c
  else if fbqFinished x < n then .wait (incR s (Reg.TILE_DEV_STALL_FBQ t) 1)
  else .ok (setT s t (fbqDrop x n))

/-! ### Permutations (R180, R181) -/

def devVperm (s : State) (t c : Nat) (w : DevWord) : TRes :=
  devPerm (fun d i => ((vGet d w.vs2 i).toNat : Int)) fPermOor (isV w.vs2) s t c w
def devVslideup (s : State) (t c : Nat) (w : DevWord) : TRes :=
  devPerm (fun _ i => (i : Int) - (w.i 8 0 : Int)) 0 true s t c w
def devVslidedn (s : State) (t c : Nat) (w : DevWord) : TRes :=
  devPerm (fun _ i => (i : Int) + (w.i 8 0 : Int)) 0 true s t c w
def devVrev (s : State) (t c : Nat) (w : DevWord) : TRes :=
  devPerm (fun d i => (d.vlen : Int) - 1 - (i : Int)) 0 true s t c w

/-! ### Scans and reductions (R182 to R184) -/

/-- A scan element: one word, or a CF32 pair. -/
abbrev Pair := Word × Word

inductive ScanType where
  | fp32 | int32 | cf32 | q15
  deriving DecidableEq, Repr

/-- imm[5:3]; the other codes are reserved. -/
def ScanType.ofCode : Nat → Option ScanType
  | 0 => some .fp32 | 1 => some .int32 | 2 => some .cf32 | 3 => some .q15 | _ => none

/-- The combining operation with its flags: add, max, min (R182). -/
def scanOp (ty : ScanType) (op : Nat) (a b : Pair) : Pair × Nat :=
  match ty, op with
  | .fp32, 0 => let r := fp2 f32Add a.1 b.1; ((r.1, 0#32), r.2)
  | .fp32, 1 => ((fpMax a.1 b.1, 0#32), 0)
  | .fp32, _ => ((fpMin a.1 b.1, 0#32), 0)
  | .int32, 0 => ((a.1 + b.1, 0#32), 0)
  | .int32, 1 => ((intMax a.1 b.1, 0#32), 0)
  | .int32, _ => ((intMin a.1 b.1, 0#32), 0)
  | .cf32, _ => let r := cfAdd a.1 a.2 b.1 b.2; ((r.1, r.2.1), r.2.2)
  | .q15, _ => let r := q15Add a.1 b.1; ((r.1, 0#32), r.2)

/-- The identities of R183. -/
def scanId (ty : ScanType) (op : Nat) : Pair :=
  match ty, op with
  | .fp32, 1 => (0xFF800000#32, 0#32)
  | .fp32, 2 => (0x7F800000#32, 0#32)
  | .int32, 1 => (0x80000000#32, 0#32)
  | .int32, 2 => (0x7FFFFFFF#32, 0#32)
  | _, _ => (0#32, 0#32)

/-- One step of the fixed tree at distance d: every read is of the previous step's values (R183). -/
def scanStep (ty : ScanType) (op d : Nat) (y : List (Pair × Bool)) : List (Pair × Bool) × Nat :=
  let z : Pair × Bool := ((0#32, 0#32), true)
  let r := (List.range y.length).map (fun i =>
    let yi := nth z y i
    if i < d then (yi, 0)
    else
      let yj := nth z y (i - d)
      if yi.2 then (yi, 0)
      else let x := scanOp ty op yj.1 yi.1; ((x.1, yi.2 || yj.2), x.2))
  (r.map (·.1), r.foldl (fun m x => m ||| x.2) 0)

/-- The steps at distances 1, 2, 4, … below the length. -/
def scanLoop (ty : ScanType) (op : Nat) : Nat → Nat → List (Pair × Bool) × Nat → List (Pair × Bool) × Nat
  | 0, _, y => y
  | n + 1, d, y =>
    if d < y.1.length then
      let r := scanStep ty op d y.1
      scanLoop ty op n (2 * d) (r.1, y.2 ||| r.2)
    else y

/-- The inclusive scan of elements with their segment starts, in the fixed order (R183). -/
def scanAll (ty : ScanType) (op : Nat) (x : List (Pair × Bool)) : List (Pair × Bool) × Nat := scanLoop ty op 9 1 (x, 0)

/-- Whether an operation and a type go together: max and min for FP32 and INT32 only (R182). Any other combination, and a reserved
operation or type, is illegal (DESIGN CHOICE, log 91). -/
def scanLegal (ty : ScanType) (op : Nat) : Bool := decide (op = 0) || (decide (op ≤ 2) && (decide (ty = .fp32) || decide (ty = .int32)))

def devScan (s : State) (t c : Nat) (w : DevWord) : TRes :=
  match ScanType.ofCode (w.i 5 3) with
  | none => illegal s t c
  | some ty =>
    let op := w.i 1 0
    let pair := decide (ty = .cf32)
    if !(scanLegal ty op && (if pair then isPair w.vd && isPair w.vs1 else isV w.vd && isV w.vs1)) then illegal s t c
    else
      let d := getD s t
      let starts := fun i => decide (i = 0) || (decide (nbits w.vs3 5 5 = 1) && bitOf (mGet d (nbits w.vs3 2 0)) i)
      let x := (List.range d.vlen).map (fun i => ((vGet d w.vs1 i, if pair then vGet d (w.vs1 + 1) i else 0#32), starts i))
      let r := scanAll ty op x
      let id := scanId ty op
      let out := fun i =>
        if w.i 2 2 = 1 then (if starts i then id else (nth (id, true) r.1 (i - 1)).1) else (nth (id, true) r.1 i).1
      let d' := (List.range d.vlen).foldl (fun d i =>
        let d := vSet d w.vd i (out i).1
        if pair then vSet d (w.vd + 1) i (out i).2 else d) d
      devDone s t (d', r.2)

/-- The reduction value of elements: y[VLEN − 1] of an unsegmented inclusive scan, or the identity (R184), and the flags of the
whole scan (DESIGN CHOICE, log 92). -/
def redValue (ty : ScanType) (op : Nat) (x : List Pair) : Pair × Nat :=
  let r := scanAll ty op ((List.range x.length).map (fun i => (nth (0#32, 0#32) x i, decide (i = 0))))
  (if x.isEmpty then scanId ty op else (nth (scanId ty op, true) r.1 (x.length - 1)).1, r.2)

def devRed (s : State) (t c : Nat) (w : DevWord) : TRes :=
  match ScanType.ofCode (w.i 5 3) with
  | none => illegal s t c
  | some ty =>
    let op := w.i 1 0
    let pair := decide (ty = .cf32)
    if !(scanLegal ty op && isS w.vd && (if pair then isPair w.vs1 && decide (w.vd % 2 = 0) else isV w.vs1)) then illegal s t c
    else
      let d := getD s t
      let x := (List.range d.vlen).map (fun i =>
        if active d w.vs3 i then (vGet d w.vs1 i, if pair then vGet d (w.vs1 + 1) i else 0#32) else scanId ty op)
      let r := redValue ty op x
      let d := sSet d (w.vd - 32) r.1.1
      devDone s t (if pair then sSet d (w.vd - 31) r.1.2 else d, r.2)

/-! ### Softmax (R185 to R187) -/

/-- Case 5, step by step with every rounding to FP32. -/
def smaxRow (xs : List (Word × Bool)) : List Word :=
  let act := xs.filter (·.2)
  let m := act.foldl (fun m x => fpMax m x.1) 0xFF800000#32
  let e := xs.map (fun x => if x.2 then (transEval .exp2 (f32Mul (f32Sub x.1 m) 0x3FB8AA3B#32)).1 else 0#32)
  let s := (redValue .fp32 0 (e.map (fun w => (w, 0#32)))).1.1
  let r := (transEval .rcp s).1
  (List.range xs.length).map (fun i => if (nth (0#32, false) xs i).2 then f32Mul (nth 0#32 e i) r else 0#32)

/-- The cases of Table 05.6, in order: the output row and its flag. -/
def smaxOut (xs : List (Word × Bool)) : List Word × Nat :=
  let act := (xs.filter (·.2)).map (·.1)
  let infs := (act.filter (fun w => decide (w = 0x7F800000#32))).length
  if act.isEmpty then (xs.map (fun _ => 0#32), fSmaxEmpty)
  else if act.any f32IsNan then (xs.map (fun _ => f32Nan), fSmaxNan)
  else if 1 ≤ infs then
    (xs.map (fun x => if x.2 && decide (x.1 = 0x7F800000#32) then f32Of (.fin false 1 infs) else 0#32), 0)
  else if act.all (fun w => decide (w = 0xFF800000#32)) then (xs.map (fun _ => 0#32), fSmaxEmpty)
  else (smaxRow xs, 0)

def devSmax (s : State) (t c : Nat) (w : DevWord) : TRes :=
  if isV w.vd && isV w.vs1 then
    let d := getD s t
    if d.vlen = 0 then .ok s
    else
      let r := smaxOut ((List.range d.vlen).map (fun i => (vGet d w.vs1 i, active d w.vs3 i)))
      devDone s t ((List.range d.vlen).foldl (fun d i => vSet d w.vd i (nth 0#32 r.1 i)) d, r.2)
  else illegal s t c

/-! ### Transcendental functions (R188) -/

def devExp2 := devUn (transEval .exp2)
def devLog2 := devUn (transEval .log2)
def devRcp := devUn (transEval .rcp)
def devRsqrt := devUn (transEval .rsqrt)

/-! ### Complex FP32 (Table 05.5, 0x60 to 0x63) -/

def devCadd := devPairBin cfAdd
def devCmul := devPairBin (cfMul false)
def devCmulc := devPairBin (cfMul true)

def devCmag2 (s : State) (t c : Nat) (w : DevWord) : TRes :=
  if isV w.vd && isPair w.vs1 then
    let d := getD s t
    devDone s t (elemV d w.vd w.vs3 (fun i => cfMag2 (vGet d w.vs1 i) (vGet d (w.vs1 + 1) i)))
  else illegal s t c

/-! ### DSP (R189 to R191) -/

def devCmac (s : State) (t c : Nat) (w : DevWord) : TRes :=
  if isAcc w.vd && isV w.vs1 then
    let d := getD s t
    let p := w.vd
    let sgn : Int := if w.i 1 1 = 1 then -1 else 1
    devDone s t (elemAcc d p w.vs3 (fun i =>
      let x := q15Prod (decide (w.i 0 0 = 1)) (srcGet d w.vs1 i) (srcGet d w.vs2 i)
      let re := satAcc (aGet d p i + sgn * x.1)
      let im := satAcc (aGet d (p + 1) i + sgn * x.2)
      (re.1, im.1, if re.2 || im.2 then fAccSat else 0)))
  else illegal s t c

def devAclr (s : State) (t _c : Nat) (w : DevWord) : TRes :=
  let d := getD s t
  devDone s t ((List.range 4).foldl (fun d n =>
    if nbits w.imm n n = 1 then (List.range d.vlen).foldl (fun d i => aSet d n i 0) d else d) d, 0)

/-- Whether every part of every element below VLEN converts at shift s without saturation (R190). -/
def accFits (d : Developer) (p : Nat) (s : Int) : Bool :=
  (List.range d.vlen).all (fun i => !(q15OfAcc (aGet d p i) s).clipped && !(q15OfAcc (aGet d (p + 1) i) s).clipped)

/-- The smallest shift from a floor on at which every part converts (R190); at 31 every 48-bit value fits. -/
def autoShift (d : Developer) (p : Nat) : Nat → Int → Int
  | 0, s => s
  | n + 1, s => if accFits d p s then s else autoShift d p n (s + 1)

def devMovq (s : State) (t c : Nat) (w : DevWord) : TRes :=
  let k := signed 6 (w.i 5 0)
  if isV w.vd && isAcc w.vs1 && decide (-16 ≤ k) then
    let d := getD s t
    let p := w.vs1
    let sh := if w.i 7 7 = 1 then autoShift d p (31 - k).toNat k else k
    let r := elemV d w.vd w.vs3 (fun i => q15Pack (q15OfAcc (aGet d p i) sh) (q15OfAcc (aGet d (p + 1) i) sh))
    devDone s t (if w.i 13 13 = 1 ∧ d.vlen ≠ 0 then sSet r.1 (w.i 12 8) (BitVec.ofInt 32 sh) else r.1, r.2)
  else illegal s t c

def devLda (s : State) (t c : Nat) (w : DevWord) : TRes :=
  if isAcc w.vd && isV w.vs1 then
    let d := getD s t
    devDone s t (elemAcc d w.vd w.vs3 (fun i => let x := vGet d w.vs1 i; (q15Re x * 32768, q15Im x * 32768, 0)))
  else illegal s t c

def devCmulq := devBin q15Mul
def devCaddq := devBin q15Add
def devCsubq := devBin q15Sub

/-- The scratchpad offset of element i of a circular access (R191). A position that is not a multiple of 4 is used as it stands,
and its last element may run past the buffer's end (DESIGN CHOICE, log 93). -/
def circAddr (d : Developer) (n k stride i : Nat) : Nat :=
  let l := (mapGet 0#32 d.cbl n).toNat
  (mapGet 0#32 d.cbb n).toNat + ((sGet d k).toNat + 4 * i * stride) % l

def circOk (d : Developer) (n k : Nat) : Bool :=
  let l := (mapGet 0#32 d.cbl n).toNat
  decide (l ≠ 0) && decide ((sGet d k).toNat < l)

/-- The position register after a post-increment (R191). -/
def circPost (d : Developer) (w : DevWord) (k : Nat) : Developer :=
  if w.i 16 16 = 1 then
    sSet d k (BitVec.ofNat 32 (((sGet d k).toNat + 4 * d.vlen * w.i 15 8) % (mapGet 0#32 d.cbl (w.i 2 0)).toNat))
  else d

/-- The bytes of each active element of a circular access. -/
def circSpans (d : Developer) (n k stride vs3 : Nat) : List (Nat × Nat) :=
  ((List.range d.vlen).filter (fun i => active d vs3 i)).map (fun i => (circAddr d n k stride i, 4))

/-- The smallest range that holds every byte of a circular access (06 R208): its elements below VLEN, active or not. -/
def circRange (d : Developer) (n k stride : Nat) : Nat × Nat :=
  let l := (List.range d.vlen).map (circAddr d n k stride)
  let lo := l.foldl min (l.headD 0)
  (lo, if d.vlen = 0 then 0 else l.foldl max 0 + 4 - lo)

def devLdc (s : State) (t c : Nat) (w : DevWord) : TRes :=
  let d := getD s t
  let n := w.i 2 0
  let k := w.vs2 - 32
  if isV w.vd && isS w.vs2 && circOk d n k then
    let l := circSpans d n k (w.i 15 8) w.vs3
    withSpans s t c l fun s =>
    readSpans s t c l fun s =>
      let x := elemV d w.vd w.vs3 (fun i => (BitVec.ofNat 32 (getLe s (spBase t + circAddr d n k (w.i 15 8) i) 4), 0))
      devDone s t (sSet x.1 k (sGet (circPost d w k) k), x.2)
  else illegal s t c

def devStc (s : State) (t c : Nat) (w : DevWord) : TRes :=
  let d := getD s t
  let n := w.i 2 0
  let k := w.vs2 - 32
  if isV w.vs1 && isS w.vs2 && circOk d n k then
    withSpansW s t c (circSpans d n k (w.i 15 8) w.vs3) fun s =>
      let s := (List.range d.vlen).foldl (fun s i =>
        if active d w.vs3 i then setLe s (spBase t + circAddr d n k (w.i 15 8) i) 4 (vGet d w.vs1 i).toNat else s) s
      .ok (setD s t (circPost d w k))
  else illegal s t c

/-! ### The opcode table (Table 05.5) -/

/-- The instruction of an opcode; every other value is reserved (R175). -/
def devOp (op : Nat) : Option (State → Nat → Nat → DevWord → TRes) :=
  match op with
  | 0x00 => some devNop | 0x01 => some devSetvl | 0x02 => some devSli | 0x03 => some devSadd | 0x04 => some devVext
  | 0x05 => some devFence | 0x06 => some devGetf | 0x07 => some devClrf | 0x08 => some devSetcb
  | 0x10 => some devFadd | 0x11 => some devFsub | 0x12 => some devFmul | 0x13 => some devFma | 0x14 => some devFmin
  | 0x15 => some devFmax | 0x16 => some devFabs | 0x17 => some devFneg | 0x18 => some devFcmp
  | 0x20 => some devIadd | 0x21 => some devIsub | 0x22 => some devImul | 0x23 => some devImin | 0x24 => some devImax
  | 0x25 => some devAnd | 0x26 => some devOr | 0x27 => some devXor | 0x28 => some devShl | 0x29 => some devShr
  | 0x2A => some devSra | 0x2B => some devIcmp
  | 0x30 => some devSel | 0x31 => some devMand | 0x32 => some devMor | 0x33 => some devMxor | 0x34 => some devMnot
  | 0x35 => some devMpop | 0x38 => some devCvt
  | 0x40 => some devVld | 0x41 => some devVst | 0x42 => some devFbqRd | 0x43 => some devFbqRel
  | 0x48 => some devVperm | 0x49 => some devVslideup | 0x4A => some devVslidedn | 0x4B => some devVrev
  | 0x50 => some devScan | 0x51 => some devRed | 0x52 => some devSmax
  | 0x58 => some devExp2 | 0x59 => some devLog2 | 0x5A => some devRcp | 0x5B => some devRsqrt
  | 0x60 => some devCadd | 0x61 => some devCmul | 0x62 => some devCmulc | 0x63 => some devCmag2
  | 0x80 => some devCmac | 0x81 => some devAclr | 0x82 => some devMovq | 0x83 => some devLda | 0x84 => some devCmulq
  | 0x85 => some devCaddq | 0x86 => some devCsubq | 0x87 => some devLdc | 0x88 => some devStc
  | _ => none

/-- The bytes a Developer instruction touches in scratchpad, and whether it writes them (06 R208). -/
def devRange (d : Developer) (w : Word64) : Option (Nat × Nat × Bool) :=
  let f := DevWord.of w
  match fieldOf w 63 56 with
  | 0x40 => (vldPlan d f).map (fun p => let r := memRange p d.vlen; (r.1, r.2, false))
  | 0x41 => (vstPlan d f).map (fun p => let r := memRange p d.vlen; (r.1, r.2, true))
  | 0x87 => let r := circRange d (f.i 2 0) (f.vs2 - 32) (f.i 15 8); some (r.1, r.2, false)
  | 0x88 => let r := circRange d (f.i 2 0) (f.vs2 - 32) (f.i 15 8); some (r.1, r.2, true)
  | _ => none

/-- The scoreboard entry of a Developer instruction at a program-order position, from the bytes it touches. -/
def rangeEntry (pos : Nat) (r : Nat × Nat × Bool) : SbEntry :=
  let x := rowSpan r.1 r.2.1
  { pos := pos, unit := .developer, lo := x.1, hi := if r.2.1 = 0 then x.1 else x.2, rd := !r.2.2, wr := r.2.2 }

/-- The scoreboard entry of an instruction that sees Developer state d. -/
def devEntry (d : Developer) (pos : Nat) (w : Word64) : Option SbEntry := (devRange d w).map (rangeEntry pos)

/-! ### The entries of queued instructions (06 R208)

A queued instruction's range rests on registers that the instructions before it still write. What control instructions write is
worked out here; where a range rests on another result it is taken as the whole scratchpad (DESIGN CHOICE, log 94). -/

/-- The Developer state that a queued instruction will see, and what of it is not known: S registers, circular buffers, VLEN. -/
structure DevView where
  d : Developer
  lostS : List Nat
  lostCb : List Nat
  lostVl : Bool
  deriving DecidableEq, Repr

def DevView.lose (v : DevView) (n : Nat) : DevView := { v with lostS := n :: v.lostS }

/-- Set an S register from others: known when they are. -/
def DevView.put (v : DevView) (n : Nat) (x : Word) (srcs : List Nat) : DevView :=
  if srcs.any v.lostS.contains then v.lose n else { v with d := sSet v.d n x, lostS := v.lostS.filter (fun m => decide (m ≠ n)) }

/-- The view after one more instruction has executed. -/
def DevView.after (v : DevView) (w : Word64) : DevView :=
  let f := DevWord.of w
  let a := f.vs1 - 32
  let b := f.vs2 - 32
  match fieldOf w 63 56 with
  | 0x01 =>
    let n := min (if f.i 31 31 = 1 then f.i 8 0 else (sGet v.d a).toNat) 256
    let srcs := if f.i 31 31 = 1 then [] else [a]
    let u := v.put (f.vd - 32) (BitVec.ofNat 32 n) srcs
    if srcs.any v.lostS.contains then { u with lostVl := true } else { u with d := { u.d with vlen := n }, lostVl := false }
  | 0x02 => v.put (f.vd - 32) (BitVec.ofNat 32 f.imm) []
  | 0x03 => v.put (f.vd - 32) (sGet v.d a + sGet v.d b) [a, b]
  | 0x08 =>
    if v.lostS.contains a || v.lostS.contains b then { v with lostCb := f.i 2 0 :: v.lostCb }
    else { v with d := { v.d with cbb := mapSet 0#32 v.d.cbb (f.i 2 0) (sGet v.d a), cbl := mapSet 0#32 v.d.cbl (f.i 2 0) (sGet v.d b) }
                  lostCb := v.lostCb.filter (fun m => decide (m ≠ f.i 2 0)) }
  | 0x87 => if v.lostCb.contains (f.i 2 0) || v.lostVl then v.lose b else v.put b (sGet (circPost v.d f b) b) [b]
  | 0x88 => if v.lostCb.contains (f.i 2 0) || v.lostVl then v.lose b else v.put b (sGet (circPost v.d f b) b) [b]
  | 0x04 => v.lose (f.vd - 32)
  | 0x06 => v.lose (f.vd - 32)
  | 0x35 => v.lose (f.vd - 32)
  | 0x51 => (v.lose (f.vd - 32)).lose (f.vd - 31)
  | 0x82 => if f.i 13 13 = 1 then v.lose (f.i 12 8) else v
  | _ => v

/-- The bytes an instruction will touch, as far as the view knows. -/
def DevView.range (v : DevView) (w : Word64) : Option (Nat × Nat × Bool) :=
  let f := DevWord.of w
  (devRange v.d w).map (fun r =>
    let known := match fieldOf w 63 56 with
      | 0x40 => !v.lostS.contains (f.vs1 - 32)
      | 0x41 => !v.lostS.contains (f.vs2 - 32)
      | _ => !v.lostS.contains (f.vs2 - 32) && !v.lostCb.contains (f.i 2 0)
    if known && !v.lostVl then r else (0, spBytes, r.2.2))

/-- The scoreboard entries of a queue of Developer instructions, in order. -/
def devEntries (d : Developer) : List SbEntry :=
  (d.queue.foldl (fun (r : DevView × List SbEntry) q =>
    (r.1.after q.2, match r.1.range q.2 with
      | some x => r.2 ++ [rangeEntry q.1 x]
      | none => r.2)) ({ d := d, lostS := [], lostCb := [], lostVl := false }, [])).2

/-- Every entry of a tile's scoreboard: those entered, and those of queued Developer instructions (06 R208). -/
def sbAll (x : Tile) : List SbEntry := x.sb ++ devEntries x.dev

/-- Execute one instruction at the head of the queue. -/
def devExec (s : State) (t c : Nat) (w : Word64) : TRes :=
  match devOp (fieldOf w 63 56) with
  | some f => f s t c (DevWord.of w)
  | none => illegal s t c

end Sys2Proof.Machine
end

