-- ==== Sys2Proof/Machine/Rings.lean ====
section
/-!
DEFINITION. Rings.lean: ring counts and advances (06 R212 to R216), the spill of a ring (09 R321), and the pumps that let
a tile's queued work run as soon as it may.
-/
namespace Sys2Proof.Machine

open Sys2Proof

/-! ### Descriptors (06 Table 06.3) -/

/-- Field of n bytes at byte i of a descriptor. -/
def Desc.at (d : Desc) (i n : Nat) : Nat := nbits d.raw (8 * (i + n) - 1) (8 * i)
def Desc.src (d : Desc) : Nat := d.at 0 6
def Desc.srcSpace (d : Desc) : Nat := d.at 6 1 % 4
def Desc.cache (d : Desc) : Nat := d.at 6 1 / 4 % 4
def Desc.dst (d : Desc) : Nat := d.at 8 6
def Desc.dstSpace (d : Desc) : Nat := d.at 14 1 % 4
def Desc.len0 (d : Desc) : Nat := d.at 16 4
def Desc.count1 (d : Desc) : Nat := d.at 20 2
def Desc.count2 (d : Desc) : Nat := d.at 22 2
/-- The four strides: 0, 1 at the source, 2, 3 at the destination. -/
def Desc.stride (d : Desc) (i : Nat) : Int := signed 32 (d.at (24 + 4 * i) 4)
def Desc.op (d : Desc) : Nat := d.at 40 1
def Desc.trWidth (d : Desc) : Nat := d.at 41 1
def Desc.waitRing (d : Desc) : Nat := d.at 42 1 % 32
def Desc.waitKind (d : Desc) : Nat := d.at 42 1 / 32 % 4
def Desc.advRing (d : Desc) : Nat := d.at 43 1 % 32
def Desc.advKind (d : Desc) : Nat := d.at 43 1 / 32 % 4
def Desc.advRemote (d : Desc) : Bool := decide (128 ≤ d.at 43 1)
def Desc.advTile (d : Desc) : Nat := d.at 44 1
def Desc.waitN (d : Desc) : Nat := d.at 45 1 % 16 + 1
def Desc.advN (d : Desc) : Nat := d.at 45 1 / 16 + 1
def Desc.last (d : Desc) : Bool := d.raw.testBit 368
def Desc.link (d : Desc) : Bool := d.raw.testBit 369
def Desc.notify (d : Desc) : Bool := d.raw.testBit 370
def Desc.linkAddr (d : Desc) : Nat := d.at 48 6
def Desc.fill (d : Desc) : Nat := d.at 56 8
def Desc.bytes (d : Desc) : Nat := d.len0 * d.count1 * d.count2

/-- Whether a descriptor advances a ring of its own tile: the head, or the tail. -/
def Desc.advances (d : Desc) (n : Nat) (tail : Bool) : Bool :=
  decide (d.advRing = n) && !d.advRemote && decide (d.advKind = if tail then 2 else 1)

/-- The counts by which descriptors in flight on a tile will still advance a ring: what starts later reckons with them
(Example 06.1). -/
def dmaAhead (x : Tile) (n : Nat) (tail : Bool) : Nat :=
  (x.dma.map (fun ch => ((ch.inFlight.filter (fun r => r.desc.advances n tail)).map (fun r => r.desc.advN)).sum)).sum

/-! ### Rings (06 Tables 06.11, 06.12) -/

structure Ring where
  en : Bool
  slots : Nat     -- S
  size : Nat      -- Z, in 64 B units
  base : Nat      -- B, in 64 B units
  head : Nat
  tail : Nat
  deriving DecidableEq, Repr

def Ring.of (cfg ptr : Word) : Ring :=
  { en := bitOf cfg 31, slots := fieldOf cfg 28 25 + 1, size := fieldOf cfg 24 15 + 1, base := fieldOf cfg 14 0,
    head := fieldOf ptr 15 0, tail := fieldOf ptr 31 16 }

def ringAt (s : State) (t n : Nat) : Ring := Ring.of (getR s (Reg.TILE_RING_CFG t n)) (getR s (Reg.TILE_RING_PTR t n))

/-- (T − H) mod 65,536 (R212). -/
def Ring.occ (r : Ring) : Nat := (r.tail + 65536 - r.head) % 65536

/-- The scratchpad byte offset of the slot a free-running count names. -/
def Ring.slotAt (r : Ring) (n : Nat) : Nat := (r.base + (n % 65536 % r.slots) * r.size) * 64

/-- A configuration is accepted only with S at least 3 and B + S × Z at most 24,576 (R213). -/
def ringCfgOk (cfg : Word) : Bool :=
  let r := Ring.of cfg 0#32
  decide (3 ≤ r.slots) && decide (r.base + r.slots * r.size ≤ 24576)

/-! ### The overflow area (09 R321 to R323)

The spec gives neither the layout of the spill state in the first 4 KiB of the area nor the place of a slot: the state is one
16-byte record for each run of slots, and a slot takes the lowest free place (DESIGN CHOICE, log 95). -/

/-- The slots the overflow area of a context holds (09 R323). -/
def spillSlots (d : Decl) (r : Ring) : Nat := (d.ovfPages * 65536 - 4096) / (r.size * 64)

/-- The runs of a ring in the overflow area, oldest first. -/
def ringRuns (s : State) (t c n : Nat) : List SpillRun := (getC s c).spill.filter (fun x => decide (x.tile = t ∧ x.ring = n))

/-- Whether a ring is being spilled. -/
def spilled (s : State) (t c n : Nat) : Bool := !(ringRuns s t c n).isEmpty

/-- The occupancy an advance is judged against: S, or more while the ring is being spilled (09 R321). -/
def ringLimit (s : State) (t c n : Nat) (r : Ring) : Nat :=
  match declOf s c with
  | some d => if spilled s t c n then r.slots + spillSlots d r else r.slots
  | none => r.slots

/-- The units of 64 B that a run takes. -/
def runUnits (s : State) (x : SpillRun) : Nat := x.count * (ringAt s x.tile x.ring).size

/-- The lowest unit of the area from which n units are free, behind the 4 KiB of the spill state. -/
def spillPlace (s : State) (c n : Nat) : Option Nat :=
  let l := (getC s c).spill
  let room := (((declOf s c).map (·.ovfPages)).getD 0) * 1024
  ((64 :: l.map (fun x => x.unit + runUnits s x)).insertionSort (· ≤ ·)).find? (fun u =>
    decide (64 ≤ u) && decide (u + n ≤ room) && l.all (fun x => decide (x.unit + runUnits s x ≤ u ∨ u + n ≤ x.unit)))

/-- Add a slot to the newest run of its ring, or begin a run with it. -/
def addSlot (l : List SpillRun) (t n pos unit size : Nat) : List SpillRun :=
  let l := l.filter (fun x => !(decide (x.tile = t ∧ x.ring = n) && decide (x.count = 0)))
  match l.getLast? with
  | some x =>
    if x.tile = t ∧ x.ring = n ∧ (x.pos + x.count) % 65536 = pos ∧ x.unit + x.count * size = unit then
      l.dropLast ++ [{ x with count := x.count + 1 }]
    else l ++ [⟨t, n, pos, unit, 1⟩]
  | none => l ++ [⟨t, n, pos, unit, 1⟩]

/-- The record of a run in the spill state. -/
def SpillRun.bytes (x : SpillRun) : List Byte :=
  leBytes 1 1 ++ leBytes 1 x.ring ++ leBytes 2 x.tile ++ leBytes 4 x.pos ++ leBytes 4 x.unit ++ leBytes 4 x.count

/-- The run a record gives. -/
def SpillRun.read (bs : List Byte) : Option SpillRun :=
  let f := fun (i n : Nat) => leNat ((bs.drop i).take n)
  if f 0 1 = 1 then some { tile := f 2 2, ring := f 1 1, pos := f 4 4, unit := f 8 4, count := f 12 4 } else none

/-- Set a context's spill state, and write it to the first 4 KiB of its overflow area (R323). -/
def setSpill (s : State) (c : Nat) (l : List SpillRun) : State :=
  let s := modC s c (fun x => { x with spill := l })
  let va := ((declOf s c).map (·.ovfVa)).getD 0
  areaPut s c va ((l.flatMap SpillRun.bytes).take 4096 ++ List.replicate (4096 - 16 * l.length) 0#8)

/-- Read a context's spill state back (R323). -/
def loadSpill (s : State) (c : Nat) : State :=
  if (getC s c).spill.isEmpty then s
  else
    let va := ((declOf s c).map (·.ovfVa)).getD 0
    let bs := areaGet s c va 4096
    modC s c (fun x => { x with spill := (List.range 256).filterMap (fun i => SpillRun.read ((bs.drop (16 * i)).take 16)) })

/-- The virtual address in the overflow area of the slot that a ring count names, where it is spilled. -/
def spillVa (s : State) (t c n pos : Nat) : Option Nat :=
  ((ringRuns s t c n).find? (fun x => decide ((pos % 65536 + 65536 - x.pos) % 65536 < x.count))).map (fun x =>
    ((declOf s c).map (·.ovfVa)).getD 0 + (x.unit + (pos % 65536 + 65536 - x.pos) % 65536 * (ringAt s t n).size) * 64)

/-- Take places for the slots of ring counts pos to pos + k − 1 that lie beyond the ring's own and have none yet. -/
def takeSlots (s : State) (t c n : Nat) : Nat → Nat → Option (List SpillRun) → Option (List SpillRun)
  | 0, _, l => l
  | k + 1, pos, l =>
    let r := ringAt s t n
    let l := l.bind (fun l =>
      let s := modC s c (fun x => { x with spill := l })
      if (pos + 65536 - r.head) % 65536 < r.slots ∨ (spillVa s t c n pos).isSome then some l
      else if 256 ≤ l.length then none
      else (spillPlace s c r.size).map (addSlot l t n pos · r.size))
    takeSlots s t c n k ((pos + 1) % 65536) l

/-- Copy the oldest spilled slot into the scratchpad slot its ring count names, and release its place (R321). -/
def copyBack (s : State) (t c n : Nat) (x : SpillRun) : State :=
  let r := ringAt s t n
  let va := ((declOf s c).map (·.ovfVa)).getD 0 + x.unit * 64
  let s := setBytes s (spBase t + r.slotAt x.pos) (areaGet s c va (r.size * 64))
  let rest := (getC s c).spill.erase x
  setSpill s c (if x.count ≤ 1 then rest else
    (getC s c).spill.map (fun y => if y = x then { x with pos := (x.pos + 1) % 65536, unit := x.unit + r.size, count := x.count - 1 } else y))

/-- While a filled slot of a spilled ring stands in the overflow area although the ring has room for it, the oldest is copied
back; a head advance that finds no spilled slot ends the spill (R321). -/
def spillSettle : Nat → State → Nat → Nat → Nat → State
  | 0, s, _, _, _ => s
  | k + 1, s, t, c, n =>
    let r := ringAt s t n
    match (ringRuns s t c n).head? with
    | none => s
    | some x =>
      if x.count = 0 then setSpill s c ((getC s c).spill.erase x)
      else if (x.pos + 65536 - r.head) % 65536 < min r.slots r.occ then spillSettle k (copyBack s t c n x) t c n
      else s

/-- A context's running time, in ticks. -/
def runTime (s : State) (c : Nat) : Nat :=
  let x := getC s c
  x.runAcc + ((x.runSince.map (fun t => s.now - t)).getD 0)

/-- Advance a ring's head or tail by a count, already judged. The watchdog's window restarts (09 R320). -/
def ringMove (s : State) (t n : Nat) (tail : Bool) (k : Nat) : State :=
  let a := Reg.TILE_RING_PTR t n
  let s := modT s t (fun x => { x with wdSince := match x.wdSince, x.run with
    | some _, some c => some (runTime s c.val)
    | w, _ => w })
  if tail then setF s a 31 16 ((getF s a 31 16 + k) % 65536) else setF s a 15 0 ((getF s a 15 0 + k) % 65536)

/-- A ring advance (R214): an operation on a disabled ring, or an occupancy outside 0 to S, is a ring overrun. -/
def ringAdvance (s : State) (t c n : Nat) (tail : Bool) (k : Nat) : TRes :=
  let r := ringAt s t n
  let beyond := if tail then decide (ringLimit s t c n r < r.occ + k) else decide (r.occ < k)
  if !r.en || beyond then .fault s { faultRec 6 t c 0 with detail := n }
  else
    let s := ringMove s t n tail k
    .ok (if spilled s t c n && !(tail && decide ((ringRuns s t c n).all (fun x => x.count = 0))) then
        spillSettle (((ringRuns s t c n).map (·.count)).sum + 1) s t c n else s)

/-- Whether a wait is satisfied (R214): filled by k, or free by k. -/
def ringReady (r : Ring) (free : Bool) (k : Nat) : Bool := if free then decide (k + r.occ ≤ r.slots) else decide (k ≤ r.occ)

/-- Counts of a ring's pending advances, which the slots of a later advance lie beyond. -/
def advPending (x : Tile) (n : Nat) (tail : Bool) : Nat :=
  ((x.advQ.filter (fun a => decide (a.ring = n) && (a.tail == tail))).map (·.count)).sum

/-- The scoreboard entry of a RING.ADV: a write over the k slots it hands over (R214). -/
def advEntry (s : State) (t pos n : Nat) (tail : Bool) (k : Nat) : SbEntry :=
  let r := ringAt s t n
  let first := ((if tail then r.tail else r.head) + advPending (getT s t) n tail) % 65536 % r.slots
  let whole := decide (r.slots < first + k)
  { pos := pos, unit := .sequencer, lo := if whole then r.base else r.base + first * r.size,
    hi := if whole then r.base + r.slots * r.size else r.base + (first + k) * r.size, rd := false, wr := true }

/-- The slots a descriptor's destination may need: those it waits for, or the more it fills. -/
def Desc.slots (d : Desc) : Nat := if d.advances d.waitRing true then max d.waitN d.advN else d.waitN

/-! ### A channel's ring wait (06 R215, R221, 09 R320) -/

/-- Whether a descriptor's wait is satisfied, reckoning with what is in flight: a free wait on a spilled ring counts the places its
slots would take. -/
def waitOk (s : State) (t c : Nat) (d : Desc) : Bool :=
  let n := d.waitRing
  let r := ringAt s t n
  let x := getT s t
  match d.waitKind with
  | 1 => decide (d.waitN + dmaAhead x n false ≤ r.occ)
  | 2 =>
    let filled := r.occ + dmaAhead x n true
    decide (d.waitN + filled ≤ r.slots) ||
    (spilled s t c n && decide (d.waitN + filled ≤ ringLimit s t c n r) &&
      (takeSlots s t c n d.slots ((r.tail + dmaAhead x n true) % 65536) (some (getC s c).spill)).isSome)
  | _ => true

/-- The full rings of a tile that a channel waits on in free mode with a destination in space 3, ascending. -/
def blockedRings (s : State) (t c : Nat) : List Nat :=
  ((getT s t).dma.filterMap (fun ch => (ch.fetched.head?).bind (fun d =>
    let r := ringAt s t d.waitRing
    if d.waitKind = 2 ∧ d.dstSpace = 3 ∧ r.slots ≤ r.occ ∧ waitOk s t c d = false then some d.waitRing else none))).dedup.insertionSort (· ≤ ·)

/-! ### Letting queued work run -/

/-- An attempt's outcome as a state and, where its context faults, the record. -/
abbrev Step' := State × Option ErrRec

/-- Entries of the scoreboard whose work is still queued or in progress (06 R210). -/
def sbLive (x : Tile) (e : SbEntry) : Bool :=
  match e.unit with
  | .enlarger => (x.enl.queue.any (fun q => decide (q.1 = e.pos))) || (x.enl.pass.any (fun p => decide (p.pos = e.pos)))
      || (x.enl.loading.any (fun l => decide (l.pos = e.pos)))
  | .fixer => x.fix.any (fun j => decide (j.pos = e.pos))
  | .developer => x.dev.queue.any (fun q => decide (q.1 = e.pos))
  | .dma _ => x.dma.any (fun ch => ch.range.any (fun r => decide (r.pos = e.pos)))
  | .sequencer => x.advQ.any (fun a => decide (a.pos = e.pos))

/-- Release every entry whose last access is complete. -/
def sbTidy (s : State) (t : Nat) : State := modT s t (fun x => { x with sb := x.sb.filter (sbLive x) })

/-- Run the Developer's queue from its head while its instructions may dispatch (05 R165, R168): a scoreboard overlap or
an unfinished entry holds it. -/
def devPump : Nat → State → Nat → Nat → Step'
  | 0, s, _, _ => (s, none)
  | n + 1, s, t, c =>
    let x := getT s t
    match x.dev.queue with
    | [] => (s, none)
    | (pos, w) :: rest =>
      let blocked := match devEntry x.dev pos w with
        | some e => sbBlocks x.sb e
        | none => false
      if blocked then (incR (incR s (Reg.TILE_DEV_STALL_SB t) 1) (Reg.TILE_SB_STALL t) 1, none)
      else
        let s1 := sbTidy (setT s t { x with dev := { x.dev with queue := rest, lastOp := fieldOf w 63 56 } }) t
        match devExec s1 t c w with
        | .ok s => devPump n (incR s (Reg.TILE_DEV_INSTR t) 1) t c
        | .wait s' => (modT s' t (fun y => { y with dev := { y.dev with queue := (pos, w) :: y.dev.queue, lastOp := x.dev.lastOp } }), none)
        | .fault s r => (s, some r)

/-- Dispatch the Enlarger's queue from its head while Table 04.3 and the scoreboard permit (04 R134). -/
def enlPump : Nat → State → Nat → Nat → Step'
  | 0, s, _, _ => (s, none)
  | n + 1, s, t, c =>
    let s := passPump 65 s t c
    let x := getT s t
    match x.enl.queue with
    | [] => (s, none)
    | (pos, w) :: rest =>
      let blocked := match enlRange pos w with
        | some e => sbBlocks (sbAll x) e
        | none => false
      if !enlReady x.enl (fieldOf w 63 56) then (s, none)
      else if blocked then (incR s (Reg.TILE_SB_STALL t) 1, none)
      else
        match enlDispatch (setT s t { x with enl := { x.enl with queue := rest } }) t c pos w with
        | .ok s => enlPump n s t c
        | .wait s => (modT s t (fun y => { y with enl := { y.enl with queue := (pos, w) :: y.enl.queue } }), none)
        | .fault s r => (s, some r)

/-- A Fixer command that has not started dispatches once the scoreboard permits (06 R209), and starts once its entries are
finished (03 R113). -/
def fixPump (s : State) (t c : Nat) : Step' :=
  let x := getT s t
  match x.fix with
  | some j =>
    let f := FixCmd.of j.cmd
    if !j.waiting then (s, none)
    else if f.legal && sbBlocks (sbAll x) (fixRange f j.pos) then (incR s (Reg.TILE_SB_STALL t) 1, none)
    else match fixDispatch s t c j.pos j.cmd with
      | .ok s => (s, none)
      | .wait s => (s, none)
      | .fault s r => (s, some r)
  | none => (s, none)

/-- Ring advances take effect in order once no older access of the tile to their slots is outstanding (06 R214). -/
def advPump : Nat → State → Nat → Nat → Step'
  | 0, s, _, _ => (s, none)
  | n + 1, s, t, c =>
    let x := getT s t
    match x.advQ with
    | [] => (s, none)
    | a :: rest =>
      let mine := x.sb.find? (fun e => decide (e.pos = a.pos))
      if (mine.map (sbBlocks (sbAll x))).getD false then (s, none)
      else
        match ringAdvance (setT s t { x with advQ := rest, sb := x.sb.filter (fun e => decide (e.pos ≠ a.pos)) }) t c a.ring a.tail a.count with
        | .ok s => advPump n s t c
        | .wait s => (s, none)
        | .fault s r => (s, some r)

/-- Continue when no fault has been met. -/
def thenStep (r : Step') (f : State → Step') : Step' := match r with | (s, none) => f s | r => r

/-- One round over a tile's units. -/
def settleOnce (s : State) (t c : Nat) : Step' :=
  let tidy := fun (s : State) => sbTidy s t
  thenStep (enlPump 5 s t c) fun s =>
  thenStep (fixPump (tidy s) t c) fun s =>
  thenStep (devPump 8 (tidy s) t c) fun s =>
  advPump 32 (tidy s) t c

/-- Whether anything is queued on a tile that a completion could let run. -/
def hasQueued (x : Tile) : Bool :=
  !x.enl.queue.isEmpty || x.enl.pass.isSome || x.fix.any (·.waiting) || !x.dev.queue.isEmpty || !x.advQ.isEmpty

/-- Rounds over a tile's units until a round changes nothing, at most n. -/
def settle : Nat → State → Nat → Nat → Step'
  | 0, s, _, _ => (s, none)
  | n + 1, s, t, c =>
    if hasQueued (getT s t) then
      match settleOnce s t c with
      | (s', none) =>
        let x := getT s t
        let y := getT s' t
        if x.dev.queue.length = y.dev.queue.length ∧ x.enl.queue.length = y.enl.queue.length ∧ x.advQ.length = y.advQ.length
            ∧ x.enl.fbq.length = y.enl.fbq.length ∧ x.fix = y.fix then (s', none)
        else settle n s' t c
      | r => r
    else (sbTidy s t, none)

end Sys2Proof.Machine
end

