-- ==== Sys2Proof/Machine/Air.lean ====
section
/-!
DEFINITION. Air.lean: the air-time grid (13 R408 to R410), the carrier parameters of SCH_CC_CFG (08 Table 08.12), and the
cyclic redundancy checks the chapters name.
-/
namespace Sys2Proof.Machine

open Sys2Proof

/-! ### The grid. Instants are counted in thirds of 2^-16 ns, of which T_c is exactly 100,000. -/

def gridPerUs : Nat := 3 * unitsPerUs
def gridPerMs : Nat := 1000 * gridPerUs
def tcGrid : Nat := 100000

/-- The GPS epoch in the PTP timescale: 315,964,819 s (R408). -/
def gpsGrid : Nat := 315964819 * 3 * unitsPerSec

/-- Device time on the grid. -/
def nowGrid (s : State) : Nat := 3 * s.time.dev

/-- The device frame that holds device time, counted from the GPS epoch (R408). -/
def deviceFrame (s : State) : Nat := (nowGrid s - gpsGrid) / (10 * gridPerMs)

/-- The device SFN. -/
def deviceSfn (s : State) : Nat := deviceFrame s % 1024

/-! ### Carrier parameters -/

def ccValid (s : State) (c : Nat) : Bool := getB s (Reg.SCH_CC_CFG c 0) 31
def ccMu (s : State) (c : Nat) : Nat := getF s (Reg.SCH_CC_CFG c 0) 30 29
def ccTdd (s : State) (c : Nat) : Bool := getB s (Reg.SCH_CC_CFG c 0) 28
def ccPrb (s : State) (c : Nat) : Nat := getF s (Reg.SCH_CC_CFG c 0) 27 19
def ccPorts (s : State) (c : Nat) : Nat := getF s (Reg.SCH_CC_CFG c 0) 18 12
def ccLayers (s : State) (c : Nat) : Nat := getF s (Reg.SCH_CC_CFG c 0) 11 7
def ccBudget (s : State) (c : Nat) : Nat := getF s (Reg.SCH_CC_CFG c 1) 24 16
def ccRxWin (s : State) (c : Nat) : Nat := getF s (Reg.SCH_CC_CFG c 1) 8 0
def ccCutSym (s : State) (c : Nat) : Nat := getF s (Reg.SCH_CC_CFG c 2) 31 28
def ccSpec (s : State) (c : Nat) : Nat := getF s (Reg.SCH_CC_CFG c 2) 27 26
def ccDlCut (s : State) (c : Nat) : Nat := getF s (Reg.SCH_CC_CFG c 2) 10 0
def ccLeadMax (s : State) (c : Nat) : Nat := getF s (Reg.SCH_CC_CFG c 3) 24 16
def ccLeadMin (s : State) (c : Nat) : Nat := getF s (Reg.SCH_CC_CFG c 3) 8 0

/-- Slots of a frame at a numerology. -/
def slotsPerFrame (mu : Nat) : Nat := 10 * 2 ^ mu

/-- Symbols of a half-subframe: its first is 1,024 T_c longer than the others (R409). -/
def symsPerHalf (mu : Nat) : Nat := 7 * 2 ^ mu

/-- A symbol's length without that excess, in T_c: 140,288 at numerology 0. -/
def symTc (mu : Nat) : Nat := 140288 / 2 ^ mu

/-- The start of symbol l of slot n of a frame, in T_c from the frame's start; l may be 14 for the slot's end. -/
def symStartTc (mu n l : Nat) : Nat :=
  let q := n * 14 + l
  let h := q / symsPerHalf mu
  let j := q % symsPerHalf mu
  h * 983040 + j * symTc mu + (if j = 0 then 0 else 1024)

/-- A carrier's timing offset in grid units (R409). -/
def ccOffset (s : State) (c : Nat) : Int := signed 32 (getN s (Reg.TIME_CC_OFFSET c)) * (3 * 65536 : Nat)

/-- The air-time start of symbol l of slot n (slots numbered from the GPS epoch). -/
def symStart (s : State) (c n l : Nat) : Nat :=
  let mu := ccMu s c
  let k := slotsPerFrame mu
  (((gpsGrid + n / k * (10 * gridPerMs) + symStartTc mu (n % k) l * tcGrid : Nat) : Int) + ccOffset s c).toNat

/-- The air-time start of a slot, and the end of a symbol. -/
def slotStart (s : State) (c n : Nat) : Nat := symStart s c n 0
def symEnd (s : State) (c n l : Nat) : Nat := symStart s c n (l + 1)

/-- A slot's SFN and index, and the slot number of R64. -/
def sfnOf (s : State) (c n : Nat) : Nat := n / slotsPerFrame (ccMu s c) % 1024
def slotOf (s : State) (c n : Nat) : Nat := n % slotsPerFrame (ccMu s c)
def slotNum (s : State) (c n : Nat) : Nat := n % (1024 * slotsPerFrame (ccMu s c))

/-- The slot that holds device time. -/
def slotNow (s : State) (c : Nat) : Nat :=
  let t := (((nowGrid s : Nat) : Int) - ccOffset s c - (gpsGrid : Nat)).toNat
  let mu := ccMu s c
  let k := slotsPerFrame mu
  let f := t / (10 * gridPerMs)
  let r := t % (10 * gridPerMs)
  f * k + ((List.range k).filter (fun i => decide (symStartTc mu i 0 * tcGrid ≤ r))).length - 1

/-- The slot that an SFN and a slot index name: the one nearest the present (DEDUCED, log 14). -/
def slotNamed (s : State) (c sfn slot : Nat) : Nat :=
  let k := slotsPerFrame (ccMu s c)
  let period := 1024 * k
  let here := slotNow s c
  let want := (sfn % 1024) * k + slot
  let d := (want + period - here % period) % period
  if d < period / 2 then here + d else here + d - period

/-- A tick of 1.25 ns on the grid. -/
def gridPerTick : Nat := 245760

/-- µs as grid units. -/
def us (n : Nat) : Nat := n * gridPerUs

/-- Grid instants that bound a slot's uplink (02 R52, R73). -/
def rxWindowEnd (s : State) (c n l : Nat) : Nat := symEnd s c n l + us (ccRxWin s c)
def ulCutoff (s : State) (c n : Nat) : Nat := symStart s c n (ccCutSym s c) + us (ccRxWin s c)

/-- The latest moment at which downlink requests are on time (02 R80). -/
def dlCutoff (s : State) (c n : Nat) : Nat := slotStart s c n - us (ccDlCut s c)

/-! ### Checks -/

/-- One step of a CRC of width w and generator g over a bit, most significant bit first. -/
def crcBit (w g : Nat) (r : Nat) (b : Bool) : Nat :=
  let top := decide (2 ^ (w - 1) ≤ r)
  let r := r * 2 % 2 ^ w
  if top == b then r else r ^^^ g

/-- A CRC over bits. -/
def crcBits (w g init : Nat) (bs : List Bool) : Nat := bs.foldl (crcBit w g) init

/-- The bits of a byte, most significant first. -/
def byteBits (b : Byte) : List Bool := (List.range 8).map (fun i => bitOf b (7 - i))

def bytesBits (bs : List Byte) : List Bool := bs.flatMap byteBits

/-- CRC-64/ECMA-182 of bytes (02 R66). -/
def crc64 (bs : List Byte) : Nat := crcBits 64 0x42F0E1EBA9EA3693 0 (bytesBits bs)

/-- Continue a CRC-64 over more bytes. -/
def crc64On (r : Nat) (bs : List Byte) : Nat := crcBits 64 0x42F0E1EBA9EA3693 r (bytesBits bs)

/-- The TB and code-block checks of TS 38.212 clause 5.1 (10 R343). -/
def crc24a (bs : List Bool) : Nat := crcBits 24 0x864CFB 0 bs
def crc24b (bs : List Bool) : Nat := crcBits 24 0x800063 0 bs
def crc16 (bs : List Bool) : Nat := crcBits 16 0x1021 0 bs
def crc11 (bs : List Bool) : Nat := crcBits 11 0x621 0 bs
def crc6 (bs : List Bool) : Nat := crcBits 6 0x21 0 bs

/-- The n bits of a number, most significant first. -/
def natBits (n x : Nat) : List Bool := (List.range n).map (fun i => x.testBit (n - 1 - i))

/-- The bytes of bits packed most significant first, the last byte filled with zeros. -/
def packBits (bs : List Bool) : List Byte :=
  (List.range ((bs.length + 7) / 8)).map (fun i =>
    BitVec.ofNat 8 ((List.range 8).foldl (fun a j => 2 * a + ((bs[8 * i + j]?).getD false).toNat) 0))

end Sys2Proof.Machine
end

