-- ==== Sys2Proof/Machine/UeTables.lean ====
section
/-!
DEFINITION. UeTables.lean: the UE context table and the HARQ table (10 R332 to R339, R349 to R353), held in memory at
their windows, and the carriers' slots.
-/
namespace Sys2Proof.Machine

open Sys2Proof

/-! ### Carriers and slots -/

def getCar (s : State) (c : Nat) : Carrier := mapGet Carrier.init s.carriers c
def setCar (s : State) (c : Nat) (x : Carrier) : State := { s with carriers := mapSet Carrier.init s.carriers c x }
def modCar (s : State) (c : Nat) (f : Carrier → Carrier) : State := setCar s c (f (getCar s c))
def getUl (s : State) (c n : Nat) : UlSlot := mapGet UlSlot.init (getCar s c).ul n
def modUl (s : State) (c n : Nat) (f : UlSlot → UlSlot) : State :=
  modCar s c (fun x => { x with ul := mapPut x.ul n (f (mapGet UlSlot.init x.ul n)) })
def getDl (s : State) (c n : Nat) : DlSlot := mapGet DlSlot.init (getCar s c).dl n
def modDl (s : State) (c n : Nat) (f : DlSlot → DlSlot) : State :=
  modCar s c (fun x => { x with dl := mapPut x.dl n (f (mapGet DlSlot.init x.dl n)) })
def modPdu (s : State) (c n k : Nat) (f : UlPdu → UlPdu) : State :=
  modUl s c n (fun u => { u with pdus := u.pdus.modify k f })

/-- Whether a PDU's TB is undecided and will be decided. -/
def UlPdu.live (p : UlPdu) : Bool := p.decided.isNone && !p.dup

/-- Every PUSCH PDU in flight. -/
def pdusInFlight (s : State) : List UlPdu :=
  s.carriers.flatMap (fun kv => kv.2.ul.flatMap (fun u => u.2.pdus.filter UlPdu.live))

/-! ### Fields of an allocation record (02 Table 02.5a) -/

def recField (rec' : List Byte) (at' n : Nat) : Nat := leNat ((rec'.drop at').take n)

/-- The symbols an allocation covers, ascending. -/
def recSyms (rec' : List Byte) : List Nat := (List.range 14).filter (fun l => decide (recField rec' 64 1 ≤ l ∧ l < recField rec' 64 1 + recField rec' 65 1))

/-- The PRBs of the carrier that a record names: BWPStart plus its bit map or its range. -/
def recNamed (rec' : List Byte) (b : Nat) : Bool :=
  let start := recField rec' 2 2
  let i := b - start
  decide (start ≤ b) &&
  (if recField rec' 22 1 = 0 then decide (i < 288) && (recField rec' 24 36).testBit i
   else decide (recField rec' 60 2 ≤ i ∧ i < recField rec' 60 2 + recField rec' 62 2))

/-- The PRBs of the carrier an allocation covers. Where it hops or its mapping is interleaved, the whole bandwidth part counts
(DEDUCED, log 67: the record does not hold the second hop). -/
def recPrbs (rec' : List Byte) : Nat → Bool := fun b =>
  if recField rec' 66 1 ≠ 0 ∨ recField rec' 23 1 ≠ 0 then decide (recField rec' 2 2 ≤ b ∧ b < recField rec' 2 2 + recField rec' 4 2)
  else recNamed rec' b

/-- The first DMRS symbol of an allocation (11 R367). -/
def firstDmrs (rec' : List Byte) : Option Nat := (recSyms rec').find? (fun l => (recField rec' 12 2).testBit l)

/-- Data REs of a PRB in a DMRS symbol: the CDM groups without data take 6 REs each at configuration type 1 and 4 at type 2
(TS 38.211 clause 6.4.1.1.3, PRESUMED, log 104). -/
def dmrsData (rec' : List Byte) : Nat := 12 - (if recField rec' 11 1 = 0 then 6 else 4) * recField rec' 19 1

/-- The LLRs of an allocation, E_total (10 R328): a bit for each of Q_m, layer and data RE. The PTRS parameters lie outside the record,
on which all of stage 4 depends (02 R65), so no PTRS RE is left out (DEDUCED, log 112). -/
def llrCount (rec' : List Byte) : Nat :=
  let prbs := ((List.range 600).filter (recNamed rec')).length
  let res := ((recSyms rec').map (fun l => if (recField rec' 12 2).testBit l then dmrsData rec' else 12)).sum
  prbs * res * recField rec' 8 1 * recField rec' 10 1

def puschField (p : PuschPdu) (at' n : Nat) : Nat := recField p.alloc at' n
def puschRnti (p : PuschPdu) : Nat := puschField p 0 2

/-! ### Segmentation (TS 38.212 clause 5.2.2, as R329 names it; log 104) -/

structure Seg where
  c : Nat      -- code blocks
  zc : Nat
  kPrime : Nat -- information bits of a code block with its CRC
  n : Nat      -- circular buffer before limitation
  ncb : Nat
  deriving DecidableEq, Repr

def liftSizes : List Nat :=
  [2, 3, 4, 5, 6, 7, 8, 9, 10, 11, 12, 13, 14, 15, 16, 18, 20, 22, 24, 26, 28, 30, 32, 36, 40, 44, 48, 52, 56, 60, 64, 72, 80,
   88, 96, 104, 112, 120, 128, 144, 160, 176, 192, 208, 224, 240, 256, 288, 320, 352, 384]

/-- Bits of the TB's CRC. -/
def tbCrcBits (tbBytes : Nat) : Nat := if 3824 < 8 * tbBytes then 24 else 16

def Seg.of (tbBytes : Nat) (bg2 : Bool) (lbrm : Nat) : Seg :=
  let b := 8 * tbBytes + tbCrcBits tbBytes
  let kcb := if bg2 then 3840 else 8448
  let c := if b ≤ kcb then 1 else (b + (kcb - 24) - 1) / (kcb - 24)
  let kPrime := (if c = 1 then b else b + 24 * c) / c
  let kb := if !bg2 then 22 else if 640 < b then 10 else if 560 < b then 9 else if 192 < b then 8 else 6
  let zc := (liftSizes.find? (fun z => decide (kPrime ≤ kb * z))).getD 384
  let n := (if bg2 then 50 else 66) * zc
  let nref := 8 * lbrm * 3 / (2 * c)
  { c := c, zc := zc, kPrime := kPrime, n := n, ncb := if lbrm = 0 then n else min n nref }

/-- LLR pages that a descriptor needs (R333). -/
def Seg.pages (g : Seg) : Nat := (g.c * ((g.ncb + 63) / 64 * 64) + 65535) / 65536

/-! ### The HARQ table (R332 to R337) -/

def harqAt (h : Nat) : Nat := harqBase + 32 * h
def hGet (s : State) (h off n : Nat) : Nat := getLe s (harqAt h + off) n
def hSet (s : State) (h off n x : Nat) : State := setLe s (harqAt h + off) n x
def harqValid (s : State) (h : Nat) : Bool := decide (h < 131072) && (hGet s h 2 1).testBit 5

/-- Descriptors in use, ascending: those whose ctl byte is listed with its valid bit. -/
def harqUsed (s : State) : List Nat :=
  s.mem.filterMap (fun kv =>
    if harqBase ≤ kv.1 ∧ kv.1 < harqBase + 131072 * 32 ∧ (kv.1 - harqBase) % 32 = 2 ∧ bitOf kv.2 5 then some ((kv.1 - harqBase) / 32) else none)

def harqOfCarrier (s : State) (c : Nat) : List Nat := (harqUsed s).filter (fun h => decide (hGet s h 3 1 % 32 = c))

/-- The age of a slot number against slot n of a carrier, in slots. -/
def slotAge (s : State) (c n last : Nat) : Nat :=
  let p := 1024 * slotsPerFrame (ccMu s c)
  (n % p + p - last % p) % p

/-- Expired for slot n (R336). -/
def harqExpired (s : State) (c n h : Nat) : Bool := decide (getF s Reg.HARQ_CFG 9 0 * 2 ^ ccMu s c ≤ slotAge s c n (hGet s h 20 4))

/-- Pages that a descriptor's code blocks need. -/
def harqNeed (s : State) (h : Nat) : Nat := ((hGet s h 8 1 + 1) * ((hGet s h 12 2 + 63) / 64 * 64) + 65535) / 65536

/-- The pages of a chain from a page on, at most n. -/
def chainPages (links : SMap Nat) : Nat → Nat → List Nat
  | 0, _ => []
  | n + 1, p => match mapFind links p with
    | some nx => p :: (if nx = 0 then [] else chainPages links n (nx - 1))
    | none => []

def ueAt (u : Nat) : Nat := ctxCoreBase + 128 * u
def extAt (s : State) (u : Nat) : Nat := getN64 s Reg.CTX_EXT_BASE_LO Reg.CTX_EXT_BASE_HI + 0x180 * u
def uGet (s : State) (u off n : Nat) : Nat := getLe s (ueAt u + off) n
def uSet (s : State) (u off n x : Nat) : State := setLe s (ueAt u + off) n x

/-- The harq_map entry of process i, and its fields (Table 10.5). -/
def harqMap (s : State) (u i : Nat) : Nat := uGet s u (20 + 3 * i) 3
def setHarqMap (s : State) (u i x : Nat) : State := uSet s u (20 + 3 * i) 3 x

/-- Release a descriptor and its whole chain (R335). -/
def harqRelease (s : State) (h : Nat) : State :=
  if harqValid s h then
    let pages := if hGet s h 18 2 = 0 then [] else chainPages s.coding.harqLinks (hGet s h 18 2) (hGet s h 24 3 % 2 ^ 19)
    let u := hGet s h 0 2
    let i := hGet s h 2 1 % 16
    let s := if (harqMap s u i).testBit 23 && decide (harqMap s u i % 2 ^ 17 = h) then
        setHarqMap s u i (harqMap s u i / 2 ^ 17 % 4 * 2 ^ 17) else s
    let s := setBytes s (harqAt h) (List.replicate 32 0#8)
    { s with coding := { s.coding with cbExp := mapFilter (fun x => decide (x / 256 ≠ h)) s.coding.cbExp
                                       harqLinks := mapFilter (fun p => !pages.contains p) s.coding.harqLinks
                                       prefetch := s.coding.prefetch.filter (fun p => decide (p.1 ≠ h)) } }
  else s

/-- Whether a PDU in flight uses a descriptor. -/
def harqBusy (s : State) (h : Nat) : Bool := (pdusInFlight s).any (fun p => decide (p.desc = some h))

/-- The first of a list by age then index: oldest last_slot, then lowest index. -/
def oldest (l : List (Nat × Nat)) : Option Nat :=
  (l.foldl (fun (b : Option (Nat × Nat)) x => match b with
    | none => some x
    | some y => if y.1 < x.1 then some x else some y) none).map (·.2)

/-- Whether a new descriptor with a page need fits the carrier's quotas at slot n: expired descriptors count as free. -/
def harqFits (s : State) (c n need : Nat) : Bool :=
  let l := (harqOfCarrier s c).filter (fun h => !harqExpired s c n h)
  decide (l.length < getF s (Reg.HARQ_CC_DQ c) 16 0) && decide ((l.map (harqNeed s)).sum + need ≤ getF s (Reg.HARQ_CC_PQ c) 19 0)

/-- Evict until a need fits, or nothing more can go (R337). -/
def harqMakeRoom : Nat → State → Nat → Nat → Nat → State
  | 0, s, _, _, _ => s
  | k + 1, s, c, n, need =>
    if harqFits s c n need then s
    else
      match oldest (((harqOfCarrier s c).filter (fun h => !harqExpired s c n h && !harqBusy s h)).map
          (fun h => (slotAge s c n (hGet s h 20 4), h))) with
      | none => s
      | some h => harqMakeRoom k (incR (harqRelease s h) Reg.HARQ_EVICT_QUOTA 1) c n need

/-- The newest slot whose request a carrier has accepted on time. -/
def lastAccepted (s : State) (c : Nat) : Option Nat := (((getCar s c).ul.filter (fun u => decide (u.2.cls = .onTime))).map (·.1)).getLast?

/-- Whether a descriptor is expired for its carrier's newest slot, and no PDU in flight uses it: the background frees it (R336). -/
def harqStale (s : State) (h : Nat) : Bool :=
  let c := hGet s h 3 1 % 32
  harqValid s h && !harqBusy s h && ((lastAccepted s c).map (fun n => harqExpired s c n h)).getD false

/-- Free the lowest stale descriptor, so that a grant finds the shared pool as R336 counts it. -/
def harqReclaim (s : State) : State :=
  match (harqUsed s).find? (harqStale s) with
  | some h => incR (harqRelease s h) Reg.HARQ_EVICT_AGE 1
  | none => s

/-- The lowest index not in a list of used ones. -/
def firstFree (used : List Nat) : Nat := ((List.range (used.length + 1)).find? (fun i => !used.contains i)).getD 0

/-- A new descriptor for process i of UE u (R334, R335), or none where its quota cannot hold it. -/
def harqNew (s : State) (c n u : Nat) (p : PuschPdu) : Option Nat × State :=
  let g := Seg.of p.tbBytes p.bg2 p.lbrm
  let s := harqMakeRoom 131072 s c n g.pages
  let s := if 131072 ≤ (harqUsed s).length then harqReclaim s else s
  let used := harqUsed s
  if harqFits s c n g.pages && decide (used.length < 131072) then
    let h := firstFree used
    let s := setBytes s (harqAt h) (List.replicate 32 0#8)
    let s := hSet s h 0 2 u
    let s := hSet s h 2 1 (p.harq % 16 + (if p.ndi then 16 else 0) + 32 + (if p.lbrm = 0 then 0 else 64) + (if p.bg2 then 128 else 0))
    let s := hSet s h 3 1 c
    let s := hSet s h 4 4 p.tbBytes
    let s := hSet s h 8 1 (g.c - 1)
    let s := hSet s h 10 2 g.zc
    let s := hSet s h 12 2 g.ncb
    let s := hSet s h 20 4 (slotNum s c n)
    (some h, setHarqMap s u p.harq (h + 2 ^ 23 + harqMap s u p.harq / 2 ^ 17 % 4 * 2 ^ 17))
  else (none, incR s Reg.HARQ_NO_BUFFER 1)

/-- The HARQ decision of a PUSCH PDU at acceptance (Table 10.2): its descriptor, and whether it combines into zero. -/
def harqDecide (s : State) (c n : Nat) (ue : Option Nat) (p : PuschPdu) : (Option Nat × Bool) × State :=
  match ue with
  | none => ((none, true), incR s Reg.HARQ_NO_BUFFER 1)
  | some u =>
    let m := harqMap s u p.harq
    let h := m % 2 ^ 17
    let present := m.testBit 23 && harqValid s h
    let expired := present && harqExpired s c n h
    let s := if expired then incR (harqRelease s h) Reg.HARQ_EVICT_AGE 1 else s
    let seen := m.testBit 18
    let lastNdi := m.testBit 17
    let note := fun (s : State) => setHarqMap s u p.harq (harqMap s u p.harq / 2 ^ 23 * 2 ^ 23 + harqMap s u p.harq % 2 ^ 17
      + (if p.ndi then 2 ^ 17 else 0) + 2 ^ 18)
    let grant := fun (s : State) => let r := harqNew s c n u p; ((r.1, true), note r.2)
    if present && !expired then
      if (hGet s h 2 1).testBit 4 != p.ndi then grant (harqRelease s h)
      else if hGet s h 4 4 != p.tbBytes || (hGet s h 2 1).testBit 7 != p.bg2 || (hGet s h 2 1).testBit 6 != decide (p.lbrm ≠ 0) then
        grant (harqRelease (incR s Reg.HARQ_MISMATCH 1) h)
      else ((some h, false), note s)
    else if seen && (lastNdi == p.ndi) then grant (incR s Reg.HARQ_RETX_MISS 1)
    else grant s

/-- Take LLR pages of the pool of 524,288 until a chain holds `pages` of them: the lowest free page each time (DEDUCED, log 17). The
quotas leave every chain its need once stale descriptors are freed (R335, R336). -/
def harqPages : Nat → State → Nat → Nat → State
  | 0, s, _, _ => s
  | k + 1, s, h, pages =>
    let full := fun (s : State) => decide (524288 ≤ s.coding.harqLinks.length)
    let s := if full s then harqReclaim s else s
    if pages ≤ hGet s h 18 2 ∨ full s then s
    else
      let used := s.coding.harqLinks.map (·.1)
      let p := firstFree used
      let links := mapPut s.coding.harqLinks p 0
      let have' := hGet s h 18 2
      let links := if have' = 0 then links else mapPut links (hGet s h 28 3 % 2 ^ 19) (p + 1)
      let s := { s with coding := { s.coding with harqLinks := links } }
      let s := if have' = 0 then hSet s h 24 3 p else s
      harqPages k (hSet (hSet s h 28 3 p) h 18 2 (have' + 1)) h pages

/-- The physical address of byte b of a descriptor's chain (R333). -/
def chainAddr (s : State) (h b : Nat) : Nat :=
  let pages := chainPages s.coding.harqLinks (hGet s h 18 2) (hGet s h 24 3 % 2 ^ 19)
  getN64 s Reg.HARQ_POOL_BASE_LO Reg.HARQ_POOL_BASE_HI + nth 0 pages (b / 65536) * 65536 + b % 65536

/-- Queue the prefetch of a retransmission's pages into the 8 MiB store, as far as they fit (R339). -/
def harqPrefetch (s : State) (h : Nat) : State :=
  let free := 8192 - (s.coding.prefetch.map (·.2)).sum
  let kib := min (64 * hGet s h 18 2) (free / 64 * 64)
  if kib = 0 then s else { s with coding := { s.coding with prefetch := s.coding.prefetch ++ [(h, kib)] } }

/-! ### The UE context table (R349 to R351) -/

/-- Entries in use, ascending. -/
def ueUsed (s : State) : List Nat :=
  s.mem.filterMap (fun kv =>
    if ctxCoreBase ≤ kv.1 ∧ kv.1 < ctxCoreBase + 65536 * 128 ∧ (kv.1 - ctxCoreBase) % 128 = 3 ∧ bitOf kv.2 0 then
      some ((kv.1 - ctxCoreBase) / 128) else none)

def ueOfCarrier (s : State) (c : Nat) : List Nat := (ueUsed s).filter (fun u => decide (uGet s u 2 1 % 32 = c))

/-- Look an entry up by carrier and RNTI. -/
def ueFind (s : State) (c rnti : Nat) : Option Nat := (ueOfCarrier s c).find? (fun u => decide (uGet s u 0 2 = rnti))

def ueFlag (s : State) (u i : Nat) : Bool := (uGet s u 3 1).testBit i
def ueVersion (s : State) (u : Nat) : Nat := uGet s u 4 2

/-- Release an entry with every descriptor of its harq_map (R351). -/
def ueRelease (s : State) (u : Nat) : State :=
  let s := forEach (List.range 16) s (fun i s =>
    let m := harqMap s u i
    if m.testBit 23 then harqRelease s (m % 2 ^ 17) else s)
  uSet s u 3 1 0

/-- Whether a PUSCH, PUCCH or SRS PDU in flight uses an entry. -/
def ueBusy (s : State) (u : Nat) : Bool :=
  (pdusInFlight s).any (fun p => decide (p.ue = some u)) ||
  s.carriers.any (fun kv => kv.2.ul.any (fun x => !x.2.expired && (x.2.pucch ++ x.2.srs).any (fun r => !r.done && decide (r.ue = some u))))

/-- Air time from an entry's last slot has reached ue_age. -/
def ueExpired (s : State) (c n u : Nat) : Bool := decide (getF s Reg.CTX_CFG 13 0 * 2 ^ ccMu s c ≤ slotAge s c n (uGet s u 8 4))

/-- The base of a UE's frequency reference record (11 R366). -/
def refAt (s : State) (u : Nat) : Nat := getN64 s Reg.RXM_REF_BASE_LO Reg.RXM_REF_BASE_HI + u * 0x800

/-- A new entry at the lowest free index (R350, log 17): core, extension and reference record zeroed, in_use set. -/
def ueFresh (s : State) (c n rnti : Nat) : Nat × State :=
  let u := firstFree (ueUsed s)
  let s := zeroRange (zeroRange (zeroRange s (ueAt u) 128) (extAt s u) 0x180) (refAt s u) 0x800
  let s := uSet s u 0 2 rnti
  let s := uSet s u 2 1 c
  let s := uSet s u 3 1 1
  (u, uSet s u 8 4 (slotNum s c n))

/-- Look up or allocate the entry of (carrier, RNTI) at the acceptance of slot n (R350, R351); the entries that earlier PDUs of the
request have taken stay. -/
def ueTake (s : State) (c n rnti : Nat) (taken : List Nat) : Option Nat × State :=
  let ueBusy := fun (s : State) (u : Nat) => ueBusy s u || taken.contains u
  let s := forEach ((ueOfCarrier s c).filter (fun u => ueExpired s c n u && !ueBusy s u)) s (fun u s => incR (ueRelease s u) Reg.CTX_EVICT_AGE 1)
  match ueFind s c rnti with
  | some u => (some u, uSet s u 8 4 (slotNum s c n))
  | none =>
    let full := fun (s : State) => decide (getF s (Reg.CTX_CC_Q c) 16 0 ≤ (ueOfCarrier s c).length) || decide (65536 ≤ (ueUsed s).length)
    let s := if full s then
        match oldest (((ueOfCarrier s c).filter (fun u => !ueBusy s u)).map (fun u => (slotAge s c n (uGet s u 8 4), u))) with
        | some u => incR (ueRelease s u) Reg.CTX_EVICT_QUOTA 1
        | none => s
      else s
    if full s then (none, incR s Reg.CTX_ALLOC_FAIL 1)
    else let r := ueFresh s c n rnti; (some r.1, r.2)

end Sys2Proof.Machine
end

