-- ==== Sys2Proof/Machine/Egress.lean ====
section
/-!
DEFINITION. Egress.lean: the Ethernet MACs' egress queues (12 R383), the stamps of frames that leave (13 R414 to R417),
and where northbound messages go (12 R397, R400).
-/
namespace Sys2Proof.Machine

open Sys2Proof

/-- Whether sub-port q of port p exists in the port's mode (12 Table 12.1). -/
def modeHas (mode q : Nat) : Bool := match mode with
  | 1 => decide (q < 1)
  | 2 => decide (q < 2)
  | 3 => decide (q < 4)
  | _ => false

/-- Bits a MAC sends in a tick of 1.25 ns at its mode's rate. -/
def modeBits (mode : Nat) : Nat := match mode with
  | 1 => 500
  | 2 => 250
  | 3 => 125
  | _ => 0

def portMode (s : State) (p : Nat) : Nat := getF s (Reg.ETH_P_CFG p) 1 0

/-- A MAC absent in the port's mode counts as one whose link is down (R380). -/
def linkUp (s : State) (m : Nat) : Bool := modeHas (portMode s (m / 4)) (m % 4) && getB s (Reg.ETH_P_STATUS (m / 4)) (m % 4)

/-- A MAC's own address. -/
def macAddr (s : State) (m : Nat) : Nat :=
  getF s (Reg.ETH_PQ_MAC_HI (m / 4) (m % 4)) 15 0 * 2 ^ 32 + getN s (Reg.ETH_PQ_MAC_LO (m / 4) (m % 4))

def maxFrame (s : State) (m : Nat) : Nat := getF s (Reg.ETH_P_CFG (m / 4)) 29 16

/-- Put a frame into its queue: a full queue of 256 KiB drops it, a link that is down loses it (DEDUCED, log 18). -/
def enqueue (s : State) (f : TxFrame) : State :=
  if !linkUp s f.mac then s
  else
    let used := ((s.net.egress.filter (fun g => decide (g.mac = f.mac) && decide (g.queue = f.queue))).map (·.bytes)).sum
    if 262144 < used + f.bytes then incR s (Reg.ETH_PQ_TX_DROP (f.mac / 4) (f.mac % 4)) 1
    else { s with net := { s.net with egress := s.net.egress ++ [f] } }

/-! ### Stamps (13). Corrections are in 1/16 ns, stamps in units of 2^-16 ns. -/

def sixteenths (x : Int) : Int := x * 4096

/-- The ingress stamp of a frame whose raw MAC time, of the first bit after its start-of-frame delimiter, is `ago` past
(DEDUCED, log 62: the medium boundary is the raw time with the correction of Table 13.2). -/
def stampIn (s : State) (m ago : Nat) : Nat :=
  let p := m / 4
  let c := if getB s (Reg.TIME_P_TSCFG p) 1 || getB s (Reg.TIME_P_TSCFG p) 0 then (getF s (Reg.TIME_P_CORR p) 15 0 : Int) else 0
  (((s.time.dev : Nat) : Int) - ((ago : Nat) : Int) - sixteenths (c + signed 16 (getF s (Reg.TIME_P_ASYM p) 15 0))).toNat

/-- The egress stamp of a frame with a raw MAC time. -/
def stampOut (s : State) (m raw : Nat) : Nat :=
  let p := m / 4
  let c := if getB s (Reg.TIME_P_TSCFG p) 1 || getB s (Reg.TIME_P_TSCFG p) 0 then (getF s (Reg.TIME_P_CORR p) 31 16 : Int) else 0
  (((raw : Nat) : Int) + sixteenths (c + signed 16 (getF s (Reg.TIME_P_ASYM p) 31 16))).toNat

/-- Bits of a frame on the wire: 8 bytes of preamble and start-of-frame delimiter before it, 12 of gap after it (PRESUMED, log 103). -/
def wireBits (f : TxFrame) : Nat := 8 * (f.bytes + 20)

/-- A frame that starts with `bits` bits of the present tick left: the first bit after its delimiter passes 64 bits later. -/
def Leaving.start (s : State) (rate bits : Nat) (f : TxFrame) : Leaving :=
  { bits := wireBits f, raw := (((s.time.dev : Nat) : Int) + (64 - ((bits : Nat) : Int)) * 81920 / ((max 1 rate : Nat) : Int)).toNat, frame := f }

/-- What a frame's departure does: it is counted; a two-step PTP event message leaves its stamp in the MAC's FIFO of 64; a
one-step message and a type 5 message carry theirs. -/
def frameLeaves (s : State) (raw : Nat) (f : TxFrame) : State :=
  let s := incR s (Reg.ETH_PQ_TX_FRAMES (f.mac / 4) (f.mac % 4)) 1
  let t := stampOut s f.mac raw
  let out := fun (s : State) (m : TxMsg) => { s with net := { s.net with sent := s.net.sent ++ [{ f with msg := m }] } }
  match f.msg with
  | .ptp ty sq (some _) => out s (.ptp ty sq (some t))
  | .ptp ty sq none =>
    let l := mapGet [] s.net.stamps f.mac
    let s := if ty < 4 then { s with net := { s.net with stamps := mapPut s.net.stamps f.mac ((l ++ [(ty, sq, t)]).drop (l.length - 63)) } } else s
    out s f.msg
  | .owd a i st c =>
    let s := match s.net.owd with
      | some o => if a = 0 ∧ i = o.measId then { s with net := { s.net with owd := some { o with stamp := t } } } else s
      | none => s
    out s (.owd a i (if a = 2 then st else t) c)
  | _ => out s f.msg

/-- The next frame of a MAC: the first of its highest queue. -/
def nextFrame (s : State) (m : Nat) : Option TxFrame :=
  ((List.range 8).reverse.filterMap (fun q => s.net.egress.find? (fun f => decide (f.mac = m) && decide (f.queue = q)))).head?

def isUplane (f : TxFrame) : Bool := match f.msg with
  | .uplane .. => true
  | _ => false

/-- Hand a MAC its next paced packet once the one before has started to leave: the pace is the line rate (12 R396). -/
def feedPace (s : State) (m : Nat) : State :=
  if s.net.egress.any (fun f => decide (f.mac = m) && isUplane f) then s
  else match s.net.pace.find? (fun p => decide (p.frame.mac = m)) with
    | some p =>
      if p.after ≤ nowGrid s then enqueue { s with net := { s.net with pace := s.net.pace.erase p } } p.frame else s
    | none => s

/-- Let a MAC send for one tick, `bits` bits of which are left. -/
def macTick : Nat → Nat → State → Nat → State
  | 0, _, s, _ => s
  | k + 1, bits, s, m =>
    match mapFind s.net.wire m with
    | some l =>
      if l.bits ≤ bits then
        macTick k (bits - l.bits) (frameLeaves { s with net := { s.net with wire := mapErase s.net.wire m } } l.raw l.frame) m
      else { s with net := { s.net with wire := mapPut s.net.wire m { l with bits := l.bits - bits } } }
    | none =>
      let s := feedPace s m
      match nextFrame s m with
      | some f => macTick k bits { s with net := { s.net with
          egress := s.net.egress.erase f
          wire := mapPut s.net.wire m (Leaving.start s (modeBits (portMode s (m / 4))) bits f) } } m
      | none => s

/-- One tick of every MAC that has something to send; after a removal its transmitters are idle (18 R556). -/
def netTick (s : State) : State :=
  if (s.net.egress.isEmpty && s.net.wire.isEmpty && s.net.pace.isEmpty) || decide (s.boot.quiesce = .removed) then s
  else forEach ((s.net.egress.map (·.mac) ++ s.net.wire.map (·.1) ++ s.net.pace.map (·.frame.mac)).dedup.insertionSort (· ≤ ·)) s
    (fun m s => macTick 4 (modeBits (portMode s (m / 4))) s m)

/-- Frames that a MAC has still to send are lost with its link. -/
def macDrop (s : State) (m : Nat) : State :=
  { s with net := { s.net with egress := s.net.egress.filter (fun f => decide (f.mac ≠ m)), wire := mapErase s.net.wire m,
                               pace := s.net.pace.filter (fun p => decide (p.frame.mac ≠ m)) } }

/-! ### Northbound out -/

/-- The MAC that northbound frames use (12 R397). -/
def nbMac (s : State) : Nat :=
  let m := getF s Reg.NB_MAC_SEL 4 0
  if !linkUp s m && getB s Reg.NB_MAC_SEL 15 then getF s Reg.NB_MAC_SEL 12 8 else m

/-- An address held in four registers: IPv4 in the first, IPv6 from it on. -/
def ipOf (s : State) (reg : Nat → Nat) (ipv6 : Bool) : Nat :=
  if ipv6 then (List.range 4).foldl (fun a i => a * 2 ^ 32 + getN s (reg i)) 0 else getN s (reg 0)

def nbIpv6 (s : State) : Bool := getB s Reg.NB_CFG 30

/-- The northbound path as the registers give it. -/
def nbPath (s : State) : NbPath :=
  { ipv6 := nbIpv6 s, localIp := ipOf s Reg.NB_LOCAL_IP (nbIpv6 s), localPort := getF s Reg.NB_UDP_PORT 31 16,
    peerIp := ipOf s Reg.NB_PEER_IP (nbIpv6 s), peerPort := getF s Reg.NB_UDP_PORT 15 0, vlan := getF s Reg.NB_VLAN 11 0,
    dscp := getF s Reg.NB_CFG 5 0 }

/-- The bytes of an indication's frames, none above the MAC's max_frame; there is at least one. -/
def indFrames (s : State) (m : Nat) (i : Indication) : List Nat :=
  let payload := (i.items.map (fun x => x.bytes.length)).sum + (if i.ext then 4 + 8 * i.items.length else 0)
  match (Config.fapiBytes i.msgId i.items.length payload (maxFrame s m)).map (fun b => min (maxFrame s m) b) with
  | [] => [maxFrame s m]
  | l => l

/-- Send an indication (12 R397, R398, R400): not of a stopped carrier (12 R402), nor after a device-fatal error (09 R310). The result extension follows when NB_CFG.ext_en is 1. -/
def sendInd (s : State) (c msgId sfn slot : Nat) (items : List IndItem) : State :=
  if !getB s Reg.NB_CFG 31 || !(getCar s c).running || getB s Reg.ERR_LOG_STATUS 31 then s
  else
    let m := nbMac s
    let i : Indication := { carrier := c, msgId := msgId, sfn := sfn, slot := slot, items := items, ext := getB s Reg.NB_CFG 27,
                            csum := getB s Reg.NB_CFG 29 }
    let dst := getF s Reg.NB_NEXTHOP_MAC_HI 15 0 * 2 ^ 32 + getN s Reg.NB_NEXTHOP_MAC_LO
    let l := indFrames s m i
    forEach l.zipIdx (incR s Reg.NB_TX_MSG 1) (fun x s =>
      enqueue s { mac := m, queue := getF s Reg.NB_CFG 13 11, bytes := x.1, dst := dst, msg := .ind i x.2 l.length (nbPath s) })

end Sys2Proof.Machine
end

