-- ==== Sys2Proof/Machine/Ldpc.lean ====
section
/-!
DEFINITION. Ldpc.lean: LDPC coding as a computation on bits and soft values: scrambling, rate matching and its inverse (10
R329, R345; TS 38.211, TS 38.212, PRESUMED, log 104), combining (10 R330, R331) and layered min-sum decoding (10 R342).
-/
namespace Sys2Proof.Machine

open Sys2Proof

/-! ### Scrambling (TS 38.211 clause 5.2.1) -/

/-- One step of the two registers of a Gold sequence, as 31-bit numbers whose bit 0 is the oldest element. -/
def goldStep (x : Nat × Nat) : Nat × Nat :=
  let a := (x.1.testBit 3 != x.1.testBit 0).toNat
  let b := ((x.2.testBit 3 != x.2.testBit 2) != (x.2.testBit 1 != x.2.testBit 0)).toNat
  (x.1 / 2 + a * 2 ^ 30, x.2 / 2 + b * 2 ^ 30)

def goldSkip : Nat → Nat × Nat → Nat × Nat
  | 0, x => x
  | k + 1, x => goldSkip k (goldStep x)

def goldOut : Nat → Nat × Nat → List Bool
  | 0, _ => []
  | k + 1, x => (x.1.testBit 0 != x.2.testBit 0) :: goldOut k (goldStep x)

/-- The first n bits of the scrambling sequence of an initial value. -/
def gold (init n : Nat) : List Bool := goldOut n (goldSkip 1600 (1, init % 2 ^ 31))

/-- LLRs with the sign inverted where the scrambling bit is 1. -/
def descramble (init : Nat) (l : List Int) : List Int := List.zipWith (fun x b => if b then -x else x) l (gold init l.length)

/-! ### Rate matching (TS 38.212 clauses 5.4.2.1, 5.4.2.2) -/

/-- Rate-matched bits of code block r of C, from G bits on N_L layers at Q_m bits. -/
def rateE (g nl qm c r : Nat) : Nat :=
  let q := nl * qm
  if q = 0 ∨ c = 0 then 0
  else
    let t := g / q
    if r + t % c < c then q * (t / c) else q * ((t + c - 1) / c)

/-- The first circular-buffer position of a redundancy version. -/
def rateK0 (bg2 : Bool) (rv ncb zc : Nat) : Nat :=
  let f := match rv % 4, bg2 with
    | 0, _ => 0
    | 1, false => 17
    | 2, false => 33
    | 3, false => 56
    | 1, true => 13
    | 2, true => 25
    | _, _ => 43
  let d := if bg2 then 50 else 66
  if zc = 0 then 0 else f * ncb / (d * zc) * zc

/-- Information columns of a base graph. -/
def infoCols (bg2 : Bool) : Nat := if bg2 then 10 else 22

/-- Whether a circular-buffer position holds a filler bit. -/
def isFiller (g : Seg) (bg2 : Bool) (j : Nat) : Bool := decide (g.kPrime ≤ j + 2 * g.zc ∧ j + 2 * g.zc < infoCols bg2 * g.zc)

/-- Positions from k0 on, wrapping and skipping fillers, n of them; `fuel` bounds the walk. -/
def ratePositions (g : Seg) (bg2 : Bool) : Nat → Nat → Nat → List Nat
  | 0, _, _ => []
  | _, _, 0 => []
  | fuel + 1, j, n + 1 =>
    let p := if g.ncb = 0 then 0 else j % g.ncb
    if isFiller g bg2 p then ratePositions g bg2 fuel (j + 1) (n + 1) else p :: ratePositions g bg2 fuel (j + 1) n

/-- The circular-buffer positions of a code block's E bits, in the order of bit selection. -/
def selected (g : Seg) (bg2 : Bool) (rv e : Nat) : List Nat := ratePositions g bg2 (e + (e / max 1 (g.ncb - min g.ncb (infoCols bg2 * g.zc)) + 2) * g.ncb) (rateK0 bg2 rv g.ncb g.zc) e

/-- The index in the interleaved sequence of bit k of bit selection. -/
def interleaved (e qm k : Nat) : Nat := if qm = 0 ∨ e / qm = 0 then k else k / (e / qm) + k % (e / qm) * qm

/-- De-interleaved LLRs of a code block. -/
def deinterleave (qm : Nat) (l : List Int) : List Int := (List.range l.length).map (fun k => nth 0 l (interleaved l.length qm k))

/-! ### Combining (R330) -/

/-- Add each LLR at its position. -/
def gather (n : Nat) (pos : List Nat) (llrs : List Int) : Array Int :=
  (pos.zip llrs).foldl (fun a x => if x.1 < a.size then a.set! x.1 (a.getD x.1 0 + x.2) else a) (Array.replicate n (0 : Int))

/-- One position: the exact sum, rounded at the new exponent, saturated to INT8; whether it saturated. -/
def combineOne (old : Int) (sb : Int) (new : Int) (e : Int) : Int × Bool :=
  let et := max sb e
  let v := ((XVal.ofInt old).mul2 (sb - et)).add ((XVal.ofInt new).mul2 (e - et))
  let r := intEncode 8 v
  (signed 8 r.code, r.clipped)

/-- Combine a transmission into a code block's soft values: the new values, their exponent, how many saturated. -/
def combine (old : List Int) (sb : Int) (new : Array Int) (e : Int) : List Int × Int × Nat :=
  let l := old.zipIdx.map (fun x => combineOne x.1 sb (new.getD x.2 0) e)
  (l.map (·.1), max sb e, (l.filter (·.2)).length)

/-- n_col that positions reach (R331). -/
def reachedCol (g : Seg) (bg2 : Bool) (pos : List Nat) : Nat :=
  max (if bg2 then 14 else 26) (if g.zc = 0 then 0 else (pos.foldl (fun m p => max m (p / g.zc)) 0) + 3)

/-! ### Decoding (R342) -/

/-- The set index of a lifting size (TS 38.212 Table 5.3.2-1). -/
def liftSet (zc : Nat) : Nat :=
  let odd := if zc = 0 then 1 else zc / 2 ^ ((List.range 9).filter (fun k => decide (0 < k) && decide (zc % 2 ^ k = 0))).length
  match odd with
  | 1 => 0 | 3 => 1 | 5 => 2 | 7 => 3 | 9 => 4 | 11 => 5 | 13 => 6 | _ => 7

def sat12 (x : Int) : Int := max (-2048) (min 2047 x)

/-- A weight of a set: α_code and β by base graph, iteration and row group (Table 10.3). -/
def weightOf (w : List Byte) (bg2 : Bool) (it g : Nat) : Nat × Nat :=
  let i := 0x80 + 2 * ((if bg2 then 200 else 0) + 8 * it + g)
  ((nth 0#8 w i).toNat, (nth 0#8 w (i + 1)).toNat)

def groupOf (w : List Byte) (bg2 : Bool) (r : Nat) : Nat := (nth 0#8 w ((if bg2 then 0x40 else 0x10) + r)).toNat % 8

/-- What a decode works on: variable nodes and the check-to-variable messages by row, lifted row and edge. -/
structure DecState where
  p : Array Int
  rm : SMap Int

/-- One check-node update of a lifted row: its variables in edge order. -/
def checkNode (vs : List (Nat × Bool)) (keys : List Nat) (alpha beta : Nat) (d : DecState) : DecState :=
  let t := List.zipWith (fun (v : Nat × Bool) k => sat12 (d.p.getD v.1 0 - mapGet 0 d.rm k)) vs keys
  let upd := t.zipIdx.map (fun x =>
    let rest := t.zipIdx.filter (fun y => decide (y.2 ≠ x.2))
    let mu := rest.foldl (fun m y => min m y.1.natAbs) 4096
    let neg := rest.foldl (fun b y => b != decide (y.1 < 0)) false
    let mag : Int := min 127 (max 0 (((rneDiv (alpha * mu) 128 : Nat) : Int) - (beta : Int)))
    if neg then -mag else mag)
  { p := ((vs.zip (t.zip upd)).foldl (fun p x => if x.1.2 then p else p.set! x.1.1 (sat12 (x.2.1 + x.2.2))) d.p)
    rm := (keys.zip upd).foldl (fun m x => mapPut m x.1 x.2) d.rm }

/-- The variables of lifted row z of a row, each with whether it is a filler. -/
def rowVars (g : Seg) (bg2 : Bool) (edges : List (Nat × Nat)) (z : Nat) : List (Nat × Bool) :=
  edges.map (fun e =>
    let v := e.1 * g.zc + (z + e.2) % max 1 g.zc
    (v, decide (g.kPrime ≤ v ∧ v < infoCols bg2 * g.zc)))

/-- Whether every lifted row of the active rows has even parity. -/
def parityMet (g : Seg) (bg2 : Bool) (rows : Nat) (p : Array Int) : Bool :=
  (List.range rows).all (fun r =>
    let edges := Config.bgRow bg2 (liftSet g.zc) r
    (List.range g.zc).all (fun z => !((rowVars g bg2 edges z).foldl (fun b v => b != decide (p.getD v.1 0 < 0)) false)))

/-- One iteration over the active rows. -/
def decodeIter (g : Seg) (bg2 : Bool) (rows : Nat) (w : List Byte) (it : Nat) (d : DecState) : DecState :=
  (List.range rows).foldl (fun d r =>
    let edges := Config.bgRow bg2 (liftSet g.zc) r
    let ab := weightOf w bg2 it (groupOf w bg2 r)
    (List.range g.zc).foldl (fun d z =>
      checkNode (rowVars g bg2 edges z) ((List.range edges.length).map (fun k => (r * 384 + z) * 32 + k)) ab.1 ab.2 d) d) d

/-- Iterate until parity is met or the iterations are used up: the values, the iterations, whether parity is met. -/
def decodeLoop (g : Seg) (bg2 : Bool) (rows : Nat) (w : List Byte) : Nat → Nat → DecState → Array Int × Nat × Bool
  | 0, it, d => (d.p, it, parityMet g bg2 rows d.p)
  | k + 1, it, d =>
    let d := decodeIter g bg2 rows w it d
    if parityMet g bg2 rows d.p then (d.p, it + 1, true) else decodeLoop g bg2 rows w k (it + 1) d

/-- Decode a code block from its soft values and n_col: its K' bits, the iteration count, whether parity was met. -/
def ldpcDecode (g : Seg) (bg2 : Bool) (nCol : Nat) (w : List Byte) (soft : List Int) : List Bool × Nat × Bool :=
  let rows := nCol - infoCols bg2
  let total := nCol * g.zc
  let sa := soft.toArray
  let p := (List.range total).foldl (fun (a : Array Int) v =>
    a.push (if g.kPrime ≤ v ∧ v < infoCols bg2 * g.zc then 2047 else if v < 2 * g.zc then 0 else sa.getD (v - 2 * g.zc) 0)) #[]
  let r := decodeLoop g bg2 rows w (nth 0#8 w 1).toNat 0 { p := p, rm := [] }
  ((List.range g.kPrime).map (fun v => decide (r.1.getD v 0 < 0)), r.2)

/-! ### Encoding (R345) -/

/-- A payload with its TB CRC. -/
def withTbCrc (payload : List Byte) : List Bool :=
  let b := bytesBits payload
  if tbCrcBits payload.length = 24 then b ++ natBits 24 (crc24a b) else b ++ natBits 16 (crc16 b)

/-- The K' bits of each code block, with its CRC when there are several. -/
def segmentBits (g : Seg) (bits : List Bool) : List (List Bool) :=
  if g.c = 1 then [bits]
  else (List.range g.c).map (fun r =>
    let n := g.kPrime - 24
    let x := (bits.drop (r * n)).take n
    x ++ natBits 24 (crc24b x))

/-- The sum of the bits of `a` that edges name in lifted row z. -/
def edgeSum (zc z : Nat) (edges : List (Nat × Nat)) (a : Array Bool) : Bool :=
  edges.foldl (fun b e => b != a.getD (e.1 * zc + (z + e.2) % max 1 zc) false) false

/-- Place the bits of column col that row r of the base graph asks for, its other columns known. -/
def solveRow (bg2 : Bool) (zc r col : Nat) (a : Array Bool) : Array Bool :=
  let edges := Config.bgRow bg2 (liftSet zc) r
  let own := ((edges.find? (fun e => decide (e.1 = col))).map (·.2)).getD 0
  let rest := edges.filter (fun e => decide (e.1 ≠ col))
  (List.range zc).foldl (fun a z => a.set! (col * zc + (z + own) % max 1 zc) (edgeSum zc z rest a)) a

/-- Place the bits of the first parity column: in the sum of the four core rows only it is left, at the one shift that does not pair off. -/
def firstParity (bg2 : Bool) (zc : Nat) (a : Array Bool) : Array Bool :=
  let kb := infoCols bg2
  let core := (List.range 4).flatMap (fun r => Config.bgRow bg2 (liftSet zc) r)
  let shifts := (core.filter (fun e => decide (e.1 = kb))).map (fun e => e.2 % max 1 zc)
  let odd := (shifts.find? (fun x => decide (shifts.count x % 2 = 1))).getD 0
  let info := core.filter (fun e => decide (e.1 < kb))
  (List.range zc).foldl (fun a z => a.set! (kb * zc + (z + odd) % max 1 zc) (edgeSum zc z info a)) a

/-- The code word of a code block (TS 38.212 clause 5.3.2): its bits, then the parity columns that the rows of the base graph fix. -/
def ldpcCode (bg2 : Bool) (zc : Nat) (bits : List Bool) : Array Bool :=
  let kb := infoCols bg2
  let rows := if bg2 then 42 else 46
  let a := firstParity bg2 zc ((bits.take (kb * zc) ++ List.replicate ((kb + rows) * zc - min bits.length (kb * zc)) false).toArray)
  let a := [0, 1, 2].foldl (fun a r => solveRow bg2 zc r (kb + 1 + r) a) a
  ((List.range rows).drop 4).foldl (fun a r => solveRow bg2 zc r (kb + r) a) a

/-- The rate-matched, interleaved bits of a code block. -/
def encodeBlock (g : Seg) (bg2 : Bool) (rv e qm : Nat) (bits : List Bool) : List Bool :=
  let k := infoCols bg2 * g.zc
  let d := ((ldpcCode bg2 g.zc (bits ++ List.replicate (k - bits.length) false)).toList.drop (2 * g.zc)).toArray
  let sel := ((selected g bg2 rv e).map (fun j => d.getD j false))
  let inv := (List.range e).foldl (fun (a : Array Bool) i => a.set! (interleaved e qm i) (nth false sel i)) (Array.replicate e false)
  inv.toList

/-- The rate-matched bits of a codeword of a PDSCH PDU. -/
def encodeTb (payload : List Byte) (bg2 : Bool) (lbrm rv g nl qm : Nat) : List Bool :=
  let sg := Seg.of payload.length bg2 lbrm
  ((segmentBits sg (withTbCrc payload)).zipIdx).flatMap (fun x => encodeBlock sg bg2 rv (rateE g nl qm sg.c x.2) qm x.1)

end Sys2Proof.Machine
end

