-- ==== Sys2Proof/Machine/UciMap.lean ====
section
/-!
DEFINITION. UciMap.lean: where UL-SCH and UCI lie among a PUSCH PDU's LLRs (10 R329 step 2): the multiplexing of TS 38.212 clause 6.2.7, with
the sizes of clause 6.3.2.4 and the offsets of TS 38.213 clause 9.3 (PRESUMED, log 104). Where the PDU hops within its slot the places stay free
(log 15).
-/
namespace Sys2Proof.Machine

open Sys2Proof

/-! ### The REs of an allocation -/

/-- The data REs of each symbol of an allocation, numbered over the whole of it, with whether the symbol holds DMRS. -/
def dataRes (rec' : List Byte) : List (Bool × List Nat) :=
  let prbs := ((List.range 600).filter (recNamed rec')).length
  ((recSyms rec').foldl (fun (a : Nat × List (Bool × List Nat)) l =>
    let d := (recField rec' 12 2).testBit l
    let n := prbs * (if d then dmrsData rec' else 12)
    (a.1 + n, a.2 ++ [(d, (List.range n).map (a.1 + ·))])) (0, [])).2

/-- The REs of each symbol that may carry UCI: none in a symbol with DMRS. -/
def uciRes (l : List (Bool × List Nat)) : List (List Nat) := l.map (fun x => if x.1 then [] else x.2)

/-- The first symbol after the first run of symbols with DMRS, and the first symbol without. -/
def afterDmrs (l : List (Bool × List Nat)) : Nat :=
  ((List.range l.length).find? (fun i => !(nth (false, []) l i).1 && (l.take i).any (·.1))).getD l.length
def withoutDmrs (l : List (Bool × List Nat)) : Nat := ((List.range l.length).find? (fun i => !(nth (false, []) l i).1)).getD l.length

/-- The REs of the symbols from one on. -/
def fromSym (i : Nat) (l : List (List Nat)) : List (List Nat) := l.zipIdx.map (fun x => if x.2 < i then [] else x.1)

/-- Take `need` REs symbol by symbol: all of a symbol's where more are needed, else evenly spaced ones. -/
def spread : Nat → List (List Nat) → List (List Nat)
  | _, [] => []
  | need, f :: rest =>
    let m := min need f.length
    let d := if m = f.length then 1 else f.length / max 1 m
    (List.range m).map (fun j => nth 0 f (j * d)) :: spread (need - m) rest

/-- REs without those taken, symbol by symbol. -/
def without (l taken : List (List Nat)) : List (List Nat) := List.zipWith (fun a b => a.filter (fun x => !b.contains x)) l taken

/-! ### Sizes -/

/-- β of the offset indices of HARQ-ACK and of CSI, in thousandths (TS 38.213 Tables 9.3-1, 9.3-2). -/
def betaAck : List Nat := [1000, 2000, 2500, 3125, 4000, 5000, 6250, 8000, 10000, 12625, 15875, 20000, 31000, 50000, 80000, 126000]
def betaCsi : List Nat :=
  [1125, 1250, 1375, 1625, 1750, 2000, 2250, 2500, 2875, 3125, 3500, 4000, 5000, 6250, 8000, 10000, 12625, 15875, 20000]

/-- α in hundredths. -/
def alphaOf (i : Nat) : Nat := nth 100 [50, 65, 80, 100] i

/-- CRC bits of a UCI payload (TS 38.212 clause 6.3.1.2). -/
def uciCrc (o : Nat) : Nat := if o ≤ 11 then 0 else if o ≤ 19 then 6 else 11

def ceilDiv (a b : Nat) : Nat := (a + b - 1) / max 1 b

/-- REs that a payload of o bits asks for at offset β, of `all` REs that may carry UCI. -/
def uciNeed (p : PuschPdu) (o beta all : Nat) : Nat :=
  if o = 0 then 0
  else if p.ulsch then
    let g := Seg.of p.tbBytes p.bg2 p.lbrm
    ceilDiv ((o + uciCrc o) * beta * all) (1000 * (g.c * (infoCols p.bg2 * g.zc)))
  else ceilDiv ((o + uciCrc o) * beta * 10240) (1000 * p.rate * puschField p 8 1)

/-! ### Places -/

/-- The REs of HARQ-ACK, CSI part 1 and CSI part 2, and those of UL-SCH, in their order. HARQ-ACK of at most two bits lies on REs that were
reserved for it and takes them from UL-SCH and CSI part 2. -/
def uciLayout (p : PuschPdu) : List (List Nat) × List Nat :=
  let syms := dataRes p.alloc
  let free := uciRes syms
  let all := (free.map List.length).sum
  let o := fun i => nth 0 p.uci i
  let late := fromSym (afterDmrs syms) free
  let ackCap := ceilDiv (alphaOf p.alpha * (late.map List.length).sum) 100
  let ackNeed := fun n => min (uciNeed p n (nth 0 betaAck (nth 0 p.betas 0)) all) ackCap
  let small := decide (o 0 ≤ 2)
  let qAck := ackNeed (o 0)
  let rvd := if small then spread (ackNeed 2) late else free.map (fun _ => [])
  let held := if small then (rvd.map List.length).sum else qAck
  let cap := if p.ulsch then ceilDiv (alphaOf p.alpha * all) 100 else all
  let q1 := if o 1 = 0 then 0 else if !p.ulsch && decide (o 2 = 0) then cap - held
    else min (uciNeed p (o 1) (nth 0 betaCsi (nth 0 p.betas 1)) all) (cap - held)
  let left := cap - (if small then 0 else qAck) - q1
  let q2 := if o 2 = 0 then 0 else if p.ulsch then min (uciNeed p (o 2) (nth 0 betaCsi (nth 0 p.betas 2)) all) left else left
  let ack := if small then spread qAck rvd else spread qAck late
  let free := if small then free else without free ack
  let csi := fromSym (withoutDmrs syms) free
  let csi1 := spread q1 (without csi rvd)
  let csi2 := spread q2 (without csi csi1)
  let taken := (if small then [] else ack.flatten) ++ csi1.flatten ++ csi2.flatten
  ([ack.flatten, csi1.flatten, csi2.flatten], (syms.flatMap (·.2)).filter (fun x => !taken.contains x))

/-- The LLRs of REs: Q_m on each layer. -/
def reLlrs (p : PuschPdu) (res : List Nat) : List Nat :=
  let k := puschField p 10 1 * puschField p 8 1
  res.flatMap (fun x => (List.range k).map (fun v => x * k + v))

/-- Whether a PDU hops within its slot. -/
def puschHops (p : PuschPdu) : Bool := decide (puschField p 66 1 ≠ 0)

/-- Places of a PDU's UL-SCH LLRs, and of part k of its UCI, within its E_total LLRs (10 R329). -/
def ulschPositions (p : PuschPdu) : List Nat :=
  if puschHops p && !p.uci.isEmpty then (Config.ulschPositions p).filter (fun i => decide (i < llrCount p.alloc)) else reLlrs p (uciLayout p).2
def uciPositions (p : PuschPdu) (k : Nat) : List Nat :=
  if puschHops p then (Config.uciPositions p k).filter (fun i => decide (i < llrCount p.alloc)) else reLlrs p (nth [] (uciLayout p).1 k)

/-- UL-SCH LLRs that a HARQ-ACK of one or two bits stands on: they say nothing of UL-SCH. -/
def punctured (p : PuschPdu) : List Nat := if 0 < nth 0 p.uci 0 ∧ nth 0 p.uci 0 ≤ 2 then uciPositions p 0 else []

end Sys2Proof.Machine
end

