-- ==== Sys2Proof/Machine/Slot.lean ====
section
/-!
DEFINITION. Slot.lean: what a slot reports and when (02 R58 to R61, R77, R78; 12 R400, R401), the writes that follow a
report (10 R338, 11 R365), the journal's decision on work a fault hits (09 R312 to R319), and the names the plan gives a
slot's buffers (DESIGN CHOICE, log 16).
-/
namespace Sys2Proof.Machine

open Sys2Proof

/-! ### What the plan names (DESIGN CHOICE, log 16) -/

/-- The running plan's digest. -/
def planId (s : State) : Nat := (List.range 8).foldl (fun a i => a * 2 ^ 32 + getN s (Reg.BOOT_SHEET_DIGEST i)) 0

def named (s : State) (kind c n k : Nat) : Nat := Config.planName (planId s) kind c (slotNum s c n) k

/-- The context in which work k of a PUSCH PDU, a control PDU, or a PDSCH PDU runs. -/
def puschCtx (s : State) (c n k : Nat) : Nat := named s 0 c n k % 128
def ctlCtx (s : State) (c n k : Nat) : Nat := named s 9 c n k % 128
def pdschCtx (s : State) (c n k : Nat) : Nat := named s 7 c n k % 128

/-- The physical page a committed access through pair p reaches. -/
def pairPrimary (s : State) (p : Nat) : Nat := ((mapFind s.pairs p).map (·.primary)).getD 0

/-- The physical page a speculative access through pair p reaches. -/
def pairShadow (s : State) (p : Nat) : Option Nat := (mapFind s.pairs p).bind (·.shadow)

def llrPair (s : State) (c n k : Nat) : Nat := named s 1 c n k
def pendPair (s : State) (c n k : Nat) : Nat := named s 2 c n k

/-- The pending-state page of work k (10 R352, 11 R369, 12 R401). -/
def pendPage (s : State) (c n k : Nat) : Nat := pairPrimary s (pendPair s c n k)

/-- Byte i of the LLR buffer of work k (10 R328). -/
def llrAddr (s : State) (c n k i : Nat) : Nat := pairPrimary s (llrPair s c n k + i / 65536) + i % 65536

/-- The pages of an allocation's LLR buffer with its header (10 R328). -/
def llrPages (alloc : List Byte) : Nat := (64 + llrCount alloc + 65535) / 65536

/-- The page pairs of work j: its LLR buffer and its pending state (02 R69). -/
def workPairs (s : State) (c n j : Nat) (alloc : List Byte) : List Nat :=
  (List.range (llrPages alloc)).map (fun i => llrPair s c n j + i) ++ [pendPair s c n j]

/-- The result buffer of control PDU k: its address and length. -/
def resultAt (s : State) (c n k : Nat) : Nat := named s 3 c n k % 2 ^ 48
def resultLen (s : State) (c n k : Nat) : Nat := named s 4 c n k % 1024

/-- Whether entry i of partition p is a re-run exposure of carrier c (09 R316). -/
def isRerun (s : State) (c p i : Nat) : Bool := decide (Config.planName (planId s) 8 c p i % 2 = 1)

/-- Whether symbol l of a slot is uplink (12 R402): every symbol of an FDD carrier. -/
def ulSym (s : State) (c n l : Nat) : Bool :=
  !ccTdd s c || Config.tddUplink (getCar s c).p5 (slotNum s c n) l

/-- The uplink symbols of a slot, and its final one. -/
def ulSyms (s : State) (c n : Nat) : List Nat := (List.range 14).filter (ulSym s c n)
def finalUlSym (s : State) (c n : Nat) : Nat := ((ulSyms s c n).getLast?).getD 13

/-- Whether a symbol of a slot is downlink, and the downlink symbols of a slot. -/
def dlSym (s : State) (c n l : Nat) : Bool :=
  !ccTdd s c || (Config.tddDownlink (getCar s c).p5 (slotNum s c n) l && !ulSym s c n l)
def dlSyms (s : State) (c n : Nat) : List Nat := (List.range 14).filter (dlSym s c n)

/-! ### Deadlines (R53, R59) -/

/-- T0 of a slot: as reached, or the end of the final uplink symbol's window. -/
def slotT0 (s : State) (c n : Nat) : Nat := ((getUl s c n).t0).getD (rxWindowEnd s c n (finalUlSym s c n))

def completionDeadline (s : State) (c n : Nat) : Nat := slotT0 s c n + us (ccBudget s c)

/-! ### Results -/

/-- The information bits of a decoded TB, its CRC removed. -/
def tbBits (p : UlPdu) : List Bool :=
  let all := p.cbs.flatMap (fun b => if p.cbs.length = 1 then b.bits else b.bits.take (b.bits.length - 24))
  all.take (8 * p.pdu.tbBytes)

/-- The measurement fields of CRC.indication, copied from offset 0xFF00 of the pending-state page (12 R401). -/
def measRecord (s : State) (c n : Nat) (p : UlPdu) : List Byte := getBytes s (pendPage s c n p.work + 0xFF00) 10

def IndItem.blank (handle : Nat) : IndItem :=
  { handle := handle, pass := false, reason := 0, missing := false, numCb := 0, cbOk := [], uci := [], found := [], bytes := [] }

/-- A control PDU's item: with a reason from 1 to 4 each of its detection statuses is DTX and no payload follows (12 Table 12.8; 09
R319); an SRS PDU has none. -/
def ctlItem (handle detections : Nat) (r : CtlRes) : IndItem :=
  if r.reason = 0 then { IndItem.blank handle with pass := true, missing := r.missing, bytes := r.bytes, uci := r.uci.toList.map some }
  else { IndItem.blank handle with reason := r.reason, missing := r.missing, uci := List.replicate detections (some .dtx) }

/-- A TB's item of CRC.indication. -/
def crcItem (s : State) (c n : Nat) (p : UlPdu) : IndItem :=
  let d := if p.dup then (false, 4) else p.decided.getD (false, 3)
  if d.2 = 0 then
    { IndItem.blank p.pdu.handle with pass := d.1, missing := p.missing, numCb := p.cbs.length, cbOk := p.cbs.map (·.crcOk),
                                      bytes := measRecord s c n p }
  else { IndItem.blank p.pdu.handle with reason := d.2, missing := p.missing }

/-- A PDU's item of the UCI.indication for UCI on PUSCH. -/
def puschUciItem (p : UlPdu) : IndItem :=
  let r := if p.dup then 4 else (p.decided.map (·.2)).getD 3
  if r = 0 then { IndItem.blank p.pdu.handle with pass := true, missing := p.missing, uci := p.uciOut }
  else { IndItem.blank p.pdu.handle with reason := r, missing := p.missing, uci := p.pdu.uci.map (fun a => some (if a = 0 then .bits [] else .dtx)) }

def rxItem (p : UlPdu) : IndItem := { IndItem.blank p.pdu.handle with pass := true, missing := p.missing, bytes := packBits (tbBits p) }

/-! ### Writes that follow a report -/

/-- A TB that passed has its descriptor released, unless a PDU in flight keeps it (10 R338, R354). -/
def releasePassed (s : State) (p : UlPdu) : State :=
  match p.desc, p.decided with
  | some h, some (true, _) => if harqBusy s h then s else harqRelease s h
  | _, _ => s

/-- Saturate a frequency to 16 bits after rounding (11 R365, R370). -/
def freqCode (w : Word) : Nat := (intEncode 16 (f32Val w)).code % 65536

/-- Apply the binding table to a detection as its RACH.indication is sent (11 R365). -/
def bindApply (s : State) (c fd : Nat) (d : Preamble) : State :=
  match (List.range 64).find? (fun i =>
      let k := getR s (Reg.RXM_BIND_KEY i)
      bitOf k 31 && decide (fieldOf k 20 16 = c) && decide (fieldOf k 5 0 = d.index) && (fieldOf k 15 8).testBit fd) with
  | none => s
  | some i =>
    match ueFind s c (getF s (Reg.RXM_BIND_RNTI i) 15 0) with
    | none => s
    | some u =>
      let s := uSet s u 12 2 d.ta
      let s := uSet s u 3 1 (uGet s u 3 1 ||| 4)
      let s := match d.freq with
        | some f => uSet (uSet s u 14 2 (freqCode f)) u 3 1 (uGet s u 3 1 ||| 8)
        | none => s
      let s := uSet s u 4 2 ((ueVersion s u + 1) % 65536)
      let s := flag (incR s Reg.RXM_PRACH_BIND_HIT 1) Reg.RXM_FLAGS 1
      if getB s (Reg.RXM_BIND_KEY i) 30 then setBitR s (Reg.RXM_BIND_KEY i) 31 false else s

/-! ### PRACH limits of a P5 block (11 Table 11.1). Preamble formats count 0 to 3, then A1, A2, A3, B1, B2, B3, B4, C0, C2. -/

def p5Long (p5 o : Nat) : Bool := decide (Config.prachCfg p5 16 o < 4)
def p5Len (p5 o : Nat) : Nat := if p5Long p5 o then 839 else 139
def p5Ncs (p5 o : Nat) : Nat := Config.prachCfg p5 14 o % p5Len p5 o

/-- Preambles of a root, and the roots that 64 preambles take. -/
def p5PerRoot (p5 o : Nat) : Nat := if p5Ncs p5 o = 0 then 1 else p5Len p5 o / p5Ncs p5 o
def p5Roots (p5 o : Nat) : Nat := (64 + p5PerRoot p5 o - 1) / p5PerRoot p5 o

/-- The occasions that the slots of frame f hold, at a numerology. -/
def p5Occs (p5 mu f : Nat) : List Nat :=
  (List.range (slotsPerFrame mu)).flatMap (fun i => List.range (Config.prachCfg p5 0 (slotsPerFrame mu * f + i) % 64))

/-- Whether an occasion's format, spacing, restricted set, FD occasions, roots and preambles are supported. -/
def p5OccOk (p5 mu o : Nat) : Bool :=
  let hz := Config.prachCfg p5 13 o
  let fd := Config.prachCfg p5 18 o
  (if p5Long p5 o then decide (mu ≤ 1) && decide (hz = if Config.prachCfg p5 16 o = 3 then 5000 else 1250)
   else decide (Config.prachCfg p5 16 o ≤ 12) && (if mu ≤ 1 then decide (hz = 15000 ∨ hz = 30000) else decide (hz = 120000))) &&
  decide (Config.prachCfg p5 17 o = 0) && decide (fd = 1 ∨ fd = 2 ∨ fd = 4 ∨ fd = 8) &&
  decide (((List.range fd).map (p5Roots p5)).sum ≤ 64) && decide (Config.prachCfg p5 19 o = 64)

/-- Whether a block passes the checks of 11 R358 and 02 Table 02.1: its PRACH part over the 16 frames of the longest period. -/
def p5Passes (p5 mu : Nat) : Bool := Config.p5Valid p5 && (List.range 16).all (fun f => (p5Occs p5 mu f).all (p5OccOk p5 mu))

/-- Root-occasions of a block in frame f, a long format's counted as 16 short ones. -/
def p5Load (p5 mu f : Nat) : Nat := ((p5Occs p5 mu f).map (fun o => p5Roots p5 o * (if p5Long p5 o then 16 else 1))).sum

/-- Whether blocks, each with its numerology, keep the device's search load. -/
def prachLoadOk (l : List (Nat × Nat)) : Bool := (List.range 16).all (fun f => decide ((l.map (fun x => p5Load x.1 x.2 f)).sum ≤ 16384))

/-- The FD occasion of an occasion of a slot. -/
def occFd (s : State) (c occ : Nat) : Nat := Config.prachCfg (getCar s c).p5 1 occ % 8

/-! ### Sending a slot's indications in their order (R58) -/

def indUci : Nat := 0x87
def indRach : Nat := 0x89
def indSrs : Nat := 0x88
def indCrc : Nat := 0x86
def indRx : Nat := 0x85

def findOcc (u : UlSlot) (occ : Nat) : Option PrachOcc := u.occs.find? (fun o => decide (o.occ = occ))

def rachItem (u : UlSlot) (p : PrachPdu) : IndItem :=
  match findOcc u p.occ with
  | some o => { IndItem.blank p.handle with pass := true, missing := o.missing, found := o.found }
  | none => IndItem.blank p.handle

/-- Send RACH.indication and apply its bindings. -/
def sendRach (s : State) (c n : Nat) (r : UlTti) : State :=
  let u := getUl s c n
  let s := sendInd s c indRach (sfnOf s c n) (slotOf s c n) (r.prach.map (rachItem u))
  forEach r.prach s (fun p s => match findOcc u p.occ with
    | some o => forEach o.found s (fun d s => bindApply s c (occFd s c p.occ) d)
    | none => s)

/-- Whether a PDU's results are all there. -/
def puschDone (p : UlPdu) : Bool := !p.live && p.uciOut.all (·.isSome)

/-- Message type k of a slot: none while its content is not complete, else the state once it is sent. -/
def sendStep (s : State) (c n : Nat) (r : UlTti) : Nat → Option State
  | 1 =>
    let u := getUl s c n
    if r.pucch.isEmpty then some s
    else if u.pucch.all (·.done) then
      some (sendInd s c indUci (sfnOf s c n) (slotOf s c n) (List.zipWith (fun (p : PucchPdu) x => ctlItem p.handle p.detections x) r.pucch u.pucch))
    else none
  | 2 =>
    let u := getUl s c n
    if r.prach.isEmpty then some s
    else if r.prach.all (fun p => ((findOcc u p.occ).map (·.done)).getD false) then some (sendRach s c n r)
    else none
  | 3 =>
    let u := getUl s c n
    if r.srs.isEmpty then some s
    else if u.srs.all (·.done) then
      some (sendInd s c indSrs (sfnOf s c n) (slotOf s c n) (List.zipWith (fun (p : SrsPdu) x => ctlItem p.handle 0 x) r.srs u.srs))
    else none
  | 4 =>
    let u := getUl s c n
    if r.pusch.isEmpty then some s
    else if u.pdus.all puschDone then
      let withUci := u.pdus.filter (fun p => !p.pdu.uci.isEmpty)
      let s := if withUci.isEmpty then s else sendInd s c indUci (sfnOf s c n) (slotOf s c n) (withUci.map puschUciItem)
      let tbs := u.pdus.filter (fun p => p.pdu.ulsch)
      let s := if tbs.isEmpty then s else sendInd s c indCrc (sfnOf s c n) (slotOf s c n) (tbs.map (crcItem s c n))
      some (forEach u.pdus s (fun p s => releasePassed s p))
    else none
  | 5 =>
    let u := getUl s c n
    let passed := u.pdus.filter (fun p => p.pdu.ulsch && decide (p.decided = some (true, 0)) && !p.dup)
    some (if passed.isEmpty then s else sendInd s c indRx (sfnOf s c n) (slotOf s c n) (passed.map rxItem))
  | _ => none

/-- Whether a frame of a slot's indications is queued or leaving. -/
def slotLeaving (s : State) (c n : Nat) : Bool :=
  let mine := fun (f : TxFrame) => match f.msg with
    | .ind i _ _ _ => decide (i.carrier = c) && decide (i.sfn = sfnOf s c n) && decide (i.slot = slotOf s c n)
    | _ => false
  s.net.egress.any mine || s.net.wire.any (fun kv => mine kv.2.frame)

/-- The slot-result is complete once the last datagram of its last message has left: its journal entry is freed (00 R5, 09 R312). -/
def slotEnds (s : State) (c n : Nat) : State :=
  let u := getUl s c n
  if u.jnl && (u.expired || u.sent.contains 5) && !slotLeaving s c n then modUl s c n (fun u => { u with jnl := false }) else s

/-- Send, in order, every message of a slot whose content is complete (R58, and R74 for a late request). -/
def sendReady (s : State) (c n : Nat) : State :=
  let u := getUl s c n
  match u.req with
  | some r =>
    if decide (u.cls ≠ .onTime) && decide (u.cls ≠ .late) then s else
    slotEnds (([1, 2, 3, 4, 5].foldl (fun (a : State × Bool) k =>
      if a.2 || (getUl a.1 c n).sent.contains k then a
      else match sendStep a.1 c n r k with
        | some s => (modUl s c n (fun u => { u with sent := u.sent ++ [k] }), false)
        | none => (a.1, true)) (s, false)).1) c n
  | none => s

/-- Decide a PDU's TB once (R78: a pass carries reason 0). -/
def decide' (p : UlPdu) (pass : Bool) (reason : Nat) : UlPdu :=
  if p.live then { p with decided := some (pass, if pass then 0 else reason),
                          uciOut := if reason = 0 then p.uciOut else p.uciOut.map (fun x => some (x.getD .dtx)) } else p

/-! ### The journal's decision (R314, R315, R319) -/

/-- A piece of hit work: carrier, slot, kind (0 PUSCH, 1 PUCCH, 2 SRS, 3 downlink) and PDU. -/
structure Hit where
  c : Nat
  n : Nat
  kind : Nat
  k : Nat
  deriving DecidableEq, Repr

/-- Whether an address lies in a slot's uplink buffer (12 R390). -/
def inSlotBuffer (s : State) (c n a : Nat) : Bool :=
  let cfg := getR s (Reg.FHX_CC_ULCFG c)
  let stride := fieldOf cfg 11 0 * 65536
  let nbuf := fieldOf cfg 31 28
  let base := getN64 s (Reg.FHX_CC_ULBUF_LO c) (Reg.FHX_CC_ULBUF_HI c) + (if nbuf = 0 then 0 else slotNum s c n % nbuf) * stride
  decide (base ≤ a) && decide (a < base + stride)

/-- The base of a carrier's downlink buffer of a slot (12 R395). -/
def dlBuf (s : State) (c n : Nat) : Nat :=
  let cfg := getR s (Reg.FHX_CC_DLCFG c)
  let nbuf := fieldOf cfg 31 28
  getN64 s (Reg.FHX_CC_DLBUF_LO c) (Reg.FHX_CC_DLBUF_HI c) + (if nbuf = 0 then 0 else slotNum s c n % nbuf) * (fieldOf cfg 11 0 * 65536)

/-- The buffer of a downlink codeword's rate-matched bits (10 R345). -/
def cwBuf (s : State) (c n k w : Nat) : Nat := named s 13 c n (2 * k + w) % 2 ^ 48

/-- Whether a range of n bytes at b shares a 64 KiB page with address a. -/
def samePage (a b n : Nat) : Bool := decide (b / 65536 ≤ a / 65536) && decide (a / 65536 ≤ (b + (n - 1)) / 65536)

/-- Whether a page holds inputs of uplink work of a slot for a UE: its samples, the UE's core, extension and reference record, or,
on a scratchpad, DMRS symbols that the slot has sent to that tile. -/
def ulInput (s : State) (c n : Nat) (ue : Option Nat) (a : Nat) : Bool :=
  inSlotBuffer s c n (a / 65536 * 65536) || inSlotBuffer s c n a ||
  (match ue with
    | some u => samePage a (ueAt u) 128 || samePage a (extAt s u) 0x180 || samePage a (refAt s u) 0x800
    | none => false) ||
  (match spOf a with
    | some (t, _) => (getUl s c n).secs.any (fun q =>
        let e := mapGet 0#128 s.net.eaxc q.entry
        bitOf e 79 && decide (16 * fieldOf e 99 96 = t / 16 * 16) && bitOf e (80 + t % 16))
    | none => false)

/-- Whether a page holds inputs of a downlink PDU: its codewords' bits, or the slot's buffer (09 R314). -/
def dlInput (s : State) (c n k a : Nat) : Bool :=
  samePage a (dlBuf s c n) (getF s (Reg.FHX_CC_DLCFG c) 11 0 * 65536) ||
  [0, 1].any (fun w => samePage a (cwBuf s c n k w) 65536)

/-- The context a PDU's tile work runs in: that of its replay, or its own. -/
def UlPdu.runsIn (p : UlPdu) : Option Nat := p.replayIn.or p.ctx
def CtlRes.runsIn (r : CtlRes) : Option Nat := r.replayIn.or r.ctx
def DlWork.runsIn (w : DlWork) : Option Nat := w.replayIn.or w.ctx

/-- The work a fault of a context hits, in carrier, slot and PDU order (R314): what ran in it and has not completed, and what has
inputs in the page whose word was uncorrectable. A PDU without a UE entry shows no read of one and counts as begun (DEDUCED, log 106). -/
def hitWork (s : State) (x : Nat) (bad : Option Nat) : List Hit :=
  let idx := fun {α : Type} (l : List α) (f : α → Nat → Bool) => (List.range l.length).filter (fun i => (l[i]?.map (fun y => f y i)).getD false)
  let lost := fun (f : Nat → Bool) => (bad.map f).getD false
  s.carriers.flatMap (fun kv =>
    let c := kv.1
    (kv.2.ul.flatMap (fun u =>
      let n := u.1
      let hit := fun (r : CtlRes) => !r.done && (decide (r.runsIn = some x) || lost (ulInput s c n r.ue))
      (idx u.2.pdus (fun p _ => p.live && !p.stage4 && ((decide (p.runsIn = some x) && (p.stage3 || p.ue.isNone)) || lost (ulInput s c n p.ue)))).map (Hit.mk c n 0) ++
      (idx u.2.pucch (fun r _ => hit r)).map (Hit.mk c n 1) ++ (idx u.2.srs (fun r _ => hit r)).map (Hit.mk c n 2))) ++
    (kv.2.dl.flatMap (fun d =>
      (idx d.2.works (fun w k => !w.done && !w.dropped && (decide (w.runsIn = some x) || lost (dlInput s c d.1 k)))).map (Hit.mk c d.1 3))))

def hitReplays (s : State) (h : Hit) : Nat :=
  match h.kind with
  | 0 => ((getUl s h.c h.n).pdus[h.k]?.map (·.replays)).getD 1
  | 1 => ((getUl s h.c h.n).pucch[h.k]?.map (·.replays)).getD 1
  | 2 => ((getUl s h.c h.n).srs[h.k]?.map (·.replays)).getD 1
  | _ => ((getDl s h.c h.n).works[h.k]?.map (·.replays)).getD 1

/-- The digests of a downlink slot's held requests. -/
def DlSlot.held (d : DlSlot) : SMap Nat :=
  ((d.tti.map (fun r => (0, crc64 r.hd.raw))).toList ++ (d.dci.map (fun r => (1, crc64 r.hd.raw))).toList ++ (d.data.map (fun r => (2, crc64 r.hd.raw))).toList)

/-- Whether the slot can be replayed: its entry is held, its capture whole, its held requests unchanged. -/
def hitJournal (s : State) (h : Hit) : Bool :=
  if h.kind = 3 then
    let d := getDl s h.c h.n
    d.jnl && decide (d.digests = d.held)
  else
    let u := getUl s h.c h.n
    u.jnl && !u.capLost && decide ((u.req.map (fun r => crc64 r.hd.raw)) = some u.reqDigest)

/-- deadline(p) of R315. -/
def hitDeadline (s : State) (h : Hit) : Nat :=
  if h.kind = 3 then
    let syms := ((getDl s h.c h.n).tti.bind (fun r => r.pdsch[h.k]?)).map (·.alloc.syms)
    let first := ((List.range 14).find? (fun l => (syms.getD 0).testBit l)).getD 0
    symStart s h.c h.n first - us (ccLeadMin s h.c)
  else completionDeadline s h.c h.n

/-- The first re-run exposure of a carrier whose context is not faulted and whose start is not before the present: its
context and its start, in grid units. -/
def rerunFor (s : State) (c : Nat) : Option (Nat × Nat) :=
  match s.plan with
  | none => none
  | some pl =>
    let cands := pl.parts.flatMap (fun p =>
      ((List.range p.entries.length).filterMap (fun i => (p.entries[i]?).map (fun e => (i, e)))).filterMap (fun ie =>
        let st := (getC s ie.2.ctx).st
        if isRerun s c p.part ie.1 && decide (st ≠ .scrubbing ∧ st ≠ .held) then
          let t := 3 * (s.sched.cycleStart + ie.2.start * 65536)
          let cyc := 3 * (10000000 * 2 ^ p.cycle * 65536)
          some (ie.2.ctx, if nowGrid s ≤ t then t else t + cyc)
        else none))
    cands.foldl (fun b x => match b with
      | none => some x
      | some y => if x.2 < y.2 then some x else b) none

/-- Report hit work that is not replayed (R319). -/
def reportHit (s : State) (h : Hit) : State :=
  let s := incR s Reg.ERR_JNL_FAULTED 1
  match h.kind with
  | 0 => modPdu s h.c h.n h.k (fun p => decide' p false 2)
  | 1 => modUl s h.c h.n (fun u => { u with pucch := u.pucch.modify h.k (fun r => if r.done then r else { r with done := true, reason := 2 }) })
  | 2 => modUl s h.c h.n (fun u => { u with srs := u.srs.modify h.k (fun r => if r.done then r else { r with done := true, reason := 2 }) })
  | _ => modDl s h.c h.n (fun d => { d with works := d.works.modify h.k (fun w => { w with dropped := true }) })

/-- Queue hit work for replay in a context. A PUSCH PDU keeps its frozen frequency offset (02 R54). -/
def replayHit (s : State) (h : Hit) (x : Nat) : State :=
  let s := incR s Reg.ERR_JNL_REPLAYED 1
  match h.kind with
  | 0 => modPdu s h.c h.n h.k (fun p => { p with replays := p.replays + 1, replayIn := some x, stage3 := false, stage4 := false, wrote := [] })
  | 1 => modUl s h.c h.n (fun u => { u with pucch := u.pucch.modify h.k (fun r => { r with replays := r.replays + 1, replayIn := some x, uci := none, taken := false, wrote := [], llr := [] }) })
  | 2 => modUl s h.c h.n (fun u => { u with srs := u.srs.modify h.k (fun r => { r with replays := r.replays + 1, replayIn := some x, taken := false, wrote := [] }) })
  | _ => modDl s h.c h.n (fun d => { d with works := d.works.modify h.k (fun w => { w with replays := w.replays + 1, replayIn := some x }) })

/-- Decide one piece of hit work, with its class 0x10 record (R315). -/
def decideHit (s : State) (x : Nat) (h : Hit) : State :=
  let rec' := { ErrRec.of 0x10 with ctx := x, carrier := h.c, sfn := sfnOf s h.c h.n, slot := slotOf s h.c h.n }
  let fail := fun (s : State) => reportHit (logError s { rec' with cause := 2, action := 3 }) h
  if decide (1 ≤ hitReplays s h) || !hitJournal s h || !getB s Reg.ERR_REPLAY_CFG 31 then fail s
  else match rerunFor s h.c with
    | none => fail s
    | some (y, t) =>
      if hitDeadline s h < t + us (getF s Reg.ERR_REPLAY_CFG 9 0) then fail s
      else replayHit (logError s { rec' with cause := 1, action := 2 }) h y

/-- Predicted PDUs of a context that broke R62 or faulted are no longer speculated (02 R62). -/
def dropPredictions (s : State) (x : Nat) : State :=
  forEach (s.carriers.flatMap (fun kv => kv.2.ul.map (fun u => (kv.1, u.1)))) s (fun cn s =>
    let u := getUl s cn.1 cn.2
    if u.preds.any (fun q => decide (q.ctx = some x) && !q.matched && !q.dropped) then
      modUl s cn.1 cn.2 (fun u => { u with preds := u.preds.map (fun q => if q.ctx = some x ∧ !q.matched then { q with dropped := true } else q) })
    else s)

/-- Decide all work a fault hits, then send what has become complete. A poisoned page of a slot buffer that it reads waits
for its scrub (R317). What a speculative exposure had predicted is no longer speculated; what a flip has committed is hit work like
any other (Table 09.4). -/
def decideHits (s : State) (x : Nat) (spec : Bool) (bad : Option Nat) : State :=
    let s := if spec then dropPredictions s x else s
    let hits := hitWork s x bad
    let s := forEach hits s (fun h s => decideHit s x h)
    let page := (bad.getD 0) / 0x10000
    let wet := bad.isSome && hits.any (fun h => decide (h.kind ≠ 3) && inSlotBuffer s h.c h.n (bad.getD 0))
    let s := if wet && !s.foreignDirty.contains page then { s with foreignDirty := (s.foreignDirty ++ [page]).insertionSort (· ≤ ·) } else s
    forEach ((hits.filter (fun h => decide (h.kind ≠ 3))).map (fun h => (h.c, h.n))).dedup s (fun cn s => sendReady s cn.1 cn.2)

end Sys2Proof.Machine
end

