-- ==== Sys2Proof/Machine/Samples.lean ====
section
/-!
DEFINITION. Samples.lean: the eAxC table (12 R387, R388), uplink samples and the slot buffers (03 R104, 12 R390), and the
refill of a slot-buffer page from the capture (09 R317).
-/
namespace Sys2Proof.Machine

open Sys2Proof

/-! ### The eAxC table (Table 12.4) -/

def exAt (s : State) (i : Nat) : BitVec 128 := mapGet 0#128 s.net.eaxc i

def exValid (e : BitVec 128) : Bool := bitOf e 39
def exDir (e : BitVec 128) : Nat := fieldOf e 37 37
def exPrach (e : BitVec 128) : Bool := bitOf e 38
def exMac (e : BitVec 128) : Nat := fieldOf e 36 32
def exCarrier (e : BitVec 128) : Nat := fieldOf e 44 40
def exUdHdr (e : BitVec 128) : Bool := bitOf e 45
def exPort (e : BitVec 128) : Nat := fieldOf e 53 48
def exK (e : BitVec 128) : Nat := fieldOf e 59 56
def exComp (e : BitVec 128) : Nat := fieldOf e 62 60
def exRu (e : BitVec 128) : Nat := fieldOf e 69 64
def exRing (e : BitVec 128) : Nat := fieldOf e 76 72
def exDmrs (e : BitVec 128) : Bool := bitOf e 79
def exCtx (e : BitVec 128) : Nat := fieldOf e 110 104

/-- The key of R387: MAC, VLAN, eAxC ID, direction. -/
def exKey (e : BitVec 128) : Nat × Nat × Nat × Nat := (exMac e, fieldOf e 27 16, fieldOf e 15 0, exDir e)

/-- The tiles an entry's DMRS symbols also go to. -/
def exTiles (e : BitVec 128) : List Nat := ((List.range 16).filter (fun j => bitOf e (80 + j))).map (fun j => 16 * fieldOf e 99 96 + j)

/-- The entry of a key: the lowest-numbered valid one (R388). -/
def exFind (s : State) (key : Nat × Nat × Nat × Nat) : Option (Nat × BitVec 128) :=
  s.net.eaxc.find? (fun kv => exValid kv.2 && decide (exKey kv.2 = key))

/-- The valid entries of a carrier of a direction and kind, ascending. -/
def exOf (s : State) (c dir : Nat) (prach : Bool) : List (Nat × BitVec 128) :=
  s.net.eaxc.filter (fun kv => exValid kv.2 && decide (exCarrier kv.2 = c) && decide (exDir kv.2 = dir) && (exPrach kv.2 == prach))

/-- Bits of a mantissa of a comp code: uncompressed samples have 16. -/
def iqWidth (comp : Nat) : Nat := match comp with
  | 1 => 8
  | 2 => 9
  | 3 => 12
  | 4 => 14
  | _ => 16

/-! ### Samples (03 R104) -/

/-- The integer parts of a PRB's REs. -/
def prbParts (comp : Nat) (p : PrbIq) : List (Int × Int) :=
  let m := if comp = 0 then 1 else ((2 ^ (p.exp % 16) : Nat) : Int)
  p.iq.map (fun x => (x.1 * m, x.2 * m))

/-- An RE as CX16 at a scale shift, and whether a part was clamped. -/
def reConv (k : Nat) (x : Int × Int) : Conv := cxEncode (XVal.dyadic x.1 k) (XVal.dyadic x.2 k)

/-- The bytes of a PRB's REs as CX16. -/
def prbBytes (k comp : Nat) (p : PrbIq) : List Byte := (prbParts comp p).flatMap (fun x => leBytes 2 (reConv k x).code)

/-- REs of a PRB with a clamped part (03 R103). -/
def prbClips (k comp : Nat) (p : PrbIq) : Nat := ((prbParts comp p).filter (fun x => (reConv k x).clipped)).length

/-! ### Slot buffers (12 R390) -/

/-- The base of a carrier's uplink buffer of a slot, and its length. -/
def ulBuf (s : State) (c n : Nat) : Nat :=
  let nbuf := getF s (Reg.FHX_CC_ULCFG c) 31 28
  getN64 s (Reg.FHX_CC_ULBUF_LO c) (Reg.FHX_CC_ULBUF_HI c) +
    (if nbuf = 0 then 0 else slotNum s c n % nbuf) * (getF s (Reg.FHX_CC_ULCFG c) 11 0 * 65536)

/-- The byte of RE i of a symbol and antenna port. -/
def reAt (s : State) (c n l p i : Nat) : Nat := ulBuf s c n + ((l * ccPorts s c + p) * 12 * ccPrb s c + i) * 2

/-- Write the PRBs of a section, from startPrb on, to the slot buffer. -/
def writePrbs (s : State) (c n l : Nat) (e : BitVec 128) (comp prb : Nat) (ps : List PrbIq) : State :=
  forEach ps.zipIdx s (fun x s => setBytes s (reAt s c n l (exPort e) (12 * (prb + x.2))) (prbBytes (exK e) comp x.1))

/-- The slots of a carrier whose buffer holds an address, with the sections captured for them. -/
def slotsAt (s : State) (a : Nat) : List (Nat × Nat × UlSlot) :=
  s.carriers.flatMap (fun kv => (kv.2.ul.filter (fun u => inSlotBuffer s kv.1 u.1 a)).map (fun u => (kv.1, u.1, u.2)))

/-- A scrubbed page of a slot buffer takes the captured samples of a slot with a replay in hand again (09 R317). -/
def refillPage (s : State) (page : Nat) : State :=
  forEach (slotsAt s (page * 0x10000)) s (fun x s =>
    if x.2.2.jnl && (x.2.2.pdus.any (·.replayIn.isSome) || x.2.2.pucch.any (·.replayIn.isSome) || x.2.2.srs.any (·.replayIn.isSome)) then
      forEach x.2.2.secs s (fun q s =>
        forEach q.prbs.zipIdx s (fun y s =>
          let a := reAt s x.1 x.2.1 q.symbol q.port (12 * (q.startPrb + y.2))
          let bs := (prbBytes q.k q.comp y.1).zipIdx.filter (fun b => decide ((a + b.2) / 0x10000 = page))
          forEach bs s (fun b s => setBytes s (a + b.2) [b.1])))
    else s)

end Sys2Proof.Machine
end

