-- ==== Sys2Proof/Machine/Links.lean ====
section
/-!
DEFINITION. Links.lean: Peer Link frames as they are sent (14 R437 to R443), group barriers on the manager and on a member
(14 R450 to R453), and the spans of collectives (14 R460).
-/
namespace Sys2Proof

/-! ### A frame on the wire (R440) -/

/-- The payload of a frame: a data frame's bytes; those of the other kinds are free bytes (DESIGN
CHOICE, log 114). -/
def PeerBody.payload (b : PeerBody) : List Byte :=
  match b with
  | .data bytes => bytes
  | b => (List.range ((Config.peerCtlByte b 0).toNat + 1)).map (fun k => Config.peerCtlByte b (k + 1))

/-- The 16 bytes of a frame's header (Table 14.1). -/
def PeerFrame.header (f : PeerFrame) : List Byte :=
  let b := fun (x : Nat) => BitVec.ofNat 8 x
  [b f.kind, b ((if f.kind = 0 then f.vc else 0) + 4 * f.hops), b f.epoch, b f.src, b f.dst, b (f.body.payload.length - 1)] ++
  Machine.leBytes 2 f.seq ++ Machine.leBytes 2 (f.ack + (if f.nack then 2 ^ 14 else 0) + (if f.ackValid then 2 ^ 15 else 0)) ++
  Machine.leBytes 2 f.stream ++ Machine.leBytes 4 f.offset

/-- CRC-32 of IEEE 802.3 over bytes: each byte's least significant bit first, the register and the result reflected. -/
def crc32 (bs : List Byte) : Nat :=
  let r := Machine.crcBits 32 0x04C11DB7 0xFFFFFFFF (bs.flatMap (fun x => (Machine.byteBits x).reverse))
  (List.range 32).foldl (fun a i => if r.testBit (31 - i) then a else a + 2 ^ i) 0

/-- A frame as its link carries it: header, payload and CRC; a frame whose CRC is bad carries another. -/
def PeerFrame.wire (f : PeerFrame) : List Byte :=
  let l := f.header ++ f.body.payload
  l ++ Machine.leBytes 4 (if f.crcOk then crc32 l else crc32 l ^^^ 0xFFFFFFFF)

end Sys2Proof

namespace Sys2Proof.Machine

open Sys2Proof

/-! ### Members and routes -/

def groupSize (s : State) : Nat := getF s Reg.PEER_GRP_STATUS 6 0
def ownMember (s : State) : Nat := getF s Reg.PEER_GRP_STATUS 21 16
def isManager (s : State) : Bool := decide (ownMember s = 0)

/-- The link on which frames for a member leave (R437). -/
def routeTo (s : State) (m : Nat) : Option Nat :=
  if getB s (Reg.PEER_ROUTE m) 31 then some (getF s (Reg.PEER_ROUTE m) 1 0) else none

/-- The member that holds a seat (R436). -/
def seatMember (s : State) (n : Nat) : Nat := s.peer.members.findIdx (fun m => m.seats.testBit n)

def ownSeat (s : State) (n : Nat) : Bool := decide (seatMember s n = ownMember s) && decide (n < 64)

/-- The bits of a 64-bit mask, ascending. -/
def bits64 (x : Nat) : List Nat := (List.range 64).filter (fun i => x.testBit i)

def getL (s : State) (l : Nat) : PeerLink := mapGet PeerLink.init s.peer.links l
def setL (s : State) (l : Nat) (x : PeerLink) : State := { s with peer := { s.peer with links := mapPut s.peer.links l x } }
def modL (s : State) (l : Nat) (f : PeerLink → PeerLink) : State := setL s l (f (getL s l))

/-- PEER_L_STATUS.state: 0 not cabled, 1 training, 2 up, 3 retraining, 4 failed. -/
def linkState (s : State) (l : Nat) : Nat := getF s (Reg.PEER_L_STATUS l) 31 29
def peerUp (s : State) (l : Nat) : Bool := decide (linkState s l = 2)

/-! ### Sending (R440, R441, R443) -/

/-- The time stamps and residence of a frame as it leaves (R449). -/
def stampBody (s : State) (own : Bool) (b : PeerBody) : PeerBody :=
  match b with
  | .timeReq t r => if own then .timeReq s.time.dev r else .timeReq t (r + (s.time.dev : Int))
  | .timeResp a b' t r q => if own then .timeResp a b' s.time.dev r q else .timeResp a b' t r (q + (s.time.dev : Int))
  | b => b

/-- Send a frame on a link that is up: it takes the next sequence number, carries the acknowledgement of the other
direction, and is kept until it is acknowledged. -/
def transmit (s : State) (l : Nat) (f : PeerFrame) : State :=
  let x := getL s l
  let f := { f with seq := x.txSeq, ack := x.rxNext, ackValid := true, body := stampBody s (f.src == ownMember s) f.body }
  let s := setL s l { x with txSeq := (x.txSeq + 1) % 4096, out := x.out ++ [f],
                             replay := x.replay ++ [{ frame := f, sends := 1, at' := s.now }] }
  let s := match f.body with
    | .timeReq t _ => if f.src = ownMember s then { s with peer := { s.peer with timeReq := some t } } else s
    | _ => s
  incR s (Reg.PEER_L_TX_FRAMES l) 1

/-- Whether a link can take a frame now. -/
def canSend (s : State) (l : Nat) : Bool := peerUp s l && decide ((getL s l).replay.length < 512)

/-- Send waiting frames while the link can take them. -/
def pumpLink : Nat → State → Nat → State
  | 0, s, _ => s
  | n + 1, s, l =>
    match (getL s l).waiting with
    | [] => s
    | f :: rest => if canSend s l then pumpLink n (transmit (modL s l (fun x => { x with waiting := rest })) l f) l else s

/-- Peer Links carry nothing in Holding and its recovery load (16 R512), on a stopped device, and after a removal (18 R556). -/
def silent (s : State) : Bool :=
  decide (s.boot.stage = .holding ∨ s.boot.stage = .recovery ∨ s.boot.stage = .stopped ∨ s.boot.quiesce = .removed)

/-- Put a frame on a link: at once, or behind the frames that wait; control frames wait ahead of data (R443). A silent
device sends none. -/
def linkSend (s : State) (l : Nat) (f : PeerFrame) : State :=
  if silent s then s
  else
    let w := (getL s l).waiting
    if canSend s l && w.isEmpty then transmit s l f
    else modL s l (fun x => { x with waiting :=
      if f.kind = 0 then w ++ [f] else w.filter (fun g => decide (g.kind ≠ 0)) ++ f :: w.filter (fun g => decide (g.kind = 0)) })

/-- A frame of this member's. -/
def ownFrame (s : State) (kind dst : Nat) (body : PeerBody) : PeerFrame :=
  { kind := kind, vc := 0, hops := 1, epoch := getN s Reg.PEER_EPOCH % 256, src := ownMember s, dst := dst, seq := 0, ack := 0,
    nack := false, ackValid := false, stream := 0, offset := 0, body := body, crcOk := true }

/-- Send a frame to another member along its route; without a route nothing leaves. -/
def sendTo (s : State) (f : PeerFrame) : State :=
  match routeTo s f.dst with
  | some l => linkSend s l f
  | none => s

/-- A link leaves the up state (Table 14.7; event class 9, code 5). -/
def linkLeavesUp (s : State) (l : Nat) : State :=
  if peerUp s l then event (flag (flag s (Reg.PEER_L_FLAGS l) 1) Reg.PEER_GRP_FLAGS 6) 9 5 l else s

/-- Start training a link again (R441). -/
def startRetrain (s : State) (l : Nat) : State :=
  let s := linkLeavesUp s l
  let s := setF (setF s (Reg.PEER_L_STATUS l) 31 29 3) (Reg.PEER_L_STATUS l) 7 0 0
  modL s l (fun x => { x with since := s.now })

/-! ### Streams at their source -/

def streamOf (s : State) (n : Nat) : Option Stream := s.plan.bind (fun p => p.streams.find? (fun x => decide (x.num = n)))
def getTx (s : State) (n : Nat) : StreamTx := mapGet StreamTx.init s.peer.tx n
def setTx (s : State) (n : Nat) (x : StreamTx) : State := { s with peer := { s.peer with tx := mapPut s.peer.tx n x } }
def modTx (s : State) (n : Nat) (f : StreamTx → StreamTx) : State := setTx s n (f (getTx s n))

/-- SEQ.END of the source context completes on a source tile: its transfers end once every slot filled by now is sent
(R458). -/
def streamsEnd (s : State) (c t : Nat) : State :=
  let l := ((s.plan.map (·.streams)).getD []).filter (fun x => decide (x.srcCtx = c ∧ x.srcTile = t) && ownSeat s x.srcSeat)
  forEach l s (fun x s =>
    let ptr := getR s (Reg.TILE_RING_PTR t x.srcRing)
    if fieldOf ptr 31 16 = fieldOf ptr 15 0 then modTx s x.num (fun y => { y with endAt := none, fresh := true })
    else modTx s x.num (fun y => { y with endAt := some (fieldOf ptr 31 16) }))

/-! ### Group barriers (R450 to R452) -/

/-- The seat mask of a group barrier that the plan has a record for. -/
def barMask (s : State) (b : Nat) : Option Nat := s.plan.bind (fun p => (p.bars.find? (fun x => decide (x.1 = b))).map (·.2))

def ctxSeat (s : State) (c : Nat) : Nat := ((declOf s c).map (·.seat)).getD 64

/-- The members that hold a seat of a mask. -/
def maskMembers (s : State) (mask : Nat) : List Nat := ((bits64 mask).map (seatMember s)).dedup.insertionSort (· ≤ ·)

/-- A release reaches this member: at T_rel, or 30 ns after a late arrival (R451). -/
def takeRelease (s : State) (b t : Nat) : State :=
  let mine := (bits64 ((barMask s b).getD 0)).filter (ownSeat s)
  let late := decide (t < s.time.dev)
  { s with peer := { s.peer with relNs := mapPut s.peer.relNs b t
                                 rel := s.peer.rel ++ mine.map (fun n => (b, n, if late then s.now + 24 else t, late)) } }

/-- A member that the manager can reach: itself, or one whose route leaves on a link that is up (R453; DEDUCED, log 79). -/
def reachable (s : State) (m : Nat) : Bool := decide (m = ownMember s) || ((routeTo s m).map (peerUp s)).getD false

/-- Release a barrier whose seats have all arrived, once every member of its mask is reachable (R451, R453). -/
def releaseBar (s : State) (b : Nat) : State :=
  match s.peer.bars.find? (fun x => decide (x.num = b)), barMask s b with
  | some ⟨_, _, some t⟩, some mask =>
    if (maskMembers s mask).all (reachable s) then
      forEach (maskMembers s mask) { s with peer := { s.peer with bars := s.peer.bars.filter (fun x => decide (x.num ≠ b)) } } (fun m s =>
        if m = ownMember s then takeRelease s b t else sendTo s (ownFrame s 2 m (.release b t)))
    else s
  | _, _ => s

/-- The manager counts an arrival; the last one gives T_rel (R451). -/
def managerArrival (s : State) (b seat : Nat) : State :=
  match barMask s b with
  | none => s
  | some mask =>
    let old := ((s.peer.bars.find? (fun x => decide (x.num = b))).map (·.arrived)).getD 0
    let arrived := (old ||| 2 ^ seat) &&& mask
    let rest := s.peer.bars.filter (fun x => decide (x.num ≠ b))
    let rel := if arrived = mask then some (s.time.dev + getF s Reg.PEER_GRP_CFG 22 16 * unitsPerUs) else none
    releaseBar { s with peer := { s.peer with bars := rest ++ [{ num := b, arrived := arrived, rel := rel }] } } b

/-- The manager takes a withdrawal: after the release has been sent it is ignored (Table 14.5). -/
def managerWithdraw (s : State) (b seat : Nat) : State :=
  { s with peer := { s.peer with bars := s.peer.bars.map (fun x =>
      if x.num = b then { x with arrived := x.arrived - (if x.arrived.testBit seat then 2 ^ seat else 0), rel := none } else x) } }

/-- Tell the manager of a seat's arrival or withdrawal. -/
def tellArrival (s : State) (b seat : Nat) : State :=
  if isManager s then managerArrival s b seat else sendTo s (ownFrame s 2 0 (.arrival b seat))

def tellWithdrawal (s : State) (b seat : Nat) : State :=
  if isManager s then managerWithdraw s b seat else sendTo s (ownFrame s 2 0 (.withdrawal b seat))

/-- A release of this seat's barrier that has reached the member and is not yet performed. -/
def relPending (s : State) (b seat : Nat) : Bool := s.peer.rel.any (fun r => decide (r.1 = b ∧ r.2.1 = seat))

def dropRelease (s : State) (b seat : Nat) : State :=
  { s with peer := { s.peer with rel := s.peer.rel.filter (fun r => !decide (r.1 = b ∧ r.2.1 = seat)) } }

/-! ### Roll calls (R446) -/

/-- The manager starts a roll call: a fresh nonce goes to every member. -/
def startRoll (s : State) : State :=
  if !isManager s || s.plan.isNone || s.peer.roll.isSome || decide (groupSize s = 0) then s
  else
    let (i, s) := fresh s
    let n := Config.freeValue i % 2 ^ 128
    let s := { s with peer := { s.peer with roll := some { nonce := n, start := s.now, ok := 1, bad := 0 }, lastRoll := s.now } }
    let s := setBitR s Reg.PEER_ROLL_STATUS 31 true
    forEach ((List.range (groupSize s)).drop 1) s (fun m s => sendTo s (ownFrame s 2 m (.nonce n)))

/-! ### Collectives (R460, R461) -/

/-- The span of a context begins: at its exposure's start, and at each group barrier release. -/
def spanStart (s : State) (c : Nat) : State :=
  if ((s.plan.map (·.bars)).getD []).any (fun b => b.2.testBit (ctxSeat s c)) then
    { s with peer := { s.peer with spans := mapPut s.peer.spans c Span.init } }
  else s

/-- This member's seat arrives at a group barrier. -/
def spanArrive (s : State) (c : Nat) : State :=
  { s with peer := { s.peer with spans := mapPut s.peer.spans c { (mapGet Span.init s.peer.spans c) with arrivedAt := some s.now } } }

/-- Write a collective record for a release with the given T_rel in device time (R460): a full queue drops it. -/
def writeColl (s : State) (b c t : Nat) : State :=
  let sp := mapGet Span.init s.peer.spans c
  let wait := (s.now - sp.arrivedAt.getD s.now) / 800
  let thr := sp.throttled / 800
  let r : CollRec :=
    { barrier := b, seat := ctxSeat s c, ctx := c,
      status := if sp.reasons.testBit 0 then 2 else if getF s Reg.PEER_GRP_CFG 29 24 ≤ wait then 1 else 0,
      cycle := getN s Reg.SCH_CYCLE_CNT, waitUs := wait, thrUs := thr, reasons := sp.reasons, relNs := t % unitsPerSec / 65536 }
  let s := incR (incR s Reg.PEER_COLL_WAIT_US wait) Reg.PEER_COLL_THR_US thr
  let s := if s.peer.coll.length < 64 then { s with peer := { s.peer with coll := s.peer.coll ++ [r] } } else incR s Reg.PEER_COLL_LOST 1
  { s with peer := { s.peer with spans := mapPut s.peer.spans c Span.init } }

end Sys2Proof.Machine
end

