-- ==== Sys2Proof/Machine/Negatives.lean ====
section
/-!
DEFINITION. Negatives.lean: the Negative (08 R287, R288; Tables 08.4 to 08.6): what of a tile belongs to its context, the
bytes a save writes, and the restore.
-/
namespace Sys2Proof.Machine

open Sys2Proof

/-! ### What belongs to the context -/

/-- Whether a register of a tile's window is context state: strip bases, Developer flags, Fixer registers, rings. -/
def ctxReg (t a : Nat) : Bool :=
  let b := 0x01000000 + t * 0x10000
  let o := a - b
  decide (b ≤ a) && (decide (0x40 ≤ o ∧ o < 0x80) || decide (o = 0x2004) || decide (0x3004 ≤ o ∧ o < 0x300C) ||
    decide (0x3020 ≤ o ∧ o < 0x3040) || decide (0x3400 ≤ o ∧ o < 0x4000) || decide (0x5100 ≤ o ∧ o < 0x5200) || decide (o = 0x5008))

/-- A tile's context registers, as listed. -/
def ctxRegs (s : State) (t : Nat) : SMap Word := mapFilter (ctxReg t) s.regs

/-- Give a tile's context registers their reset values. -/
def resetCtxRegs (s : State) (t : Nat) : State := { s with regs := mapFilter (fun a => !ctxReg t a) s.regs }

/-- Give a tile's context registers the listed values. -/
def putCtxRegs (s : State) (t : Nat) (l : SMap Word) : State := forEach l (resetCtxRegs s t) (fun kv s => setR s kv.1 kv.2)

/-- The Enlarger without its activity, which is not saved (04 R151, R152). -/
def quietEnl (e : Enlarger) : Enlarger := { e with level := 0, phase := .idle, gapCycles := 0, waveUntil := none, wakeHeld := false }

/-- Give an Enlarger other contents: its activity level is the tile's and stays, with a gap where it issued (04 R146, R147). -/
def keepLevel (e u : Enlarger) : Enlarger :=
  { u with level := e.level, phase := if e.phase = .issuing then .gap else e.phase, gapCycles := e.gapCycles, waveUntil := none, wakeHeld := false }

/-- The unit state of a tile, everything else at its start-up value. -/
def unitOf (x : Tile) : Tile :=
  { Tile.init with pc := x.pc, p := x.p, stripNext := x.stripNext, held := x.held, enl := quietEnl x.enl, dev := x.dev, fix := x.fix,
                   dma := x.dma, advQ := x.advQ, sb := x.sb, sbSeq := x.sbSeq }

/-- Replace the unit state of a tile. -/
def withUnit (x u : Tile) : Tile :=
  { x with pc := u.pc, p := u.p, stripNext := u.stripNext, held := u.held, enl := keepLevel x.enl u.enl, dev := u.dev, fix := u.fix,
           dma := u.dma, advQ := u.advQ, sb := u.sb, sbSeq := u.sbSeq, waitOp := 0, barWait := none, wdSince := none }

/-- Clear a tile's unit state and context registers (04 R154, 05 R159). -/
def clearUnit (s : State) (t : Nat) : State := resetCtxRegs (modT s t (fun x => withUnit x Tile.init)) t

/-! ### The drain (04 R151, 05 R192, 06 R232) -/

/-- Fetched descriptors that have not started are fetched again (06 R233). -/
def drainChan (ch : DmaChan) : DmaChan :=
  match ch.fetched with
  | [] => ch
  | d :: _ => { ch with fetched := [], nextFetch := d.va, fetchDone := false }

/-- Let everything issued complete: pass outputs. Undispatched work and a pass, a LOADS or a Fixer command in progress stay, and
descriptors in flight go on. -/
def drainTile (s : State) (t : Nat) : State :=
  let n := (getT s t).enl.tails.length
  let s := (List.range n).foldl (fun s _ => entryFinished s t) s
  modT s t (fun x => { x with enl := keepLevel x.enl x.enl, wdSince := none, dma := x.dma.map drainChan })

/-- A channel as its tile's Negative holds it: the descriptor in progress with its first step not landed. Reads still outstanding
are abandoned, and a later descriptor is fetched again (06 R232, R233). -/
def abandonChan (ch : DmaChan) : DmaChan :=
  match ch.inFlight with
  | [] => ch
  | [r] => { ch with inFlight := [{ r with fills := [] }] }
  | r :: next :: _ => { ch with inFlight := [{ r with fills := [] }], nextFetch := next.desc.va, fetchDone := false }

/-! ### The image -/

/-- Whether the flow 1 accumulators belong to the Negative. -/
def flow1Held (e : Enlarger) : Bool := !(e.accRe.isEmpty && e.accIm.isEmpty && e.accWrap.isEmpty)

def negLength (u : Tile) : Nat := 65536 + (if flow1Held u.enl then 33280 else 0) + u.enl.fbq.length * 16896

/-- Write the listed elements of a map, n bytes each, at a base. -/
def putMap {V : Type} (s : State) (base n : Nat) (m : SMap V) (f : V → Nat) : State :=
  forEach m s (fun kv s => setLe s (base + n * kv.1) n (f kv.2))

/-- Write set bits of a bit array. -/
def putBits (s : State) (base : Nat) (m : SMap Bool) : State :=
  forEach m s (fun kv s => if kv.2 then setBytes s (base + kv.1 / 8) [setBit (getByte s (base + kv.1 / 8)) (kv.1 % 8) true] else s)

/-- Table 08.6. -/
def negHeader (s : State) (b c p t : Nat) (g : Negative) : State :=
  let s := setLe s b 4 0x4E454731
  let s := setLe s (b + 4) 2 (g.bytes / 64)
  let s := setLe s (b + 6) 1 c
  let s := setLe s (b + 7) 1 p
  let s := setLe s (b + 8) 2 t
  let s := setLe s (b + 10) 1 ((if flow1Held g.unit.enl then 1 else 0) + 2 * g.unit.enl.fbq.length)
  let s := setLe s (b + 11) 1 g.cause
  let s := setLe s (b + 12) 2 g.entry
  let s := setLe s (b + 16) 6 (g.stopTime / unitsPerSec)
  let s := setLe s (b + 22) 4 (g.stopTime % unitsPerSec / 65536)
  let s := setLe s (b + 32) 4 g.cycle
  setLe s (b + 36) 4 (getN s Reg.PEER_EPOCH)

/-- The words of registers a, a + 4, …, n of them, at a base with a stride. -/
def putRegs (s : State) (g : Negative) (base stride a n : Nat) : State :=
  (List.range n).foldl (fun s i => setLe s (base + stride * i) 4 ((mapFind g.regs (a + 4 * i)).getD (resetValue (a + 4 * i))).toNat) s

/-- Sequencer, Enlarger control, Developer scalars and masks of Table 08.4. -/
def negControl (s : State) (b t : Nat) (g : Negative) : State :=
  let u := g.unit
  let s := setLe s (b + 0x100) 4 u.pc
  let s := putMap s (b + 0x108) 8 u.p (·.toNat)
  let s := setLe s (b + 0x188) 4 u.stripNext
  let s := setLe s (b + 0x18C) 4 u.held.length
  let s := forEach (u.held.zipIdx) s (fun h s => setLe s (b + 0x190 + 4 * h.2) 4 h.1)
  let s := putRegs s g (b + 0x1D0) 4 (Reg.TILE_STRIP_BASE t 0) 16
  let s := setLe s (b + 0x300) 3 ((if u.enl.active1 then 1 else 0) + 256 * u.enl.bank0.fmt + 65536 * u.enl.bank1.fmt)
  let s := match u.enl.pass with
    | some p => setLe (setLe s (b + 0x310) 16 p.cmd.toNat) (b + 0x320) 4 p.next
    | none => s
  let s := forEach (u.enl.queue.zipIdx) s (fun q s => setLe s (b + 0x330 + 16 * q.2) 16 q.1.2.toNat)
  let s := setLe s (b + 0x370) 1 (16 * u.enl.fill)
  let s := forEach (u.enl.fbq.zipIdx) s (fun q s =>
    setLe s (b + 0x380 + 4 * q.2) 4 (q.1.owner + (if q.1.finished then 256 else 0) + 65536 * q.1.tag))
  let s := putMap s (b + 0x400) 4 u.dev.s (·.toNat)
  let s := putMap s (b + 0x480) 4 u.dev.cbb (·.toNat)
  let s := putMap s (b + 0x4A0) 4 u.dev.cbl (·.toNat)
  let s := setLe s (b + 0x4C0) 2 u.dev.vlen
  let s := putRegs s g (b + 0x4C4) 4 (Reg.TILE_DEV_FLAGS t) 1
  let s := setLe s (b + 0x4C8) 1 u.dev.queue.length
  let s := forEach (u.dev.queue.zipIdx) s (fun q s => setLe s (b + 0x500 + 8 * q.2) 8 q.1.2.toNat)
  putMap s (b + 0x540) 32 u.dev.m (·.toNat)

/-- Fixer, rings, sharing state and the arrays of Table 08.4. -/
def negArrays (s : State) (b c t : Nat) (g : Negative) : State :=
  let u := g.unit
  let x := getC s c
  let s := match u.fix with
    | some j => setLe s (b + 0x640) 16 j.cmd.toNat
    | none => s
  let s := putRegs s g (b + 0x654) 4 (Reg.TILE_FIX_FLAGS t) 2
  let s := putRegs s g (b + 0x660) 4 (Reg.TILE_FIX_OVF t 0) 8
  let s := putRegs s g (b + 0x900) 8 (Reg.TILE_RING_CFG t 0) 32
  let s := putRegs s g (b + 0x904) 8 (Reg.TILE_RING_PTR t 0) 32
  let s := setLe s (b + 0xC00) 32 ((x.sems.map (fun m => 2 ^ (m.1 % 256))).sum)
  let s := forEach (x.credits.zipIdx) s (fun k s => setLe s (b + 0xC20 + 2 * k.2) 2 k.1)
  let s := putRegs s g (b + 0x1000) 4 (Reg.TILE_FIX_SCALE t 0) 256
  let s := putRegs s g (b + 0x1400) 4 (Reg.TILE_FIX_CLIP t 0) 256
  let s := putRegs s g (b + 0x1800) 4 (Reg.TILE_FIX_TOTAL t 0) 256
  let s := match u.fix with
    | some j => putMap s (b + 0x1C00) 4 j.maxima (·.toNat)
    | none => s
  let s := putMap s (b + 0x2000) 6 u.dev.a (·.toNat)
  let s := putMap s (b + 0x4000) 2 u.enl.bank0.elems (·.toNat)
  let s := putMap s (b + 0x6000) 2 u.enl.bank1.elems (·.toNat)
  putMap s (b + 0x8000) 4 u.dev.v (·.toNat)

/-- The variable part (Table 08.5). -/
def negVariable (s : State) (b : Nat) (g : Negative) : State :=
  let e := g.unit.enl
  let f1 := flow1Held e
  let s := if f1 then putBits (putMap (putMap s (b + 65536) 4 e.accRe (·.toNat)) (b + 65536 + 16384) 4 e.accIm (·.toNat)) (b + 65536 + 32768) e.accWrap else s
  let q := b + 65536 + (if f1 then 33280 else 0)
  forEach (e.fbq.zipIdx) s (fun x s => putBits (putMap s (q + 16896 * x.2) 4 x.1.data (·.toNat)) (q + 16896 * x.2 + 16384) x.1.wrap)

/-- Write a Negative's bytes at a base (R287); reserved bytes and the areas internal to the device are 0. -/
def negWrite (s : State) (b c p t : Nat) (g : Negative) : State :=
  negVariable (negArrays (negControl (negHeader (zeroRange s b g.bytes) b c p t g) b t g) b c t g) b g

end Sys2Proof.Machine
end

