-- ==== Sys2Proof/Machine/Sequencer.lean ====
section
/-!
DEFINITION. Sequencer.lean: the scalar sequencer (07 R241 to R246): fetch limits, issue into the units' queues, and the
sequencer's own instructions that need no schedule. An instruction command names the instruction the tile has fetched
(DESIGN CHOICE, log 12); it issues, waits, or faults its context.
-/
namespace Sys2Proof.Machine

open Sys2Proof

/-- What issuing an instruction comes to. -/
inductive SeqRes where
  | next (s : State)              -- the program counter passes it
  | jump (s : State) (off : Int)  -- a taken branch, in words from its own first word
  | stay (s : State)              -- it has issued and its release will move the program counter (SEQ.BAR)
  | wait (s : State)              -- it has not issued
  | fault (s : State) (r : ErrRec)

/-- The context whose instructions tile t issues: its exposure runs there and the program has not ended. -/
def issuing (s : State) (t : Nat) : Option Nat :=
  let x := getT s t
  match x.run with
  | some c =>
    if (x.seq = .issuing ∨ x.seq = .waiting ∨ x.seq = .ending) ∧ x.barWait = none ∧ ((getC s c.val).st = .running ∨ (getC s c.val).st = .deferred) then some c.val
    else none
  | none => none

/-- Whether n words from the program counter lie in the context's range (R241). -/
def fetchOk (s : State) (c pc n : Nat) : Bool :=
  match declOf s c with
  | some d => decide (d.imemBase ≤ pc) && decide (pc + n ≤ d.imemBase + d.imemWords)
  | none => false

/-- The opcodes that name no instruction (R242, 04 Table 04.3, 05 R175). -/
def opReserved (op : Nat) : Bool :=
  if op < 0xC0 then (devOp op).isNone
  else decide (op = 0xCF) || (decide (0xD1 ≤ op) && decide (op < 0xE0)) || (decide (0xE7 ≤ op) && decide (op < 0xF0)) || decide (0xF1 ≤ op)

/-- The opcode of the word that instruction memory holds at a tile's program counter. -/
def fetchedOp (x : Tile) : Nat := fieldOf (mapGet 0#64 x.imem x.pc) 63 56

/-- The fetch of `len` words at a program counter, and whether one is uncorrectable (09 R307 classes 0x03, 0x04): a corrected word is counted,
and either kind is rewritten from the plan's image, which is what the memory holds. -/
def fetchWords (s : State) (t pc len : Nat) : State × Bool :=
  if s.ecc.imemSingle.isEmpty && s.ecc.imemBad.isEmpty then (s, false)
  else
    let ws := (List.range len).map (fun i => 65536 * t + pc + i)
    let one := ws.filter s.ecc.imemSingle.contains
    let s' := { s with ecc := { s.ecc with imemSingle := s.ecc.imemSingle.filter (fun w => !one.contains w)
                                           imemBad := s.ecc.imemBad.filter (fun w => !ws.contains w) } }
    (forEach one s' (fun _ s => countError s 0x03), ws.any s.ecc.imemBad.contains)

/-- Issue an instruction of `len` words with opcode `op` on tile t: nothing happens where no program issues there. A reserved opcode
in instruction memory at the program counter is illegal, whatever the command (R242). -/
def seqIssue (s : State) (t op len : Nat) (body : State → Nat → SeqRes) : Step' :=
  match issuing s t with
  | none => (s, none)
  | some c =>
    let pc := (getT s t).pc
    let fw := fetchWords s t pc (if fetchOk s c pc len then len else 0)
    let s := fw.1
    if fw.2 then (s, some { faultRec 11 t c 0 with cls := 0x04, addr := 8 * pc })
    else if !fetchOk s c pc len || opReserved (fetchedOp (getT s t)) then (s, some (faultRec 1 t c 0))
    else
      let count := fun (s : State) => incR s (Reg.TILE_SEQ_ISSUE t) 1
      let at' := fun (s : State) (pc' : Nat) => modT (count s) t (fun x => { x with pc := pc', seq := if x.seq = .waiting ∨ x.seq = .ending then .issuing else x.seq, waitOp := 0 })
      let held := fun (s : State) => incR (modT s t (fun x => { x with seq := if op = 0xCE then .ending else .waiting, waitOp := op })) (Reg.TILE_SEQ_STALL t) 1
      match body s c with
      | .next s => (at' s (pc + len), none)
      | .jump s off =>
        let target := (pc : Int) + off
        if 0 ≤ target ∧ fetchOk s c target.toNat 1 then (at' s target.toNat, none) else (s, some (faultRec 1 t c 0))
      | .stay s => (held s, none)
      | .wait s => (held s, none)
      | .fault s r => (s, some r)

/-- Then let the tile's queued work run, unless the Shutter has stopped it (04 R151, 05 R192). -/
def andSettle (t : Nat) (r : Step') : Step' :=
  match r with
  | (s, none) =>
    match (getT s t).run with
    | some c => if (getT s t).seq = .stopped then (s, none) else settle 64 s t c.val
    | none => (s, none)
  | r => r

/-- Take the next program-order position of a tile. -/
def nextPos (s : State) (t : Nat) : Nat × State := ((getT s t).sbSeq, modT s t (fun x => { x with sbSeq := x.sbSeq + 1 }))

/-! ### Issue into the units -/

/-- Into the 8-entry Developer queue (05 R161). -/
def issueDev (s : State) (t : Nat) (w : Word64) : SeqRes :=
  if 8 ≤ (getT s t).dev.queue.length then .wait s
  else
    let r := nextPos s t
    .next (modT r.2 t (fun x => { x with dev := { x.dev with queue := x.dev.queue ++ [(r.1, w)] } }))

/-- Into the 4-entry Enlarger command queue, with its scoreboard entry (04 R134, 06 R208). -/
def issueEnl (s : State) (t : Nat) (w : Word128) : SeqRes :=
  if 4 ≤ (getT s t).enl.queue.length then .wait s
  else
    let r := nextPos s t
    .next (modT r.2 t (fun x =>
      let x := { x with enl := { x.enl with queue := x.enl.queue ++ [(r.1, w)] } }
      match enlRange r.1 w with
      | some e => sbEnter x e
      | none => x))

/-- To the Fixer, which takes one command at a time (03 R112, log 13), with its scoreboard entry (06 R208). -/
def issueFix (s : State) (t : Nat) (w : Word128) : SeqRes :=
  if (getT s t).fix.isSome then .wait s
  else
    let r := nextPos s t
    .next (modT r.2 t (fun x => sbEnter { x with fix := some { pos := r.1, cmd := w, waiting := true, converting := false, group := 0,
                                                               acc := 0, maxima := [] } } (fixRange (FixCmd.of w) r.1)))

/-! ### Sequencer instructions (Table 07.2) -/

/-- Whether every bit of a word outside the given fields is 0: a reserved bit that is not 0 makes the instruction
illegal (R244). -/
def onlyFields (w : Word64) (fs : List (Nat × Nat)) : Bool :=
  decide (w &&& ~~~ (fs.foldl (fun m f => m ||| maskOf 64 f.1 f.2) (maskOf 64 63 56)) = 0#64)

def illegalSeq (s : State) (t c : Nat) : SeqRes := .fault s (faultRec 1 t c 0)

def pGet (s : State) (t n : Nat) : BitVec 48 := mapGet 0#48 (getT s t).p n
def pSet (s : State) (t n : Nat) (v : BitVec 48) : State := modT s t (fun x => { x with p := mapSet 0#48 x.p n v })

def seqNop (w : Word64) (t : Nat) (s : State) (c : Nat) : SeqRes := if onlyFields w [] then .next s else illegalSeq s t c

def seqLi (w : Word64) (t : Nat) (s : State) (c : Nat) : SeqRes :=
  if onlyFields w [(55, 52), (31, 0)] then .next (pSet s t (fieldOf w 55 52) (BitVec.ofNat 48 (fieldOf w 31 0))) else illegalSeq s t c

def seqLih (w : Word64) (t : Nat) (s : State) (c : Nat) : SeqRes :=
  if onlyFields w [(55, 52), (15, 0)] then
    let pd := fieldOf w 55 52
    .next (pSet s t pd (setField (pGet s t pd) 47 32 (fieldOf w 15 0)))
  else illegalSeq s t c

def seqAdd (w : Word64) (t : Nat) (s : State) (c : Nat) : SeqRes :=
  if onlyFields w [(55, 52), (51, 48), (31, 0)] then
    .next (pSet s t (fieldOf w 55 52) (pGet s t (fieldOf w 51 48) + BitVec.ofInt 48 (signed 32 (fieldOf w 31 0))))
  else illegalSeq s t c

def seqBnz (w : Word64) (t : Nat) (s : State) (c : Nat) : SeqRes :=
  if onlyFields w [(55, 52), (23, 0)] then
    let pd := fieldOf w 55 52
    let v := pGet s t pd - 1#48
    let s := pSet s t pd v
    if v = 0#48 then .next s else .jump s (signed 24 (fieldOf w 23 0))
  else illegalSeq s t c

def seqJmp (w : Word64) (t : Nat) (s : State) (c : Nat) : SeqRes :=
  if onlyFields w [(23, 0)] then .jump s (signed 24 (fieldOf w 23 0)) else illegalSeq s t c

/-- The SLI that SEQ.PTOS places: vd the S code of S[imm[4:0]], imm P[ps][31:0]. -/
def ptosWord (s : State) (t : Nat) (w : Word64) : Word64 :=
  BitVec.ofNat 64 (0x02 * 2 ^ 56 + (32 + fieldOf w 4 0) * 2 ^ 50 + (pGet s t (fieldOf w 51 48)).toNat % 2 ^ 32)

def seqPtos (w : Word64) (t : Nat) (s : State) (c : Nat) : SeqRes :=
  if onlyFields w [(51, 48), (4, 0)] then issueDev s t (ptosWord s t w) else illegalSeq s t c

/-- RING.WAIT (06 R214). -/
def ringWait (w : Word64) (t : Nat) (s : State) (c : Nat) : SeqRes :=
  if onlyFields w [(55, 55), (52, 48), (47, 44)] then
    let n := fieldOf w 52 48
    let r := ringAt s t n
    if !r.en then .fault s { faultRec 6 t c 0 with detail := n }
    else if ringReady r (bitOf w 55) (fieldOf w 47 44 + 1) then .next s
    else .wait s
  else illegalSeq s t c

/-- RING.ADV (06 R214): it issues, enters the scoreboard, and takes effect when older accesses to its slots are complete. -/
def ringAdv (w : Word64) (t : Nat) (s : State) (c : Nat) : SeqRes :=
  if onlyFields w [(55, 55), (52, 48), (47, 44)] then
    let n := fieldOf w 52 48
    let tail := bitOf w 55
    let k := fieldOf w 47 44 + 1
    if !(ringAt s t n).en then .fault s { faultRec 6 t c 0 with detail := n }
    else
      let r := nextPos s t
      .next (modT r.2 t (fun x => sbEnter { x with advQ := x.advQ ++ [⟨r.1, n, tail, k⟩] } (advEntry s t r.1 n tail k)))
  else illegalSeq s t c

/-- The program record of a context's running exposure. -/
def programOf (s : State) (c : Nat) : Option Program :=
  match s.plan, (getC s c).inst with
  | some p, some i =>
    match p.parts.find? (fun q => decide (q.part = ((declOf s c).map (·.part)).getD 16)) with
    | some q => (q.entries[i.entry]?).bind (fun e => p.programs[e.program]?)
    | none => none
  | _, _ => none

/-- SEQ.STRIP (R238, R239): strip j·T + k of the sheet, for the tile at position k of T. -/
def seqStrip (w : Word64) (t : Nat) (s : State) (c : Nat) : SeqRes :=
  let pd := fieldOf w 55 52
  let x := getT s t
  if !(onlyFields w [(55, 52), (23, 0)]) || decide (13 < pd) || decide (16 ≤ x.held.length) then illegalSeq s t c
  else
    match programOf s c with
    | none => illegalSeq s t c
    | some p =>
      let ts := tilesOf p.tiles
      let k := (ts.filter (fun u => decide (u < t))).length
      let strip := x.stripNext * ts.length + k
      if p.threads ≤ 256 * strip then .jump s (signed 24 (fieldOf w 23 0))
      else
        let slot := x.stripNext % 16
        let s := pSet (pSet (pSet s t pd (BitVec.ofNat 48 strip)) t (pd + 1) (BitVec.ofNat 48 (min 256 (p.threads - 256 * strip))))
          t (pd + 2) (BitVec.ofNat 48 (getN s (Reg.TILE_STRIP_BASE t slot)))
        .next (modT s t (fun x => { x with held := x.held ++ [strip], stripNext := x.stripNext + 1 }))

/-- SEQ.SRET: retire the oldest held strip; illegal if none is held. -/
def seqSret (w : Word64) (t : Nat) (s : State) (c : Nat) : SeqRes :=
  match (getT s t).held with
  | _ :: rest => if onlyFields w [] then .next (modT s t (fun x => { x with held := rest })) else illegalSeq s t c
  | [] => illegalSeq s t c

/-! ### DMA.GO (R217, R245) -/

/-- DMA.GO: start a channel at a descriptor chain, with an optional row range in the scoreboard; a busy channel waits. -/
def dmaGo (w : Word128) (t : Nat) (s : State) (c : Nat) : SeqRes :=
  let ch := fieldOf w 55 54
  let va := if bitOf w 53 then ((pGet s t (fieldOf w 52 49)).toNat + fieldOf w 127 80) % 2 ^ 48 else fieldOf w 127 80
  let lo := fieldOf w 46 32
  let len := fieldOf w 30 16
  let rw := fieldOf w 15 14
  let x := getT s t
  if fieldOf w 79 64 ≠ 0 ∨ fieldOf w 48 47 ≠ 0 ∨ fieldOf w 31 31 ≠ 0 ∨ fieldOf w 13 0 ≠ 0 ∨ rw = 3 then illegalSeq s t c
  else if va % 64 ≠ 0 ∨ (len ≠ 0 ∧ 24576 < lo + len) then .fault s (faultRec 3 t c va)
  else if (nth DmaChan.idle x.dma ch).busy then .wait s
  else
    let r := nextPos s t
    let e : SbEntry := { pos := r.1, unit := .dma ch, lo := lo, hi := lo + len, rd := decide (rw ≠ 1), wr := decide (rw ≠ 0) }
    .next (modT r.2 t (fun x =>
      let x := { x with dma := listSet x.dma ch { busy := true, nextFetch := va, fetchDone := false, fetched := [], inFlight := [],
                                                  range := if len = 0 then none else some e } }
      if len = 0 then x else sbEnter x e))

end Sys2Proof.Machine
end

