-- ==== Sys2Proof/Machine/Sched.lean ====
section
/-!
DEFINITION. Sched.lean: the Exposure Plan sequencer, semaphores, barriers, the Shutter and fault teardown (08), and the
ring watchdog (09 R320 to R323), as shared operations.
-/
namespace Sys2Proof.Machine

open Sys2Proof

/-! ### The plan -/

def partPlan (s : State) (p : Nat) : Option PartPlan := s.plan.bind (fun pl => pl.parts.find? (fun q => decide (q.part = p)))
def ctxPart (s : State) (c : Nat) : Nat := ((declOf s c).map (·.part)).getD 16
def entryAt (s : State) (p i : Nat) : Option PlanEntry := (partPlan s p).bind (fun q => q.entries[i]?)

/-- The entry of a context's exposure instance. -/
def instEntry (s : State) (c : Nat) : Option PlanEntry := (getC s c).inst.bind (fun i => entryAt s (ctxPart s c) i.entry)

/-- The tile set of a context's exposure, ascending. -/
def instTiles (s : State) (c : Nat) : List Nat := ((instEntry s c).map (fun e => tilesOf e.tiles)).getD []

/-- The contexts of a partition, ascending. -/
def partCtxs (s : State) (p : Nat) : List Nat :=
  ((s.plan.map (fun pl => (pl.decls.filter (fun d => decide (d.part = p))).map (·.ctx))).getD []).insertionSort (· ≤ ·)

/-- Whether the plan may run cycles: it is loaded, permitted to arm, and device time is valid (08 R265). -/
def schReady (s : State) : Bool := s.plan.isSome && s.sched.permitted && getB s Reg.TIME_STATUS 31

/-- SCH_STATUS.armed: in a group of more than one member it stays 0 until the arm cycle starts (08 R265, 14 R447, R448). -/
def schArmed (s : State) : Bool :=
  schReady s && (decide (groupSize s ≤ 1) || (s.peer.armAt.map (fun t => decide (t ≤ s.time.dev))).getD false)

/-- A device-fatal error has occurred (09 R310). -/
def fatal (s : State) : Bool := getB s Reg.ERR_LOG_STATUS 31

/-- A cycle's length in units of device time, from its code. -/
def cycleUnits (code : Nat) : Nat := 10000000 * 65536 * 2 ^ code

/-- The cycle code of the plan (R264: one for all partitions). -/
def cycleCode (s : State) : Nat := ((s.plan.bind (fun p => p.parts.head?)).map (·.cycle)).getD 0

/-- The first cycle start at or after a device time (R264). -/
def cycleFrom (s : State) (t : Nat) : Nat :=
  let gps := 315964819 * unitsPerSec
  let l := cycleUnits (cycleCode s)
  gps + (t - gps + l - 1) / l * l

/-- Arm the plan when everything it waits for has come (08 R265, 14 R447, R448, 16 R502): the first cycle to run is the
first that starts after this, or the group's arm cycle; cycle pins pulse from that one on (13 Table 13.6). -/
def armNow (s : State) : State :=
  if !schReady s || s.sched.armed || !(decide (groupSize s ≤ 1) || s.peer.armAt.isSome) then s
  else
    let s := forEach ((s.plan.map (·.parts)).getD []) s (fun q s =>
      modP s q.part (fun p => { p with nextDue := q.entries.length, woken := [] }))
    let next := max (cycleFrom s (s.time.dev + 1)) (s.peer.armAt.getD 0)
    { s with sched := { s.sched with armed := true, nextCycle := next },
             time := { s.time with pins := s.time.pins.map (fun kv => (kv.1, if kv.2.mode = 5 then { kv.2 with next := next + kv.2.t } else kv.2)) } }

/-! ### Operating points -/

/-- Whether a context runs, its stop being deferred or not. -/
def isRunning (x : Ctx) : Bool := decide (x.st = .running ∨ x.st = .deferred)

/-- The tiles on which a context's exposure has started and not ended. -/
def liveTiles (x : Ctx) : List Nat := ((x.inst.map (fun i => i.started.filter (fun t => !i.ended.contains t))).getD [])

/-- The requested point of each compute die: the highest preference of the exposures that run on it, else unchanged (R275). -/
def opRequests (s : State) : State :=
  let prefs := s.ctxs.flatMap (fun kv =>
    if isRunning kv.2 then (liveTiles kv.2).map (fun t => (dieOf t, ((instEntry s kv.1).map (·.op)).getD 0)) else [])
  let req := fun d =>
    let l := (prefs.filter (fun x => decide (x.1 = d))).map (·.2)
    if l.isEmpty then nth 0 s.sched.opReq d else l.foldl max 0
  { s with sched := { s.sched with opReq := [req 0, req 1] } }

/-! ### Semaphores (R279 to R281) -/

/-- The context of a partition that holds a semaphore. -/
def semHolder (s : State) (p m : Nat) : Option Nat := (partCtxs s p).find? (fun c => (getC s c).sems.any (fun x => decide (x.1 = m)))

/-- A semaphore is shared when two or more contexts of the partition include it. -/
def semShared (s : State) (p m : Nat) : Bool :=
  decide (2 ≤ ((partCtxs s p).filter (fun c => ((declOf s c).map (fun d => bitOf d.sems m)).getD false)).length)

def holdsShared (s : State) (c : Nat) : Bool := (getC s c).sems.any (fun x => semShared s (ctxPart s c) x.1)

/-- The exposure's declaration of a semaphore. -/
def semDeclared (s : State) (c m : Nat) : Bool := ((instEntry s c).map (fun e => e.sems.contains m)).getD false

/-- A grant is withheld from a context whose stop is deferred (R280). -/
def semWithheld (s : State) (c m : Nat) : Bool := (getC s c).stopReq.isSome && semShared s (ctxPart s c) m

/-- Pass the instruction a tile waits at. -/
def passInstr (s : State) (t : Nat) : State :=
  incR (modT s t (fun x => { x with pc := x.pc + 1, seq := if x.seq = .waiting then .issuing else x.seq, waitOp := 0, barWait := none }))
    (Reg.TILE_SEQ_ISSUE t) 1

/-- Grant a semaphore to a context. -/
def semGrant (s : State) (c m : Nat) : State := modC s c (fun x => { x with sems := x.sems ++ [(m, runTime s c)] })

/-- The waiting SEM.ACQs of a semaphore whose grant is not withheld. -/
def semWaiters (s : State) (p m : Nat) : List SemWait :=
  (getP s p).waiters.filter (fun w => decide (w.sem = m) && !semWithheld s w.ctx m)

/-- The first of them: the oldest, then ascending context, then tile (R279). -/
def semFirst (l : List SemWait) : Option SemWait :=
  l.foldl (fun r w => match r with
    | none => some w
    | some v => if v.since < w.since ∨ (v.since = w.since ∧ (v.ctx < w.ctx ∨ (v.ctx = w.ctx ∧ v.tile ≤ w.tile))) then some v else some w) none

/-- A free semaphore goes to the first waiting SEM.ACQ whose grant is not withheld. -/
def semNext (s : State) (p m : Nat) : State :=
  if (semHolder s p m).isSome then s
  else match semFirst (semWaiters s p m) with
    | none => s
    | some w =>
      let s := modP s p (fun x => { x with waiters := x.waiters.erase w })
      passInstr (semGrant s w.ctx m) w.tile

/-- Release a semaphore that a context holds. -/
def semRelease (s : State) (c m : Nat) : State :=
  semNext (modC s c (fun x => { x with sems := x.sems.filter (fun y => decide (y.1 ≠ m)) })) (ctxPart s c) m

/-- SEM.ACQ: granted when free, else it waits its turn; one that is withheld has not issued and takes no place among the waiting
(R280); illegal where R279 says. -/
def semAcq (w : Word64) (t : Nat) (s : State) (c : Nat) : SeqRes :=
  let m := fieldOf w 7 0
  let p := ctxPart s c
  let mine := fun (x : SemWait) => decide (x.sem = m ∧ x.ctx = c ∧ x.tile = t)
  if !(onlyFields w [(7, 0)]) || !semDeclared s c m || (getC s c).sems.any (fun x => decide (x.1 = m)) then illegalSeq s t c
  else if semWithheld s c m then .wait s
  else if (semHolder s p m).isNone && (semWaiters s p m).all mine then
    .next (semGrant (modP s p (fun x => { x with waiters := x.waiters.filter (fun y => !mine y) })) c m)
  else if (getP s p).waiters.any mine then .wait s
  else .wait (modP s p (fun x => { x with waiters := x.waiters ++ [{ sem := m, ctx := c, tile := t, since := s.now }] }))

/-- SEM.REL. -/
def semRel (w : Word64) (t : Nat) (s : State) (c : Nat) : SeqRes :=
  let m := fieldOf w 7 0
  if !(onlyFields w [(7, 0)]) || !semDeclared s c m || !(getC s c).sems.any (fun x => decide (x.1 = m)) then illegalSeq s t c
  else .next (semRelease s c m)

/-! ### Barriers (R277, R278) -/

/-- A tile arrives at a barrier. -/
def barArrive (s : State) (c t b : Nat) : State :=
  modC (modT s t (fun x => { x with barWait := some b })) c
    (fun x => { x with barArr := if x.barArr.contains (b, t) then x.barArr else x.barArr ++ [(b, t)] })

/-- Whether every tile of the exposure's set has arrived. -/
def barFull (s : State) (c b : Nat) : Bool := (instTiles s c).all (fun t => (getC s c).barArr.contains (b, t))

/-- Release a barrier on every tile of the set at T_rel, given as `now`: the tiles pass SEQ.BAR, and their Enlargers follow
in eight waves (04 R149). -/
def barRelease (s : State) (c b rel : Nat) : State :=
  let tiles := ((getC s c).barArr.filter (fun x => decide (x.1 = b))).map (·.2)
  let s := forEach tiles s (fun t s =>
    modT (passInstr s t) t (fun x => { x with enl := { x.enl with waveUntil := some (rel * 1250 + 16000 * (t / 16 % 8)) } }))
  modC s c (fun x => { x with barArr := x.barArr.filter (fun y => decide (y.1 ≠ b)), barRel := x.barRel.filter (fun y => decide (y.1 ≠ b)) })

/-! ### The Shutter (R282 to R286) -/

/-- A Shutter request (R280, R282), cause 0 preemption or 1 driver: a context that does not run takes none; one that holds a
shared semaphore defers it, and a driver's request that meets a deferred preemption joins it (2). -/
def shutterRequest (s : State) (c cause : Nat) : State :=
  let x := getC s c
  if x.st = .running ∧ x.stopReq = none then
    if holdsShared s c then
      incR (modC s c (fun x => { x with st := .deferred, stopReq := some cause })) (Reg.SCH_P_DEFER (ctxPart s c)) 1
    else modC s c (fun x => { x with stopReq := some cause })
  else if x.st = .deferred ∧ cause = 1 ∧ x.stopReq = some 0 then modC s c (fun x => { x with stopReq := some 2 })
  else s

/-- A driver's request on a context has ended: SCH_SHUTTER_STATUS.busy clears (R296). -/
def shutterDone (s : State) (c : Nat) : State :=
  if getF s Reg.SCH_SHUTTER_STATUS 6 0 = c then setBitR s Reg.SCH_SHUTTER_STATUS 31 false else s

/-- A stop meets group barriers at which the context has arrived: a release that has reached the member counts, other
arrivals are withdrawn, and stay noted with the time 0 (14 R452). -/
def stopGroupBars (s : State) (c : Nat) : State :=
  let seat := ctxSeat s c
  forEach (((getC s c).barArr.map (·.1)).dedup.filter (fun b => decide (224 ≤ b))) s (fun b s =>
    if !barFull s c b then s
    else if relPending s b seat then
      writeColl (barRelease (dropRelease s b seat) c b s.now) b c (mapGet 0 s.peer.relNs b)
    else modC (tellWithdrawal s b seat) c (fun x => { x with barRel := x.barRel ++ [(b, 0)] }))

/-- A stop takes effect at T_s (R278, R282, R283 steps 1 and 2): every tile of the set stops, its units drain, waits that
have not been granted are withdrawn, a barrier released by now counts as released and other arrivals are cleared. -/
def performStop (s : State) (c : Nat) : State :=
  let x := getC s c
  match x.stopReq with
  | none => s
  | some cause =>
    if !isRunning x || holdsShared s c then s
    else
      let s := forEach (x.barRel.filter (fun b => decide (b.2 ≤ s.now))) s (fun b s => barRelease s c b.1 b.2)
      let s := stopGroupBars (modC s c (fun x => { x with barRel := [] })) c
      let tiles := liveTiles (getC s c)
      let s := forEach tiles s (fun t s => modT (drainTile s t) t (fun y => { y with seq := .stopped, waitOp := 0, barWait := none }))
      let s := modP s (ctxPart s c) (fun p => { p with waiters := p.waiters.filter (fun w => decide (w.ctx ≠ c)) })
      let s := modC s c (fun x => { x with st := .stopped, stopReq := none, stopCause := min cause 1, stopTime := s.time.dev,
                                           driverStop := decide (1 ≤ cause), stopping := tiles, runAcc := runTime s c,
                                           runSince := none, barArr := [] })
      let s := if cause ≠ 1 then incR s (Reg.SCH_P_PREEMPT (ctxPart s c)) 1 else s
      opRequests (if tiles.isEmpty then shutterDone s c else s)

/-- The part of a partition's Negative store that holds context c on tile t (R286). -/
def negSlot (s : State) (c t : Nat) : Nat :=
  let pairs := (partCtxs s (ctxPart s c)).flatMap (fun x => (((declOf s x).map (fun d => tilesOf d.tiles)).getD []).map (fun u => (x, u)))
  (((partPlan s (ctxPart s c)).map (·.negStore)).getD 0) + 0x40000 * (pairs.findIdx (fun y => decide (y = (c, t))))

/-- The address of a context's save region on a tile. -/
def negRegion (s : State) (c t : Nat) : Nat := spBase t + ((declOf s c).map (·.negOff)).getD 0 * 64

/-- Credits above 4 on each virtual channel return to the pool (R283 step 4). -/
def trimCredits (x : Ctx) : Ctx := { x with credits := x.credits.map (fun k => min k 4) }

/-! ### Arrivals redirected to the receive area (R288, R289) -/

/-- The rings of a context on a tile whose producer is a stream from another device: ring, source member, virtual channel. -/
def pendRings (s : State) (c t : Nat) : List (Nat × Nat × Nat) :=
  ((((s.plan.map (·.streams)).getD []).filter (fun x => decide (x.dstCtx = c ∧ x.dstTile = t) && decide (seatMember s x.srcSeat ≠ ownMember s))).map
    (fun x => (x.dstRing, seatMember s x.srcSeat, x.vc))).dedup

/-- Write the pending-arrival records of a tile into a Negative at a base. -/
def putArrivals (s : State) (c t b : Nat) : State :=
  let rings := pendRings s c t
  forEach rings.zipIdx (setLe s (b + 0xC28) 1 rings.length) (fun r s =>
    let mine := (getC s c).recv.filter (fun a => decide (a.tile = t ∧ a.ring = r.1.1))
    let k := b + 0xC40 + 32 * r.2
    let s := setLe (setLe (setLe s k 2 r.1.1) (k + 2) 2 r.1.2.1) (k + 4) 1 r.1.2.2
    setLe (setLe s (k + 8) 4 ((mine.head?.map (·.at')).getD 0)) (k + 12) 4 mine.length)

/-- Put an arrival into a context's receive area, in arrival order: one that would exceed it is dropped and counted, and the
context faults at its next start or resume on the tile. The area fills from its start whenever no arrival waits in it, and a page of
it that the tables do not map holds none (DESIGN CHOICE, log 96). Answers whether it has landed. -/
def recvPut (s : State) (c t n offset : Nat) (data : List Byte) (advance : Nat) : Bool × State :=
  let x := getC s c
  let cap := ((declOf s c).map (·.recvPages)).getD 0 * 65536
  let va := ((declOf s c).map (·.recvVa)).getD 0
  let at' := if x.recv.isEmpty then 0 else x.recvAt
  if cap < at' + data.length ∨ cap = 0 ∨ !areaMapped s c (va + at') data.length then
    (false, modC s c (fun x => { x with recvLost := mapSet 0 x.recvLost t (mapGet 0 x.recvLost t + 1) }))
  else
    let a : Arrival := { tile := t, offset := offset, ring := n, advance := advance, at' := at', len := data.length }
    let open' := ((areaAt s c (va + at')).map (engineOpen s)).getD true
    let s := if open' then areaPut s c (va + at') data else engineWrite s ((areaAt s c (va + at')).getD 0) data
    let s := modC s c (fun x => { x with recv := x.recv ++ [a], recvAt := at' + data.length })
    (true, if (getC s c).negHbm.contains t then putArrivals s c t (negSlot s c t) else s)

/-- Copy a context's redirected arrivals of a tile into their targets, in order, each followed by its ring advance (R289); the
first one that meets a sleeping group faults the context (06 R206). -/
def takeArrivals (s : State) (c t : Nat) : Step' :=
  let mine := (getC s c).recv.filter (fun a => decide (a.tile = t))
  let va := ((declOf s c).map (·.recvVa)).getD 0
  let r : Step' := mine.foldl (fun r a => match r with
    | (s, none) =>
      if spAccess s t a.offset a.len = .asleep then (s, some (faultRec 2 t c a.offset))
      else
        let s := setBytes s (spBase t + a.offset) (areaGet s c (va + a.at') a.len)
        (if a.advance = 0 then s else ringMove s t a.ring true a.advance, none)
    | r => r) (s, none)
  (modC r.1 c (fun x => { x with recv := x.recv.filter (fun a => decide (a.tile ≠ t)) }), r.2)

/-! ### Completing a stop -/

/-- A tile's Negative is complete in the save region, and the tile is handed on (R283 steps 3 to 5). -/
def negSaved (s : State) (c t : Nat) : State :=
  let x := getC s c
  if x.st = .stopped ∧ x.stopping.contains t then
    let u := unitOf (getT (modT s t (fun x => { x with dma := x.dma.map abandonChan })) t)
    let i := x.inst
    let g : Negative := { unit := u, regs := ctxRegs s t, cause := x.stopCause, entry := (i.map (·.entry)).getD 0, stopTime := x.stopTime,
                          cycle := (i.map (·.cycle)).getD 0, bytes := negLength u }
    let s := putArrivals (negWrite s (negRegion s c t) c (ctxPart s c) t g) c t (negRegion s c t)
    let s := clearUnit s t
    let s := modT s t (fun y => { y with run := none, lastCtx := none, seq := .idle,
                                         tlb := y.tlb.map (fun e => { e with pinned := false }) })
    let s := modC s c (fun x =>
      let x := { x with stopping := x.stopping.erase t, negs := mapPut x.negs t g, negHbm := x.negHbm.erase t }
      if x.stopping.isEmpty then trimCredits x else x)
    if (getC s c).stopping.isEmpty then shutterDone s c else s
  else s

/-- Put to sleep the groups of a tile that TILE_SP_SLEEP asks for, except those that hold a Negative which has not reached its store
slot: they wait (06 R206, 08 R286). A sleeping group holds nothing. -/
def sleepGroups (s : State) (t : Nat) : State :=
  let l := (List.range 6).filter (fun g => getB s (Reg.TILE_SP_SLEEP t) g && !(getT s t).asleep.contains g && !negHeld s t none (g * 0x40000) 0x40000)
  let s := forEach l s (fun g s => zeroRange s (spBase t + g * 0x40000) 0x40000)
  modT s t (fun x => { x with asleep := (x.asleep ++ l).insertionSort (· ≤ ·), wakingG := x.wakingG.filter (fun g => !l.contains g) })

/-- The background copy reaches the HBM store (R283 step 6, R286). -/
def negToHbm (s : State) (c : Nat) : State :=
  let x := getC s c
  if x.stopping.isEmpty then
    let s := forEach (x.negs.filter (fun kv => !x.negHbm.contains kv.1)) s (fun kv s =>
      let src := negRegion s c kv.1
      let dst := negSlot s c kv.1
      let cells := s.mem.filter (fun m => decide (src ≤ m.1) && decide (m.1 < src + kv.2.bytes))
      putArrivals (forEach cells (zeroRange s dst kv.2.bytes) (fun m s => setBytes s (dst + (m.1 - src)) [m.2])) c kv.1 dst)
    let s := modC s c (fun x => { x with negHbm := x.negs.map (·.1) })
    forEach (x.negs.map (·.1)) s (fun t s => sleepGroups s t)
  else s

/-! ### Foreign-dirty pages (R292 to R294) -/

/-- The valid level-2 entries of a context's page tables: virtual page number and entry (07 R248). -/
def pteList (s : State) (root : Nat) : List (Nat × Nat) :=
  let l1 := ((s.mem.filter (fun m => decide (root ≤ m.1) && decide (m.1 < root + 0x20000))).map (fun m => (m.1 - root) / 8)).dedup
  l1.flatMap (fun i =>
    let e := getLe s (root + 8 * i) 8
    if nbits e 63 63 = 1 then
      let b := nbits e 31 0 * 0x10000
      let l2 := ((s.mem.filter (fun m => decide (b ≤ m.1) && decide (m.1 < b + 0x10000))).map (fun m => (m.1 - b) / 8)).dedup
      l2.filterMap (fun j => let pte := getLe s (b + 8 * j) 8; if nbits pte 63 63 = 1 then some (i * 8192 + j, pte) else none)
    else [])

/-- The 64 KiB HBM pages that a writable entry maps. -/
def ptePages (s : State) (pte : Nat) : List Nat :=
  if nbits pte 58 58 = 0 then []
  else match nbits pte 62 60 with
    | 1 => let a := nbits pte 26 0 * 0x200000; if a < hbmBytes then (List.range 32).map (fun i => a / 0x10000 + i) else []
    | 4 => (List.range 32).flatMap (fun i => match mapFind s.pairs (nbits pte 15 0 + i) with
        | some p => [p.primary / 0x10000]
        | none => [])
    | _ => []

/-- The HBM pages a virtual range maps to. -/
def vaPages (s : State) (root va pages : Nat) : List Nat :=
  (List.range pages).filterMap (fun i =>
    let a := va + i * 0x10000
    let pte := walk s root a
    if nbits pte 63 63 = 1 ∧ nbits pte 62 60 = 1 then some ((nbits pte 26 0 * 0x200000 + nbits a 20 0) / 0x10000) else none)

/-- The pages a teardown marks (Table 08.8 step 5). -/
def dirtyPages (s : State) (c : Nat) : List Nat :=
  match declOf s c with
  | none => []
  | some d =>
    let sp := (tilesOf d.tiles).flatMap (fun t =>
      ((List.range 6).filter (fun g => d.groups.testBit g)).flatMap (fun g => (List.range 4).map (fun b => (spBase t + (4 * g + b) * 0x10000) / 0x10000)))
    let mapped := (pteList s d.ptRoot).flatMap (fun e => ptePages s e.2)
    let store := (tilesOf d.tiles).flatMap (fun t => (List.range 4).map (fun i => negSlot s c t / 0x10000 + i))
    (sp ++ mapped ++ store ++ vaPages s d.ptRoot d.recvVa d.recvPages ++ vaPages s d.ptRoot d.ovfVa d.ovfPages).dedup.insertionSort (· ≤ ·)

/-- Shadow pages that a context holds go to the scrubbed-page allocator (07 R254). -/
def dropShadows (s : State) (c : Nat) : State :=
  let mine := s.pairs.filter (fun kv => decide (kv.2.holder = some c))
  { s with
    alloc := { s.alloc with dirty := s.alloc.dirty ++ mine.filterMap (fun kv => kv.2.shadow) }
    pairs := s.pairs.map (fun kv => if kv.2.holder = some c then (kv.1, { kv.2 with shadow := none, discarded := false, holder := none }) else kv) }

/-- Pairs of a context whose predictions are not yet compared with a request: their shadows outlast the exposure (02 R70). -/
def keptPairs (s : State) (c : Nat) : List Nat :=
  s.carriers.flatMap (fun kv => kv.2.ul.flatMap (fun u => if u.2.cls = .open then
    u.2.preds.zipIdx.flatMap (fun q => if q.1.ctx = some c ∧ !q.1.matched ∧ !q.1.dropped then workPairs s kv.1 u.1 q.2 q.1.alloc else []) else []))

/-- At the end of a speculative exposure its other pairs are free again (02 R70). -/
def endShadows (s : State) (c : Nat) : State :=
  let kept := keptPairs s c
  let gone := s.pairs.filter (fun kv => decide (kv.2.holder = some c) && !kept.contains kv.1)
  { s with
    alloc := { s.alloc with dirty := s.alloc.dirty ++ gone.filterMap (fun kv => kv.2.shadow) }
    pairs := s.pairs.map (fun kv => if gone.any (fun g => decide (g.1 = kv.1)) then (kv.1, { kv.2 with shadow := none, discarded := false, holder := none }) else kv) }

/-! ### Fault teardown (Table 08.8) -/

/-- The address whose page an uncorrectable read poisons, for R314. -/
def poisonOf (r : ErrRec) : Option Nat := if r.cls = 0x07 then some r.addr else none

/-- Wake a tile: it is ready 2 µs later (15 R475). -/
def wakeTile (s : State) (t : Nat) : State :=
  if (getT s t).power = .asleep then
    incR (modT s t (fun x => { x with power := .waking, wakeAt := s.now })) (Reg.TILE_PWR_WAKES t) 1
  else s

/-- A context fault tears the context down on every tile, in the order of Table 08.8; nothing is saved. A tile that sleeps is woken for it
(15 R475). -/
def contextFault (s : State) (c : Nat) (r : ErrRec) : State :=
  let x := getC s c
  let spec := ctxSpec s c
  let p := ctxPart s c
  -- steps 1, 2: the tiles stop, drain and are cleared; DMA reads still outstanding are abandoned
  let tiles := ((declOf s c).map (fun d => tilesOf d.tiles)).getD []
  let s := forEach tiles s (fun t s =>
    let y := getT s t
    if y.run.map (·.val) = some c ∨ y.lastCtx = some c then
      modT (clearUnit (drainTile s t) t) t (fun y =>
        { y with run := none, lastCtx := none, seq := .idle, tlb := y.tlb.filter (fun e => decide (e.ctx ≠ c)) })
    else modT s t (fun y => { y with tlb := y.tlb.filter (fun e => decide (e.ctx ≠ c)) }))
  let s := forEach (tiles.filter (fun t => dieAwake s (dieOf t))) s (fun t s => wakeTile s t)
  -- step 3: semaphores in ascending number, credits, redirected arrivals
  let s := modP s p (fun q => { q with waiters := q.waiters.filter (fun w => decide (w.ctx ≠ c)) })
  let s := forEach ((x.sems.map (·.1)).insertionSort (· ≤ ·)) s (fun m s => semRelease s c m)
  -- step 4: shadow pages
  let s := dropShadows s c
  -- step 5: foreign-dirty pages
  let pages := dirtyPages s c
  let s := { s with foreignDirty := (s.foreignDirty ++ pages).dedup.insertionSort (· ≤ ·) }
  let s := modC s c (fun x => { Ctx.init with
    st := if pages.isEmpty then .held else .scrubbing, scrub := pages, cause := r.cause,
    lastEntry := (x.inst.map (·.entry)).getD x.lastEntry })
  let s := shutterDone s c
  -- step 6: record, event, count, replay decisions
  let s := incR (logError s r) (Reg.SCH_P_FAULT p) 1
  let s := decideHits s c spec (poisonOf r)
  opRequests s

/-- What a unit's attempt leaves: a fault tears its context down. -/
def orFault (r : Step') : State :=
  match r with
  | (s, none) => s
  | (s, some e) => contextFault s e.ctx e

/-! ### Starting exposures (R270 to R275) -/

/-- Whether a logical tile is available (01 R30). -/
def tileAvail (s : State) (t : Nat) : Bool := getB s (Reg.PHYS_TILE_AVAIL (t / 32)) (t % 32)

/-- A Negative of another exposure is held for a tile and that exposure waits to resume (R270), one that c itself stopped apart
(R271). -/
def negWaits (s : State) (c t : Nat) (mine : List Nat) : Bool :=
  s.ctxs.any (fun kv => decide (kv.1 ≠ c) && !mine.contains kv.1 && decide (kv.2.st = .stopped) && !kv.2.driverStop && (mapFind kv.2.negs t).isSome)

/-- No exposure runs on a tile, and no stop is in progress on it. -/
def tileIdle (s : State) (t : Nat) : Bool := (getT s t).run.isNone

/-- Free for a waiting exposure (R270), and for a stopped one, whose order among stopped ones R273 settles (DEDUCED, log 19). -/
def freeFor (s : State) (c t : Nat) : Bool :=
  let x := getC s c
  tileIdle s t && (decide (x.st = .stopped) || !negWaits s c t ((x.inst.map (·.stopped)).getD []))

/-- The order of R273: planned start, then entry index. -/
def instBefore (a b : ExpInst) : Bool := decide (a.planned < b.planned) || (decide (a.planned = b.planned) && decide (a.entry < b.entry))

/-- Whether a context has an exposure to start or to resume. -/
def wantsTiles (x : Ctx) : Bool :=
  match x.st with
  | .waiting => true
  | .stopped => !x.driverStop && x.stopping.isEmpty
  | _ => false

/-- Whether the whole set of a context's exposure is free. -/
def setFree (s : State) (c : Nat) : Bool := (instTiles s c).all (freeFor s c)

/-- Whether another candidate of the partition goes first (R273): earlier in order, its whole set free, sharing a tile. -/
def goesFirst (s : State) (c : Nat) : Bool :=
  (partCtxs s (ctxPart s c)).any (fun o =>
    decide (o ≠ c) && wantsTiles (getC s o) && setFree s o &&
    (match (getC s o).inst, (getC s c).inst with
      | some a, some b => instBefore a b
      | _, _ => false) &&
    (instTiles s o).any (fun t => (instTiles s c).contains t))

/-- Load the pinned translations of an exposure (07 R251). -/
def loadPins (s : State) (t c : Nat) (pins : List Nat) : State :=
  match declOf s c with
  | none => s
  | some d =>
    let mine : List TlbEntry := pins.map (fun va => { ctx := c, vpn := va / 0x200000, pte := walk s d.ptRoot va, pinned := true })
    modT s t (fun x =>
      let loose := (x.tlb.filter (fun e => !(decide (e.ctx = c) && mine.any (fun m => decide (m.vpn = e.vpn))))).map (fun e => { e with pinned := false })
      { x with tlb := mine ++ loose.take (64 - mine.length) })

/-- Wake sleep groups of a tile: they will read as zero (06 R206). -/
def wakeList (s : State) (t : Nat) (l : List Nat) : State :=
  let wake := (getT s t).asleep.filter l.contains
  let s := forEach wake s (fun g s => zeroRange s (spBase t + g * 0x40000) 0x40000)
  modT s t (fun x => { x with asleep := x.asleep.filter (fun g => !wake.contains g), wakingG := (x.wakingG ++ wake).insertionSort (· ≤ ·) })

/-- The sleep groups a declaration lists are woken on a tile, through TILE_SP_SLEEP (06 R205, R206). -/
def wakeGroups (s : State) (t groups : Nat) : State :=
  let l := (List.range 6).filter groups.testBit
  wakeList (forEach (l.filter (fun g => getB s (Reg.TILE_SP_SLEEP t) g)) s (fun g s => setBitR s (Reg.TILE_SP_SLEEP t) g false)) t l

/-- The record of a receive overflow at a start or resume (R289). -/
def overflowRec (s : State) (c t : Nat) : Option ErrRec :=
  if 0 < mapGet 0 (getC s c).recvLost t then some (faultRec 8 t c 0) else none

/-- Free credits of a partition's pool on a virtual channel (14 R457). -/
def poolFree (s : State) (p v : Nat) : Nat :=
  getF s (Reg.PEER_P_POOL p v) 31 16 - ((partCtxs s p).map (fun c => nth 0 (getC s c).credits v)).sum

/-- Grant a context credits up to its demand (14 R457, 08 R290 step 4). -/
def grantCredits (s : State) (c : Nat) : State :=
  match declOf s c with
  | none => s
  | some d =>
    (List.range 4).foldl (fun s v =>
      let have' := nth 0 (getC s c).credits v
      let want := nth 0 d.credits v - have'
      let k := min want (poolFree s d.part v)
      modC s c (fun x => { x with credits := listSet x.credits v (max (min 4 (nth 0 d.credits v)) (have' + k)) })) s

/-- A tile's ring and strip setup for a context, from the plan (06 R213, 07 R240). -/
def loadSetup (s : State) (c t : Nat) : State :=
  match s.plan.bind (fun p => p.setups.find? (fun r => decide (r.ctx = c) && decide (r.tile = t))) with
  | none => s
  | some r =>
    let put := fun (s : State) (a : Nat) (l : List Word) => forEach l.zipIdx s (fun x s => setR s (a + 4 * x.2) x.1)
    put (put (put s (Reg.TILE_RING_CFG t 0) r.cfg) (Reg.TILE_RING_PTR t 0) r.ptr) (Reg.TILE_STRIP_BASE t 0) r.strips

/-- Start a context's exposure on one tile (15 R474; 07 R240, R243, R251; 08 R289). -/
def startTile (s : State) (c : CtxId) (t : Nat) (pr : Program) (d : Decl) : Step' :=
  let carry := !getB s (Reg.TILE_PWR_CTL t) 31 && decide ((getT s t).lastCtx = some c.val)
  let s := if carry then s else loadSetup (clearUnit s t) c.val t
  let s := modT s t (fun x => { x with run := some c, lastCtx := none, seq := .issuing, waitOp := 0, barWait := none,
                                       pc := pr.entry, stripNext := 0, held := [] })
  let s := loadPins (wakeGroups s t d.groups) t c.val pr.pins
  takeArrivals s c.val t

/-- The tiles on which a waiting exposure may start now: all of its set, or, once it has stopped another exposure, each tile as it is
handed over (R270, R271, Table 08.9). -/
def startableTiles (s : State) (c : Nat) : List Nat :=
  match instEntry s c, (getC s c).inst with
  | some e, some i =>
    let rest := (tilesOf e.tiles).filter (fun t => !i.started.contains t)
    let ok := fun t => freeFor s c t && decide ((getT s t).power = .awake)
    if !i.stopped.isEmpty then rest.filter ok else if rest.all ok then rest else []
  | _, _ => []

/-- Start what may start of a context's exposure. The wait counts in µs at the first tile's start (R270). -/
def startExposure (s : State) (c : CtxId) : State :=
  let x := getC s c.val
  match instEntry s c.val, x.inst, declOf s c.val, programOf s c.val with
  | some e, some i, some d, some pr =>
    let asleep := (tilesOf e.tiles).filter (fun t => decide ((getT s t).power ≠ .awake))
    let s := forEach asleep s (fun t s => wakeTile s t)
    let pending := decide (i.started.length < (tilesOf e.tiles).length)
    let may := decide (x.st = .waiting) || (isRunning x && pending)
    if fatal s || !may || goesFirst s c.val then s
    else
      let tiles := startableTiles s c.val
      if tiles.isEmpty then s
      else match tiles.findSome? (overflowRec s c.val) with
        | some r => contextFault s c.val r
        | none =>
          let first := i.started.isEmpty
          let started : Step' := tiles.foldl (fun r t => match r with | (s, none) => startTile s c t pr d | r => r) (s, none)
          let s := modC started.1 c.val (fun x => { x with
            st := if x.st = .waiting then .running else x.st,
            inst := x.inst.map (fun i => { i with started := i.started ++ tiles, startAt := if first then s.now else i.startAt }),
            lastEntry := i.entry,
            runSince := some (x.runSince.getD s.now) })
          let s := if first then
              grantCredits (incR (spanStart (modC s c.val (fun x => { x with barArr := [], barRel := [] })) c.val) (Reg.SCH_P_WAITED (ctxPart s c.val)) ((s.now - i.dueAt) / 800)) c.val
            else s
          opRequests (match started.2 with
            | some e => contextFault s c.val e
            | none => s)
  | _, _, _, _ => s

/-- An exposure with preempt = 1 requests the stop of every exposure of its partition that runs on a tile of its set and started
earlier (R271), once, when it becomes due or is next of its context (DEDUCED, log 97). -/
def requestStops (s : State) (p c : Nat) (e : PlanEntry) : State :=
  if !e.preempt then s
  else
    let tiles := tilesOf e.tiles
    let l := (partCtxs s p).filter (fun o =>
      decide (o ≠ c) && isRunning (getC s o) && decide ((((getC s o).inst.map (·.startAt)).getD s.now) < s.now) &&
      (liveTiles (getC s o)).any (fun t => tiles.contains t))
    forEach l (modC s c (fun x => { x with inst := x.inst.map (fun i => { i with stopped := l }) })) (fun o s => shutterRequest s o 0)

/-- An exposure becomes due (R270 to R272; 09 R310; 15 R477; 01 R30). One whose set has unavailable tiles is named with the lowest of
them (DESIGN CHOICE, log 98). -/
def exposureDue (s : State) (p i : Nat) (e : PlanEntry) (c : CtxId) : State :=
  let planned := s.sched.cycleStart + e.start * 65536
  let s := modP s p (fun q => { q with nextDue := i + 1 })
  let tiles := tilesOf e.tiles
  let dark := [0, 1].filter (fun d => !dieAwake s d && tiles.any (fun t => decide (dieOf t = d)))
  let x := getC s c.val
  let same := (x.inst.toList ++ x.queued).any (fun j => decide (j.entry = i))
  let missing := tiles.filter (fun t => !tileAvail s t)
  if fatal s then s
  else if !dark.isEmpty then forEach dark s (fun d s => incR s (Reg.PWR_DIE_SKIP d) 1)
  else if x.st = .scrubbing ∨ x.st = .held then s
  else if !missing.isEmpty then postEvent s 10 2 0xFF c.val (missing.headD 0)
  else if same then postEvent (incR s (Reg.SCH_P_OVERRUN p) 1) 7 4 0xFF c.val i
  else
    let inst : ExpInst := { entry := i, cycle := getN s Reg.SCH_CYCLE_CNT, planned := planned,
                            deadline := if e.deadline = 0 then none else some (planned + e.deadline * 65536), missed := false,
                            spec := e.spec, dueAt := s.now, startAt := 0, stopped := [], started := [], ended := [] }
    if x.inst.isSome then modC s c.val (fun x => { x with queued := x.queued ++ [inst] })
    else
      let s := modC s c.val (fun x => { x with inst := some inst, st := .waiting, lastEntry := i })
      let s := requestStops s p c.val e
      startExposure s c

/-! ### Ends -/

/-- A context's exposure has ended on every tile: its discarded shadow pages return, and its next instance waits (02 R70,
08 R272). -/
def exposureEnds (s : State) (c : Nat) : State :=
  let spec := ctxSpec s c
  let s := if spec then endShadows s c else s
  let s := modC s c (fun x => { x with
    inst := x.queued.head?, queued := x.queued.tail, st := if x.queued.isEmpty then .idle else .waiting,
    stopReq := none, runAcc := runTime s c, runSince := none, barArr := [], barRel := [] })
  let s := shutterDone s c
  let s := match instEntry s c with
    | some e => requestStops s (ctxPart s c) c e
    | none => s
  opRequests s

/-- A program's SEQ.END completes on a tile (07 Table 07.2). -/
def tileEnds (s : State) (c t : Nat) : State :=
  let s := modT s t (fun x => { x with run := none, lastCtx := some c, seq := .idle, waitOp := 0, held := [],
                                       tlb := x.tlb.map (fun e => { e with pinned := false }) })
  let s := streamsEnd (modC s c (fun x => { x with inst := x.inst.map (fun i => { i with ended := i.ended ++ [t] }) })) c t
  if (instTiles s c).all (fun t => (((getC s c).inst.map (·.ended)).getD []).contains t) then exposureEnds s c else opRequests s

/-! ### Resume (R290) -/

/-- The rest of a resume on one tile: units, arrivals, pins, and the wave of a barrier release now. The Enlarger goes on from level 0
(04 R153). -/
def resumeTile (s : State) (c : CtxId) (t : Nat) (g : Negative) (pr : Program) : Step' :=
  let s := modT s t (fun x => { withUnit x g.unit with run := some c, lastCtx := none, seq := .issuing })
  let r := takeArrivals (putCtxRegs s t g.regs) c.val t
  let s := loadPins r.1 t c.val pr.pins
  (modT s t (fun x => { x with enl := { quietEnl x.enl with waveUntil := some (s.now * 1250 + 16000 * (t / 16 % 8)) } }), r.2)

/-- An uncorrectable word met in a save region faults the context unless the HBM copy stands (09 R311). -/
def negReadFault (s : State) (c : Nat) (kv : Nat × Negative) : Option ErrRec :=
  if (getC s c).negHbm.contains kv.1 then none
  else
    let a := negRegion s c kv.1
    (s.ecc.bad.find? (fun w => decide (a ≤ 8 * w) && decide (8 * w < a + kv.2.bytes))).map (fun w => ueRec w kv.1 c)

/-- A stopped exposure resumes once every tile of its set is free and it is next in order (R273, R290). -/
def resumeExposure (s : State) (c : CtxId) : State :=
  let x := getC s c.val
  if fatal s || decide (x.st ≠ .stopped) || !wantsTiles x || !setFree s c.val || goesFirst s c.val then s
  else
    let tiles := x.negs.map (·.1)
    let asleep := tiles.filter (fun t => decide ((getT s t).power ≠ .awake))
    let s := forEach asleep s (fun t s => wakeTile s t)
    if !asleep.isEmpty || tiles.any (fun t => !dieAwake s (dieOf t)) then s
    else match programOf s c.val, x.negs.findSome? (negReadFault s c.val), tiles.findSome? (overflowRec s c.val) with
      | some _, some r, _ => contextFault s c.val r
      | some _, none, some r => contextFault s c.val r
      | some pr, none, none =>
        let s := loadSpill s c.val
        let done : Step' := x.negs.foldl (fun r kv => match r with | (s, none) => resumeTile s c kv.1 kv.2 pr | r => r) (s, none)
        let s := modC done.1 c.val (fun x => { x with st := .running, negs := [], negHbm := [], barRel := [], runSince := some s.now, driverStop := false })
        let s := grantCredits s c.val
        opRequests (match done.2 with
          | some e => contextFault s c.val e
          | none => s)
      | none, _, _ => s

/-! ### The ring watchdog (09 R320 to R322) -/

/-- Whether a tile's sequencer waits in RING.WAIT. -/
def inRingWait (x : Tile) : Bool := decide (x.seq = .waiting) && decide (x.waitOp = 0xC7)

/-- Open or close the watchdog's window after an event on a tile: it counts the context's running time while the sequencer waits in
RING.WAIT and a channel waits on a full ring (R320). -/
def watchWindow (s : State) (t : Nat) : State :=
  match (getT s t).run with
  | some c =>
    let x := getT s t
    if inRingWait x && !(blockedRings s t c.val).isEmpty then
      (if x.wdSince.isNone then setT s t { x with wdSince := some (runTime s c.val) } else s)
    else if x.wdSince.isSome then setT s t { x with wdSince := none } else s
  | none => s

/-- Spill a ring (R321), or fault the context (R322): where no ring qualifies, or the overflow area has no room for a slot of it. -/
def spillOrFault (s : State) (c t : Nat) (rings : List Nat) : State :=
  let r := { faultRec 10 t c 0 with detail := rings.headD 0 }
  match rings, declOf s c with
  | n :: _, some d =>
    let room := decide (0 < d.ovfPages) && areaMapped s c d.ovfVa (d.ovfPages * 65536) && (spillPlace s c (ringAt s t n).size).isSome
    if room && !spilled s t c n then
      let s := setSpill s c ((getC s c).spill ++ [⟨t, n, 0, 64, 0⟩])
      let seq := s.errSeq
      let s := logError (incR s Reg.ERR_SPILL_CNT 1) { r with action := 4 }
      postEvent s 8 2 0xFF c seq
    else contextFault s c r
  | _, _ => contextFault s c r

/-! ### Time steps (R266) -/

/-- After device time has been stepped from t0: the next cycle starts from the new time, and entries whose start the step
skipped do not run and are counted. -/
def planStep (s : State) (t0 : Nat) : State :=
  if !schArmed s then s
  else
    let t1 := s.time.dev
    let next := max (cycleFrom s t1) (s.peer.armAt.getD 0)
    let s := if t0 < t1 then
        forEach ((s.plan.map (·.parts)).getD []) s (fun q s =>
          let l := cycleUnits q.cycle
          let due := (getP s q.part).nextDue
          let idx := List.range q.entries.length
          let startOf := fun i => ((q.entries[i]?).map (·.start)).getD 0 * 65536
          let cur := idx.filter (fun i => decide (due ≤ i) && decide (s.sched.cycleStart + startOf i < t1))
          let later := (idx.map (fun i =>
            ((List.range ((t1 - s.sched.nextCycle) / l + 1)).filter (fun m =>
              decide (s.sched.nextCycle ≤ t1) && decide (s.sched.nextCycle + m * l + startOf i < t1))).length)).sum
          let s := modP s q.part (fun p => { p with nextDue := if s.sched.nextCycle ≤ t1 then q.entries.length else due + cur.length })
          let n := cur.length + later
          if n = 0 then s else incR s (Reg.SCH_P_SKIPPED q.part) n)
      else s
    { s with sched := { s.sched with nextCycle := next } }

end Sys2Proof.Machine
end

