-- ==== Sys2Proof/Machine/Crypto.lean ====
section
/-!
DEFINITION. Crypto.lean: the checks start-up and Proofs rest on (16 R506 to R509, R517): SHA-256 of FIPS 180-4, ECDSA over
P-256 of FIPS 186-5, the nonce of RFC 6979 (PRESUMED, log 104).
-/
namespace Sys2Proof.Machine

open Sys2Proof

/-! ### SHA-256 -/

/-- The greatest r with r ^ k at most x, its n low bits found from the top one down. -/
def rootBelow (k x : Nat) : Nat → Nat → Nat
  | 0, r => r
  | n + 1, r => rootBelow k x n (if (r + 2 ^ n) ^ k ≤ x then r + 2 ^ n else r)

/-- The primes below 312, 64 of them: FIPS 180-4 takes its constants from their roots. -/
def smallPrimes : List Nat :=
  (List.range 312).filter (fun p => decide (2 ≤ p) && (List.range 18).all (fun d => decide (d < 2 ∨ p ≤ d ∨ p % d ≠ 0)))

/-- The first 32 bits after the point of the k-th root of a prime. -/
def rootBits (k p : Nat) : Word := BitVec.ofNat 32 (rootBelow k (p * 2 ^ (32 * k)) 37 0)

/-- An exclusive or of rotations of one word. -/
def spin (x : Word) (ns : List Nat) : Word := ns.foldl (fun acc n => acc ^^^ x.rotateRight n) 0#32

/-- The rounds of one block, one per constant. The eight working variables are the last four values of two sequences,
    newest first; the schedule is a window of its next 16 words, oldest first. -/
def shaTurns : List Word → List Word → List Word → List Word → List Word
  | [], hi, lo, _ => hi.take 4 ++ lo.take 4
  | k :: ks, hi, lo, win =>
    let at' := fun (l : List Word) i => nth 0#32 l i
    let choice := (at' lo 0 &&& (at' lo 1 ^^^ at' lo 2)) ^^^ at' lo 2
    let most := (at' hi 0 &&& (at' hi 1 ||| at' hi 2)) ||| (at' hi 1 &&& at' hi 2)
    let mix := at' lo 3 + spin (at' lo 0) [6, 11, 25] + choice + k + at' win 0
    let fresh := at' win 0 + (spin (at' win 1) [7, 18] ^^^ (at' win 1 >>> 3)) + at' win 9
      + (spin (at' win 14) [17, 19] ^^^ (at' win 14 >>> 10))
    shaTurns ks ((mix + spin (at' hi 0) [2, 13, 22] + most) :: hi) ((at' hi 3 + mix) :: lo) (win.drop 1 ++ [fresh])

/-- Fold the 64-byte blocks of a padded message into the chaining value, at most n of them. -/
def shaFold (ks : List Word) : Nat → List Byte → List Word → List Word
  | 0, _, v => v
  | n + 1, m, v =>
    let win := (List.range 16).map (fun i => BitVec.ofNat 32 (beNat ((m.drop (4 * i)).take 4)))
    shaFold ks n (m.drop 64) (v.zipWith (· + ·) (shaTurns ks (v.take 4) (v.drop 4) win))

/-- SHA-256 of bytes. -/
def sha256 (m : List Byte) : List Byte :=
  let blocks := (m.length + 72) / 64
  let fill := 64 * blocks - 9 - m.length
  let whole := m ++ [0x80#8] ++ List.replicate fill 0#8 ++ beBytes 8 (8 * m.length)
  let start := (smallPrimes.take 8).map (rootBits 2)
  (shaFold (smallPrimes.map (rootBits 3)) blocks whole start).flatMap (fun w => beBytes 4 w.toNat)

/-- HMAC-SHA-256 of FIPS 198-1, for keys of at most 64 bytes. -/
def hmac (key m : List Byte) : List Byte :=
  let k := key ++ List.replicate (64 - key.length) 0#8
  sha256 (k.map (· ^^^ 0x5c#8) ++ sha256 (k.map (· ^^^ 0x36#8) ++ m))

/-! ### P-256 -/

def ecP : Nat := 0xffffffff00000001000000000000000000000000ffffffffffffffffffffffff
def ecB : Nat := 0x5ac635d8aa3a93e7b3ebbd55769886bc651d06b0cc53b0f63bce3c3e27d2604b
def ecN : Nat := 0xffffffff00000000ffffffffffffffffbce6faada7179e84f3b9cac2fc632551
def ecGx : Nat := 0x6b17d1f2e12c4247f8bce6e563a440f277037d812deb33a0f4a13945d898c296
def ecGy : Nat := 0x4fe342e2fe1a7f9b8ee7eb4a7c0f9e162bce33576b315ececbb6406837bf51f5

/-- x^e mod m, over the low n bits of e. -/
def powMod (m : Nat) : Nat → Nat → Nat → Nat
  | 0, _, _ => 1 % m
  | n + 1, x, e =>
    let r := powMod m n (x * x % m) (e / 2)
    if e % 2 = 1 then r * x % m else r

/-- The inverse modulo a prime below 2^256. -/
def invMod (m x : Nat) : Nat := powMod m 256 (x % m) (m - 2)

def subMod (m a b : Nat) : Nat := (a + m - b % m) % m

/-- A point of the curve; none is the point at infinity. -/
abbrev EcPoint := Option (Nat × Nat)

def ecAdd : EcPoint → EcPoint → EcPoint
  | none, q => q
  | p, none => p
  | some (x1, y1), some (x2, y2) =>
    if x1 = x2 ∧ (y1 + y2) % ecP = 0 then none
    else
      let l := if x1 = x2 then (3 * x1 * x1 + (ecP - 3)) * invMod ecP (2 * y1) % ecP
               else subMod ecP y2 y1 * invMod ecP (subMod ecP x2 x1) % ecP
      let x3 := subMod ecP (l * l) (x1 + x2)
      some (x3, subMod ecP (l * subMod ecP x1 x3) y1)

/-- k times a point, over the low n bits of k. -/
def ecMul : Nat → Nat → EcPoint → EcPoint
  | 0, _, _ => none
  | n + 1, k, p =>
    let r := ecMul n (k / 2) (ecAdd p p)
    if k % 2 = 1 then ecAdd r p else r

def ecOn (x y : Nat) : Bool :=
  decide (x < ecP) && decide (y < ecP) && decide (y * y % ecP = (x * x * x + (ecP - 3) * x + ecB) % ecP)

/-- ECDSA verification of r ‖ s over a message by a public key X ‖ Y, all big-endian. -/
def ecdsaVerify (pub msg sig : List Byte) : Bool :=
  let x := beNat (pub.take 32)
  let y := beNat ((pub.drop 32).take 32)
  let r := beNat (sig.take 32)
  let s := beNat ((sig.drop 32).take 32)
  if !ecOn x y || decide (pub.length ≠ 64) || decide (sig.length ≠ 64) || decide (r = 0) || decide (ecN ≤ r) || decide (s = 0) || decide (ecN ≤ s) then false
  else
    let w := invMod ecN s
    let z := beNat (sha256 msg)
    match ecAdd (ecMul 256 (z * w % ecN) (some (ecGx, ecGy))) (ecMul 256 (r * w % ecN) (some (x, y))) with
    | none => false
    | some (x, _) => decide (x % ecN = r)

/-- The public key of a private key, X ‖ Y. -/
def ecPublic (d : Nat) : List Byte :=
  match ecMul 256 d (some (ecGx, ecGy)) with
  | none => List.replicate 64 0#8
  | some (x, y) => beBytes 32 x ++ beBytes 32 y

/-- Candidates of RFC 6979 clause 3.2 step h, at most n. -/
def rfcNonce : Nat → List Byte → List Byte → Nat
  | 0, _, _ => 1
  | n + 1, k, v =>
    let v := hmac k v
    let c := beNat v
    if 0 < c ∧ c < ecN then c
    else
      let k := hmac k (v ++ [0#8])
      rfcNonce n k (hmac k v)

/-- The deterministic ECDSA signature r ‖ s of a message by a private key. -/
def ecdsaSign (d : Nat) (msg : List Byte) : List Byte :=
  let h := sha256 msg
  let z := beNat h
  let x := beBytes 32 d ++ beBytes 32 (z % ecN)
  let v := List.replicate 32 1#8
  let k := hmac (List.replicate 32 0#8) (v ++ 0#8 :: x)
  let v := hmac k v
  let k := hmac k (v ++ 1#8 :: x)
  let n := rfcNonce 16 k (hmac k v)
  let r := ((ecMul 256 n (some (ecGx, ecGy))).map (·.1)).getD 0 % ecN
  beBytes 32 r ++ beBytes 32 (invMod ecN n * (z + r * d) % ecN)

end Sys2Proof.Machine
end

