-- ==== Sys2Proof/Machine/RegWrite.lean ====
section
/-!
DEFINITION. RegWrite.lean: a write of one register by its access codes (00 R15) and the reserved-bit, range and lock rules
(17 R537, R539). What a special register does beyond that is in the file of its chapter.
-/
namespace Sys2Proof.Machine

open Sys2Proof

/-- The life-cycle states in which RWL fields are read only: from Deployed on (16 Table 16.8). -/
def deployed (s : State) : Bool := decide (2 ≤ s.otp.lc)

/-- The fields of the register at an address; SCH_CC_CFG's four words of a carrier differ (08 Table 08.12). -/
def regFields (a : Nat) : List RegField :=
  let cfg : List RegField := [⟨"value", 31, 0, .ro, none⟩]
  match regRow a with
  | none => []
  | some r =>
    if r.name = "SCH_CC_CFG" then
      match (a - r.base) / 4 % 64 with
      | 0 => [⟨"value", 31, 7, .ro, none⟩]
      | 1 => [⟨"ul_budget", 24, 16, .ro, none⟩, ⟨"ul_rx_window", 8, 0, .ro, none⟩]
      | 2 => [⟨"ul_cutoff_symbol", 31, 28, .ro, none⟩, ⟨"spec_source", 27, 26, .ro, none⟩, ⟨"dl_cutoff", 10, 0, .ro, none⟩]
      | 3 => [⟨"dl_up_lead_max", 24, 16, .ro, none⟩, ⟨"dl_up_lead_min", 8, 0, .ro, none⟩]
      | _ => cfg
    else r.fields

/-- Whether a value lies in a field's stated range. TIME_PPS_OUT_OFS is signed (13 R427). -/
def fieldInRange (a : Nat) (f : RegField) (x : Nat) : Bool :=
  if a = Reg.TIME_PPS_OUT_OFS then decide (-1000000 ≤ signed 32 x) && decide (signed 32 x ≤ 1000000)
  else match f.range with
    | some (lo, hi) => decide (lo ≤ x) && decide (x ≤ hi)
    | none => true

/-- What a register write leaves: the value, and the flags reserved_write and locked_write it sets. -/
structure Written where
  value : Word
  reserved : Bool
  locked : Bool
  deriving DecidableEq, Repr

/-- One field of a register write; `lock` says that RWL fields are read only. -/
def writeField (a : Nat) (lock : Bool) (v : Word) (r : Written) (f : RegField) : Written :=
  let x := fieldOf v f.hi f.lo
  let put := if fieldInRange a f x then { r with value := setField r.value f.hi f.lo x } else { r with reserved := true }
  match f.acc with
  | .ro => r
  | .rc => r
  | .wo => r
  | .rw => put
  | .rwl => if lock then { r with locked := r.locked || decide (x ≠ fieldOf r.value f.hi f.lo) } else put
  | .w1c => { r with value := r.value &&& ~~~(v &&& maskOf 32 f.hi f.lo) }
  | .w1s => { r with value := r.value ||| (v &&& maskOf 32 f.hi f.lo) }

/-- The bits of a register that lie in some field. -/
def fieldMask (fs : List RegField) : Word := fs.foldl (fun m f => m ||| maskOf 32 f.hi f.lo) 0#32

/-- A write's effect on a register's value and the flags it sets. -/
def writeValue (a : Nat) (lock : Bool) (old v : Word) : Written :=
  let fs := regFields a
  fs.foldl (writeField a lock v) { value := old, reserved := !fs.isEmpty && decide (v &&& ~~~fieldMask fs ≠ 0#32), locked := false }

/-- Write a register by its access codes. `lock`: RWL fields are read only. An address that holds no register keeps none. -/
def putReg (s : State) (a : Nat) (lock : Bool) (v : Word) : State :=
  let w := writeValue a lock (getR s a) v
  let s := if (regRow a).isSome then setR s a w.value else s
  flagIf (flagIf s w.reserved Reg.ERR_HOST_STATUS 0) w.locked Reg.ERR_HOST_STATUS 5

/-- A host write of a register (17 R537, R539). -/
def regWrite (s : State) (a : Nat) (v : Word) : State := putReg s a (deployed s) v

end Sys2Proof.Machine
end

