-- ==== Sys2Proof/Machine/Streams.lean ====
section
/-!
DEFINITION. Streams.lean: the peer engine (14 R454 to R459), the landing of remote arrivals (08 R289), the loss of a link
(14 R441, R442) and group barrier releases (14 R451), as shared operations.
-/
namespace Sys2Proof.Machine

open Sys2Proof

/-! ### Remote arrivals (08 R289) -/

/-- The ring of a context on a tile, wherever it stands: the tile's registers, its Negative, or the plan's setup. -/
def ctxRing (s : State) (c t n : Nat) : Ring :=
  let x := getT s t
  if x.run.map (·.val) = some c ∨ x.lastCtx = some c then ringAt s t n
  else match mapFind (getC s c).negs t with
    | some g => Ring.of ((mapFind g.regs (Reg.TILE_RING_CFG t n)).getD 0#32) ((mapFind g.regs (Reg.TILE_RING_PTR t n)).getD 0#32)
    | none =>
      match s.plan.bind (fun p => p.setups.find? (fun r => decide (r.ctx = c ∧ r.tile = t))) with
      | some r => Ring.of (nth 0#32 r.cfg n) (nth 0#32 r.ptr n)
      | none => Ring.of 0#32 0#32

/-- Whether a context runs on a tile. -/
def runsOn (s : State) (c t : Nat) : Bool := decide ((getT s t).run.map (·.val) = some c) && isRunning (getC s c)

/-- Ring advances that wait in a context's receive area. -/
def recvAdvances (s : State) (c t n : Nat) : Nat :=
  (((getC s c).recv.filter (fun a => decide (a.tile = t ∧ a.ring = n))).map (·.advance)).sum

/-! ### Bursts -/

/-- Bytes of a slot, and bursts of 4,096 B in it (R455). -/
def slotBytes (r : Ring) : Nat := r.size * 64
def slotBursts (r : Ring) : Nat := (slotBytes r + 4095) / 4096

/-- The bytes of burst j of a slot. -/
def burstBytes (r : Ring) (j : Nat) : Nat := min 4096 (slotBytes r - 4096 * j)

/-- A burst at its destination (R456): into its ring slot, or the receive area of a context that does not run there. A full ring, a
waking group or a page still to be scrubbed leaves it waiting (none), and a sleeping group faults the requesting context where this
member holds it, the burst being lost (06 R206; DESIGN CHOICE, log 99). Answers whether it has landed. -/
def landBurst (s : State) (st : Stream) (b : RxBurst) : Option Bool × State :=
  let c := st.dstCtx
  let t := st.dstTile
  let r := ctxRing s c t st.dstRing
  let inSlot := if slotBytes r = 0 then 0 else b.offset % slotBytes r
  let last := decide (slotBytes r ≤ inSlot + b.data.length)
  let off := r.slotAt r.tail + inSlot
  if runsOn s c t then
    if !r.en || decide (r.slots ≤ r.occ) then (none, s)
    else match spAccess s t off b.data.length with
      | .ready =>
        let s := setBytes s (spBase t + off) b.data
        (some true, if last then ringMove s t st.dstRing true 1 else s)
      | .waking => (none, incR s (Reg.TILE_SP_WAKE_STALL t) 1)
      | .dirty => (none, wantScrub s (spBase t + off) b.data.length)
      | .asleep => (some false, if ownSeat s st.srcSeat then contextFault s st.srcCtx (faultRec 2 t st.srcCtx off) else s)
  else if (getC s c).st = .scrubbing ∨ (getC s c).st = .held then (some true, s)
  else
    let p := recvPut s c t st.dstRing (r.slotAt (r.tail + recvAdvances s c t st.dstRing) + inSlot) b.data (if last then 1 else 0)
    (some p.1, p.2)

/-- A seat has landed its oldest burst of a stream: the credit returns when every attached destination has, and a slot leaves
staging when every destination has landed it. -/
def burstLanded (s : State) (n seat : Nat) : State :=
  let x := getTx s n
  match x.out.find? (fun b => b.seats.testBit seat) with
  | none => s
  | some b =>
    let b' := { b with seats := b.seats - 2 ^ seat }
    let out := (x.out.map (fun y => if y = b then b' else y)).filter (fun y => decide (y.seats ≠ 0))
    let per := match streamOf s n with
      | some st => max 1 (slotBursts (ctxRing s st.srcCtx st.srcTile st.srcRing))
      | none => 1
    let slotDone := decide ((b.no + 1) % per = 0)
    let staged := if slotDone then
        (x.staged.map (fun y => if y.slot = b.no / per ∧ y.seats.testBit seat then { y with seats := y.seats - 2 ^ seat } else y)).filter
          (fun y => decide (y.seats ≠ 0))
      else x.staged
    let held := decide (8 ≤ (out.filter (fun y => !y.uni)).length)
    setTx s n { x with out := out, staged := staged, heldAt := if held then x.heldAt else none }

/-- Report a landing to the source member. -/
def creditBack (s : State) (n src seat : Nat) : State :=
  if src = ownMember s then burstLanded s n seat
  else sendTo s { ownFrame s 1 src (.credit seat) with stream := n }

/-- The seat of this member that receives a stream. -/
def dstSeatHere (s : State) (st : Stream) : Option Nat := (bits64 st.dstSeats).find? (ownSeat s)

/-- A whole burst has arrived: it lands, or waits in the receive buffer behind older ones of its stream. -/
def arriveBurst (s : State) (b : RxBurst) : State :=
  match streamOf s b.stream with
  | none => s
  | some st =>
    let behind := s.peer.recv.any (fun o => decide (o.stream = b.stream))
    match (if behind then (none, s) else landBurst s st b), dstSeatHere s st with
    | (none, s), _ => { s with peer := { s.peer with recv := s.peer.recv ++ [b] } }
    | (some true, s), some seat => creditBack s b.stream b.src seat
    | (some _, s), _ => s

/-- Land what waits in the receive buffer and now can, oldest first. -/
def pumpRecv (s : State) : State :=
  if s.peer.recv.isEmpty then s
  else
    let l := s.peer.recv
    forEach l { s with peer := { s.peer with recv := [] } } (fun b s => arriveBurst s b)

/-- A data frame reaches its destination (R456): its bytes join its burst, which is whole when its last frame is here. A burst that a lost
link has cut off gives way to the next (R441). -/
def takeData (s : State) (n src offset : Nat) (bytes : List Byte) : State :=
  match streamOf s n with
  | none => s
  | some st =>
    let r := ctxRing s st.dstCtx st.dstTile st.dstRing
    let old := s.peer.partial'.find? (fun b => decide (b.stream = n ∧ b.src = src ∧ offset = b.offset + b.data.length))
    let b : RxBurst := match old with
      | some b => { b with data := b.data ++ bytes }
      | none => { stream := n, offset := offset, src := src, data := bytes }
    let rest := s.peer.partial'.filter (fun b => !decide (b.stream = n ∧ b.src = src))
    let inSlot := if slotBytes r = 0 then 0 else b.offset % slotBytes r
    if burstBytes r (inSlot / 4096) ≤ b.data.length then arriveBurst { s with peer := { s.peer with partial' := rest } } b
    else { s with peer := { s.peer with partial' := rest ++ [b] } }

/-! ### Sending a burst (R455, R457, R458) -/

/-- Bursts of a context outstanding on a channel: the credits it uses. -/
def creditsUsed (s : State) (c v : Nat) : Nat :=
  ((((s.plan.map (·.streams)).getD []).filter (fun x => decide (x.srcCtx = c ∧ x.vc = v))).map (fun x => (getTx s x.num).out.length)).sum

def creditFree (s : State) (st : Stream) : Bool := decide (creditsUsed s st.srcCtx st.vc < nth 0 (getC s st.srcCtx).credits st.vc)

/-- Whether the peer engine may read a stream's source ring: no stopped or faulted context, and the tile still holds it. -/
def srcOpen (s : State) (st : Stream) : Bool :=
  let x := getT s st.srcTile
  let c := getC s st.srcCtx
  ownSeat s st.srcSeat && decide (x.run.map (·.val) = some st.srcCtx ∨ (x.run = none ∧ x.lastCtx = some st.srcCtx)) &&
  decide (c.st ≠ .stopped ∧ c.st ≠ .scrubbing ∧ c.st ≠ .held)

/-- What a stream sends next. -/
inductive NextBurst where
  | ring (j : Nat)          -- unicast: burst j of the slot at the ring's head
  | stage (j : Nat)         -- multicast: burst j of the newest staged slot, or of the slot to be staged
  | uni (seat no : Nat)     -- a burst of staging for a detached destination
  deriving DecidableEq, Repr

/-- The lowest detached seat that lags, and its next burst. -/
def lagging (s : State) (st : Stream) : Option (Nat × Nat) :=
  let x := getTx s st.num
  ((bits64 x.detached).find? (fun n => decide (mapGet x.next x.uniNext n < x.next))).map (fun n => (n, mapGet x.next x.uniNext n))

/-- The next burst of a stream, when it may leave: a filled slot, a free credit, room in staging, the 8-burst lead. A new
transfer waits until every detached destination has been sent the old one. -/
def nextBurst (s : State) (st : Stream) : Option NextBurst :=
  let x := getTx s st.num
  let r := ringAt s st.srcTile st.srcRing
  if !creditFree s st then none
  else if !st.multicast then (if srcOpen s st && r.en && decide (0 < r.occ) then some (.ring (x.next % max 1 (slotBursts r))) else none)
  else
    let per := max 1 (slotBursts (ctxRing s st.srcCtx st.srcTile st.srcRing))
    let lead := decide ((x.out.filter (fun b => !b.uni)).length < 8)
    let hasStaged := decide (x.next < x.slots * per)
    let canStage := srcOpen s st && r.en && decide (0 < r.occ) && decide (x.staged.length < st.stageSlots)
    let wait := x.fresh && (lagging s st).isSome
    if lead && !wait && (hasStaged || canStage) then some (.stage (x.next % per))
    else (lagging s st).map (fun p => .uni p.1 p.2)

/-- The links that a burst to some seats uses. -/
def burstLinks (s : State) (seats : Nat) : List Nat :=
  (((bits64 seats).map (seatMember s)).filter (fun m => decide (m ≠ ownMember s))).filterMap (routeTo s)

/-- Cut a burst into frames of 256 B to a destination member, or hand it on inside this member (R459). -/
def sendBurst (s : State) (st : Stream) (offset : Nat) (data : List Byte) (seat : Nat) : State :=
  let m := seatMember s seat
  if m = ownMember s then arriveBurst s { stream := st.num, offset := offset, src := m, data := data }
  else
    forEach (List.range ((data.length + 255) / 256)) s (fun k s =>
      sendTo s { ownFrame s 0 m (.data ((data.drop (256 * k)).take 256)) with
                 vc := st.vc, stream := st.num, offset := offset + 256 * k })

/-- The record of a lost transfer (cause 9). -/
def peerLost (_s : State) (c l : Nat) : ErrRec :=
  { faultRec 9 0 c 0 with tile := 0xFFFF, source := 2, detail := l }

/-- Begin a transfer: every destination is attached again (R458). -/
def transferStart (s : State) (n : Nat) : State :=
  let x := getTx s n
  if x.fresh then
    setR (setR (setTx s n { x with fresh := false, base := x.next, detached := 0, uniNext := [] }) (Reg.PEER_ST_DET_LO n) 0#32) (Reg.PEER_ST_DET_HI n) 0#32
  else s

/-- The source ring's head moves past a slot; the transfer ends when it reaches the instance's end. -/
def sourceAdvance (s : State) (st : Stream) : State :=
  let s := (ringAdvance s st.srcTile st.srcCtx st.srcRing false 1).state
  if (getTx s st.num).endAt = some (ringAt s st.srcTile st.srcRing).head then modTx s st.num (fun x => { x with endAt := none, fresh := true }) else s

/-- Read a slot of the source ring for the engine: an uncorrectable word faults the source context. -/
def readSource (s : State) (st : Stream) (a n : Nat) (f : List Byte → State → State) : State :=
  match checkRead s a n with
  | (s, none) => f (getBytes s a n) s
  | (s, some w) => contextFault s st.srcCtx (ueRec w st.srcTile st.srcCtx)

/-- Where slot k of a multicast is staged. -/
def stageAt (st : Stream) (r : Ring) (k : Nat) : Nat := st.stagePa + k % max 1 st.stageSlots * slotBytes r

/-- Note a burst that has left. -/
def burstOut (s : State) (n no seats : Nat) (uni : Bool) : State :=
  modTx s n (fun x =>
    let x := { x with out := x.out ++ [{ no := no, seats := seats, uni := uni }] }
    if 8 ≤ (x.out.filter (fun b => !b.uni)).length ∧ x.heldAt = none ∧ !uni then { x with heldAt := some s.now } else x)

/-- Send the next burst of a stream. -/
def sendNext (s : State) (st : Stream) (k : NextBurst) : State :=
  let n := st.num
  let r := ctxRing s st.srcCtx st.srcTile st.srcRing
  let per := max 1 (slotBursts r)
  match k with
  | .ring j =>
    let a := spBase st.srcTile + r.slotAt r.head + 4096 * j
    readSource (transferStart s n) st a (burstBytes r j) (fun data s =>
      let x := getTx s n
      let off := (x.next - x.base) / per * slotBytes r + 4096 * j
      let s := burstOut (modTx s n (fun y => { y with next := y.next + 1 })) n x.next st.dstSeats false
      let s := forEach (bits64 st.dstSeats) s (fun seat s => sendBurst s st off data seat)
      if j + 1 = per then sourceAdvance s st else s)
  | .stage j =>
    let x := getTx s n
    let stage := fun (s : State) (f : State → State) =>
      if x.next < x.slots * per then f s
      else readSource s st (spBase st.srcTile + r.slotAt r.head) (slotBytes r) (fun data s =>
        let s := engineWrite s (stageAt st r x.slots) data
        f (sourceAdvance (modTx s n (fun y => { y with slots := y.slots + 1, staged := y.staged ++ [{ slot := y.slots, seats := st.dstSeats }] })) st))
    let ending := x.fresh
    let s := if ending then transferStart s n else s
    stage s (fun s =>
      let x := getTx s n
      let off := (x.next - x.base) / per * slotBytes r + 4096 * j
      let data := getBytes s (stageAt st r (x.next / per) + 4096 * j) (burstBytes r j)
      let seats := st.dstSeats - (st.dstSeats &&& x.detached)
      let s := modTx s n (fun y => { y with next := y.next + 1 })
      let s := if seats = 0 then s else burstOut s n x.next seats false
      forEach (bits64 seats) s (fun seat s => sendBurst s st off data seat))
  | .uni seat no =>
    let x := getTx s n
    let off := (no - x.base) / per * slotBytes r + 4096 * (no % per)
    let data := getBytes s (stageAt st r (no / per) + 4096 * (no % per)) (burstBytes r (no % per))
    let s := burstOut (modTx s n (fun y => { y with uniNext := mapPut y.uniNext seat (no + 1) })) n no (2 ^ seat) true
    sendBurst s st off data seat

/-! ### The loss of a link (R441, R442) -/

/-- Fault the contexts of a stream that this member holds (R442). -/
def noticeHere (s : State) (n l : Nat) : State :=
  match streamOf s n with
  | none => s
  | some st =>
    let cs := (if ownSeat s st.srcSeat then [st.srcCtx] else []) ++ (if (dstSeatHere s st).isSome then [st.dstCtx] else [])
    forEach cs.dedup s (fun c s =>
      let st' := (getC s c).st
      if st' = .scrubbing ∨ st' = .held then s else contextFault s c (peerLost s c l))

/-- Streams with a burst in flight on a link, as this member sees them, each with the members that hold its seats. -/
def inFlightOn (s : State) (l : Nat) : List (Nat × List Nat) :=
  let own := ((s.plan.map (·.streams)).getD []).filter (fun st =>
    ownSeat s st.srcSeat && (getTx s st.num).out.any (fun b => (burstLinks s b.seats).contains l))
  let kept := ((getL s l).replay.map (·.frame) ++ (getL s l).waiting).filter (fun f => decide (f.kind = 0))
  let a := own.map (fun st => (st.num, seatMember s st.srcSeat :: (bits64 st.dstSeats).map (seatMember s)))
  let b := (kept.filter (fun f => decide (f.src ≠ ownMember s))).map (fun f => (f.stream, [f.src, f.dst]))
  (a ++ b).dedup

/-- Retry is exhausted on a link: a class 0x0C record, the link retrains, the frames in its replay buffer are lost, and every
stream with a burst in flight on it is noticed to the members that hold its seats. -/
def retryExhausted (s : State) (l : Nat) : State :=
  let hit := inFlightOn s l
  let s := logError s { ErrRec.of 0x0C with cause := 9, action := 5, detail := l }
  let s := startRetrain (flag s (Reg.PEER_L_FLAGS l) 2) l
  let s := modL s l (fun x => { x with replay := [] })
  forEach hit s (fun h s =>
    let s := modTx s h.1 (fun x => { x with out := [] })
    forEach h.2.dedup s (fun m s =>
      if m = ownMember s then noticeHere s h.1 l else sendTo s { ownFrame s 2 m .notice with stream := h.1 }))

/-- Send the kept frames of a link again, from the oldest on (R441). -/
def resendAll (s : State) (l : Nat) : State :=
  let x := getL s l
  let again := x.replay.map (fun k => { k with sends := k.sends + 1, at' := s.now, frame := { k.frame with ack := x.rxNext } })
  let s := setL s l { x with replay := again, out := x.out ++ again.map (·.frame) }
  incR (incR s (Reg.PEER_L_RETRY l) again.length) (Reg.PEER_L_TX_FRAMES l) again.length

/-- The kept frames of a link are due again: they are resent, or retry is exhausted once the oldest has been sent 8 times (R441). -/
def resendOr (s : State) (l : Nat) : State :=
  if (getL s l).replay.any (fun k => decide (8 ≤ k.sends)) then retryExhausted s l else resendAll s l

/-- The frames a burst puts on a link, one copy for each destination member beyond it. -/
def burstFrames (s : State) (st : Stream) (seats l : Nat) : Nat :=
  let r := ctxRing s st.srcCtx st.srcTile st.srcRing
  let n := (min 4096 (slotBytes r) + 255) / 256
  n * ((burstLinks s seats).filter (fun x => decide (x = l))).length

/-- Every link of a burst takes it whole into its replay buffer, so that its slot may be given up (R455). -/
def burstRoom (s : State) (st : Stream) (seats : Nat) : Bool :=
  (burstLinks s seats).all (fun l => (getL s l).waiting.isEmpty && decide ((getL s l).replay.length + burstFrames s st seats l ≤ 512))

/-! ### Group barrier releases on a member (R451, R452) -/

/-- A context of a seat that has arrived at a barrier, or that a stop has withdrawn from it. -/
def barCtx (s : State) (b seat : Nat) : Option Nat :=
  (s.ctxs.map (·.1)).find? (fun c => decide (ctxSeat s c = seat) &&
    ((barFull s c b && (getC s c).barArr.any (fun x => decide (x.1 = b))) || (getC s c).barRel.any (fun x => decide (x = (b, 0)))))

/-- The barrier counts as released for a stopped context: on resume its tiles stand behind SEQ.BAR (R452). -/
def releaseStopped (s : State) (c b : Nat) : State :=
  let s := forEach (getC s c).negs s (fun kv s =>
    let pc := kv.2.unit.pc + 1
    let s := setLe s (negRegion s c kv.1 + 0x100) 4 pc
    let s := if (getC s c).negHbm.contains kv.1 then setLe s (negSlot s c kv.1 + 0x100) 4 pc else s
    modC s c (fun x => { x with negs := mapPut x.negs kv.1 { kv.2 with unit := { kv.2.unit with pc := pc } } }))
  let s := forEach (getC s c).stopping s (fun t s => modT s t (fun x => { x with pc := x.pc + 1 }))
  modC s c (fun x => { x with barRel := x.barRel.filter (fun y => decide (y ≠ (b, 0))) })

/-- Perform a release on a seat of this member, and write its collective record. -/
def performRelease (s : State) (b seat : Nat) (late : Bool) : State :=
  let s := if late then incR s Reg.PEER_BAR_LATE 1 else s
  match barCtx s b seat with
  | none => s
  | some c =>
    let s := if (getC s c).st = .stopped then releaseStopped s c b else barRelease s c b s.now
    writeColl s b c (mapGet 0 s.peer.relNs b)

end Sys2Proof.Machine
end

