-- ==== Sys2Proof/Machine/Proofs.lean ====
section
/-!
DEFINITION. Proofs.lean: register arrays as bytes (01 R43, 16 R523), and the security engine's Proofs (16 R517, R518).
-/
namespace Sys2Proof.Machine

open Sys2Proof

/-- The bytes that n registers from an address on hold: byte 4k of the value in bits 7:0 of register k. -/
def regBytes (s : State) (a n : Nat) : List Byte := (List.range n).flatMap (fun k => leBytes 4 (getN s (a + 4 * k)))

/-- Put bytes into registers from an address on. -/
def putRegBytes (s : State) (a : Nat) (bs : List Byte) : State :=
  forEach (List.range (bs.length / 4)) s (fun k s => setR s (a + 4 * k) (BitVec.ofNat 32 (leNat ((bs.drop (4 * k)).take 4))))

/-- The epoch that Proofs carry (14 R438). -/
def epochOf (s : State) : Nat := getN s Reg.PEER_EPOCH

/-- The signed part of a Proof over a nonce (Table 16.7). -/
def proofBody (s : State) (nonce : Nat) : List Byte :=
  leBytes 4 0x42585046 ++ leBytes 2 1 ++ leBytes 2 256 ++ leBytes 16 nonce ++ leBytes 16 s.otp.devId ++ leBytes 2 0x7140 ++
  [0xA1#8, BitVec.ofNat 8 s.otp.lc] ++ leBytes 4 (epochOf s) ++ leBytes 4 (getN s Reg.BOOT_SECVER) ++ leBytes 4 s.sec.count ++
  leBytes 6 (devSec s) ++
  leBytes 2 ((getB s Reg.TIME_STATUS 31).toNat + 2 * (getB s Reg.PEER_GRP_STATUS 31).toNat + 4 * (getB s Reg.BOOT_STATUS 25).toNat) ++
  leBytes 4 (devNs s) ++ leBytes 4 0 ++ regBytes s (Reg.BOOT_FW_DIGEST 0) 8 ++ regBytes s (Reg.BOOT_SHEET_DIGEST 0) 8 ++
  regBytes s (Reg.PHYS_SPARE_DIGEST 0) 8 ++ List.replicate 24 0#8

/-- A Proof by an identity key. -/
def proofOf (s : State) (key nonce : Nat) : List Byte := proofBody s nonce ++ ecdsaSign key (proofBody s nonce)

/-- The identity key signs only in Provisioned and Deployed (Table 16.8). -/
def canSign (s : State) : Bool := s.otp.idKey.isSome && decide (s.otp.lc = 1 ∨ s.otp.lc = 2)

/-- A driver's request (R518). -/
def proofRequest (s : State) : State :=
  let st := Reg.SEC_PROOF_STATUS
  if canSign s then
    let s := setBitR (setBitR (setBitR s st 31 true) st 30 false) st 29 false
    { s with sec := { s.sec with queue := s.sec.queue ++ [.driver (leNat (regBytes s (Reg.SEC_PROOF_NONCE 0) 4))] } }
  else setBitR s st 29 true

/-- PROOF_REQUEST. -/
def execProofRequest (s : State) : Host.Outcome State Fault Refusal := .next (proofRequest s)

/-- PROOF_DONE: the oldest request is signed; a roll call's Proof goes to the manager with the public key. -/
def execProofDone (s : State) : Host.Outcome State Fault Refusal :=
  match s.sec.queue, s.otp.idKey with
  | q :: rest, some key =>
    let done := fun (s : State) => flag { s with sec := { queue := rest, count := s.sec.count + 1 } } Reg.SEC_FLAGS 0
    match q with
    | .driver n =>
      let p := proofOf s key n
      let s := putRegBytes (done s) (Reg.SEC_PROOF 0) p
      let more := rest.any (fun r => match r with | .driver _ => true | .roll _ => false)
      .next (setBitR (setBitR s Reg.SEC_PROOF_STATUS 31 more) Reg.SEC_PROOF_STATUS 30 true)
    | .roll n =>
      let p := proofOf s key n
      .next (sendTo (done s) (ownFrame s 2 0 (.proof p s.otp.idPub)))
  | _, _ => .next s

/-- SECVER_COMMIT (R510): while Ready the counter rises to the running sheet's sec_ver, within the 64 bits of its thermometer
code. -/
def secverCommit (s : State) : State :=
  if s.otp.lc = 0 ∨ s.otp.lc = 3 then flag s Reg.SEC_FLAGS 2
  else if s.boot.stage ≠ .ready then s
  else
    let v := min 64 (getN s Reg.BOOT_SECVER)
    if s.otp.secver < v then flag { s with otp := { s.otp with secver := v } } Reg.SEC_FLAGS 1 else s

def execSecverCommit (s : State) : Host.Outcome State Fault Refusal := .next (secverCommit s)

end Sys2Proof.Machine
end

