-- ==== Sys2Proof/Machine/Sheet.lean ====
section
/-!
DEFINITION. Sheet.lean: the Contact Sheet as bytes, its header and section table, and the checks of 16 Table 16.4 that do not
look inside a section (R506 to R509, R519).
-/
namespace Sys2Proof.Machine

open Sys2Proof

/-- Bytes n from offset a on of a byte string. -/
def sub (bs : List Byte) (a n : Nat) : List Byte := (bs.drop a).take n

/-- A little-endian field of a byte string. -/
def subLe (bs : List Byte) (a n : Nat) : Nat := leNat (sub bs a n)

/-- Whether bytes a to b − 1 are all 0. -/
def zeros (bs : List Byte) (a b : Nat) : Bool := (sub bs a (b - a)).all (fun x => decide (x = 0#8))

/-- Where a Contact Sheet is read: the linear flash space, or the staging area of a recovery load from an address on. -/
inductive SheetAt where
  | flash
  | staged (base : Nat)
  deriving DecidableEq, Repr

/-- The linear flash space in bytes (R506). -/
def flashSpace (f : Flash) : Nat := f.size0 + f.size1

/-- A byte of the flash space; erased flash reads 0xFF. -/
def flashByte (f : Flash) (a : Nat) : Byte := if a < flashSpace f then mapGet 0xFF#8 f.bytes a else 0xFF#8

/-- n bytes of the sheet from an offset on. -/
def sheetBytes (s : State) (src : SheetAt) (a n : Nat) : List Byte :=
  match src with
  | .flash => build n (fun i => flashByte s.flash (a + i))
  | .staged b => getBytes s (b + a) n

/-- The header (Table 16.3). -/
def sheetHeader (s : State) (src : SheetAt) : List Byte := sheetBytes s src 0 512

def hdSections (h : List Byte) : Nat := subLe h 0x00B 1
def hdLen (h : List Byte) : Nat := subLe h 0x00C 4
def hdSecVer (h : List Byte) : Nat := subLe h 0x010 4
def hdRootPub (h : List Byte) : List Byte := sub h 0x040 64
def hdCustPub (h : List Byte) : List Byte := sub h 0x080 64

/-- The header digest (R507). -/
def hdDigest (h : List Byte) : List Byte := sha256 (sub h 0 0x1C0)

/-- The number under which Config names what this sheet's plan names (DESIGN CHOICE, log 16): its header digest, as BOOT_SHEET_DIGEST shows it. -/
def digestId (h : List Byte) : Nat := (List.range 8).foldl (fun a i => a * 2 ^ 32 + subLe (hdDigest h) (4 * i) 4) 0

/-- An entry of the section table (R508), with its index. -/
structure Sect where
  index : Nat
  type : Nat
  offset : Nat
  length : Nat
  digest : List Byte
  reserved : Bool           -- a reserved byte is not 0
  deriving DecidableEq, Repr

def tableBytes (s : State) (src : SheetAt) (h : List Byte) : List Byte := sheetBytes s src 0x200 (48 * hdSections h)

def sections (s : State) (src : SheetAt) (h : List Byte) : List Sect :=
  let t := tableBytes s src h
  build (hdSections h) (fun i =>
    let e := sub t (48 * i) 48
    { index := i, type := subLe e 0 1, offset := subLe e 4 4, length := subLe e 8 4, digest := sub e 16 32,
      reserved := !(zeros e 1 4 && zeros e 12 16) })

def sectBytes (s : State) (src : SheetAt) (x : Sect) : List Byte := sheetBytes s src x.offset x.length

/-- Check 2. A recovery load reads no flash, so the flash space does not bound it. -/
def sheetHeaderOk (s : State) (src : SheetAt) (h : List Byte) : Bool :=
  decide (subLe h 0 4 = 0x42584353) && decide (subLe h 4 2 = 1) && decide (subLe h 6 2 = 512) && decide (subLe h 8 2 = 0x7140) &&
  decide (subLe h 0x00A 1 ≤ 0xA1) && decide (4 ≤ hdSections h) && decide (hdSections h ≤ 32) && decide (hdLen h ≤ 536870912) &&
  (match src with | .flash => decide (hdLen h ≤ flashSpace s.flash) | .staged _ => true) &&
  decide (hdSecVer h ≤ 64) && zeros h 0x018 0x020 && zeros h 0x0C8 0x0E0 && zeros h 0x120 0x1C0

/-- Check 5: the customer key is bound to the life-cycle state (Table 16.8). -/
def keyBound (s : State) (h : List Byte) : Bool :=
  match s.otp.lc with
  | 0 => true
  | 3 => decide (subLe h 0x0C0 4 = 0)
  | _ => decide (sha256 (hdCustPub h) = s.otp.custDigest)

/-- R508: types, order, and places of the sections. -/
def sectionsOk (h : List Byte) (l : List Sect) : Bool :=
  l.all (fun x => decide (1 ≤ x.type) && decide (x.type ≤ 6) && decide (x.offset % 4096 = 0) && decide (1 ≤ x.length) && !x.reserved &&
    decide (0x200 + 48 * l.length ≤ x.offset) && decide (x.offset + x.length ≤ hdLen h)) &&
  [1, 2, 5, 6].all (fun t => decide ((l.filter (fun x => decide (x.type = t))).length = 1)) &&
  (l.zip l.tail).all (fun p => decide (p.1.offset + p.1.length ≤ p.2.offset))

/-- Checks 1 to 8 in order: the reason code of the first that fails (Table 16.4). -/
def headerFails (s : State) (src : SheetAt) : Option Nat :=
  let h := sheetHeader s src
  if src = .flash ∧ (s.flash.size0 = 0 ∨ s.flash.sfdp0 = []) then some 1
  else if !sheetHeaderOk s src h then some 2
  else if sha256 (hdRootPub h) ≠ beBytes 32 Config.rootDigest then some 3
  else if !ecdsaVerify (hdRootPub h) (sub h 0x080 0x60) (sub h 0x0E0 64) then some 4
  else if !keyBound s h then some 5
  else if !ecdsaVerify (hdCustPub h) (sub h 0 0x1C0) (sub h 0x1C0 64) then some 6
  else if hdSecVer h < s.otp.secver then some 7
  else if sha256 (tableBytes s src h) ≠ sub h 0x020 32 ∨ sectionsOk h (sections s src h) = false then some 8
  else none

/-- Check 9: the index of the first section, the firmware section before the others, whose digest does not match. -/
def digestFails (s : State) (src : SheetAt) : Option Nat :=
  let l := sections s src (sheetHeader s src)
  let bad := fun (x : Sect) => decide (sha256 (sectBytes s src x) ≠ x.digest)
  ((l.filter (fun x => decide (x.type = 1)) ++ l.filter (fun x => decide (x.type ≠ 1))).find? bad).map (·.index)

/-- The firmware section's digest, as the table gives it. -/
def firmwareDigest (s : State) (src : SheetAt) : List Byte :=
  (((sections s src (sheetHeader s src)).find? (fun x => decide (x.type = 1))).map (·.digest)).getD []

/-- The index of the first section of a type. -/
def sectIndex (l : List Sect) (t : Nat) : Nat := ((l.find? (fun x => decide (x.type = t))).map (·.index)).getD 0xFF

end Sys2Proof.Machine
end

