-- ==== Sys2Proof/Machine/Bundle.lean ====
section
/-!
DEFINITION. Bundle.lean: the records of the plan bundle (16 Table 16.5), what they say once read (07 Table 07.6), and the
policy section's device part (16 Tables 16.14, 16.15).
-/
namespace Sys2Proof.Machine

open Sys2Proof

/-! ### Records (R511) -/

structure PlanRec where
  kind : Nat
  seat : Nat
  index : Nat
  body : List Byte
  sect : Nat             -- index of its section
  stype : Nat            -- type of its section
  deriving DecidableEq, Repr

/-- The records of a section's bytes, at most n of them; none where the bytes are no sequence of records. -/
def recordsOf (x : Sect) : Nat → List Byte → Option (List PlanRec)
  | _, [] => some []
  | 0, _ => none
  | n + 1, bs =>
    let len := subLe bs 4 4
    let pad := (len + 63) / 64 * 64
    if bs.length < 16 + pad ∨ zeros bs 10 16 = false ∨ 64 ≤ subLe bs 2 2 then none
    else (recordsOf x n (bs.drop (16 + pad))).map
      ({ kind := subLe bs 0 2, seat := subLe bs 2 2, index := subLe bs 8 2, body := sub bs 16 len, sect := x.index, stype := x.type } :: ·)

/-- The section type in which records of a kind stand. -/
def kindSection (k : Nat) : Nat := if k = 6 then 3 else if k = 7 then 4 else if 1 ≤ k ∧ k ≤ 12 then 2 else 0

/-- Whether a record's body has the length of its kind (Table 16.5, Table 07.7). -/
def bodyFits (r : PlanRec) : Bool :=
  let n := r.body.length
  match r.kind with
  | 1 => decide (4 ≤ n) && decide ((n - 4) % 8 = 0)
  | 2 => decide (48 ≤ n) && decide (n = 48 + 8 * subLe r.body 40 1)
  | 3 => decide (64 ≤ n) && decide (n = 64 + 64 * subLe r.body 2 2)
  | 4 => decide (n = 20)
  | 5 => decide (8 ≤ n)
  | 6 => decide (8 ≤ n)
  | 7 => decide (8 ≤ n)
  | 8 => decide (n = 324)
  | 9 => decide (128 ≤ n) && decide (n = 128 + 4 * subLe r.body 112 2)
  | 10 => decide (n = 440)
  | 11 => decide (n = 56)
  | 12 => decide (n = 1544)
  | _ => false

/-- The records of the sections of a sheet, or the index of the section that is no sequence of records of its kinds. -/
def allRecords (s : State) (src : SheetAt) (l : List Sect) : List PlanRec × Option Nat :=
  l.foldl (fun acc x =>
    if acc.2.isSome ∨ !(x.type = 2 ∨ x.type = 3 ∨ x.type = 4) then acc
    else
      let bs := sectBytes s src x
      match recordsOf x (bs.length / 16 + 1) bs with
      | none => (acc.1, some x.index)
      | some rs => if rs.all (fun r => decide (kindSection r.kind = r.stype) && bodyFits r) then (acc.1 ++ rs, none) else (acc.1, some x.index)) ([], none)

def ofKind (l : List PlanRec) (k : Nat) : List PlanRec := l.filter (fun r => decide (r.kind = k))

/-- The images of initial tables of a code. -/
def tableImages (l : List PlanRec) (code : Nat) : List PlanRec :=
  (ofKind l 7).filter (fun r => decide (subLe r.body 0 1 = code))

/-- An image record's bytes from offset 8 on. -/
def image (r : PlanRec) : List Byte := r.body.drop 8

/-- Fixed-size entries of a byte string. -/
def tableRows (n : Nat) (bs : List Byte) : List (List Byte) := build (bs.length / n) (fun i => sub bs (n * i) n)

/-! ### What the records say -/

def progOf (r : PlanRec) : Program :=
  { entry := subLe r.body 0 2, threads := subLe r.body 2 4, tiles := BitVec.ofNat 256 (subLe r.body 8 32),
    pins := build (subLe r.body 40 1) (fun i => subLe r.body (48 + 8 * i) 8) }

/-- The Program records by their index. -/
def programsOf (l : List PlanRec) : List Program :=
  let ps := ofKind l 2
  build ((ps.map (·.index + 1)).foldl max 0) (fun i =>
    ((ps.find? (fun r => decide (r.index = i))).map progOf).getD { entry := 0, threads := 0, tiles := 0#256, pins := [] })

def entryOf (b : List Byte) : PlanEntry :=
  { start := subLe b 0 4, deadline := subLe b 4 4, ctx := subLe b 8 1, op := subLe b 9 1 % 8, spec := (subLe b 10 1).testBit 0,
    preempt := (subLe b 10 1).testBit 1, sems := build (min 4 (subLe b 11 1)) (fun i => subLe b (48 + i) 1), program := subLe b 12 2,
    tiles := BitVec.ofNat 256 (subLe b 16 32) }

def partOf (r : PlanRec) : PartPlan :=
  { part := subLe r.body 0 1, cycle := subLe r.body 1 1, tiles := BitVec.ofNat 256 (subLe r.body 4 32), negStore := subLe r.body 36 6,
    policy := subLe r.body 42 1, entries := (tableRows 64 (r.body.drop 64)).map entryOf }

def declRec (r : PlanRec) : Decl :=
  let b := r.body
  { ctx := subLe b 0 2, seat := r.seat, part := subLe b 2 1, spec := (subLe b 3 1).testBit 0, tiles := BitVec.ofNat 256 (subLe b 4 32),
    ptRoot := subLe b 36 6, imemBase := subLe b 42 2, imemWords := subLe b 44 2, negOff := subLe b 46 2, groups := subLe b 48 1,
    shadowMax := subLe b 52 4, sems := BitVec.ofNat 256 (subLe b 56 32), credits := build 4 (fun v => subLe b (88 + 2 * v) 2),
    recvVa := subLe b 96 6, recvPages := subLe b 102 2, ovfVa := subLe b 104 6, ovfPages := subLe b 110 2,
    holds := build (subLe b 112 2) (fun i => (subLe b (128 + 4 * i) 1, subLe b (130 + 4 * i) 2)) }

def wordsAt (b : List Byte) (a n : Nat) : List Word := build n (fun i => BitVec.ofNat 32 (subLe b (a + 4 * i) 4))

def setupOf (r : PlanRec) : RingSetup :=
  { ctx := r.index, tile := subLe r.body 0 2, cfg := wordsAt r.body 4 32, ptr := wordsAt r.body 132 32, strips := wordsAt r.body 260 16 }

def imemOf (r : PlanRec) : ImemImage :=
  { ctx := r.index, tile := subLe r.body 0 2, first := subLe r.body 2 2,
    words := build ((r.body.length - 4) / 8) (fun i => BitVec.ofNat 64 (subLe r.body (4 + 8 * i) 8)) }

def streamRec (b : List Byte) : Stream :=
  { num := subLe b 0 2, multicast := (subLe b 2 1).testBit 1, vc := subLe b 2 1 / 4 % 4, srcSeat := subLe b 3 1, srcCtx := subLe b 4 1,
    srcTile := subLe b 5 1, srcRing := subLe b 6 1 % 32, dstCtx := subLe b 7 1, dstTile := subLe b 8 1, dstRing := subLe b 9 1 % 32,
    stagePa := subLe b 10 6, dstSeats := subLe b 16 8, stageSlots := subLe b 24 2 }

/-- The valid entries of the stream tables (14 Table 14.3). -/
def streamsOf (l : List PlanRec) : List Stream :=
  (((tableImages l 6).flatMap (fun r => tableRows 32 (image r))).filter (fun b => (subLe b 2 1).testBit 0)).map streamRec

/-- The group barrier records (14 R450). -/
def barsOf (l : List PlanRec) : List (Nat × Nat) :=
  ((tableImages l 7).flatMap (fun r => tableRows 16 (image r))).map (fun b => (subLe b 0 1, subLe b 8 8))

def wsetsOf (l : List PlanRec) : List (List Byte) := (tableImages l 4).flatMap (fun r => tableRows 928 (image r))

/-- The eAxC table (12 Table 12.4), entry by entry from 0 on. -/
def eaxcOf (l : List PlanRec) : SMap (BitVec 128) :=
  ((tableImages l 5).flatMap (fun r => (tableRows 16 (image r)).zipIdx)).foldl (fun m e =>
    if e.2 < 8192 then mapSet 0#128 m e.2 (BitVec.ofNat 128 (leNat e.1)) else m) []

/-- The body of the device reservation (Table 16.6). -/
def resvOf (l : List PlanRec) : List Byte := ((ofKind l 10).head?.map (·.body)).getD []

/-! ### The policy section (R575) -/

structure Policy where
  epoch : Nat
  members : List Member
  writes : List (Nat × Word)
  deriving DecidableEq, Repr

def memberOf (b : List Byte) : Member :=
  { devId := subLe b 0 16, keyDigest := sub b 16 32, route := sub b 48 64, cabled := subLe b 112 1 % 16, seats := subLe b 120 8 }

def policyOf (b : List Byte) : Policy :=
  let m := subLe b 4 1
  { epoch := subLe b 0 4, members := build m (fun i => memberOf (sub b (128 + 128 * i) 128)),
    writes := build (subLe b 8 4) (fun i => (subLe b (128 + 128 * m + 8 * i) 4, BitVec.ofNat 32 (subLe b (132 + 128 * m + 8 * i) 4))) }

/-- A lane byte: swing code at most 16, bit 7 clear. -/
def laneOk (x : Byte) : Bool := decide (x.toNat < 128) && decide (x.toNat / 4 ≤ 16)

/-- The form of the device part, but for its register writes and routes. -/
def policyForm (b : List Byte) : Bool :=
  let m := subLe b 4 1
  decide (128 ≤ b.length) && decide (1 ≤ m) && decide (m ≤ 64) && zeros b 5 8 && decide (subLe b 8 4 ≤ 65535) && decide (subLe b 12 4 % 64 = 0) &&
  (sub b 16 64).all laneOk && zeros b 80 128 && decide (128 + 128 * m + 8 * subLe b 8 4 ≤ b.length) &&
  (List.range m).all (fun i =>
    let e := sub b (128 + 128 * i) 128
    decide (subLe e 112 1 < 16) && zeros e 113 120 &&
    (List.range m).all (fun j => decide (i = j) || decide (subLe e (48 + j) 1 % 128 < 4)))

/-- This device's member number, by its device ID (14 R435). -/
def memberHere (s : State) (p : Policy) : Option Nat := p.members.findIdx? (fun m => decide (m.devId = s.otp.devId))

/-- The records of the seats placed on a member (14 R436); the device reservation and the device setup are for every member. -/
def placedOn (m : Member) (l : List PlanRec) : List PlanRec := 
  l.filter (fun r => m.seats.testBit r.seat || decide (r.kind = 10 ∨ r.kind = 12))

/-- Contexts, partitions and tiles of a seat (R436). -/
def seatUses (l : List PlanRec) (n : Nat) : List Nat × List Nat × List Nat :=
  let mine := l.filter (fun r => decide (r.seat = n))
  let ds := (ofKind mine 9).map declRec
  (ds.map (·.ctx), (ofKind mine 3).map (fun r => subLe r.body 0 1), (ds.flatMap (fun d => tilesOf d.tiles)).dedup)

def meets (a b : List Nat) : Bool := a.any (b.contains ·)

/-- Check 12 of the group map (R436, R437): every seat of the bundle placed, no two seats of a member in each other's way. -/
def mapOk (l : List PlanRec) (policy : List Byte) (p : Policy) : Bool :=
  let seats := (l.map (·.seat)).dedup
  seats.all (fun n => p.members.any (fun m => m.seats.testBit n)) && Config.routesOk policy &&
  p.members.all (fun m =>
    let mine := (seats.filter (fun n => m.seats.testBit n)).map (fun n => (n, seatUses l n))
    mine.all (fun a => mine.all (fun b => decide (a.1 = b.1) ||
      !(meets a.2.1 b.2.1 || meets a.2.2.1 b.2.2.1 || meets a.2.2.2 b.2.2.2))))

end Sys2Proof.Machine
end

