-- ==== Sys2Proof/Machine/BundleCheck.lean ====
section
/-!
DEFINITION. BundleCheck.lean: the checks of a plan bundle at load, check 10 of 16 Table 16.4: 02 R46, 07 R250, R255 to R257,
08 R267 to R269, 10 R341, 12 R387, R390, R391, 14 R450, R454, R457, and the forms of the records themselves.
-/
namespace Sys2Proof.Machine

open Sys2Proof

/-! ### Memory as the bundle's images lay it out -/

/-- A byte of HBM after the images of a bundle are in place, later images over earlier ones, zero elsewhere. -/
def imageByte (imgs : List (Nat × List Byte)) (a : Nat) : Byte :=
  imgs.foldl (fun x i => if i.1 ≤ a ∧ a < i.1 + i.2.length then nth x i.2 (a - i.1) else x) 0#8

def imageLe (imgs : List (Nat × List Byte)) (a n : Nat) : Nat := leNat (build n (fun i => imageByte imgs (a + i)))

/-- The images of kinds 5 and 6, with their physical addresses. -/
def imagesOf (l : List PlanRec) : List (Nat × List Byte) :=
  (l.filter (fun r => decide (r.kind = 5 ∨ r.kind = 6))).map (fun r => (subLe r.body 0 6, image r))

/-- Whether n bytes from a on lie in HBM. -/
def inHbm (a n : Nat) : Bool := decide (a + n ≤ hbmBytes)

/-! ### Records on their own -/

/-- Ranges of a partition header and its entries (Tables 08.1, 08.2). -/
def partForm (r : PlanRec) : Bool :=
  let b := r.body
  let p := partOf r
  let cyc := 10000000 * 2 ^ p.cycle
  decide (p.part ≤ 15) && decide (p.cycle ≤ 4) && decide (1 ≤ p.entries.length) && decide (p.entries.length ≤ 4096) &&
  decide (p.negStore % 0x200000 = 0) && decide (p.policy ≤ 1) && zeros b 43 64 &&
  (tableRows 64 (b.drop 64)).all (fun e =>
    let x := entryOf e
    decide (x.start < cyc) && decide (x.deadline ≤ cyc) && decide (x.ctx ≤ 127) && decide (subLe e 9 1 < 8) && decide (subLe e 10 1 < 4) &&
    decide (subLe e 11 1 ≤ 4) && zeros e 14 16 && zeros e (48 + subLe e 11 1) 52 && zeros e 52 64)

/-- Ranges of a resource declaration (Table 07.7). -/
def declForm (r : PlanRec) : Bool :=
  let b := r.body
  let d := declRec r
  decide (d.ctx ≤ 127) && decide (d.part ≤ 15) && decide (subLe b 3 1 < 2) && decide (d.ptRoot % 0x20000 = 0) && inHbm d.ptRoot 0x20000 &&
  decide (d.imemBase ≤ 8191) && decide (1 ≤ d.imemWords) && decide (d.imemWords ≤ 8192 - d.imemBase) && decide (d.negOff % 1024 = 0) &&
  decide (d.negOff < 24576) && decide (d.groups < 64) && d.groups.testBit (d.negOff / 4096) && zeros b 49 52 &&
  d.credits.all (fun c => decide (4 ≤ c)) && decide (subLe b 112 2 ≤ 256) && zeros b 114 128 &&
  (List.range (subLe b 112 2)).all (fun i => zeros b (129 + 4 * i) (130 + 4 * i) && decide (1 ≤ subLe b (130 + 4 * i) 2))

/-- Ranges of a Program record (Table 16.5, 07 R237, R251). -/
def progForm (r : PlanRec) : Bool :=
  let p := progOf r
  decide (1 ≤ p.threads) && decide (p.threads ≤ 2 ^ 24) && decide (p.pins.length ≤ 32) && decide (p.entry < 8192) && zeros r.body 6 8 && zeros r.body 41 48

/-- A ring and strip setup (R257): enabled rings within 06 R213, counts within S, strip bases within 07 R262. -/
def setupForm (r : PlanRec) : Bool :=
  let x := setupOf r
  decide (x.tile < 256) && zeros r.body 2 4 &&
  (x.cfg.zip x.ptr).all (fun q => !bitOf q.1 31 || (ringCfgOk q.1 && decide ((Ring.of q.1 q.2).occ ≤ (Ring.of q.1 q.2).slots))) &&
  x.strips.all (fun v => decide (fieldOf v 5 0 = 0) && decide (fieldOf v 31 21 = 0) && decide (v.toNat ≤ 0x17FFC0))

/-- An LDPC weight set (10 R341). -/
def wsetForm (w : List Byte) : Bool :=
  let g := fun (a : Nat) => decide (subLe w a 1 ≤ 7)
  decide (subLe w 0 1 ≤ 15) && decide (1 ≤ subLe w 1 1) && decide (subLe w 1 1 ≤ 25) && zeros w 2 4 && zeros w 8 16 &&
  (List.range 46).all (fun i => g (0x010 + i)) && zeros w 0x03E 0x040 && (List.range 42).all (fun i => g (0x040 + i)) && zeros w 0x06A 0x080

def recordForm (r : PlanRec) : Bool :=
  match r.kind with
  | 1 => decide (subLe r.body 0 2 < 256) && decide ((imemOf r).first + (imemOf r).words.length ≤ 8192)
  | 2 => progForm r
  | 3 => partForm r
  | 4 => decide (r.index < 32)
  | 5 => inHbm (subLe r.body 0 6) (image r).length && zeros r.body 6 8
  | 6 => inHbm (subLe r.body 0 6) (image r).length && zeros r.body 6 8
  | 7 => decide (1 ≤ subLe r.body 0 1) && decide (subLe r.body 0 1 ≤ 7) && zeros r.body 1 8
  | 8 => setupForm r
  | 9 => declForm r
  | 11 => decide (r.index < 32)
  | _ => true

/-! ### Carriers (02 R46) -/

/-- A carrier context's four parameter words. -/
def ccWords (r : PlanRec) : List Word := wordsAt r.body 0 4

def ccUsed (r : PlanRec) : Bool := bitOf (nth 0#32 (ccWords r) 0) 31

/-- Ranges of Table 02.1. -/
def ccRanges (r : PlanRec) : Bool :=
  let w := fun (i hi lo : Nat) => fieldOf (nth 0#32 (ccWords r) i) hi lo
  let within := fun (x lo hi : Nat) => decide (lo ≤ x) && decide (x ≤ hi)
  let mu := w 0 30 29
  let small := decide (mu = 3)
  decide (mu ≠ 2) && within (w 0 27 19) 1 (if mu = 0 then 270 else if small then 264 else 273) && within (w 0 18 12) 1 (if small then 16 else 64) &&
  within (w 0 11 7) 1 (if small then 8 else 16) && within (w 1 24 16) 150 450 && within (w 1 8 0) 25 300 && within (w 2 31 28) 0 13 &&
  within (w 2 10 0) 300 1500 && within (w 3 24 16) 50 500 && within (w 3 8 0) 25 475 && decide (w 3 8 0 < w 3 24 16) && decide (w 3 24 16 + 70 ≤ w 2 10 0)

def carriersOk (l : List PlanRec) : Bool :=
  let used := (ofKind l 4).filter ccUsed
  used.all ccRanges && decide ((used.filter (fun r => decide (fieldOf (nth 0#32 (ccWords r) 0) 30 29 = 3))).length ≤ 4)

/-! ### Page tables (07 R248 to R250) -/

/-- The level-1 entries of a table, and the level-2 entries of those that are valid. -/
def tableEntries (imgs : List (Nat × List Byte)) (root : Nat) : List Nat × List Nat :=
  let l1 := build 16384 (fun i => imageLe imgs (root + 8 * i) 8)
  (l1, (l1.filter (fun e => e.testBit 63)).flatMap (fun e => build 8192 (fun i => imageLe imgs (e % 2 ^ 32 * 65536 + 8 * i) 8)))

/-- The hub windows of 01 Table 01.5. -/
def inHubWindow (a n : Nat) : Bool :=
  [(0x300000000000, 0x300000800000), (0x300001000000, 0x300002800000), (0x300004000000, 0x300004400000), (0x3F0000000000, 0x3F0100000000)].any
    (fun w => decide (w.1 ≤ a) && decide (a + n ≤ w.2))

/-- A level-2 entry under R250; `tiles` is the partition's, `pairs` the number of pairs declared. -/
def l2Ok (tiles : BitVec 256) (pairs e : Nat) : Bool :=
  let pay := nbits e 26 0
  decide (nbits e 57 56 = 0) && decide (nbits e 31 27 = 0) &&
  (!e.testBit 63 ||
    ((decide (nbits e 62 60 = 2) || decide (nbits e 55 32 = 0)) &&
     match nbits e 62 60 with
     | 1 => inHbm (pay * 0x200000) 0x200000
     | 2 => decide (pay < 256) && bitOf tiles pay
     | 3 => inHubWindow (pay * 0x200000) 0x200000 && !(decide (mirrorBase ≤ pay * 0x200000) && e.testBit 58)
     | 4 => decide (pay < 65536) && decide (pay % 32 = 0) && decide (pay + 32 ≤ pairs)
     | _ => false))

/-- The pairs the plan's pair table holds (DESIGN CHOICE, log 16). -/
def pairCount (id : Nat) : Nat := Config.planName id 20 0 0 0 % 65537

/-- The primary page of a pair, which the plan names in a form that the spec does not lay out (DESIGN CHOICE, log 16). -/
def pairPage' (id n : Nat) : Nat := Config.planName id 16 n 0 0 % (hbmBytes / 0x10000) * 0x10000

def tablesOk (id : Nat) (l : List PlanRec) : Bool :=
  let imgs := imagesOf l
  ((ofKind l 9).map declRec).all (fun d =>
    let tiles := (((ofKind l 3).map partOf).find? (fun p => decide (p.part = d.part)) |>.map (·.tiles)).getD 0#256
    let (l1, l2) := tableEntries imgs d.ptRoot
    l1.all (fun e => decide (nbits e 62 32 = 0)) && l2.all (l2Ok tiles (pairCount id)))

/-- The HBM pages that a context's tables map: 2 MiB pages, and the primaries of 32 pairs (07 R249, R252). -/
def mappedPages (id : Nat) (imgs : List (Nat × List Byte)) (d : Decl) : List Region :=
  ((tableEntries imgs d.ptRoot).2.filter (fun e => e.testBit 63)).flatMap (fun e => match nbits e 62 60 with
    | 1 => [⟨nbits e 26 0 * 0x200000, 0x200000⟩]
    | 4 => (List.range 32).map (fun i => ⟨pairPage' id (nbits e 26 0 + i), 0x10000⟩)
    | _ => [])

/-! ### Required records (07 R255) -/

def complete (l : List PlanRec) : Bool :=
  let decls := (ofKind l 9).map declRec
  let ents := ((ofKind l 3).map partOf).flatMap (·.entries)
  let ccs := ((ofKind l 4).filter ccUsed).map (·.index)
  decide ((ofKind l 10).length = 1) && decide ((ofKind l 12).length = 1) && decide (ofKind l 3 ≠ []) &&
  ents.all (fun e => decls.any (fun d => decide (d.ctx = e.ctx)) && (ofKind l 2).any (fun r => decide (r.index = e.program)) &&
    (tilesOf e.tiles).all (fun t => (ofKind l 1).any (fun r => decide (r.index = e.ctx) && decide (subLe r.body 0 2 = t)))) &&
  decls.all (fun d => (ofKind l 5).any (fun r => decide (r.index = d.ctx)) && ((ofKind l 3).map partOf).any (fun p => decide (p.part = d.part)) &&
    (tilesOf d.tiles).all (fun t => (ofKind l 8).any (fun r => decide (r.index = d.ctx) && decide ((setupOf r).tile = t)))) &&
  ccs.all (fun c => (ofKind l 11).any (fun r => decide (r.index = c)))

/-! ### Declarations, programs, semaphores (07 R257) -/

/-- The semaphores that SEM.ACQ and SEM.REL of a program's words name; `second` says that the next word is the second of a
128-bit instruction (07 Table 07.1). -/
def semsUsed : Bool → List Word64 → List Nat
  | _, [] => []
  | true, _ :: ws => semsUsed false ws
  | false, w :: ws =>
    let op := fieldOf w 63 56
    if op = 0xCC ∨ op = 0xCD then fieldOf w 7 0 :: semsUsed false ws else semsUsed (decide (0xD0 ≤ op ∧ op ≤ 0xF0)) ws

/-- A pair of elements at two places of a list. -/
def pairsOf {α : Type} : List α → List (α × α)
  | [] => []
  | x :: xs => xs.map (x, ·) ++ pairsOf xs

def rangesMeet (a n b m : Nat) : Bool := decide (a < b + m) && decide (b < a + n)

def declsOk (l : List PlanRec) : Bool :=
  let decls := (ofKind l 9).map declRec
  let ents := ((ofKind l 3).map partOf).flatMap (·.entries)
  let resv := resvOf l
  (pairsOf decls).all (fun (a, b) => decide (a.ctx ≠ b.ctx)) &&
  (pairsOf decls).all (fun (a, b) => !decide (a.tiles &&& b.tiles ≠ 0#256) ||
    (!rangesMeet a.imemBase a.imemWords b.imemBase b.imemWords && decide (a.groups &&& b.groups = 0))) &&
  ((ofKind l 1).map imemOf).all (fun i => match decls.find? (fun d => decide (d.ctx = i.ctx)) with
    | none => false
    | some d => decide (d.imemBase ≤ i.first) && decide (i.first + i.words.length ≤ d.imemBase + d.imemWords) &&
        (semsUsed false i.words).all (fun m => bitOf d.sems m)) &&
  decls.all (fun d => (List.range 256).all (fun m => !bitOf d.sems m || d.holds.any (fun h => decide (h.1 = m)))) &&
  ents.all (fun e => !e.spec || ((decls.find? (fun d => decide (d.ctx = e.ctx))).map (·.spec)).getD false) &&
  decide (subLe resv 0 4 ≤ 131072) && decide (subLe resv 4 4 ≤ 524288) && decide (subLe resv 16 4 ≤ 65536) && decide (subLe resv 28 4 ≤ 65536) &&
  (let sum := fun (o : Nat) => ((List.range 32).map (fun c => subLe resv (56 + 12 * c + o) 4)).sum
   decide (sum 0 ≤ 131072) && decide (sum 4 ≤ 524288))

/-! ### Partitions (08 R264, R269) -/

/-- The capacity in HBM that a device reservation sets aside: LLR pages, UE extensions, shadow pages, RXM references and noise floors
(07 R258, 16 Table 16.6). -/
def reservedRegions (r : List Byte) : List Region :=
  [⟨subLe r 8 6, subLe r 4 4 * 0x10000⟩, ⟨subLe r 20 6, subLe r 16 4 * 0x180⟩, ⟨subLe r 32 6, subLe r 28 4 * 0x10000⟩,
   ⟨subLe r 40 6, subLe r 16 4 * 0x800⟩, ⟨subLe r 46 6, 0x200000⟩]

/-- The regions of HBM that a bundle's images, tables, slot buffers and captures take. -/
def imageRegions (id : Nat) (l : List PlanRec) : List Region :=
  let imgs := imagesOf l
  let io := fun (x : PlanRec) (i : Nat) => subLe x.body (4 * i) 4
  let io64 := fun (x : PlanRec) (i : Nat) => io x i + io x (i + 1) % 65536 * 2 ^ 32
  let strided := fun (w : Nat) => nbits w 31 28 * nbits w 11 0 * 65536
  imgs.map (fun i => ⟨i.1, i.2.length⟩) ++
  (tableImages l 3).map (fun x => ⟨Config.planName id 10 x.index 0 0 % 2 ^ 48, (image x).length⟩) ++
  (ofKind l 11).flatMap (fun x => [⟨io64 x 0, strided (io x 2)⟩, ⟨io64 x 3, strided (io x 5)⟩, ⟨io64 x 6, io x 8 * 0x10000⟩])

/-- The regions of HBM that a bundle places beside the Negative stores (R269). -/
def placedRegions (id : Nat) (l : List PlanRec) : List Region :=
  let imgs := imagesOf l
  reservedRegions (resvOf l) ++ imageRegions id l ++
  ((ofKind l 9).map declRec).flatMap (mappedPages id imgs)

/-- A partition's Negative store: 256 KiB for each context and tile. -/
def storeOf (l : List PlanRec) (p : PartPlan) : Region :=
  ⟨p.negStore, 0x40000 * ((((ofKind l 9).map declRec).filter (fun d => decide (d.part = p.part))).map (fun d => (tilesOf d.tiles).length)).sum⟩

def regionsMeet (a b : Region) : Bool := decide (a.bytes ≠ 0) && decide (b.bytes ≠ 0) && rangesMeet a.base a.bytes b.base b.bytes

/-- Nothing else in the plan uses the capacity that the reservation sets aside (07 R258): no region of the plan's and no other pool
meets a pool (that the load is rejected otherwise: DEDUCED, log 32). -/
def poolsOk (id : Nat) (l : List PlanRec) : Bool :=
  let pools := reservedRegions (resvOf l)
  (pairsOf pools).all (fun (a, b) => !regionsMeet a b) && (imageRegions id l).all (fun r => pools.all (fun p => !regionsMeet p r))

def partsOk (id : Nat) (l : List PlanRec) : Bool :=
  let parts := (ofKind l 3).map partOf
  let decls := (ofKind l 9).map declRec
  let inside := fun (a b : BitVec 256) => decide (a &&& ~~~b = 0#256)
  let others := placedRegions id l
  (pairsOf parts).all (fun (a, b) => decide (a.tiles &&& b.tiles = 0#256) && decide (a.cycle = b.cycle) && decide (a.part ≠ b.part) &&
    !meets (a.entries.map (·.ctx)) (b.entries.map (·.ctx)) && !regionsMeet (storeOf l a) (storeOf l b)) &&
  decls.all (fun d => ((parts.find? (fun p => decide (p.part = d.part))).map (fun p => inside d.tiles p.tiles)).getD false) &&
  parts.all (fun p =>
    p.entries.all (fun e =>
      (match decls.find? (fun d => decide (d.ctx = e.ctx)) with
        | none => false
        | some d => decide (d.part = p.part) && inside e.tiles d.tiles && e.sems.all (fun m => bitOf d.sems m)) &&
      ((ofKind l 2).find? (fun r => decide (r.index = e.program))).map (fun r => (progOf r).tiles) = some e.tiles) &&
    (p.entries.zip p.entries.tail).all (fun q => decide (q.1.start ≤ q.2.start)) &&
    (let st := storeOf l p
     decide (st.base < hbmBytes) && decide (st.base % hbmStackBytes + st.bytes ≤ hbmStackBytes) && others.all (fun r => !regionsMeet st r)))

/-! ### Tables (10 R341; 12 R387, R390, R391; 14 R450, R454, R457) -/

def wsetsOk (l : List PlanRec) : Bool :=
  let ws := wsetsOf l
  decide (ws.length ≤ 16) && ws.all wsetForm &&
  ((ofKind l 4).filter ccUsed).all (fun r => decide ((ws.filter (fun w => (subLe w 4 4).testBit r.index)).length = 1))

/-- A ring of a context on a tile, as its setup record gives it. -/
def setupRing (l : List PlanRec) (c t n : Nat) : Option Ring :=
  ((((ofKind l 8).map setupOf).find? (fun x => decide (x.ctx = c) && decide (x.tile = t))).map (fun x =>
    Ring.of (nth 0#32 x.cfg n) (nth 0#32 x.ptr n))).filter (·.en)

/-- PRBs and uplink ports of a carrier of the bundle. -/
def ccDims (l : List PlanRec) (c : Nat) : Nat × Nat :=
  (((ofKind l 4).find? (fun r => decide (r.index = c))).map (fun r =>
    let w := nth 0#32 (ccWords r) 0
    (fieldOf w 27 19, fieldOf w 18 12))).getD (0, 0)

def fronthaulOk (l : List PlanRec) : Bool :=
  let ex := (eaxcOf l).filter (fun kv => exValid kv.2)
  (pairsOf (ex.map (fun kv => exKey kv.2))).all (fun (a, b) => decide (a ≠ b)) &&
  (ofKind l 11).all (fun r =>
    let (prb, ports) := ccDims l r.index
    decide (336 * ports * prb ≤ subLe r.body 8 4 % 4096 * 65536)) &&
  ex.all (fun kv => !exDmrs kv.2 || (exTiles kv.2).all (fun t =>
    match setupRing l (exCtx kv.2) t (exRing kv.2) with
    | some r => decide (24 * (ccDims l (exCarrier kv.2)).1 ≤ r.size * 64)
    | none => true))

def groupOk (id : Nat) (l : List PlanRec) : Bool :=
  let decls := (ofKind l 9).map declRec
  let tileOf := fun (c t : Nat) => match decls.find? (fun d => decide (d.ctx = c)) with
    | some d => bitOf d.tiles t
    | none => true
  let ringOk := fun (c t n : Nat) => !decls.any (fun d => decide (d.ctx = c)) || (setupRing l c t n).isSome
  decide ((streamsOf l).length ≤ 1024) &&
  (streamsOf l).all (fun x =>
    let seats := ((List.range 64).filter (fun n => x.dstSeats.testBit n)).length
    (x.multicast || decide (seats = 1)) && tileOf x.srcCtx x.srcTile && tileOf x.dstCtx x.dstTile &&
    ringOk x.srcCtx x.srcTile x.srcRing && ringOk x.dstCtx x.dstTile x.dstRing &&
    (match setupRing l x.srcCtx x.srcTile x.srcRing, setupRing l x.dstCtx x.dstTile x.dstRing with
      | some a, some b => decide (a.size = b.size)
      | _, _ => true) &&
    (!x.multicast || decide (1 ≤ x.stageSlots))) &&
  (tableImages l 7).all (fun r => (tableRows 16 (image r)).all (fun b => decide (224 ≤ subLe b 0 1) && zeros b 1 8)) &&
  ((ofKind l 3).map partOf).all (fun p => (List.range 4).all (fun v =>
    decide (4 * (decls.filter (fun d => decide (d.part = p.part))).length ≤ Config.planName id 22 p.part v 0 % 65536)))

/-! ### Check 10 -/

/-- A bundle carries one device reservation and one device setup (R255), whichever seat they are placed on. -/
def onceOk (all : List PlanRec) : Bool := decide ((ofKind all 10).length = 1) && decide ((ofKind all 12).length = 1)

/-- Whether the records of a bundle pass; `all` are the records of every seat, `l` those placed here. -/
def bundleOk (id : Nat) (all l : List PlanRec) : Bool :=
  all.all recordForm && complete l && carriersOk l && Config.capacityOk id && tablesOk id l && declsOk l && partsOk id l && poolsOk id l && wsetsOk l &&
  fronthaulOk l && groupOk id l

end Sys2Proof.Machine
end

