-- ==== Sys2Proof/Machine/Polar.lean ====
section
/-!
DEFINITION. Polar.lean: UCI decoding as a computation on LLRs (10 R346 to R348): short codes by maximum likelihood, polar codes
by CRC-aided list decoding with L = 8. Code construction follows TS 38.212 clauses 5.3.1, 5.4.1 and 6.3.1 (PRESUMED,
log 104) over an order that stays open (log 15).
-/
namespace Sys2Proof.Machine

open Sys2Proof

/-! ### Short codes (A from 1 to 11) -/

/-- LLRs folded onto the base code word: repetition maximum likelihood adds the LLRs of one bit. -/
def foldLlrs (n : Nat) (l : List Int) : List Int :=
  (List.range n).map (fun i => ((l.zipIdx.filter (fun x => decide (x.2 % n = i))).map (·.1)).sum)

/-- Correlation of a code word with LLRs. -/
def correlate (cw : List Bool) (l : List Int) : Int := (List.zipWith (fun b (x : Int) => if b then -x else x) cw l).sum

/-- The rows of TS 38.212 Table 5.3.3.3-1, M(i, k) at bit k (PRESUMED, log 104). -/
def shortRows : List Nat :=
  [0x403, 0x607, 0x749, 0x50D, 0x48F, 0x5D3, 0x755, 0x599, 0x69B, 0x65D, 0x6E5, 0x567, 0x7A9, 0x6AB, 0x4B1, 0x6F3] ++
  [0x277, 0x139, 0x0FB, 0x061, 0x445, 0x60B, 0x591, 0x717, 0x3DF, 0x4E3, 0x32D, 0x3AF, 0x175, 0x1FD, 0x7FF, 0x001]

/-- The code word of an A-bit message (TS 38.212 clause 5.3.3): the bit itself, the simplex code, or Reed–Muller (32, A). -/
def shortCodeword (a m : Nat) : List Bool :=
  let c := natBits a m
  match a with
  | 1 => c
  | 2 => c ++ [nth false c 0 != nth false c 1]
  | _ => shortRows.map (fun r => decide ((c.zipIdx.filter (fun x => x.1 && r.testBit x.2)).length % 2 = 1))

/-- The message of the best correlation, the lowest of equals, with the correlation. -/
def bestMessage (a : Nat) (l : List Int) : Nat × Int :=
  ((List.range (2 ^ a)).map (fun m => (m, correlate (shortCodeword a m) l))).foldl
    (fun b x => if b.2 < x.2 then x else b) (0, correlate (shortCodeword a 0) l)

/-- Bits of a base code word. -/
def shortLen (a : Nat) : Nat := if a = 1 then 1 else if a = 2 then 3 else 32

/-! ### Polar code construction -/

/-- The least n with x ≤ 2^n. -/
def ceilLog2 (x : Nat) : Nat := if x ≤ 1 then 0 else (x - 1).log2 + 1

structure PolarCode where
  k : Nat        -- information, CRC bits
  e : Nat
  n : Nat        -- log2 N
  crc : Nat      -- CRC bits, 6 or 11
  pc : Nat       -- parity-check bits
  deriving DecidableEq, Repr

def PolarCode.size (c : PolarCode) : Nat := 2 ^ c.n

/-- The code of a segment of a bits with e rate-matched bits. -/
def PolarCode.of (a e crc : Nat) : PolarCode :=
  let k := a + crc
  let c := ceilLog2 e
  let n1 := if 8 * e ≤ 9 * 2 ^ (c - 1) ∧ 16 * k < 9 * e then c - 1 else c
  let n := max 5 (min n1 (min (ceilLog2 (8 * k)) 10))
  { k := k, e := e, n := n, crc := crc, pc := if 18 ≤ k ∧ k ≤ 25 then 3 else 0 }

/-- The sub-block interleaver's pattern (TS 38.212 Table 5.4.1.1-1). -/
def subBlock : List Nat :=
  [0, 1, 2, 4, 3, 5, 6, 7, 8, 16, 9, 17, 10, 18, 11, 19, 12, 20, 13, 21, 14, 22, 15, 23, 24, 25, 26, 28, 27, 29, 30, 31]

/-- J(n) of the sub-block interleaver. -/
def PolarCode.j (c : PolarCode) (i : Nat) : Nat :=
  let w := c.size / 32
  (subBlock[i / max 1 w]?).getD 0 * w + i % max 1 w

/-- Whether the code is punctured (else shortened) where E is below N. -/
def PolarCode.punctured (c : PolarCode) : Bool := decide (16 * c.k ≤ 7 * c.e)

/-- Positions frozen by rate matching. -/
def PolarCode.barred (c : PolarCode) : List Nat :=
  let n := c.size
  if n ≤ c.e then []
  else if c.punctured then
    let low := if 3 * n ≤ 4 * c.e then (3 * n - 2 * c.e + 3) / 4 else (9 * n - 4 * c.e + 15) / 16
    (List.range (n - c.e)).map c.j ++ List.range low
  else ((List.range n).filter (fun i => decide (c.e ≤ i))).map c.j

/-- Information and parity-check positions, from the least reliable up. -/
def PolarCode.chosen (c : PolarCode) : List Nat :=
  let q := (Config.polarOrder.filter (fun i => decide (i < c.size))).filter (fun i => !c.barred.contains i)
  q.drop (q.length - (c.k + c.pc))

/-- Ones of a number's low n bits: a row of the transform has 2 to that weight. -/
def onesOf (n x : Nat) : Nat := ((List.range n).filter (fun i => x.testBit i)).length

/-- Parity-check positions. -/
def PolarCode.pcBits (c : PolarCode) : List Nat :=
  if c.pc = 0 then []
  else
    let q := c.chosen
    let wm := if 192 + c.k < c.e + 3 then 1 else 0
    let low := q.take (c.pc - wm)
    if wm = 0 then low
    else
      let top := q.drop c.pc
      let least := top.foldl (fun m i => min m (onesOf c.n i)) 64
      low ++ ((top.reverse.find? (fun i => decide (onesOf c.n i = least))).toList)

/-! ### Rate recovery -/

/-- The triangular channel interleaver's order: the index of each output bit in the input (TS 38.212 clause 5.4.1.3). -/
def triangle (e : Nat) : List Nat :=
  let t := ((List.range (e + 1)).find? (fun t => decide (e ≤ t * (t + 1) / 2))).getD e
  let rowStart := fun (i : Nat) => i * t - i * (i - 1) / 2
  (List.range t).flatMap (fun j => (List.range (t - j)).filterMap (fun i =>
    let p := rowStart i + j
    if p < e then some p else none))

def sat10 (x : Int) : Int := max (-511) (min 511 x)

/-- The N channel LLRs of a segment: de-interleaved, then repeated bits added, punctured ones 0, shortened ones certain. -/
def PolarCode.recover (c : PolarCode) (l : List Int) : List Int :=
  let order := triangle c.e
  let d := (order.zip l).foldl (fun (a : Array Int) x => a.set! x.1 x.2) (Array.replicate c.e (0 : Int))
  let n := c.size
  let y : Array Int :=
    if n ≤ c.e then (List.range c.e).foldl (fun (a : Array Int) i => a.set! (i % n) (a.getD (i % n) 0 + d.getD i 0)) (Array.replicate n (0 : Int))
    else if c.punctured then ((List.range n).map (fun i => if i < n - c.e then 0 else d.getD (i - (n - c.e)) 0)).toArray
    else ((List.range n).map (fun i => if i < c.e then d.getD i 0 else 511)).toArray
  let z := (List.range n).foldl (fun (a : Array Int) i => a.set! (c.j i) (sat10 (y.getD i 0))) (Array.replicate n (0 : Int))
  z.toList

/-! ### List decoding (R347) -/

/-- The transform of bits, by halves. -/
def polarEncode : Nat → List Bool → List Bool
  | 0, u => u
  | n + 1, u =>
    let h := 2 ^ n
    let a := polarEncode n (u.take h)
    let b := polarEncode n (u.drop h)
    List.zipWith (fun x y => x != y) a b ++ b

/-- min-sum f. -/
def polarF (a b : Int) : Int :=
  let m : Int := ((min a.natAbs b.natAbs : Nat) : Int)
  if decide (a < 0) != decide (b < 0) then -m else m

/-- exact g, on 10-bit values. -/
def polarG (a b : Int) (x : Bool) : Int := sat10 (if x then b - a else b + a)

/-- The LLR of the next bit after the decided ones. -/
def polarLlr : Nat → List Int → List Bool → Int
  | 0, y, _ => y.headD 0
  | n + 1, y, u =>
    let h := 2 ^ n
    let a := y.take h
    let b := y.drop h
    if u.length < h then polarLlr n (List.zipWith polarF a b) u
    else polarLlr n (List.zipWith (fun (ab : Int × Int) x => polarG ab.1 ab.2 x) (a.zip b) (polarEncode n (u.take h))) (u.drop h)

/-- A path: its bits in order and its metric. -/
structure Path where
  u : List Bool
  pm : Nat
  deriving DecidableEq, Repr

/-- A path taken on with a bit against its LLR; metrics have 24 bits. -/
def Path.push (p : Path) (llr : Int) (b : Bool) : Path :=
  { u := p.u ++ [b], pm := min (2 ^ 24 - 1) (p.pm + if decide (llr < 0) == b || decide (llr = 0) then 0 else llr.natAbs) }

/-- The parity-check bit at position i: the sum of the information bits five positions apart before it (TS 38.212 clause
5.3.1.2). -/
def pcValue (info : List Nat) (u : List Bool) (i : Nat) : Bool :=
  (List.range i).foldl (fun b j => if info.contains j && decide (j % 5 = i % 5) then b != nth false u j else b) false

/-- Take a path into a list kept by metric, after the paths of equal metric. -/
def insertPath (p : Path) : List Path → List Path
  | [] => [p]
  | q :: rest => if p.pm < q.pm then p :: q :: rest else q :: insertPath p rest

/-- One bit of list decoding: children bit 0 first, then by parent; the eight smallest metrics stay. -/
def listStep (c : PolarCode) (info pcs : List Nat) (y : List Int) (i : Nat) (ps : List Path) : List Path :=
  let l := ps.map (fun p => (p, polarLlr c.n y p.u))
  if info.contains i then
    let kids := l.map (fun x => x.1.push x.2 false) ++ l.map (fun x => x.1.push x.2 true)
    (kids.foldl (fun acc p => insertPath p acc) []).take 8
  else l.map (fun x => x.1.push x.2 (if pcs.contains i then pcValue info x.1.u i else false))

/-- Decode a segment: its information bits, or none where no path passes its CRC. -/
def polarDecode (c : PolarCode) (l : List Int) : Option (List Bool) :=
  let pcs := c.pcBits
  let info := c.chosen.filter (fun i => !pcs.contains i)
  let y := c.recover l
  let ps := (List.range c.size).foldl (fun ps i => listStep c info pcs y i ps) [{ u := [], pm := 0 }]
  let bits := fun (p : Path) => (info.insertionSort (· ≤ ·)).map (fun i => nth false p.u i)
  let good := ps.filter (fun p => if c.crc = 6 then decide (crc6 (bits p) = 0) else decide (crc11 (bits p) = 0))
  (good.foldl (fun (b : Option Path) p => match b with
    | none => some p
    | some q => if p.pm < q.pm then some p else some q) none).map (fun p => (bits p).take (c.k - c.crc))

/-- Decode A bits of UCI from E polar-coded LLRs (TS 38.212 clause 6.3.1.2.1). -/
def polarUci (a : Nat) (l : List Int) : Option (List Bool) :=
  let e := l.length
  let crc := if a ≤ 19 then 6 else 11
  if (360 ≤ a ∧ 1088 ≤ e) ∨ 1013 ≤ a then
    let h := (a + 1) / 2
    let code := PolarCode.of h (e / 2) crc
    match polarDecode code (l.take (e / 2)), polarDecode code ((l.drop (e / 2)).take (e / 2)) with
    | some x, some y => some ((x.drop (a % 2)) ++ y)
    | _, _ => none
  else polarDecode (PolarCode.of a e crc) l

end Sys2Proof.Machine
end

