-- ==== Sys2Proof/Machine/Angles.lean ====
section
/-!
DEFINITION. Angles.lean: the FP32 operations of the receiver measurements (11 R356) that Numbers.lean lacks: quotient, square
root, argument, sine and cosine, each the exact result rounded once. A value that is not rational is bracketed in fixed
point with 192 fraction bits (DEDUCED, log 11).
-/
namespace Sys2Proof.Machine

open Sys2Proof

/-- An exact quotient. -/
def XVal.div : XVal → XVal → XVal
  | .nan, _ => .nan
  | _, .nan => .nan
  | .inf _, .inf _ => .nan
  | .inf a, .fin b _ _ => .inf (a != b)
  | .fin a _ _, .inf b => .fin (a != b) 0 1
  | .fin a n d, .fin b m e => if m = 0 then (if n = 0 then .nan else .inf (a != b)) else .fin (a != b) (n * e) (d * m)

def f32Div (a b : Word) : Word := f32Of ((f32Val a).div (f32Val b))

/-- A square root rounded once: the root of the value times 2^160, with a half added where it is not exact. -/
def f32Sqrt (a : Word) : Word :=
  match f32Val a with
  | .fin s n d =>
    if n = 0 then a
    else if s then f32Nan
    else
      let q := n * 2 ^ 400 / d
      let r := isqrt q 280 0
      f32Of (.fin false (if r * r = q ∧ n * 2 ^ 400 % d = 0 then 2 * r else 2 * r + 1) (2 ^ 201))
  | .inf s => if s then f32Nan else a
  | .nan => f32Nan

/-- The sum z − z^3/3 + z^5/5 − … in fixed point: `term` holds the odd power of z. -/
def atanSum (z2 : Nat) : Nat → Int → Nat → Nat → Int
  | 0, _, _, _ => 0
  | k + 1, sign, term, d => sign * ((term / d : Nat) : Int) + atanSum z2 k (-sign) (term * z2 / fxOne) (d + 2)

/-- π in fixed point: 16 atan(1/5) − 4 atan(1/239). -/
def piFx : Nat :=
  let a := fun (n : Nat) => atanSum (fxOne / (n * n)) 100 1 (fxOne / n) 1
  (16 * a 5 - 4 * a 239).toNat

/-- The arc tangent of z between 0 and 1 in fixed point, halved three times so that the series converges. -/
def atanFx (z : Nat) : Nat :=
  let half := fun (z : Nat) => z * fxOne / (fxOne + isqrt (fxOne * fxOne + z * z) 194 0)
  let w := half (half (half z))
  8 * (atanSum (w * w / fxOne) 100 1 w 1).toNat

/-- The angle of (x, y) in (−π, π] in fixed point; the angle of (0, 0) is 0. -/
def angleFx (x y : Int) : Int :=
  let a := x.natAbs
  let b := y.natAbs
  if a = 0 ∧ b = 0 then 0
  else
    let t : Nat := if b ≤ a then atanFx (b * fxOne / a) else piFx / 2 - atanFx (a * fxOne / b)
    let t : Nat := if x < 0 then piFx - t else t
    if y < 0 then - (t : Int) else (t : Int)

/-- A fixed-point number as an exact value. -/
def fxVal (t : Int) : XVal := .fin (decide (t < 0)) t.natAbs fxOne

/-- arg of a complex value in FP32 (11 R363, R368); a NaN part gives NaN. -/
def f32Arg (re im : Word) : Word :=
  match f32Val re, f32Val im with
  | .fin a n d, .fin b m e => f32Of (fxVal (angleFx (snum a (n * e)) (snum b (m * d))))
  | _, _ => f32Nan

/-- 2π as an FP32 number. -/
def f32TwoPi : Word := f32Of (.fin false (2 * piFx) fxOne)

/-- An angle reduced into (−π, π], exactly, then rounded. -/
def f32Reduce (w : Word) : Word :=
  match f32Val w with
  | .fin s n d =>
    let x : Int := snum s n * (fxOne : Int) / (d : Int)
    let p2 : Int := 2 * (piFx : Int)
    let r := x % p2
    let r := if (piFx : Int) < r then r - p2 else r
    if x = r then w else f32Of (fxVal r)
  | _ => w

/-- The sine's and the cosine's series of an angle below π/2 in fixed point. -/
def trigSum (x2 : Nat) : Nat → Int → Nat → Nat → Int
  | 0, _, _, _ => 0
  | k + 1, sign, term, d => sign * (term : Int) + trigSum x2 k (-sign) (term * x2 / fxOne / (d * (d + 1))) (d + 2)

/-- cos and sin of 2π n / d. -/
def cosSinTurns (n : Int) (d : Nat) : XVal × XVal :=
  let r := (n % (d : Int)).toNat
  let q := 4 * r / d
  let f := 4 * r % d
  let c : Int := if f = 0 then fxOne else let x := piFx * f / (2 * d); trigSum (x * x / fxOne) 60 1 fxOne 1
  let s : Int := if f = 0 then 0 else let x := piFx * f / (2 * d); trigSum (x * x / fxOne) 60 1 x 2
  match q % 4 with
  | 0 => (fxVal c, fxVal s)
  | 1 => (fxVal (-s), fxVal c)
  | 2 => (fxVal (-c), fxVal (-s))
  | _ => (fxVal s, fxVal (-c))

/-- 10 log10 of a value in FP32: the logarithm rounded once, then times 10. -/
def f32Db (w : Word) : Word :=
  let lg := match f32Val w with
    | .fin s n d =>
      if n = 0 then 0xFF800000#32
      else if s then f32Nan
      else match log2Pos n d with
        | .fin a m e => f32Of (.fin a (m * fxOne * 1000) (e * (match log2Pos 10 1 with | .fin _ p q => p * fxOne * 1000 / q | _ => 1)))
        | _ => f32Nan
    | .inf s => if s then f32Nan else 0x7F800000#32
    | .nan => f32Nan
  f32Mul (f32Of (XVal.ofInt 10)) lg

/-- A value rounded to nearest, ties to even, and clamped to 0 to a bound; a NaN gives 0 (03 R102). -/
def clampRne (v : XVal) (hi : Nat) : Nat :=
  match v with
  | .nan => 0
  | .inf s => if s then 0 else hi
  | .fin s n d => if s then 0 else min hi (rneDiv n d)

end Sys2Proof.Machine
end

