-- ==== Sys2Proof/Machine/Measure.lean ====
section
/-!
DEFINITION. Measure.lean: the RXM's frequency-offset estimates (11 R366 to R370) and noise floor (11 R371 to R374). Every
operation is FP32, rounded once, in the order the rules write it (R356).
-/
namespace Sys2Proof.Machine

open Sys2Proof

/-! ### Complex FP32 -/

/-- A complex number as two FP32 words. -/
abbrev Cw := Word × Word

def cAdd (a b : Cw) : Cw := (f32Add a.1 b.1, f32Add a.2 b.2)

/-- a × conj(b): each product and each sum rounded once. -/
def cMulConj (a b : Cw) : Cw :=
  (f32Add (f32Mul a.1 b.1) (f32Mul a.2 b.2), f32Sub (f32Mul a.2 b.1) (f32Mul a.1 b.2))

/-- |a|². -/
def cPower (a : Cw) : Word := f32Add (f32Mul a.1 a.1) (f32Mul a.2 a.2)

def f32Int (i : Int) : Word := f32Of (XVal.ofInt i)

/-- A CX16 word as two FP32 words. -/
def cwOfCx (w : Nat) : Cw := (f32Of (cxDecode w).1, f32Of (cxDecode w).2)

/-! ### Frequency offset -/

/-! The DMRS of TS 38.211 clause 6.4.1.1 in a PDU's first DMRS symbol (PRESUMED, log 104). -/

/-- 1 / √2 and −1 / √2 as FP32. -/
def f32Half2 (neg : Bool) : Word := if neg then 0xBF3504F3#32 else 0x3F3504F3#32

/-- The DMRS port of the first layer. -/
def dmrsPort (rec' : List Byte) : Nat := ((List.range 12).find? (fun p => (recField rec' 20 2).testBit p)).getD 0

/-- Whether transform precoding is on (TransformPrecoding 0). -/
def dmrsDft (rec' : List Byte) : Bool := decide (recField rec' 9 1 = 0)

/-- The scrambling bits of a DMRS symbol: slot ns of its frame, symbol l. -/
def dmrsGold (rec' : List Byte) (ns l : Nat) : Array Bool :=
  let id := recField rec' 14 2
  (gold ((2 ^ 17 * (14 * ns + l + 1) * (2 * id + 1) + 2 * id + recField rec' 18 1 % 2) % 2 ^ 31) (12 * 276)).toArray

/-- The largest prime below n. -/
def primeBelow (n : Nat) : Nat :=
  ((List.range n).reverse.find? (fun p => decide (2 ≤ p) && (List.range p).all (fun d => decide (d < 2) || decide (p % d ≠ 0)))).getD 2

/-- Element n of the low-PAPR sequence of group u with len elements (TS 38.211 clause 5.2.2; no group or sequence hopping, whose
parameters lie outside the record). -/
def lowPapr (len u n : Nat) : Cw :=
  let turn := fun (k : Int) (d : Nat) => let r := cosSinTurns k d; (f32Of r.1, f32Of r.2)
  if len = 30 then turn (-(((u + 1) * (n + 1) * (n + 2) : Nat) : Int)) 62
  else if len < 36 then
    let q := Config.papr len u n % 4
    (f32Half2 (decide (q = 0 ∨ q = 3)), f32Half2 (decide (q < 2)))
  else
    let z := primeBelow len
    let q := (2 * z * (u + 1) + 31) / 62
    let m := n % z
    turn (-((q * m * (m + 1) : Nat) : Int)) (2 * z)

/-- The place of subcarrier i in the DMRS of a port: its element's number from the comb's first, and the sign of the frequency cover;
none where the port has no DMRS RE there. -/
def dmrsComb (rec' : List Byte) (i : Nat) : Option (Nat × Bool) :=
  let p := dmrsPort rec'
  if recField rec' 11 1 = 0 then
    let off := p / 2 % 2
    if i % 2 = off then some (i / 2, decide (p % 2 = 1) && decide (i / 2 % 2 = 1)) else none
  else
    let off := 2 * (p / 2 % 3)
    if off ≤ i % 6 ∧ i % 6 < off + 2 then some (2 * (i / 6) + (i % 6 - off), decide (p % 2 = 1) && decide (i % 6 = off + 1)) else none

/-- d at subcarrier i of a PDU's first DMRS symbol, or none where its port has no DMRS RE. Without transform precoding the sequence
counts from the carrier's first PRB, with it from the allocation's. -/
def dmrsAt (rec' : List Byte) (g : Array Bool) (i : Nat) : Option Cw :=
  if !recNamed rec' (i / 12) then none
  else (dmrsComb rec' i).map (fun x =>
    let d : Cw :=
      if dmrsDft rec' then
        let first := ((List.range 600).find? (recNamed rec')).getD 0
        let len := 6 * ((List.range 600).filter (recNamed rec')).length
        lowPapr len (recField rec' 16 2 % 30) (x.1 - 6 * first)
      else (f32Half2 (g.getD (2 * x.1) false), f32Half2 (g.getD (2 * x.1 + 1) false))
    if x.2 then (d.1 ^^^ 0x80000000#32, d.2 ^^^ 0x80000000#32) else d)

/-- The cells of R367 that an allocation measures on a symbol, with their sums. -/
def foCells (s : State) (c n l : Nat) (rec' : List Byte) : SMap Cw :=
  let gs := dmrsGold rec' (n % slotsPerFrame (ccMu s c)) l
  (List.range 35).flatMap (fun g => (List.range 8).filterMap (fun a =>
    let res := (List.range 96).filterMap (fun j => (dmrsAt rec' gs (96 * g + j)).map (fun d => (96 * g + j, d)))
    let ports := (List.range 8).filterMap (fun j => if 8 * a + j < ccPorts s c then some (8 * a + j) else none)
    if res.isEmpty || ports.isEmpty then none
    else
      let sum := res.foldl (fun acc r => ports.foldl (fun acc p =>
        cAdd acc (cMulConj (cwOfCx (getLe s (reAt s c n l p r.1) 2)) r.2)) acc) ((0#32, 0#32) : Cw)
      some (8 * g + a, sum)))

def refCold : RefRec := { valid := false, slot := 0, sym := 0, cells := [], afc := none }

/-- What an estimate reads of UE entry u: its reference record (Table 11.3) and its afc. -/
def refRead (s : State) (u : Nat) : RefRec :=
  let a := refAt s u
  let at' := fun (i : Nat) => f32Of (fmtFP16.decode (getLe s i 2))
  { valid := (getLe s (a + 5) 1).testBit 0, slot := getLe s a 4, sym := getLe s (a + 4) 1,
    cells := (List.range 280).filterMap (fun k =>
      if (getLe s (a + 8 + k / 8) 1).testBit (k % 8) then some (k, (at' (a + 64 + 4 * k), at' (a + 66 + 4 * k))) else none),
    afc := if ueFlag s u 3 then some (signed 16 (uGet s u 14 2)) else none }

/-- Write a reference record with a PDU's cells (R370). -/
def refWrite (s : State) (u n l : Nat) (cells : SMap Cw) : State :=
  let a := refAt s u
  let s := setLe (setLe (setLe (zeroRange s a 0x800) a 4 n) (a + 4) 1 l) (a + 5) 1 1
  let h := fun (w : Word) => (fmtFP16.encode .saturate (f32Val w)).code
  forEach cells s (fun kv s =>
    let b := a + 8 + kv.1 / 8
    let s := setLe s b 1 (getLe s b 1 ||| 2 ^ (kv.1 % 8))
    setLe (setLe s (a + 64 + 4 * kv.1) 2 (h kv.2.1)) (a + 66 + 4 * kv.1) 2 (h kv.2.2))

/-- A symbol's start within the SFN period, in T_c. -/
def symTcAbs (s : State) (c n l : Nat) : Nat :=
  let k := slotsPerFrame (ccMu s c)
  n % (1024 * k) / k * 19660800 + symStartTc (ccMu s c) (n % k) l

def periodTc : Nat := 1024 * 19660800

/-- T_c in a second. -/
def tcPerSec : Nat := 480000 * 4096

/-- The estimate of R368 against what it reads of its UE. -/
def foEstimate (s : State) (c n l : Nat) (rec' : List Byte) (ref : RefRec) : FoRec :=
  let cells := foCells s c n l rec'
  let afcOk := ref.afc.isSome
  let fp := (ref.afc.map f32Int).getD 0#32
  let dt := (symTcAbs s c n l + periodTc - symTcAbs s c ref.slot ref.sym) % periodTc
  let both := cells.filterMap (fun kv => (mapFind ref.cells kv.1).map (fun r => (kv.2, r)))
  if !ref.valid || decide (getF s Reg.RXM_CFG 15 0 * 1966080 < dt * 1000) || both.isEmpty then
    { fo := fp, flags := 2 + (if afcOk then 8 else 0), sym := l, rho := 0#32, dt := 0#32, cells := cells }
  else
    let z := both.foldl (fun acc x => cAdd acc (cMulConj x.1 x.2)) ((0#32, 0#32) : Cw)
    let hh := both.foldl (fun acc x => f32Add acc (cPower x.1)) 0#32
    let rr := both.foldl (fun acc x => f32Add acc (cPower x.2)) 0#32
    let rho := f32Div (f32Sqrt (cPower z)) (f32Sqrt (f32Mul hh rr))
    let sec := f32Of (.fin false dt tcPerSec)
    let turn := f32Mul f32TwoPi fp
    let r := f32Reduce (f32Sub (f32Arg z.1 z.2) (f32Mul turn sec))
    let ok := decide ((f32Val rho).cmp (.fin false (getF s Reg.RXM_CFG 31 16) 65536) = some .gt) ||
      decide ((f32Val rho).cmp (.fin false (getF s Reg.RXM_CFG 31 16) 65536) = some .eq)
    let us' := f32Of (.fin false (dt * 1000000) tcPerSec)
    if ok then { fo := f32Add fp (f32Div r (f32Mul f32TwoPi sec)), flags := 1, sym := l, rho := rho, dt := us', cells := cells }
    else { fo := fp, flags := 4, sym := l, rho := rho, dt := us', cells := cells }

/-- Count an estimate's outcome (R368). -/
def foCount (s : State) (f : FoRec) : State :=
  if f.flags.testBit 0 then incR s Reg.RXM_FO_EST 1
  else if f.flags.testBit 1 then incR s Reg.RXM_FO_COLD 1
  else incR s Reg.RXM_FO_LOWQ 1

/-- e^(−j2π × fo × (t_k − t_d)), each part correctly rounded (Table 11.4). -/
def foPhasor (s : State) (c n : Nat) (f : FoRec) (k : Nat) : Cw :=
  let dt : Int := ((symTcAbs s c n k : Nat) : Int) - ((symTcAbs s c n f.sym : Nat) : Int)
  match f32Val f.fo with
  | .fin a m e => let r := cosSinTurns (-(snum a m) * dt) (e * tcPerSec); (f32Of r.1, f32Of r.2)
  | _ => (f32Nan, f32Nan)

/-- Write a frequency-offset record into a pending-state page (R369). -/
def foWrite (s : State) (page c n : Nat) (f : FoRec) : State :=
  let a := page + 0xFF80
  let s := setLe (setLe (setLe s a 4 f.fo.toNat) (a + 4) 1 f.flags) (a + 5) 3 f.sym
  let s := setLe (setLe s (a + 8) 4 f.rho.toNat) (a + 12) 4 f.dt.toNat
  forEach (List.range 14) s (fun k s =>
    let w := foPhasor s c n f k
    setLe (setLe s (a + 16 + 8 * k) 4 w.1.toNat) (a + 20 + 8 * k) 4 w.2.toNat)

/-! ### The noise floor -/

/-- The power of a CX16 word in units of 2^-24. -/
def cxPower (w : Nat) : Nat :=
  let r := signed 6 (nbits w 11 6)
  let i := signed 6 (nbits w 5 0)
  (r * r + i * i).toNat * 4 ^ nbits w 15 12

def nfGrp (s : State) (c : Nat) : Nat := 4 * 2 ^ getF s (Reg.RXM_CC_NF c) 31 30
def nfGroups (s : State) (c : Nat) : Nat := (ccPrb s c + nfGrp s c - 1) / nfGrp s c
def nfAnts (s : State) (c : Nat) : Nat := (ccPorts s c + 7) / 8

/-- Whether a request allocates a PRB, to anything (R54). -/
def reqUses (r : UlTti) (b : Nat) : Bool :=
  r.pusch.any (fun p => recPrbs p.alloc b) ||
  r.pucch.any (fun p => (p.prbStart :: p.hop.toList).any (fun f => decide (f ≤ b ∧ b < f + p.prbs))) ||
  r.srs.any (fun p => decide (p.prbStart ≤ b ∧ b < p.prbStart + p.prbs)) || r.prach.any (fun p => decide (p.prbStart ≤ b ∧ b < p.prbStart + p.prbs))

/-- The CX16 words of a PRB of a symbol and port, as captured. -/
def capWords (u : UlSlot) (l p b : Nat) : List Nat :=
  match u.secs.find? (fun q => decide (q.symbol = l) && decide (q.port = p) && decide (q.startPrb ≤ b ∧ b < q.startPrb + q.prbs.length)) with
  | some q => (match q.prbs[b - q.startPrb]? with
    | some prb => (prbParts q.comp prb).map (fun x => (reConv q.k x).code)
    | none => [])
  | none => []

/-- The sample of a PRB, symbol and antenna group (R372). -/
def nfSample (s : State) (c : Nat) (u : UlSlot) (l b a : Nat) : Word :=
  let ports := (List.range 8).filterMap (fun j => if 8 * a + j < ccPorts s c then some (8 * a + j) else none)
  let sum := (ports.map (fun p => ((capWords u l p b).map cxPower).sum)).sum
  f32Of (.fin false sum (12 * ports.length * 2 ^ 24))

/-- A sample updates its cell (R373). -/
def nfUpdate (k n : Nat) (cell : NfCell) (x : Word) : NfCell :=
  if cell.count < 2 ^ k then
    let m := min 65535 (cell.count + 1)
    { p := f32Add cell.p (f32Div (f32Sub x cell.p) (f32Int m)), count := m, last := n }
  else { cell with p := f32Add cell.p (f32Mul (f32Sub x cell.p) (f32Of (.fin false 1 (2 ^ k)))), last := n }

/-- Cells that have had no sample for nf_stale ms before slot n return to count 0 (R373). -/
def nfStale (s : State) (c n : Nat) : State :=
  let st := getF s (Reg.RXM_CC_NF c) 13 0 * 2 ^ ccMu s c
  if st = 0 then s
  else
    let old := (getCar s c).nf.filter (fun kv => decide (kv.2.count ≠ 0) && decide (st ≤ n - kv.2.last))
    if old.isEmpty then s
    else incR (modCar s c (fun x => { x with nf := x.nf.map (fun kv => if old.contains kv then (kv.1, { kv.2 with count := 0 }) else kv) })) Reg.RXM_NF_RESET old.length

/-- Whether a symbol holds a RE filled with zeros (02 R52). -/
def symFilled (u : UlSlot) (l : Nat) : Bool := u.filled.any (fun kv => decide (kv.1 % 16 = l) && decide (kv.2 ≠ 0))

/-- Whether a slot's samples are settled: its request is judged, and its uplink symbols are ingested. A slot whose request came late
or not at all gives none (R54). -/
def nfReady (s : State) (c n : Nat) : Bool :=
  let u := getUl s c n
  (ulSyms s c n).isEmpty || match u.cls with
  | .open => false
  | .onTime => (ulSyms s c n).all u.closed.contains
  | _ => true

/-- Apply a slot's samples in ascending symbol, PRB and antenna-group order. -/
def nfApply (s : State) (c n : Nat) : State :=
  let s := nfStale s c n
  let u := getUl s c n
  match u.cls, u.req with
  | .onTime, some r =>
    let syms := (ulSyms s c n).filter (fun l => !symFilled u l)
    let prbs := (List.range (ccPrb s c)).filter (fun b => !reqUses r b)
    let k := getF s (Reg.RXM_CC_NF c) 29 26
    let na := nfAnts s c
    let at' := syms.flatMap (fun l => prbs.flatMap (fun b => (List.range na).map (fun a => (l, b, a))))
    let s := forEach at' s (fun x s =>
      modCar s c (fun car =>
        let i := x.2.1 / nfGrp s c * na + x.2.2
        { car with nf := mapPut car.nf i (nfUpdate k n (mapGet ⟨0#32, 0, 0⟩ car.nf i) (nfSample s c u x.1 x.2.1 x.2.2)) }))
    incR s Reg.RXM_NF_SAMPLES at'.length
  | _, _ => s

/-- Publish the snapshot of slot n (R374). -/
def nfPublish (s : State) (c n : Nat) : State :=
  let m := slotNum s c n
  let a := getN64 s Reg.RXM_NF_BASE_LO Reg.RXM_NF_BASE_HI + (8 * c + m % 8) * 8192
  let cells := nfGroups s c * nfAnts s c
  let s := setLe (setLe (zeroRange s a 8192) a 4 m) (a + 4) 2 cells
  let nf := (getCar s c).nf
  forEach (List.range cells) s (fun i s =>
    let x : NfCell := mapGet ⟨0#32, 0, 0⟩ nf i
    let ok := decide (8 ≤ x.count)
    let s := setLe s (a + 64 + 8 * i) 4 (if ok then x.p.toNat else getN s (Reg.RXM_CC_NF_DEF c))
    setLe (setLe s (a + 68 + 8 * i) 2 x.count) (a + 70 + 8 * i) 1 ok.toNat)

/-- NF_SNAPSHOT (R374): during slot n − 1 the table, with every slot up to n − 2 (n − 8 at numerology 3) applied, is published
for slot n. It waits until those slots are settled, so that no arrival time shows in it (R356). -/
def execNfSnapshot (c : CarrierId) (n : Nat) (s : State) : Host.Outcome State Fault Refusal :=
  let back := if ccMu s c.val = 3 then 8 else 2
  if ccValid s c.val && decide (8 ≤ n) && decide (slotStart s c.val (n - 1) ≤ nowGrid s) && decide (nowGrid s < slotStart s c.val n) then
    let todo := ((getCar s c.val).ul.map (·.1)).filter (fun m => decide ((getCar s c.val).nfNext ≤ m ∧ m ≤ n - back))
    if !todo.all (nfReady s c.val) then .next s
    else
    let s := forEach todo s (fun m s => nfApply s c.val m)
    let s := nfStale s c.val (n - back)
    .next (nfPublish (modCar s c.val (fun x => { x with nfNext := max x.nfNext (n - back + 1) })) c.val n)
  else .next s

end Sys2Proof.Machine
end

