-- ==== Sys2Proof/Machine/UeHooks.lean ====
section
/-!
DEFINITION. UeHooks.lean: what a tile's reads of UE contexts and writes of LLR buffers mean to the slot's PDUs (02 R55, R69;
09 R312, R317; 10 R349, R352).
-/
namespace Sys2Proof.Machine

open Sys2Proof

/-! ### The UE a byte belongs to -/

/-- The UE index and the offset of a byte of a core or, from 0x80 on, of an extension, by its physical address. -/
def ueByte (s : State) (a : Nat) : Option (Nat × Nat) :=
  let e := getN64 s Reg.CTX_EXT_BASE_LO Reg.CTX_EXT_BASE_HI
  if ctxCoreBase ≤ a ∧ a < ctxCoreBase + 65536 * 128 then some ((a - ctxCoreBase) / 128, (a - ctxCoreBase) % 128)
  else if e ≤ a ∧ a < e + 65536 * 0x180 then some ((a - e) / 0x180, 128 + (a - e) % 0x180)
  else none

/-- The PDUs of all slots with their places. -/
def allPdus (s : State) : List (Nat × Nat × Nat × UlPdu) :=
  s.carriers.flatMap (fun kv => kv.2.ul.flatMap (fun u => u.2.pdus.zipIdx.map (fun p => (kv.1, u.1, p.2, p.1))))

/-- The predictions of all slots with their places. -/
def allPreds (s : State) : List (Nat × Nat × Nat × Pred) :=
  s.carriers.flatMap (fun kv => kv.2.ul.flatMap (fun u => u.2.preds.zipIdx.map (fun q => (kv.1, u.1, q.2, q.1))))

def predRnti (q : Pred) : Nat := leNat (q.alloc.take 2)

def modPred (s : State) (c n j : Nat) (f : Pred → Pred) : State := modUl s c n (fun u => { u with preds := u.preds.modify j f })

/-! ### The hub's tables (09 R307 classes 0x09 to 0x0B) -/

/-- An uncorrectable word of UE core u: its state is invalid, and its recurrent state and extension are zeroed. -/
def ueLost (s : State) (u : Nat) : State := zeroRange (uSet s u 3 1 (uGet s u 3 1 &&& 0xFD)) (extAt s u) 0x180

/-- An uncorrectable word of HARQ descriptor h: it and its pages are released, and a TB in flight on it is reported with reason 2. -/
def harqLost (s : State) (h : Nat) : State :=
  let hit := (allPdus s).filter (fun p => p.2.2.2.live && decide (p.2.2.2.desc = some h))
  let s := forEach hit (harqRelease s h) (fun p s => modPdu s p.1 p.2.1 p.2.2.1 (fun q => { decide' q false 2 with desc := none }))
  forEach (hit.map (fun p => (p.1, p.2.1))).dedup s (fun cn s => sendReady s cn.1 cn.2)

/-- The effects on the error state of reading n bytes of the hub's tables: a corrected word is rewritten, an uncorrectable one loses
what it belongs to and is contained. The word's other fields keep their bits (DESIGN CHOICE, log 105). -/
def tableRead (s : State) (a n : Nat) : State :=
  if s.ecc.single.isEmpty && s.ecc.bad.isEmpty then s
  else
    let ws := (wordsOf a n).filter tableWord
    let one := ws.filter s.ecc.single.contains
    let bad := ws.filter s.ecc.bad.contains
    let s := { s with ecc := { s.ecc with single := s.ecc.single.filter (fun w => !one.contains w), bad := s.ecc.bad.filter (fun w => !bad.contains w) } }
    let s := forEach one s (fun _ s => countError s 0x09)
    forEach bad s (fun w s =>
      let core := decide (8 * w < harqBase)
      let s := logError s { ErrRec.of (if core then 0x0A else 0x0B) with action := 5, source := 2, addr := 8 * w, detail := w % 8 }
      if core then ueLost s ((8 * w - ctxCoreBase) / 128) else harqLost s ((8 * w - harqBase) / 32))

/-! ### Reads (R55, R312, R317) -/

/-- The replayed PDU, its journalled state read before, that context x works on for UE u. -/
def replayOf (s : State) (x u : Nat) : Option UlPdu :=
  ((allPdus s).find? (fun p => decide (p.2.2.2.replayIn = some x) && decide (p.2.2.2.ue = some u) && !p.2.2.2.stage4 &&
    !p.2.2.2.jnlState.isEmpty)).map (·.2.2.2)

/-- Bytes as a context reads them: a replay finds the recurrent state and its flag as the journal holds them. -/
def ueView (s : State) (x a : Nat) (bs : List Byte) : List Byte :=
  if (allPdus s).any (fun p => decide (p.2.2.2.replayIn = some x)) then
    bs.zipIdx.map (fun b =>
      match ueByte s (a + b.2) with
      | some (u, o) =>
        match replayOf s x u with
        | some p => if o = 3 then setBit b.1 1 p.jnlValid else if 128 ≤ o ∧ o < 384 then nth b.1 p.jnlState (o - 128) else b.1
        | none => b.1
      | none => b.1)
  else bs

/-- A context's first read of UE u for a PDU: the PDU enters stage 3 with the version it read, and the journal keeps the
recurrent state and its flag as read, once. -/
def ueStage3 (s : State) (x u : Nat) : State :=
  match (allPdus s).find? (fun p => decide (p.2.2.2.runsIn = some x) && decide (p.2.2.2.ue = some u) && p.2.2.2.decided.isNone && !p.2.2.2.stage3) with
  | some (c, n, k, p) =>
    if p.jnlState.isEmpty then
      modPdu s c n k (fun p => { p with stage3 := true, version := ueVersion s u, jnlVersion := ueVersion s u,
                                        jnlState := getBytes s (extAt s u) 256, jnlValid := ueFlag s u 1 })
    else modPdu s c n k (fun p => { p with stage3 := true })
  | none =>
    match (allPreds s).find? (fun q => decide (q.2.2.2.ctx = some x) && !q.2.2.2.dropped && q.2.2.2.version.isNone &&
        decide (ueFind s q.1 (predRnti q.2.2.2) = some u)) with
    | some (c, n, j, _) => modPred s c n j (fun q => { q with version := some (ueVersion s u) })
    | none => s

/-- What a read of n bytes at a physical address by context x does: the checks of the hub's tables, stage 3 of its PDUs, and each read
of a state that is not valid counted (10 R352). -/
def noteRead (s : State) (x a n : Nat) : State :=
  let s := tableRead s a n
  let hits := ((List.range n).filterMap (fun i => ueByte s (a + i))).filter (fun y => decide (y.2 = 3) || decide (128 ≤ y.2 ∧ y.2 < 384))
  let ues := (hits.map (·.1)).dedup
  let cold := (hits.filter (fun y => decide (y.2 = 3) && !((replayOf s x y.1).map (·.jnlValid)).getD (ueFlag s y.1 1))).length
  let s := forEach ues s (fun u s => ueStage3 s x u)
  if cold = 0 then s else incR s Reg.CTX_COLD_READ cold

/-! ### Writes of LLR buffers (R55, R57) -/

/-- Add a range to rising, disjoint ranges. -/
def addRange (l : List (Nat × Nat)) (lo hi : Nat) : List (Nat × Nat) :=
  let touch := l.filter (fun x => decide (x.1 ≤ hi) && decide (lo ≤ x.2))
  let lo := touch.foldl (fun m x => min m x.1) lo
  let hi := touch.foldl (fun m x => max m x.2) hi
  l.filter (fun x => decide (x.2 < lo)) ++ (lo, hi) :: l.filter (fun x => decide (hi < x.1))

/-- Whether ranges hold all of lo to hi − 1. -/
def coversRange (l : List (Nat × Nat)) (lo hi : Nat) : Bool := decide (hi ≤ lo) || l.any (fun x => decide (x.1 ≤ lo) && decide (hi ≤ x.2))

/-- Every LLR of the buffer is written. -/
def llrDone (alloc : List Byte) (w : List (Nat × Nat)) : Bool := coversRange w 64 (64 + llrCount alloc)

/-- The offset in work j's LLR buffer of a physical address, in its primary or its shadow pages. -/
def llrOffset (s : State) (shadow : Bool) (c n j : Nat) (alloc : List Byte) (a : Nat) : Option Nat :=
  ((List.range (llrPages alloc)).find? (fun i =>
    let pr := llrPair s c n j + i
    if shadow then decide (pairShadow s pr = some (a / 65536 * 65536)) else (mapFind s.pairs pr).isSome && decide (pairPrimary s pr = a / 65536 * 65536))).map
    (fun i => i * 65536 + a % 65536)

/-- The moment R55 fixes: the pending recurrent state becomes the UE's, unless the PDU's replay finds a newer version, and with
it the frequency reference (11 R370). -/
def commitState (s : State) (c n : Nat) (p : UlPdu) : State :=
  match p.ue with
  | none => s
  | some u =>
    if 0 < p.replays ∧ ueVersion s u ≠ p.jnlVersion then s
    else
      let s := setBytes s (extAt s u) (getBytes s (pendPage s c n p.work) 256)
      let s := uSet s u 3 1 (uGet s u 3 1 ||| 2)
      let s := uSet s u 4 2 ((ueVersion s u + 1) % 65536)
      match p.fo with
      | none => s
      | some f =>
        let s := refWrite s u (slotNum s c n) f.sym f.cells
        if f.flags.testBit 0 then uSet (uSet s u 14 2 (freqCode f.fo)) u 3 1 (uGet s u 3 1 ||| 8) else s

def pduAt (s : State) (c n k : Nat) : Option UlPdu := (getUl s c n).pdus[k]?

/-- Whether an earlier PDU of the slot for the same UE may still write its state. -/
def earlierWrites (s : State) (c n k : Nat) (p : UlPdu) : Bool :=
  ((getUl s c n).pdus.take k).any (fun q => decide (q.ue = p.ue) && (q.commitDue || (q.decided.isNone && !q.stage4)))

/-- The state writes of a slot that are due and may take place, in PDU order: one waits for earlier PDUs of its UE (11 Table 11.6), and
a replay's waits for the end of the cycle, where a later PDU of the UE goes first (09 Table 09.4). -/
def commitsDue (s : State) (c n : Nat) (cycleEnd : Bool) : State :=
  forEach (List.range (getUl s c n).pdus.length) s (fun k s =>
    match pduAt s c n k with
    | some p =>
      if p.commitDue && (cycleEnd || decide (p.replays = 0)) && !earlierWrites s c n k p then
        commitState (modPdu s c n k (fun p => { p with commitDue := false })) c n p
      else s
    | none => s)

/-- A PUSCH PDU that carries only UCI is complete once its LLRs and its UCI are. -/
def settleUciOnly (s : State) (c n k : Nat) : State :=
  match pduAt s c n k with
  | some p => if !p.pdu.ulsch && p.live && p.stage4 && p.uciOut.all (·.isSome) then modPdu s c n k (fun p => decide' p true 0) else s
  | none => s

/-- The UCI parts of a PDU whose LLRs have become complete join the decoder's queue (10 R346). -/
def queueUci (s : State) (c n k : Nat) : State :=
  match (getUl s c n).pdus[k]? with
  | some p =>
    if h : c < 32 then
      forEach (List.range p.pdu.uci.length) s (fun i s =>
        let r : UciRef := { carrier := ⟨c, h⟩, slot := n, kind := 1, pdu := k, part := i }
        if decide (nth none p.uciOut i = none) && !s.coding.uciQ.contains r && coversRange p.wrote 0 1 &&
            (uciPositions p.pdu i).all (fun q => coversRange p.wrote (64 + q) (65 + q)) then
          { s with coding := { s.coding with uciQ := s.coding.uciQ ++ [r] } }
        else s)
    else s
  | none => s

/-- The part of a buffer at b of m bytes that n bytes at a cover. -/
def overlap (b m a n : Nat) : Option (Nat × Nat) :=
  let lo := max a b
  let hi := min (a + n) (b + m)
  if lo < hi then some (lo - b, hi - b) else none

/-- The LLR buffer of PUCCH PDU k of formats 2 to 4 (10 R346), and its LLRs. -/
def pucchLlrAt (s : State) (c n k : Nat) : Nat := named s 12 c n k % 2 ^ 48
def pucchLlrs (s : State) (c n k : Nat) : Nat := named s 14 c n k % 2 ^ 16

/-- Note a write in the buffers of a control PDU: k counts PUCCH PDUs, and SRS PDUs from 128 on. -/
def ctlNote (s : State) (c n k a m : Nat) (pucch : Bool) (x : CtlRes) : CtlRes :=
  if x.done then x
  else
    let x := match overlap (resultAt s c n k) (resultLen s c n k) a m with
      | some r => { x with wrote := addRange x.wrote r.1 r.2 }
      | none => x
    if !pucch then x
    else match overlap (pucchLlrAt s c n k) (64 + pucchLlrs s c n k) a m with
      | some r => { x with llr := addRange x.llr r.1 r.2 }
      | none => x

/-- A PUCCH PDU of formats 2 to 4 whose LLRs have become complete joins the decoder's queue (10 R346). -/
def queuePucch (s : State) (c n k : Nat) (p : PucchPdu) : State :=
  match (getUl s c n).pucch[k]? with
  | some x =>
    if h : c < 32 then
      let r : UciRef := { carrier := ⟨c, h⟩, slot := n, kind := 0, pdu := k, part := 0 }
      if decide (2 ≤ p.format) && !x.done && decide (x.uci = none) && !s.coding.uciQ.contains r && coversRange x.llr 0 (64 + pucchLlrs s c n k) then
        { s with coding := { s.coding with uciQ := s.coding.uciQ ++ [r] } }
      else s
    else s
  | none => s

/-- What a write means to the control PDUs of accepted slots. -/
def noteCtl (s : State) (a m : Nat) : State :=
  forEach (s.carriers.flatMap (fun kv => (kv.2.ul.filter (fun u => decide (u.2.cls = .onTime) && !u.2.expired)).map (fun u => (kv.1, u.1)))) s (fun cn s =>
    let (c, n) := cn
    let u := getUl s c n
    if u.pucch.all (·.done) && u.srs.all (·.done) then s
    else
      let s := modUl s c n (fun u => { u with
        pucch := u.pucch.zipIdx.map (fun x => ctlNote s c n x.2 a m true x.1)
        srs := u.srs.zipIdx.map (fun x => ctlNote s c n (128 + x.2) a m false x.1) })
      forEach (((u.req.map (·.pucch)).getD []).zipIdx) s (fun p s => queuePucch s c n p.2 p.1))

/-- A write of n bytes within one 64 KiB page at a physical address: the buffers it fills. -/
def noteWrite (s : State) (a n : Nat) : State :=
  if n = 0 then s
  else
    let s := noteCtl s a n
    let s := forEach ((allPdus s).filter (fun p => p.2.2.2.decided.isNone && !p.2.2.2.stage4 && !(getUl s p.1 p.2.1).expired)) s (fun x s =>
      let (c, n', k, p) := x
      match llrOffset s false c n' p.work p.pdu.alloc a with
      | none => s
      | some o =>
        let w := addRange p.wrote o (o + n)
        let done := llrDone p.pdu.alloc w
        let s := queueUci (modPdu s c n' k (fun p => { p with wrote := w, stage4 := done, commitDue := done })) c n' k
        if done then
          let s := settleUciOnly (commitsDue s c n' false) c n' k
          if p.pdu.ulsch then s else sendReady s c n'
        else s)
    forEach ((allPreds s).filter (fun q => !q.2.2.2.matched && !q.2.2.2.dropped && !q.2.2.2.stage4)) s (fun x s =>
      let (c, n', j, q) := x
      match llrOffset s true c n' j q.alloc a with
      | none => s
      | some o =>
        let w := addRange q.wrote o (o + n)
        modPred s c n' j (fun q => { q with wrote := w, stage4 := llrDone q.alloc w }))

/-! ### Shadow pages refused (02 R72) -/

/-- A refused shadow page ends the speculation of the prediction whose buffer it is for. -/
def shadowRefused (s : State) (x pair : Nat) : State :=
  match (allPreds s).find? (fun q =>
      decide (q.2.2.2.ctx = some x) && !q.2.2.2.matched && !q.2.2.2.dropped &&
      (decide (llrPair s q.1 q.2.1 q.2.2.1 ≤ pair ∧ pair < llrPair s q.1 q.2.1 q.2.2.1 + llrPages q.2.2.2.alloc) ||
       decide (pendPair s q.1 q.2.1 q.2.2.1 = pair))) with
  | some (c, n, j, _) => modPred s c n j (fun q => { q with dropped := true, refused := true })
  | none => s

end Sys2Proof.Machine
end

