-- ==== Sys2Proof/Machine/Coding.lean ====
section
/-!
DEFINITION. Coding.lean: the coding blocks of the hub (10): combining into soft buffers, the LDPC slices and encoder, the polar
and Reed–Muller decoder, and the releases of descriptors and UE entries.
-/
namespace Sys2Proof.Machine

open Sys2Proof

def puschSeg (p : PuschPdu) : Seg := Seg.of p.tbBytes p.bg2 p.lbrm
def puschQm (p : PuschPdu) : Nat := puschField p 8 1
def puschLayers (p : PuschPdu) : Nat := puschField p 10 1

/-! ### The front end (R328, R329) -/

/-- llr_exp of a PDU's buffer. -/
def llrExp (s : State) (c n : Nat) (p : UlPdu) : Int := signed 8 (getByte s (llrAddr s c n p.work 0)).toNat

/-- LLR i of a PDU, as written. -/
def llrRaw (s : State) (c n : Nat) (p : UlPdu) (i : Nat) : Int := signed 8 (getByte s (llrAddr s c n p.work (64 + i))).toNat

/-- The scrambling bits of a PDU. -/
def puschGold (p : UlPdu) : Array Bool := (gold (puschRnti p.pdu * 2 ^ 15 + p.pdu.scrId) (llrCount p.pdu.alloc)).toArray

/-- The buffer positions of a code block's LLRs, in order. -/
def cbPositions (p : PuschPdu) (cb : Nat) : List Nat :=
  let pos := ulschPositions p
  let e := fun r => rateE pos.length (puschLayers p) (puschQm p) (puschSeg p).c r
  (pos.drop ((List.range cb).map e).sum).take (e cb)

/-- Whether every LLR of a code block, and the header, is written (02 R57). -/
def cbWritten (p : UlPdu) (cb : Nat) : Bool :=
  coversRange p.wrote 0 1 && (cbPositions p.pdu cb).all (fun q => coversRange p.wrote (64 + q) (65 + q))

/-! ### Combining (R330) -/

/-- The soft value bytes of code block cb in a descriptor's chain. -/
def softRead (s : State) (h cb : Nat) (g : Seg) : List Int :=
  (List.range g.ncb).map (fun j => signed 8 (getByte s (chainAddr s h (cb * ((g.ncb + 63) / 64 * 64) + j))).toNat)

def softWrite (s : State) (h cb : Nat) (g : Seg) (l : List Int) : State :=
  let base := cb * ((g.ncb + 63) / 64 * 64)
  forEach l.zipIdx s (fun x s => setBytes s (chainAddr s h (base + x.2)) [BitVec.ofInt 8 x.1])

/-- The place of a code block in the plan's release list (02 R57): carriers by the plan, then slots, PDUs and code blocks. -/
def releaseBefore (s : State) (a b : CbRef) : Bool :=
  let key := fun (x : CbRef) => (named s 5 x.carrier.val 0 0, x.carrier.val, x.slot, x.pdu, x.cb)
  let x := key a
  let y := key b
  decide (x.1 < y.1 ∨ (x.1 = y.1 ∧ (x.2.1 < y.2.1 ∨ (x.2.1 = y.2.1 ∧ (x.2.2.1 < y.2.2.1 ∨ (x.2.2.1 = y.2.2.1 ∧
    (x.2.2.2.1 < y.2.2.2.1 ∨ (x.2.2.2.1 = y.2.2.2.1 ∧ x.2.2.2.2 < y.2.2.2.2))))))))

def insertRelease (s : State) (x : CbRef) : List CbRef → List CbRef
  | [] => [x]
  | y :: rest => if releaseBefore s x y then x :: y :: rest else y :: insertRelease s x rest

def modCb (s : State) (c n k cb : Nat) (f : CbState → CbState) : State := modPdu s c n k (fun p => { p with cbs := p.cbs.modify cb f })

/-- Note a transmission in its descriptor at its first combined code block (Table 10.1). -/
def noteTx (s : State) (c n h rv : Nat) : State :=
  let s := hSet s h 9 1 (min 255 (hGet s h 9 1 + 1))
  let s := hSet s h 14 1 (hGet s h 14 1 * 4 % 256 + rv % 4)
  hSet s h 20 4 (slotNum s c n)

/-- Combine a code block into its descriptor's chain. -/
def combineHeld (s : State) (c n : Nat) (p : UlPdu) (h cb : Nat) (new : Array Int) (e : Int) (pos : List Nat) : State :=
  let g := puschSeg p.pdu
  let npad := (g.ncb + 63) / 64 * 64
  let old := mapFind s.coding.cbExp (256 * h + cb)
  let r := match (if p.fresh then none else old) with
    | some sb => combine (softRead s h cb g) sb new e
    | none => combine (List.replicate g.ncb 0) e new e
  let s := harqPages 8192 s h ((cb * npad + g.ncb - 1) / 65536 + 1)
  let s := softWrite s h cb g r.1
  let s := { s with coding := { s.coding with cbExp := mapPut s.coding.cbExp (256 * h + cb) r.2.1 } }
  let s := hSet s h 15 1 (wrapN 8 r.2.1)
  let s := hSet s h 16 1 (max (if p.fresh && !p.combinedAny then 0 else hGet s h 16 1) (reachedCol g p.pdu.bg2 pos))
  let s := if p.combinedAny then s else noteTx s c n h p.pdu.rv
  if r.2.2 = 0 then s else flag (incR s Reg.LDC_COMB_CLIP r.2.2) Reg.LDC_FLAGS 2

/-- Combine a code block (R330) and release it to the slices (02 R57). -/
def combineCb (s : State) (r : CbRef) (p : UlPdu) : State :=
  let c := r.carrier.val
  let g := puschSeg p.pdu
  let gs := puschGold p
  let from' := cbPositions p.pdu r.cb
  let gone := punctured p.pdu
  let raw := from'.map (fun q => let x := llrRaw s c r.slot p q; if gone.contains q then 0 else if gs.getD q false then -x else x)
  let l := deinterleave (puschQm p.pdu) raw
  let pos := selected g p.pdu.bg2 p.pdu.rv l.length
  let new := gather g.ncb pos l
  let e := llrExp s c r.slot p
  let s := match p.desc with
    | some h => combineHeld s c r.slot p h r.cb new e pos
    | none =>
      let x := combine (List.replicate g.ncb 0) e new e
      let s := modCb s c r.slot r.pdu r.cb (fun b => { b with soft := x.1, softExp := x.2.1 })
      if x.2.2 = 0 then s else flag (incR s Reg.LDC_COMB_CLIP x.2.2) Reg.LDC_FLAGS 2
  let s := modPdu s c r.slot r.pdu (fun p => { p with combinedAny := true })
  let s := modCb s c r.slot r.pdu r.cb (fun b => { b with stage := .released })
  let whole := ((pduAt s c r.slot r.pdu).map (fun p => p.cbs.all (fun b => decide (b.stage ≠ .waiting)))).getD false
  { s with coding := { s.coding with
      release := insertRelease s r s.coding.release
      prefetch := if whole then s.coding.prefetch.filter (fun x => decide (some x.1 ≠ p.desc)) else s.coding.prefetch } }

/-- LDPC_COMBINE: once all LLRs of a code block are written, unless it has been combined (02 R57, 09 R317). -/
def execLdpcCombine (r : CbRef) (s : State) : Host.Outcome State Fault Refusal :=
  match pduAt s r.carrier.val r.slot r.pdu with
  | some p =>
    if p.live && p.pdu.ulsch && decide ((p.cbs[r.cb]?.map (·.stage)) = some .waiting) && cbWritten p r.cb then
      let s := match p.desc with
        | some h => tableRead s (harqAt h) 32
        | none => s
      match pduAt s r.carrier.val r.slot r.pdu with
      | some p => if p.live then .next (combineCb s r p) else .next s
      | none => .next s
    else .next s
  | none => .next s

/-! ### Decoding (R340 to R344) -/

/-- Whether the earlier code blocks of a code block's TB have all gone to a slice (02 R57). -/
def cbTurn (s : State) (r : CbRef) : Bool :=
  ((pduAt s r.carrier.val r.slot r.pdu).map (fun p => (p.cbs.take r.cb).all (fun b => decide (b.stage = .decoding ∨ b.stage = .decoded)))).getD true

/-- LDPC_DECODE_START (R344): the first released code block whose turn it is in its TB goes to the lowest-numbered idle slice. -/
def execLdpcDecodeStart (s : State) : Host.Outcome State Fault Refusal :=
  match s.coding.release.find? (cbTurn s), (List.range 4).find? (fun k => (nth none s.coding.slices k).isNone && s.power.hubOn.testBit (8 + k)) with
  | some r, some k =>
    let s := modCb s r.carrier.val r.slot r.pdu r.cb (fun b => { b with stage := .decoding })
    .next { s with coding := { s.coding with release := s.coding.release.erase r, slices := s.coding.slices.set k (some r) } }
  | _, _ => .next s

/-- The weight set of a carrier (R341). -/
def weightSet (s : State) (c : Nat) : List Byte :=
  let k := getF s (Reg.LDC_CC_CFG c) 11 8
  ((s.plan.bind (fun p => p.wsets.find? (fun w => decide ((nth 0#8 w 0).toNat = k)))).getD [])

/-- Whether a decoded TB's CRC passes (R343). -/
def tbPasses (p : UlPdu) : Bool :=
  let all := p.cbs.flatMap (fun b => if p.cbs.length = 1 then b.bits else b.bits.take (b.bits.length - 24))
  if tbCrcBits p.pdu.tbBytes = 24 then decide (crc24a all = 0) else decide (crc16 all = 0)

/-- The TB is decided once its last code block is decoded (R343). -/
def settleTb (s : State) (c n k : Nat) : State :=
  match pduAt s c n k with
  | none => s
  | some p =>
    if p.live && p.cbs.all (fun b => decide (b.stage = .decoded)) then
      let pass := tbPasses p
      let s := flag (incR s (if pass then Reg.LDC_TB_PASS else Reg.LDC_TB_FAIL) 1) Reg.LDC_FLAGS 0
      let s := modPdu s c n k (fun p => decide' { p with cbs := if p.cbs.length = 1 then p.cbs.map (fun b => { b with crcOk := pass }) else p.cbs } pass 0)
      sendReady s c n
    else s

/-- What a code block decodes from: its soft values and n_col. -/
def cbSoft (s : State) (p : UlPdu) (cb : Nat) : List Int × Nat :=
  match p.desc with
  | some h => (softRead s h cb (puschSeg p.pdu), hGet s h 16 1)
  | none =>
    let e := (cbPositions p.pdu cb).length
    (((p.cbs[cb]?).map (·.soft)).getD [], reachedCol (puschSeg p.pdu) p.pdu.bg2 (selected (puschSeg p.pdu) p.pdu.bg2 p.pdu.rv e))

/-- LDPC_CB_DECODED (R342, R343): slice k finishes its code block. -/
def execLdpcCbDecoded (k : Fin 4) (s : State) : Host.Outcome State Fault Refusal :=
  match nth none s.coding.slices k.val with
  | none => .next s
  | some r =>
    let c := r.carrier.val
    let s := { s with coding := { s.coding with slices := s.coding.slices.set k.val none } }
    match pduAt s c r.slot r.pdu with
    | none => .next s
    | some p =>
      let x := cbSoft s p r.cb
      let d := ldpcDecode (puschSeg p.pdu) p.pdu.bg2 x.2 (weightSet s c) x.1
      let s := incR (incR s Reg.LDC_CB_CNT 1) Reg.LDC_ITER_SUM d.2.1
      let s := if d.2.2 then s else flag (incR s Reg.LDC_CB_MAXITER 1) Reg.LDC_FLAGS 1
      let ok := decide (p.cbs.length = 1) || decide (crc24b d.1 = 0)
      let s := if ok then s else flag s Reg.LDC_FLAGS 3
      .next (settleTb (modCb s c r.slot r.pdu r.cb (fun b => { b with stage := .decoded, bits := d.1, crcOk := ok })) c r.slot r.pdu)

/-! ### Encoding (R345) -/

/-- A codeword that waits for the encoder: its PDU and payload. -/
def cwWaiting (s : State) (c n k w : Nat) : Option (PdschPdu × TxPdu) :=
  let d := getDl s c n
  match d.tti.bind (fun r => r.pdsch[k]?), d.data with
  | some p, some x =>
    if w < p.codewords ∧ !d.encoded.contains (k, w) ∧ !d.lateTti ∧ !d.lateData then
      (x.pdus.find? (fun y => decide (y.pduIndex = p.pduIndex ∧ y.cw = w))).map (fun y => (p, y))
    else none
  | _, _ => none

/-- The plan's order of codewords: its downlink release list (DESIGN CHOICE, log 16), then carrier, slot, PDU, codeword. -/
def encodeKey (s : State) (c n k w : Nat) : Nat := (((named s 6 c 0 0 % 2 ^ 16 * 64 + c) * 2 ^ 64 + n) * 256 + k) * 4 + w

/-- Whether a codeword is the next in that order. -/
def encodeNext (s : State) (c n k w : Nat) : Bool :=
  s.carriers.all (fun kv => kv.2.dl.all (fun d =>
    (((d.2.tti.map (·.pdsch)).getD []).zipIdx).all (fun p => (List.range p.1.codewords).all (fun v =>
      (cwWaiting s kv.1 d.1 p.2 v).isNone || decide (encodeKey s c n k w ≤ encodeKey s kv.1 d.1 p.2 v)))))

/-- The layers a codeword is mapped to (TS 38.211 clause 7.3.1.3). -/
def cwLayers (p : PdschPdu) (w : Nat) : Nat := if p.codewords ≤ 1 then p.layers else if w = 0 then p.layers / 2 else (p.layers + 1) / 2

/-- LDPC_ENCODE: the next codeword's rate-matched bits go, most significant first, to the buffer the plan names. -/
def execLdpcEncode (r : CwRef) (s : State) : Host.Outcome State Fault Refusal :=
  let c := r.carrier.val
  match cwWaiting s c r.slot r.pdu r.cw with
  | none => .next s
  | some (p, x) =>
    if !encodeNext s c r.slot r.pdu r.cw then .next s
    else
      let bits := encodeTb x.payload p.bg2 p.lbrm (nth 0 p.rv r.cw) (nth 0 p.codedBits r.cw) (cwLayers p r.cw) (nth 0 p.qm r.cw)
      let s := setBytes s (cwBuf s c r.slot r.pdu r.cw) (packBits bits)
      .next (incR (modDl s c r.slot (fun d => { d with encoded := d.encoded ++ [(r.pdu, r.cw)] })) Reg.LDC_ENC_TB 1)

/-! ### UCI (R346 to R348) -/

/-- Used LLRs of a short code on PUSCH: placeholders carry no bit of their own, and a repeated bit takes the scrambling of the
bit it repeats (TS 38.211 clause 6.3.1.1). -/
def shortLlrs (s : State) (c n : Nat) (p : UlPdu) (a : Nat) (pos : List Nat) : List Int :=
  let gs := puschGold p
  let qm := max 1 (puschQm p.pdu)
  let des := fun (q cq : Nat) => let x := llrRaw s c n p q; if gs.getD cq false then -x else x
  pos.zipIdx.filterMap (fun x =>
    let j := x.2 % qm
    if qm = 1 ∨ j = 0 ∨ 3 ≤ a then some (des x.1 x.1)
    else if j = 1 then some (des x.1 (if a = 1 then nth 0 pos (x.2 - 1) else x.1))
    else none)

/-- The initial value of a PUCCH's scrambling (TS 38.211 clauses 6.3.2.5.1 and 6.3.2.6.1; PRESUMED, log 104). -/
def pucchInit (rnti scrId : Nat) : Nat := rnti * 2 ^ 15 + scrId

/-- The LLRs and payload size of a UCI codeword. -/
def uciInput (s : State) (r : UciRef) : Option (Nat × List Int) :=
  let c := r.carrier.val
  if r.kind = 1 then
    (pduAt s c r.slot r.pdu).map (fun p =>
      let a := nth 0 p.pdu.uci r.part
      (a, shortLlrs s c r.slot p a (uciPositions p.pdu r.part)))
  else
    ((getUl s c r.slot).req.bind (fun q => q.pucch[r.pdu]?)).map (fun p =>
      let base := pucchLlrAt s c r.slot r.pdu
      let e := pucchLlrs s c r.slot r.pdu
      (p.uciBits, descramble (pucchInit p.rnti p.scrId) ((List.range e).map (fun i => signed 8 (getByte s (base + 64 + i)).toNat))))

/-- Decode a UCI codeword. -/
def uciDecode (s : State) (c a : Nat) (l : List Int) : UciOut :=
  if a ≤ 11 then
    let f := foldLlrs (shortLen a) l
    let b := bestMessage a f
    if Config.dtxMeasure l.length b.2 ((l.map (fun x => x.natAbs ^ 2)).sum) < getF s (Reg.PLC_CC_DTX c) 15 0 then .dtx else .bits (natBits a b.1)
  else match polarUci a l with
    | some x => .bits x
    | none => .fail

/-- Count a decoded codeword. -/
def uciCount (s : State) (a : Nat) (o : UciOut) : State :=
  let s := flag (incR s (if a ≤ 11 then Reg.PLC_RM_CNT else Reg.PLC_POLAR_CNT) 1) Reg.PLC_FLAGS 0
  match o with
  | .dtx => flag (incR s Reg.PLC_DTX 1) Reg.PLC_FLAGS 2
  | .fail => flag (incR s Reg.PLC_CRC_FAIL 1) Reg.PLC_FLAGS 1
  | .bits _ => s

/-- Give a UCI result to its PDU. -/
def uciGive (s : State) (r : UciRef) (o : UciOut) : State :=
  let c := r.carrier.val
  if r.kind = 1 then
    settleUciOnly (modPdu s c r.slot r.pdu (fun p => { p with uciOut := p.uciOut.modify r.part (fun x => some (x.getD o)) })) c r.slot r.pdu
  else modUl s c r.slot (fun u => { u with pucch := u.pucch.modify r.pdu (fun x => if x.done then x else { x with done := x.taken, uci := some o }) })

/-- PLC_DECODE_DONE: the codeword at the head of the queue is decoded. -/
def execPlcDecodeDone (s : State) : Host.Outcome State Fault Refusal :=
  match s.coding.uciQ with
  | [] => .next s
  | r :: rest =>
    if !s.power.hubOn.testBit 12 then .next s
    else
      let s := { s with coding := { s.coding with uciQ := rest } }
      match uciInput s r with
      | none => .next s
      | some (a, l) =>
        let o := uciDecode s r.carrier.val a l
        .next (sendReady (uciGive (uciCount s a o) r o) r.carrier.val r.slot)

/-! ### Expiry and releases (R336, R353) -/

/-- HARQ_EXPIRE (R336): an expired descriptor that no PDU in flight uses is freed in the background. -/
def execHarqExpire (h : Nat) (s : State) : Host.Outcome State Fault Refusal :=
  .next (if harqStale s h then incR (harqRelease s h) Reg.HARQ_EVICT_AGE 1 else s)

/-- A write of CTX_RELEASE (R353). -/
def ctxReleaseWrite (s : State) (v : Word) : State :=
  let s := regWrite s Reg.CTX_RELEASE v
  { s with coding := { s.coding with relPend := s.coding.relPend ++ [(fieldOf v 28 24, fieldOf v 15 0)] } }

/-- CTX_RELEASE. -/
def execCtxRelease (v : Word) (s : State) : Host.Outcome State Fault Refusal := .next (ctxReleaseWrite s v)

/-- A write of HARQ_FLUSH (R353). -/
def harqFlushWrite (s : State) (v : Word) : State :=
  let s := regWrite s Reg.HARQ_FLUSH v
  { s with coding := { s.coding with flushPend := s.coding.flushPend ++ [(fieldOf v 15 0, if bitOf v 31 then none else some (fieldOf v 19 16))] } }

/-- HARQ_FLUSH. -/
def execHarqFlush (v : Word) (s : State) : Host.Outcome State Fault Refusal := .next (harqFlushWrite s v)

/-- Release one descriptor, or all, of a UE. -/
def flushUe (s : State) (u : Nat) (i : Option Nat) : State :=
  forEach ((List.range 16).filter (fun j => i.isNone || decide (i = some j))) s (fun j s =>
    let m := harqMap s u j
    if m.testBit 23 then harqRelease s (m % 2 ^ 17) else s)

/-- The releases of a carrier that may take place at its slot boundary: a UE whose PDUs are in flight waits. -/
def releasesDue (s : State) (c : Nat) : State :=
  let rel := s.coding.relPend.filter (fun x => decide (x.1 = c))
  let s := forEach rel s (fun x s =>
    match ueFind s c x.2 with
    | none => { s with coding := { s.coding with relPend := s.coding.relPend.erase x } }
    | some u => if ueBusy s u then s
      else ueRelease { s with coding := { s.coding with relPend := s.coding.relPend.erase x } } u)
  let fl := s.coding.flushPend.filter (fun x => !ueFlag s x.1 0 || decide (uGet s x.1 2 1 % 32 = c))
  forEach fl s (fun x s =>
    if !ueFlag s x.1 0 then { s with coding := { s.coding with flushPend := s.coding.flushPend.erase x } }
    else if ueBusy s x.1 then s
    else flushUe { s with coding := { s.coding with flushPend := s.coding.flushPend.erase x } } x.1 x.2)

end Sys2Proof.Machine
end

