-- ==== Sys2Proof/Machine/Exposures.lean ====
section
/-!
DEFINITION. Exposures.lean: the commands of the Exposure Plan sequencer and the Shutter (08), each a guard over the shared
operations of Sched.lean. A command whose moment has not come changes nothing (DEDUCED, log 3).
-/
namespace Sys2Proof.Machine

open Sys2Proof

/-- Exposures start only while the device runs (16 R512, 18 R556). -/
def running (s : State) : Bool := decide (s.boot.stage = .ready) && decide (s.boot.quiesce = .none ∨ s.boot.quiesce = .requested)

/-- Contexts of the armed plan (08 R296). -/
def planCtx (s : State) (c : Nat) : Bool := schArmed s && (declOf s c).isSome

/-! ### Cycles -/

/-- Whether the next cycle starts now (R264, R265): every entry of the present cycle that starts before it has had its start
(after a step backwards the rest never comes, R266). -/
def cycleDue (s : State) : Bool :=
  running s && schArmed s && s.sched.armed && decide (s.sched.nextCycle ≤ s.time.dev) &&
  ((s.plan.map (·.parts)).getD []).all (fun q =>
    (q.entries.drop (getP s q.part).nextDue).all (fun e => decide (s.sched.nextCycle ≤ s.sched.cycleStart + e.start * 65536)))

/-- A context whose scrub has completed re-arms: it starts as at its first start, and its last entry stays in view (R294, R296). -/
def rearm (s : State) (c : Nat) : State :=
  if (getC s c).st = .held then setC s c { Ctx.init with lastEntry := (getC s c).lastEntry } else s

/-- Held contexts of partitions with fault_policy 1 re-arm at a cycle start (R294). -/
def rearmHeld (s : State) : State :=
  forEach ((s.plan.map (·.parts)).getD []) s (fun q s =>
    if q.policy = 1 then forEach (partCtxs s q.part) s (fun c s => rearm s c) else s)

/-- A cycle starts. -/
def cycleStart (s : State) : State :=
  let s := { s with sched := { s.sched with cycleStart := s.sched.nextCycle, nextCycle := s.sched.nextCycle + cycleUnits (cycleCode s) } }
  let s := incR s Reg.SCH_CYCLE_CNT 1
  let s := forEach ((s.plan.map (·.parts)).getD []) s (fun q s => modP s q.part (fun p => { p with nextDue := 0, woken := [] }))
  rearmHeld s

/-! ### Entries -/

/-- The planned start of the next instance of an entry, in device time. -/
def plannedStart (s : State) (p i : Nat) (e : PlanEntry) : Nat :=
  (if (getP s p).nextDue ≤ i then s.sched.cycleStart else s.sched.nextCycle) + e.start * 65536

/-- EXPOSURE_WAKE_LEAD (R274): from 2 µs before the planned start, the power-gated tiles of an entry begin to wake. -/
def execExposureWakeLead (p : PartId) (n : Nat) (s : State) : Host.Outcome State Fault Refusal :=
  match entryAt s p.val n with
  | none => .next s
  | some e =>
    let due := running s && schArmed s && decide (plannedStart s p.val n e ≤ s.time.dev + 2 * unitsPerUs)
    if !due || (getP s p.val).woken.contains n then .next s
    else
      let s := modP s p.val (fun q => { q with woken := q.woken ++ [n] })
      .next (forEach ((tilesOf e.tiles).filter (fun t => dieAwake s (dieOf t))) s (fun t s => wakeTile s t))

/-- EXPOSURE_DUE (R270 to R272): the next entry of the cycle reaches its start. -/
def execExposureDue (p : PartId) (n : Nat) (s : State) : Host.Outcome State Fault Refusal :=
  match entryAt s p.val n with
  | none => .next s
  | some e =>
    if running s && schArmed s && decide ((getP s p.val).nextDue = n) && decide (s.sched.cycleStart + e.start * 65536 ≤ s.time.dev) then
      if h : e.ctx < 128 then .next (exposureDue s p.val n e ⟨e.ctx, h⟩) else .next s
    else .next s

/-- EXPOSURE_START (R270, R271, R273): a waiting exposure starts on the tiles that are free for it. -/
def execExposureStart (c : CtxId) (s : State) : Host.Outcome State Fault Refusal :=
  .next (if running s then startExposure s c else s)

/-- EXPOSURE_DEADLINE (R276): the deadline of a context's instance passes before SEQ.END has completed on every tile. -/
def execExposureDeadline (c : CtxId) (s : State) : Host.Outcome State Fault Refusal :=
  match (getC s c.val).inst with
  | none => .next s
  | some i =>
    if !i.missed && (i.deadline.map (fun d => decide (d < s.time.dev))).getD false then
      let s := modC s c.val (fun x => { x with inst := some { i with missed := true } })
      .next (postEvent (incR s (Reg.SCH_P_DEADLINE (ctxPart s c.val)) 1) 7 5 0xFF c.val i.entry)
    else .next s

/-! ### The Shutter -/

/-- SHUTTER_STOP (R282, R283): an accepted request, or one whose deferral has ended, stops its context. -/
def execShutterStop (c : CtxId) (s : State) : Host.Outcome State Fault Refusal := .next (performStop s c.val)

/-- A write of SCH_SHUTTER (R282, R296): reserved bits, a busy interface, a context outside the armed plan. -/
def shutterWrite (v : Word) (s : State) (f : Nat → State → State) : State :=
  let s := if fieldOf v 29 7 = 0 then s else reservedWrite s
  let c := fieldOf v 6 0
  if getB s Reg.SCH_SHUTTER_STATUS 31 then s
  else if !planCtx s c then reservedWrite s
  else f c (setF s Reg.SCH_SHUTTER_STATUS 6 0 c)

/-- SCH_SHUTTER_STOP: a driver's stop; a context already stopped or waiting takes none (Table 08.9). -/
def execSchShutterStop (v : Word) (s : State) : Host.Outcome State Fault Refusal :=
  if fieldOf v 31 30 ≠ 1 then .next s
  else .next (shutterWrite v s (fun c s =>
    let s := shutterRequest s c 1
    if (getC s c).stopReq = some 1 ∨ (getC s c).stopReq = some 2 then setBitR s Reg.SCH_SHUTTER_STATUS 31 true else s))

/-- SCH_SHUTTER_RESUME: a context that the driver stopped rejoins the order of R273. -/
def execSchShutterResume (v : Word) (s : State) : Host.Outcome State Fault Refusal :=
  if fieldOf v 31 30 ≠ 2 then .next s
  else .next (shutterWrite v s (fun c s => modC s c (fun x => { x with driverStop := false })))

/-- NEGATIVE_IN_HBM (R286): the background copy reaches its store slot. -/
def execNegativeInHbm (c : CtxId) (s : State) : Host.Outcome State Fault Refusal := .next (negToHbm s c.val)

/-- RESUME (R290): a stopped exposure whose tiles are free resumes. -/
def execResume (c : CtxId) (s : State) : Host.Outcome State Fault Refusal := .next (if running s then resumeExposure s c else s)

/-! ### Faults, semaphores, barriers, scrubs -/

/-- CONTEXT_FAULT (R292): a unit of a tile that runs the context detects a fault of Table 09.2. -/
def execContextFault (c : CtxId) (t : TileId) (cause : Nat) (s : State) : Host.Outcome State Fault Refusal :=
  if (getT s t.val).run = some c ∧ 1 ≤ cause ∧ cause ≤ 11 then .next (contextFault s c.val (faultRec cause t.val c.val 0)) else .next s

/-- The maximum hold time of a context's semaphore, in ticks. -/
def holdMax (s : State) (c m : Nat) : Option Nat := (declOf s c).bind (fun d => (d.holds.find? (fun h => decide (h.1 = m))).map (fun h => h.2 * 800))

/-- HOLD_EXPIRED (R281): a hold reaches its maximum, counted while its context runs. A release of that cycle applies first: the fault
comes a cycle later (Table 08.9). -/
def execHoldExpired (c : CtxId) (m : Fin 256) (s : State) : Host.Outcome State Fault Refusal :=
  match (getC s c.val).sems.find? (fun x => decide (x.1 = m.val)), holdMax s c.val m.val with
  | some (_, since), some most =>
    if most < runTime s c.val - since then
      .next (contextFault s c.val { faultRec 7 0 c.val 0 with tile := 0xFFFF, source := 2, detail := m.val })
    else .next s
  | _, _ => .next s

/-- SCH_REARM (R294, R296): contexts whose scrub has completed re-arm; a bit of a context outside the armed plan is ignored
and sets reserved_write. -/
def execSchRearm (k : Fin 4) (v : Word) (s : State) : Host.Outcome State Fault Refusal :=
  .next (forEach ((List.range 32).filter (fun j => bitOf v j)) s (fun j s =>
    let c := 32 * k.val + j
    if !planCtx s c then reservedWrite s
    else rearm s c))

/-- A frequency-offset record in a page that has been zeroed is written again for work that is replayed: its estimate stands (02 R54, 09
R317). -/
def foRewrite (s : State) (page : Nat) : State :=
  forEach (allPdus s) s (fun x s =>
    let (c, n, _, p) := x
    match p.fo with
    | some f =>
      if p.replayIn.isSome && p.decided.isNone && decide (pendPage s c n p.work / 0x10000 = page) then foWrite s (pendPage s c n p.work) c n f else s
    | none => s)

/-- A page is zeroed (R293, 07 R254). A foreign-dirty page is released to readers, a page of the shadow pool goes to the clean list,
and a context with nothing left to scrub may re-arm. -/
def scrubPage (s : State) (page : Nat) : State :=
  let pool := s.alloc.dirty.contains (page * 0x10000)
  let s := foRewrite (refillPage (zeroRange s (page * 0x10000) 0x10000) page) page
  let s := { s with foreignDirty := s.foreignDirty.filter (fun p => decide (p ≠ page)), scrubWant := s.scrubWant.filter (fun p => decide (p ≠ page)) }
  let s := if pool then
      { s with alloc := { s.alloc with clean := s.alloc.clean ++ [page * 0x10000], dirty := s.alloc.dirty.filter (fun p => decide (p ≠ page * 0x10000)) } }
    else s
  forEach ((s.ctxs.filter (fun kv => decide (kv.2.st = .scrubbing))).map (·.1)) s (fun c s =>
    modC s c (fun x =>
      let rest := x.scrub.filter (fun p => decide (p ≠ page))
      { x with scrub := rest, st := if rest.isEmpty then .held else .scrubbing }))

/-- A page that can be zeroed: its die is awake, and so is the tile whose bank it is (R293; 15 R475 to R477); a dormant die's scratchpads
are lost already. -/
def pageReady (s : State) (page : Nat) : Bool :=
  match spOf (page * 0x10000) with
  | some (t, _) => !dieAwake s (dieOf t) || decide ((getT s t).power = .awake)
  | none => engineOpen s (page * 0x10000)

/-- FOREIGN_DIRTY_SCRUB (R293): the scrub engine takes a page. One that an access waits for is taken next: any other waits for it
(DESIGN CHOICE, log 102). -/
def execForeignDirtyScrub (page : Nat) (s : State) : Host.Outcome State Fault Refusal :=
  let due := pageReady s page && (s.foreignDirty.contains page || s.alloc.dirty.contains (page * 0x10000)) && (s.scrubWant.isEmpty || s.scrubWant.head? == some page)
  .next (if due then pumpRecv (scrubPage s page) else s)

/-- BARRIER_RELEASE (R277): 30 ns after the last arrival, a barrier of the exposure releases on every tile of the set. -/
def execBarrierRelease (c : CtxId) (b : Nat) (s : State) : Host.Outcome State Fault Refusal :=
  match (getC s c.val).barRel.find? (fun x => decide (x.1 = b)) with
  | some (_, rel) => .next (if isRunning (getC s c.val) && decide (rel ≤ s.now) then barRelease s c.val b rel else s)
  | none => .next s

end Sys2Proof.Machine
end

