-- ==== Sys2Proof/Machine/Uplink.lean ====
section
/-!
DEFINITION. Uplink.lean: uplink fronthaul: the C-plane (02 R51, 12 R393), received U-plane, its capture and its DMRS rings
(02 R50, R52, R53; 06 R216; 09 R313; 12 R389 to R392), and what follows when a symbol is ingested (11 R357).
-/
namespace Sys2Proof.Machine

open Sys2Proof

/-! ### PRACH occasions, as the P5 block configures them (11 R358, log 16). An occasion belongs to the slot that holds its last symbol. -/

def prachOf (s : State) (c kind x : Nat) : Nat := Config.prachCfg (getCar s c).p5 kind x
def prachOccs (s : State) (c n : Nat) : List Nat := List.range (prachOf s c 0 (slotNum s c n) % 64)
def prachReps (s : State) (c o : Nat) : Nat := max 1 (prachOf s c 7 o % 16)

/-- Repetition q of an occasion: the slots before the occasion's own in which it lies, and its symbol there. A long format can span
several slots; its last repetition lies in its own slot. -/
def repAt (s : State) (c o q : Nat) : Nat × Nat :=
  (if prachReps s c o ≤ q + 1 then 0 else prachOf s c (64 + 2 * q) o % 64, prachOf s c (65 + 2 * q) o % 14)

/-- The repetitions of an occasion. -/
def occReps (s : State) (c o : Nat) : List (Nat × Nat) := (List.range (prachReps s c o)).map (repAt s c o)

/-- The symbol that ends an occasion, and the place of its first: slots before its own, and symbol. -/
def occLast (s : State) (c o : Nat) : Nat := (repAt s c o (prachReps s c o - 1)).2
def occFirst (s : State) (c o : Nat) : Nat × Nat := repAt s c o 0
def occPrb (s : State) (c o : Nat) : Nat := prachOf s c 4 o % 273
def occPrbs (s : State) (c o : Nat) : Nat := prachOf s c 5 o % 274

/-- The occasions, with their slots, that have a repetition in a symbol of a slot. -/
def occsAt (s : State) (c n l : Nat) : List (Nat × Nat) :=
  (List.range 64).flatMap (fun d => ((prachOccs s c (n + d)).filter (fun o => (occReps s c o).contains (d, l))).map (fun o => (n + d, o)))

/-! ### Expected sections (02 R53) -/

/-- The bit map of PRBs from a first one on. -/
def prbMask (first count : Nat) : Nat := (2 ^ count - 1) * 2 ^ first

/-- What the device's C-plane requests of a symbol: eAxC entries with their PRBs. -/
def expected (s : State) (c n l : Nat) : List (Nat × Nat) :=
  (exOf s c 0 false).map (fun kv => (kv.1, prbMask 0 (ccPrb s c))) ++
  (let occs := occsAt s c n l
   if occs.isEmpty then []
   else (exOf s c 0 true).map (fun kv => (kv.1, occs.foldl (fun m o => m ||| prbMask (occPrb s c o.2) (occPrbs s c o.2)) 0)))

def rxKey (i l : Nat) : Nat := 16 * i + l
def rxBits (u : UlSlot) (i l : Nat) : Nat := mapGet 0 u.rx (rxKey i l)
def filledBits (u : UlSlot) (i l : Nat) : Nat := mapGet 0 u.filled (rxKey i l)

/-- PRBs of a mask that a symbol of an eAxC still lacks. -/
def lackBits (u : UlSlot) (i l mask : Nat) : Nat := mask - (mask &&& (rxBits u i l ||| filledBits u i l))

/-- Whether every expected section of a symbol is in place. -/
def symWhole (s : State) (c n l : Nat) : Bool :=
  let u := getUl s c n
  (expected s c n l).all (fun x => decide (lackBits u x.1 l x.2 = 0))

/-! ### Sending (12 R383, R384) -/

/-- The destination of an eAxC's frames. -/
def ruMac (s : State) (r : Nat) : Nat := getF s (Reg.FHX_RU_MAC_HI r) 15 0 * 2 ^ 32 + getN s (Reg.FHX_RU_MAC_LO r)

/-- A fronthaul frame of eAxC entry i with a payload of n bytes. -/
def frontFrame (s : State) (i n : Nat) (m : TxMsg) : TxFrame :=
  let e := exAt s i
  { mac := exMac e, queue := fieldOf e 30 28, bytes := Config.frameBytes 1 n, dst := ruMac s (exRu e), msg := m }

/-- Queue a fronthaul frame. -/
def sendFront (s : State) (i n : Nat) (m : TxMsg) : State := enqueue s (frontFrame s i n m)

/-- The next sequence identifier of an eAxC and plane (0 C-plane, 1 U-plane). -/
def nextSeq (s : State) (i plane : Nat) : Nat × State :=
  let q := mapGet 0 s.net.seqTx (2 * i + plane)
  (q, { s with net := { s.net with seqTx := mapPut s.net.seqTx (2 * i + plane) ((q + 1) % 256) } })

/-- udCompHdr of a comp code: iqWidth and method 1 (BFP), 0 for uncompressed 16 bits. -/
def udCompHdr (comp : Nat) : Nat := if comp = 0 then 0 else iqWidth comp % 16 * 16 + 1

/-- The 16 bytes of a section type 1 message without extensions, as the CUS-plane specification lays them out (PRESUMED, log 104). -/
def cplaneBytes (s : State) (c n l dir comp : Nat) : List Byte :=
  let n_prb := if 255 < ccPrb s c then 0 else ccPrb s c
  let sub := slotOf s c n / 2 ^ ccMu s c
  let slot := slotOf s c n % 2 ^ ccMu s c
  beBytes 8 (dir * 2 ^ 63 + 2 ^ 60 + sfnOf s c n % 256 * 2 ^ 48 + sub * 2 ^ 44 + slot * 2 ^ 38 + l * 2 ^ 32 + 2 ^ 24 + 2 ^ 16 + udCompHdr comp * 2 ^ 8)
  ++ beBytes 8 (n_prb * 2 ^ 32 + 0xFFF * 2 ^ 20 + 2 ^ 16)

/-- The lead of a carrier's uplink C-plane, in grid units (12 R393). -/
def cpLead (s : State) (c : Nat) : Nat := us (getF s (Reg.FHX_CC_ULCFG c) 27 19)

/-- Whether a carrier sends: it runs, and the device has met no device-fatal error (09 R310, 12 R402). -/
def sends (s : State) (c : Nat) : Bool := (getCar s c).running && !fatal s

/-- UL_CPLANE_SEND (02 R51, 12 R393): symbol k's C-plane, one message per uplink data eAxC. -/
def execUlCplaneSend (c : CarrierId) (n k : Nat) (s : State) : Host.Outcome State Fault Refusal :=
  if sends s c.val && decide (k < 14) && ulSym s c.val n k && !(getUl s c.val n).cpSent.contains k &&
      decide (symStart s c.val n k ≤ nowGrid s + cpLead s c.val) then
    let s := modUl s c.val n (fun u => { u with cpSent := u.cpSent ++ [k] })
    .next (forEach (exOf s c.val 0 false) s (fun kv s =>
      let q := nextSeq s kv.1 0
      let bytes := cplaneBytes s c.val n k 0 (exComp kv.2)
      let s := modUl q.2 c.val n (fun u => { u with cpDigest := crc64On u.cpDigest bytes })
      sendFront s kv.1 bytes.length
        (.cplane kv.1 q.1 0 (sfnOf s c.val n) (slotOf s c.val n) k 0 (if 255 < ccPrb s c.val then 0 else ccPrb s c.val) (exComp kv.2) none)))
  else .next s

/-- The filterIndex of a PRACH format: 1 for the formats of 1.25 kHz, 2 for format 3, 3 for the short ones (CUS-plane specification,
PRESUMED, log 104). -/
def prachFilter (s : State) (c o : Nat) : Nat := match prachOf s c 16 o with
  | 0 => 1
  | 1 => 1
  | 2 => 1
  | 3 => 2
  | _ => 3

/-- The 24 bytes of a section type 3 message, as the CUS-plane specification lays them out (PRESUMED, log 104). -/
def prachBytes (s : State) (c n o comp : Nat) : List Byte :=
  let m := n - (occFirst s c o).1
  let p := fun (kind : Nat) => prachOf s c kind o
  let sub := slotOf s c m / 2 ^ ccMu s c
  let slot := slotOf s c m % 2 ^ ccMu s c
  let head := 2 ^ 28 + prachFilter s c o * 2 ^ 24 + sfnOf s c m % 256 * 2 ^ 16 + sub * 2 ^ 12 + slot * 2 ^ 6 + (occFirst s c o).2
  beBytes 4 head ++ [1#8, 3#8] ++ beBytes 2 (p 9) ++ beBytes 1 (p 10) ++ beBytes 2 (p 11) ++ beBytes 1 (udCompHdr comp)
  ++ beBytes 8 (occPrb s c o % 1024 * 2 ^ 40 + occPrbs s c o % 256 * 2 ^ 32 + 0xFFF * 2 ^ 20 + prachReps s c o * 2 ^ 16)
  ++ beBytes 4 (p 12 % 2 ^ 24 * 2 ^ 8)

/-- PRACH_CPLANE_SEND (12 R393): section type 3 for occasion k, to every PRACH eAxC, at the lead before its first symbol. -/
def execPrachCplaneSend (c : CarrierId) (n k : Nat) (s : State) : Host.Outcome State Fault Refusal :=
  if sends s c.val && (prachOccs s c.val n).contains k && !(getUl s c.val n).prachSent.contains k &&
      decide (symStart s c.val (n - (occFirst s c.val k).1) (occFirst s c.val k).2 ≤ nowGrid s + cpLead s c.val) then
    let s := modUl s c.val n (fun u => { u with prachSent := u.prachSent ++ [k] })
    .next (forEach (exOf s c.val 0 true) s (fun kv s =>
      let q := nextSeq s kv.1 0
      let p := fun (kind : Nat) => prachOf s c.val kind k
      let bytes := prachBytes s c.val n k (exComp kv.2)
      let m := n - (occFirst s c.val k).1
      let s := modUl q.2 c.val n (fun u => { u with cpDigest := crc64On u.cpDigest bytes })
      sendFront s kv.1 bytes.length
        (.prach kv.1 q.1 (sfnOf s c.val m) (slotOf s c.val m) (occFirst s c.val k).2 k (p 9) (p 10) (p 11) (signed 24 (p 12)))))
  else .next s

/-! ### DMRS rings (06 R216, 12 R391) -/

/-- Symbols that go to DMRS rings: the DMRS symbols of the accepted request's PUSCH PDUs; for data before the request, those
the plan names (DESIGN CHOICE, log 16). -/
def isDmrs (s : State) (c n l : Nat) : Bool :=
  let u := getUl s c n
  match u.cls, u.req with
  | .onTime, some r => r.pusch.any (fun p => (recSyms p.alloc).contains l && (recField p.alloc 12 2).testBit l)
  | .late, _ => false
  | _, _ => (named s 11 c n 0).testBit l

/-- The fills in progress in a ring of a context on a tile. -/
def fillsIn (s : State) (x t ring : Nat) : Nat :=
  ((s.carriers.flatMap (fun kv => kv.2.ul.flatMap (fun u => u.2.dmrs))).filter (fun d =>
    decide (d.tile = t) && decide (exCtx (exAt s d.entry) = x) && decide (exRing (exAt s d.entry) = ring))).length

/-- A symbol's first write is due: it takes a slot of the ring on each target tile, or is dropped for that tile. -/
def dmrsStart (s : State) (c n l i : Nat) : State :=
  let e := exAt s i
  if exDmrs e && isDmrs s c n l then
    forEach (exTiles e) s (fun t s =>
      let x := exCtx e
      let r := ctxRing s x t (exRing e)
      let k := fillsIn s x t (exRing e)
      if runsOn s x t && (!r.en || decide (r.slots ≤ r.occ + k)) then flag (incR s Reg.FHX_DMRS_DROP 1) (Reg.TILE_DMA_FLAGS t) 4
      else
        let d : DmrsFill := { entry := i, symbol := l, tile := t, pos := (r.tail + recvAdvances s x t (exRing e) + k) % 65536 }
        modUl s c n (fun u => { u with dmrs := u.dmrs ++ [d] }))
  else s

/-- Write data into a DMRS symbol's slot, or into the receive area of a context that does not run there (08 R289). A waking group's
write waits until the group wakes, and one that meets a page to be scrubbed until it is: nothing reads them before. A sleeping group
faults the ring's context (06 R206). -/
def dmrsPut (s : State) (d : DmrsFill) (inSlot : Nat) (data : List Byte) (adv : Bool) : State :=
  let e := exAt s d.entry
  let x := exCtx e
  let r := ctxRing s x d.tile (exRing e)
  let off := r.slotAt d.pos + inSlot
  let n := if adv then 1 else 0
  if runsOn s x d.tile then
    let put := fun (s : State) =>
      let s := setBytes s (spBase d.tile + off) data
      if adv then ringMove s d.tile (exRing e) true 1 else s
    match spAccess s d.tile off data.length with
    | .ready => put s
    | .waking => put (incR s (Reg.TILE_SP_WAKE_STALL d.tile) 1)
    | .dirty => put (forEach ((pagesOf (spBase d.tile + off) data.length).filter s.foreignDirty.contains) s (fun p s => scrubPage s p))
    | .asleep => contextFault s x (faultRec 2 d.tile x off)
  else if (getC s x).st = .scrubbing ∨ (getC s x).st = .held then s
  else (recvPut s x d.tile (exRing e) off data n).2

/-- The fills of a symbol of an eAxC. -/
def fillsOf (s : State) (c n l i : Nat) : List DmrsFill := (getUl s c n).dmrs.filter (fun d => decide (d.entry = i) && decide (d.symbol = l))

/-- A PRB of a DMRS symbol goes to its rings: RE i lies at byte 2i of the slot. -/
def dmrsPrb (s : State) (c n l i b : Nat) (bytes : List Byte) : State := forEach (fillsOf s c n l i) s (fun d s => dmrsPut s d (24 * b) bytes false)

/-- The last write of a symbol has landed: T advances. -/
def dmrsWhole (s : State) (c n l i : Nat) : State :=
  let l' := fillsOf s c n l i
  let s := forEach l' s (fun d s => dmrsPut s d 0 [] true)
  modUl s c n (fun u => { u with dmrs := u.dmrs.filter (fun d => !l'.contains d) })

/-! ### The capture (09 R313, 12 R392) -/

/-- Keep a section's bytes: data of a slot whose entry is held and that it overwrites are lost to a replay. -/
def capture (s : State) (c n : Nat) (raw : List Byte) : State :=
  let size := getN s (Reg.FHX_CC_CAPSZ c) * 65536
  let pos := (getCar s c).capPos
  let fin' := pos + raw.length
  let base := getN64 s (Reg.FHX_CC_CAP_LO c) (Reg.FHX_CC_CAP_HI c)
  let hit := ((getCar s c).ul.filter (fun u => !u.2.capLost && decide (u.2.capStart < u.2.capEnd) && decide (u.2.capStart + size < fin'))).map (fun u => (u.1, u.2.jnl))
  let s := forEach hit s (fun m s =>
    let s := modUl s c m.1 (fun u => { u with capLost := true })
    if m.2 then incR s Reg.ERR_CAPTURE_LOST 1 else s)
  let s := modUl s c n (fun u => { u with capStart := if u.capStart = u.capEnd then pos else u.capStart, capEnd := fin', capLost := u.capLost || decide (size = 0) })
  let s := modCar s c (fun x => { x with capPos := fin' })
  if size = 0 then s
  else if !engineOpen s base then engineWrite s base raw
  else forEach raw.zipIdx s (fun b s => setBytes s (base + (pos + b.2) % size) [b.1])

/-! ### What follows when a symbol is ingested (11 R357) -/

/-- What an estimate of a slot reads of its UE: every PDU of the slot for one UE reads what the first has read (11 Table 11.6). -/
def refSeen (s : State) (c n : Nat) (ue : Option Nat) : RefRec × State :=
  match ue with
  | none => (refCold, s)
  | some u => match mapFind (getUl s c n).refSeen u with
    | some r => (r, s)
    | none => let r := refRead s u; (r, modUl s c n (fun x => { x with refSeen := mapPut x.refSeen u r }))

/-- A frequency-offset estimate of an accepted PDU, frozen and written to its pending-state page. -/
def foPdu (s : State) (c n k l : Nat) : State :=
  match (getUl s c n).pdus[k]? with
  | some p =>
    if p.fo.isNone && p.decided.isNone && s.power.hubOn.testBit 13 && decide (firstDmrs p.pdu.alloc = some l) then
      let r := refSeen s c n p.ue
      let s := r.2
      let f := foEstimate s c n l p.pdu.alloc r.1
      foWrite (foCount (modPdu s c n k (fun p => { p with fo := some f })) f) (pendPage s c n p.work) c n f
    else s
  | none => s

/-- The shadow page of a prediction's pending state: taken when the RXM needs it first. Where pages of the pool are still to be
scrubbed it waits for the scrub in progress (07 Table 07.8). -/
def predPage (s : State) (c n j x : Nat) : Option Nat × State :=
  let pr := pendPair s c n j
  match mapFind s.pairs pr with
  | none => (none, s)
  | some p => match p.shadow with
    | some pg => (some pg, s)
    | none => match takeShadow s x pr p with
      | (.phys pg, s) => (some pg, s)
      | (.waiting, s) =>
        (match takeShadow (scrubPage s (s.alloc.dirty.headD 0 / 0x10000)) x pr p with
          | (.phys pg, s) => (some pg, s)
          | (_, s) => (none, shadowRefused s x pr))
      | (_, s) => (none, shadowRefused s x pr)

/-- The estimate of a predicted PDU, from the committed reference, afc and version (R369). -/
def foPred (s : State) (c n j l : Nat) : State :=
  match (getUl s c n).preds[j]? with
  | some q =>
    if q.fo.isNone && !q.matched && !q.dropped && s.power.hubOn.testBit 13 && decide (firstDmrs q.alloc = some l) then
      let ue := ueFind s c (predRnti q)
      let f := foEstimate s c n l q.alloc ((ue.map (refRead s)).getD refCold)
      let s := foCount (modPred s c n j (fun q => { q with fo := some f, foVersion := some ((ue.map (ueVersion s)).getD 0) })) f
      match predPage s c n j (q.ctx.getD 128) with
      | (some pg, s) => foWrite s pg c n f
      | (none, s) => s
    else s
  | none => s

/-- Start the searches of the occasions whose last symbol this is (11 R359). -/
def startSearches (s : State) (c n l : Nat) : State :=
  forEach ((prachOccs s c n).filter (fun o => decide (occLast s c o = l))) s (fun o s =>
    modUl s c n (fun u => if (findOcc u o).isSome then u
      else { u with occs := u.occs ++ [{ occ := o, since := nowGrid s, searching := true, done := false, missing := false, found := [] }] }))

/-- A symbol is ingested: at the present, or at the end of its window where that has passed. -/
def ingest (s : State) (c n l : Nat) : State :=
  if (getUl s c n).closed.contains l then s
  else
    let s := modUl s c n (fun u => { u with closed := u.closed ++ [l], t0 := if l = finalUlSym s c n ∧ u.t0.isNone then some (min (nowGrid s) (rxWindowEnd s c n l)) else u.t0 })
    let s := forEach (List.range (getUl s c n).pdus.length) s (fun k s => foPdu s c n k l)
    let s := forEach (List.range (getUl s c n).preds.length) s (fun j s => foPred s c n j l)
    startSearches s c n l

/-! ### Received U-plane (12 R389) -/

/-- The slot that a frame names: the nearest one whose SFN agrees modulo 256 (DEDUCED, log 14). -/
def frameSlot (s : State) (c : Nat) (f : UPlaneMsg) : Nat :=
  let k := slotsPerFrame (ccMu s c)
  let period := 256 * k
  let here := slotNow s c
  let want := f.frame % 256 * k + f.subframe * 2 ^ ccMu s c + f.slot
  let d := (want + period - here % period) % period
  if d < period / 2 then here + d else here + d - period

/-- Sequence identifiers skipped on an eAxC (12 R389). -/
def seqSeen (s : State) (i q : Nat) : State :=
  let gap := match mapFind s.net.seqRx i with
    | some e => (q + 256 - e) % 256
    | none => 0
  let s := { s with net := { s.net with seqRx := mapPut s.net.seqRx i ((q + 1) % 256) } }
  if gap = 0 then s else incR s Reg.FHX_RX_SEQ_GAP gap

/-- The key under which the PRACH input store holds a symbol of an eAxC of a slot. -/
def storeKey (n i l : Nat) : Nat := n * 131072 + rxKey i l

/-- The samples of a PRB as CX16 parts × 2^12. -/
def prbSamples (k comp : Nat) (p : PrbIq) : List (Int × Int) :=
  (prbParts comp p).map (fun x =>
    let w := (reConv k x).code
    let m : Int := ((2 ^ nbits w 15 12 : Nat) : Int)
    (signed 6 (nbits w 11 6) * m, signed 6 (nbits w 5 0) * m))

/-- Put a PRB's samples into the PRACH input store. -/
def storePrb (s : State) (c n l i b : Nat) (xs : List (Int × Int)) : State :=
  modCar s c (fun car =>
    let old := mapGet (List.replicate (12 * ccPrb s c) ((0 : Int), (0 : Int))) car.rxStore (storeKey n i l)
    { car with rxStore := mapPut car.rxStore (storeKey n i l) (xs.zipIdx.foldl (fun l x => l.set (12 * b + x.2) x.1) old) })

/-- Take one PRB: a duplicate is dropped and counted. -/
def takePrb (s : State) (c n l i comp b : Nat) (p : PrbIq) : State :=
  let e := exAt s i
  let u := getUl s c n
  if (rxBits u i l).testBit b then incR s Reg.FHX_RX_DUP_PRB 1
  else
    let first := decide (rxBits u i l = 0)
    let s := modUl s c n (fun u => { u with rx := mapPut u.rx (rxKey i l) (rxBits u i l + 2 ^ b) })
    let clips := prbClips (exK e) comp p
    let s := if clips = 0 then s else incR s (Reg.FHX_CLIP i) clips
    if exPrach e then storePrb s c n l i b (prbSamples (exK e) comp p)
    else
      let bytes := prbBytes (exK e) comp p
      let s := engineWrite s (reAt s c n l (exPort e) (12 * b)) bytes
      let s := modUl s c n (fun u => { u with secs := u.secs ++ [{ entry := i, symbol := l, startPrb := b, comp := comp, k := exK e, port := exPort e, prbs := [p] }] })
      let s := if first then dmrsStart s c n l i else s
      dmrsPrb s c n l i b bytes

/-- The comp code of a section, once it has passed the section checks. -/
def sectionOk (s : State) (c i : Nat) (x : USection) : Bool :=
  let e := exAt s i
  let num := if x.numPrb = 0 then ccPrb s c - x.startPrb else x.numPrb
  decide (x.rb = 0) && decide (x.symInc = 0) && decide (x.startPrb < ccPrb s c) && decide (x.startPrb + num ≤ ccPrb s c) &&
  (if exUdHdr e then decide (x.comp = some (exComp e)) else true) && x.lenOk && decide (x.prbs.length = num)

/-- Take one section of a frame. -/
def takeSection (s : State) (c n l i : Nat) (x : USection) : State :=
  if !sectionOk s c i x then incR s Reg.FHX_RX_BADHDR 1
  else
    let s := capture s c n x.raw
    let s := forEach x.prbs.zipIdx s (fun p s => takePrb s c n l i (exComp (exAt s i)) (x.startPrb + p.2) p.1)
    if !exPrach (exAt s i) && decide (lackBits (getUl s c n) i l (prbMask 0 (ccPrb s c)) = 0) then dmrsWhole s c n l i else s

/-- Whether a header is one of Table 12.3. -/
def headerOk (f : UPlaneMsg) : Bool :=
  decide (f.revision = 1) && !f.concat && f.sizeOk && decide (f.msgType = 0) && f.eBit && decide (f.subSeq = 0)

/-- Whether the fields of a frame name a symbol of its carrier. -/
def namesSymbol (s : State) (c : Nat) (f : UPlaneMsg) : Bool := decide (f.subframe < 10) && decide (f.slot < 2 ^ ccMu s c) && decide (f.symbol < 14)

/-- Work that becomes possible when a symbol is whole. -/
def afterSection (s : State) (c n l : Nat) : State := if symWhole s c n l then ingest s c n l else s

/-- UPLANE_RX (02 R50, R52; 12 R389, Table 12.5). A packet in the cycle its window ends is accepted (02 R86): the window ends in the
first cycle that begins no earlier (13 R410). -/
def execUplaneRx (f : UPlaneMsg) (s : State) : Host.Outcome State Fault Refusal :=
  if !linkUp s f.mac.val then .next s
  else if !headerOk f then .next (incR s Reg.FHX_RX_BADHDR 1)
  else match exFind s (f.mac.val, f.vlan, f.pcid, 0) with
    | none => .next (incR s Reg.FHX_RX_UNKNOWN 1)
    | some (i, e) =>
      let s := seqSeen s i f.seqId
      let c := exCarrier e
      if decide (f.dir ≠ 0) || decide (f.version ≠ 1) || (decide (f.filter = 0) == exPrach e) || !namesSymbol s c f then
        .next (incR s Reg.FHX_RX_BADHDR 1)
      else
        let n := frameSlot s c f
        let l := f.symbol
        if nowGrid s < symStart s c n l then .next (incR s Reg.FHX_RX_EARLY 1)
        else if rxWindowEnd s c n l + gridPerTick ≤ nowGrid s then .next (flag (incR s Reg.FHX_RX_LATE 1) Reg.FHX_FLAGS 0)
        else .next (afterSection (forEach f.sections s (fun x s => takeSection s c n l i x)) c n l)

/-! ### The end of a window (02 R52) -/

/-- Whether an allocation record covers a RE filled with zeros. -/
def recMissing (s : State) (u : UlSlot) (rec' : List Byte) : Bool :=
  u.filled.any (fun kv => !exPrach (exAt s (kv.1 / 16)) && (recSyms rec').contains (kv.1 % 16) &&
    (List.range 275).any (fun b => kv.2.testBit b && recPrbs rec' b))

/-- Whether a rectangle of PRBs and symbols covers a RE filled with zeros. -/
def boxMissing (s : State) (u : UlSlot) (prb prbs sym syms : Nat) : Bool :=
  u.filled.any (fun kv => !exPrach (exAt s (kv.1 / 16)) && decide (sym ≤ kv.1 % 16 ∧ kv.1 % 16 < sym + syms) &&
    decide (kv.2 &&& prbMask prb prbs ≠ 0))

/-- Whether a PUCCH PDU covers one: its first hop is the first half of its symbols, rounded down (TS 38.213, PRESUMED, log 104). -/
def pucchMissing (s : State) (u : UlSlot) (q : PucchPdu) : Bool :=
  match q.hop with
  | none => boxMissing s u q.prbStart q.prbs q.symStart q.syms
  | some h =>
    let k := q.syms / 2
    boxMissing s u q.prbStart q.prbs q.symStart k || boxMissing s u h q.prbs (q.symStart + k) (q.syms - k)

/-- Set the samples-missing flags of a slot's PDUs (02 R52). -/
def markMissing (s : State) (c n : Nat) : State :=
  let u := getUl s c n
  match u.req with
  | none => s
  | some r => modUl s c n (fun u => { u with
      pdus := u.pdus.map (fun p => { p with missing := p.missing || recMissing s u p.pdu.alloc })
      pucch := List.zipWith (fun (q : PucchPdu) (x : CtlRes) => { x with missing := x.missing || pucchMissing s u q }) r.pucch u.pucch
      srs := List.zipWith (fun (q : SrsPdu) (x : CtlRes) => { x with missing := x.missing || boxMissing s u q.prbStart q.prbs q.symStart q.syms }) r.srs u.srs })

/-- Fill what a symbol of an eAxC still lacks with CX16 zeros. -/
def fillSym (s : State) (c n l i mask : Nat) : State :=
  let u := getUl s c n
  let lack := lackBits u i l mask
  if lack = 0 then s
  else
    let e := exAt s i
    let first := decide (rxBits u i l = 0)
    let s := modUl s c n (fun u => { u with filled := mapPut u.filled (rxKey i l) (filledBits u i l ||| lack) })
    if exPrach e then
      let zeros := List.replicate (12 * ccPrb s c) ((0 : Int), (0 : Int))
      modCar s c (fun car => { car with rxStore := mapPut car.rxStore (storeKey n i l) (mapGet zeros car.rxStore (storeKey n i l)) })
    else
      let s := if first then dmrsStart s c n l i else s
      let zero := List.replicate 24 0#8
      let s := forEach ((List.range 275).filter (fun b => lack.testBit b)) s (fun b s =>
        dmrsPrb (engineWrite s (reAt s c n l (exPort e) (12 * b)) zero) c n l i b zero)
      dmrsWhole s c n l i

/-- UL_RX_WINDOW_END (02 R52, R53): what has not arrived of symbol l is filled with zeros, once the cycle in which its window ends is
over (02 R86). -/
def execUlRxWindowEnd (c : CarrierId) (n l : Nat) (s : State) : Host.Outcome State Fault Refusal :=
  if (getCar s c.val).running && decide (l < 14) && ulSym s c.val n l && !(getUl s c.val n).closed.contains l &&
      decide (rxWindowEnd s c.val n l + gridPerTick ≤ nowGrid s) then
    let s := forEach (expected s c.val n l) s (fun x s => fillSym s c.val n l x.1 x.2)
    .next (ingest (markMissing s c.val n) c.val n l)
  else .next s

end Sys2Proof.Machine
end

