-- ==== Sys2Proof/Machine/Requests.lean ====
section
/-!
DEFINITION. Requests.lean: northbound requests and the uplink slot's decisions: rejection (12 R399), holding, lateness and
speculation (02 R60, R61, R63, R68 to R76), the journal's entries (09 R312) and the completion deadline.
-/
namespace Sys2Proof.Machine

open Sys2Proof

/-! ### Hearing and rejecting a request (12 R397, R399) -/

/-- Whether the northbound engine takes messages from a MAC. -/
def nbHears (s : State) (m : Nat) : Bool :=
  getB s Reg.NB_CFG 31 && linkUp s m && decide (m = getF s Reg.NB_MAC_SEL 4 0 ∨ m = getF s Reg.NB_MAC_SEL 12 8)

/-- The carrier context of a PHY ID. -/
def nbCarrier (s : State) (phy : Nat) : Option Nat :=
  (List.range 32).find? (fun c => getB s (Reg.NB_CC_PHYID c) 31 && decide (getF s (Reg.NB_CC_PHYID c) 15 0 = phy))

/-- The counter of a rejection code (Table 12.7). -/
def rejectCounter (code : Nat) : Nat :=
  if code = 1 ∨ code = 3 then Reg.NB_UNKNOWN
  else if code = 2 then Reg.NB_UNSUPPORTED
  else if code = 4 then Reg.NB_CSUM_ERR
  else if code = 5 then Reg.NB_REASM_TO
  else if code = 11 then Reg.NB_EARLY
  else if code = 12 then Reg.NB_DUP
  else Reg.NB_MALFORMED

/-- Reject a message: it is counted, latched and posted. -/
def nbReject (s : State) (car : Option Nat) (msgId code : Nat) : State :=
  let w := 2 ^ 31 + car.getD 0 % 32 * 2 ^ 24 + msgId % 256 * 2 ^ 16 + code
  postEvent (setR (incR s (rejectCounter code) 1) Reg.NB_REJECT (BitVec.ofNat 32 w)) 6 1 (car.getD 0xFF) 0xFF w

/-- Whether a datagram comes from the one L2 peer (12 R397). -/
def fromPeer (s : State) (ip port : Nat) : Bool := decide (ip = (nbPath s).peerIp) && decide (port = (nbPath s).peerPort)

/-- A complete message leaves reassembly. -/
def reasmDone (s : State) (h : NbHead) (msgId : Nat) : State :=
  match s.net.reasm.find? (fun r => decide (r.mac = h.mac.val ∧ r.phyId = h.phyId ∧ r.msgId = msgId ∧ r.seq = h.seq)) with
  | some r => { s with net := { s.net with reasm := s.net.reasm.erase r } }
  | none => s

/-- The checks of a request that depend on its message: codes 7, 8, 9, 10 and 12, each as a function of carrier and slot. -/
structure NbChecks where
  outside : Bool
  limits : Bool
  direction : Bool
  absent : Bool
  dup : Bool
  deriving DecidableEq, Repr

/-- The first reason of Table 12.7 that applies to a request of carrier c for slot n. -/
def rejectCode (s : State) (h : NbHead) (c n : Nat) (k : NbChecks) : Option Nat :=
  if !(getCar s c).running then some 3
  else if h.csumBad && getB s Reg.NB_CFG 28 then some 4
  else if h.segBad then some 5
  else if h.lenBad then some 6
  else if h.fieldBad || decide (1024 ≤ h.sfn) || decide (slotsPerFrame (ccMu s c) ≤ h.slot) || k.outside then some 7
  else if k.limits then some 8
  else if k.direction then some 9
  else if k.absent then some 10
  else if nowGrid s + us (getF s Reg.NB_TIMING 15 0) < slotStart s c n then some 11
  else if k.dup then some 12
  else none

/-- Take a request that is complete at the port: rejected, or handed on with its carrier and slot. -/
def nbTake (s : State) (h : NbHead) (msgId : Nat) (k : Nat → Nat → NbChecks) (f : State → Nat → Nat → State) : State :=
  if !nbHears s h.mac.val || !fromPeer s h.srcIp h.srcPort then s
  else
    let s := reasmDone s h msgId
    match nbCarrier s h.phyId with
    | none => nbReject s none msgId 1
    | some c =>
      let n := slotNamed s c h.sfn h.slot
      match rejectCode s h c n (k c n) with
      | some code => nbReject s (some c) msgId code
      | none => f (incR s Reg.NB_RX_MSG 1) c n

/-- SFN × 256 + slot, as events carry it. -/
def slotArg (s : State) (c n : Nat) : Nat := sfnOf s c n * 256 + slotOf s c n

/-! ### Predictions (02 R63, R64) -/

/-- The configured-grant table of a carrier, 64 entries of 80 bytes, at the plan's location (DESIGN CHOICE, log 16). -/
def cgBase (s : State) (c : Nat) : Nat := Config.planName (planId s) 10 c 0 0 % 2 ^ 48

/-- The entries that select a slot, in table order. -/
def cgPicks (s : State) (c n : Nat) : List (List Byte) :=
  (List.range 64).filterMap (fun i =>
    let e := getBytes s (cgBase s c + 80 * i) 80
    let period := recField e 72 2
    if (recField e 76 1).testBit 0 && decide (0 < period) && decide (slotNum s c n % period = recField e 74 2) then some (e.take 72) else none)

/-- The records of the request accepted for the same slot of the previous frame. -/
def framePicks (s : State) (c n : Nat) : List (List Byte) :=
  let k := slotsPerFrame (ccMu s c)
  if n < k then [] else mapGet [] (getCar s c).history (n - k)

/-- The prediction of a slot (Table 02.4). -/
def prediction (s : State) (c n : Nat) : List (List Byte) :=
  (match ccSpec s c with
    | 1 => framePicks s c n
    | 2 => cgPicks s c n
    | 3 =>
      let cg := cgPicks s c n
      cg ++ (framePicks s c n).filter (fun (r : List Byte) => !cg.any (fun (e : List Byte) => decide (e.take 2 = r.take 2)))
    | _ => []).take 64

/-- Form the prediction of a slot whose request has not come. -/
def predict (s : State) (c n : Nat) : State :=
  let u := getUl s c n
  if u.predicted || decide (u.cls ≠ .open) || u.held.isSome || (ulSyms s c n).isEmpty then s
  else
    let recs := prediction s c n
    modUl s c n (fun u => { u with
      predicted := true
      preds := recs.zipIdx.map (fun r => { alloc := r.1, version := none, foVersion := none, matched := false, dropped := false, refused := false,
                                           ctx := some (puschCtx s c n r.2), fo := none, stage4 := false, wrote := [] }) })

/-! ### Commit and discard (02 R68 to R72) -/

/-- Whether a context's speculative exposure is in progress. -/
def specBusy (s : State) (x : Option Nat) : Bool := (x.map (fun c => (getC s c).inst.isSome && ctxSpec s c)).getD false

/-- Discard a pair's shadow: its writes are dropped until the exposure that holds it ends. -/
def discardPair (s : State) (x : Option Nat) (pr : Nat) : State :=
  match mapFind s.pairs pr with
  | none => s
  | some p =>
    if specBusy s x then { s with pairs := mapPut s.pairs pr { p with discarded := true, holder := x } }
    else { s with pairs := mapPut s.pairs pr { p with shadow := none, discarded := false, holder := none }
                  alloc := { s.alloc with dirty := s.alloc.dirty ++ p.shadow.toList } }

/-- Map a pair's shadow in place of its primary. -/
def flipPair (s : State) (x : Option Nat) (pr : Nat) : State :=
  match mapFind s.pairs pr with
  | none => s
  | some p =>
    let keep := if specBusy s x then x else none
    match p.shadow with
    | some pg => { s with pairs := mapPut s.pairs pr { primary := pg, shadow := none, discarded := false, holder := keep }
                          alloc := { s.alloc with dirty := s.alloc.dirty ++ [p.primary] } }
    | none => { s with pairs := mapPut s.pairs pr { p with discarded := false, holder := keep } }

/-- Discard every prediction of a slot that no PDU has matched, and count it. -/
def discardPreds (s : State) (c n : Nat) : State :=
  let gone := (getUl s c n).preds.zipIdx.filter (fun q => !q.1.matched)
  let s := forEach gone s (fun q s => forEach (workPairs s c n q.2 q.1.alloc) s (fun pr s => discardPair s q.1.ctx pr))
  let s := modUl s c n (fun u => { u with preds := u.preds.map (fun q => if q.matched then q else { q with dropped := true }) })
  if gone.isEmpty then s else incR s (Reg.SCH_CC_SPEC_DISCARD c) gone.length

/-- The candidate of a record (R68): the earliest unmatched prediction whose digest and record agree. -/
def candidate (u : UlSlot) (alloc : List Byte) : Option (Nat × Pred) :=
  (u.preds.zipIdx.find? (fun q => !q.1.matched && !q.1.dropped && decide (crc64 q.1.alloc = crc64 alloc) && decide (q.1.alloc = alloc))).map (fun q => (q.2, q.1))

/-- Whether the versions that a prediction's stage 3 and its frequency-offset record read are the committed one (R68; 11 R365, R369). -/
def versionOk (s : State) (ue : Option Nat) (q : Pred) : Bool :=
  (q.version.toList ++ q.foVersion.toList).all (fun v => decide (v = (ue.map (ueVersion s)).getD 0))

/-- Count what became of a PDU's prediction (R71). A prediction that ended for want of a page counts as exhausted when the
request names it (R72). -/
def specCount (s : State) (c n : Nat) (alloc : List Byte) (cand : Option (Nat × Pred)) (commits : Bool) : State :=
  let u := getUl s c n
  if commits then incR s (Reg.SCH_CC_SPEC_COMMIT c) 1
  else
    let s := incR s (Reg.SCH_CC_SPEC_RERUN c) 1
    let ended := u.preds.any (fun q => q.refused && decide (q.alloc = alloc))
    if cand.isSome then s
    else if ended then incR s (Reg.SCH_CC_SPEC_EXH c) 1
    else incR s (Reg.SCH_CC_SPEC_UNPRED c) 1

/-! ### Acceptance -/

/-- A code block that waits for its LLRs. -/
def CbState.waiting : CbState := { stage := .waiting, soft := [], softExp := 0, bits := [], crcOk := false }

/-- A PDU before any work. -/
def UlPdu.new (p : PuschPdu) (ue : Option Nat) (work : Nat) (ctx : Option Nat) : UlPdu :=
  { pdu := p, work := work, committed := false, dup := false, ue := ue, desc := none, fresh := true, combinedAny := false, ctx := ctx,
    stage3 := false, stage4 := false, wrote := [], commitDue := false, version := 0, jnlVersion := 0, jnlState := [], jnlValid := false, fo := none,
    missing := false, cbs := if p.ulsch then List.replicate (Seg.of p.tbBytes p.bg2 p.lbrm).c CbState.waiting else [],
    uciOut := p.uci.map (fun a => if a = 0 then some (.bits []) else none), decided := none, replays := 0, replayIn := none }

/-- A committed PDU takes over its prediction's work; its journal entry starts at the flip (09 R312), with the state as its stage 3 has
read it. -/
def UlPdu.commit (s : State) (x : UlPdu) (q : Pred) : UlPdu :=
  let v := q.version.getD 0
  { x with committed := true, stage3 := q.version.isSome, stage4 := q.stage4, wrote := q.wrote, fo := q.fo, version := v, jnlVersion := v,
           jnlState := match x.ue, q.version with
             | some u, some _ => getBytes s (extAt s u) 256
             | _, _ => [],
           jnlValid := (x.ue.map (fun u => ueFlag s u 1)).getD false }

/-- Accept PUSCH PDU k of a request. -/
def acceptPusch (s : State) (c n k : Nat) (p : PuschPdu) (ue : Option Nat) : State :=
  let u := getUl s c n
  let dup := p.ulsch && u.pdus.any (fun q => q.pdu.ulsch && decide (puschRnti q.pdu = puschRnti p) && decide (q.pdu.harq = p.harq))
  let cand := candidate u p.alloc
  let take := cand.filter (fun q => versionOk s ue q.2)
  let s := specCount s c n p.alloc cand take.isSome
  let checked := match ue with
    | some u => if (harqMap s u p.harq).testBit 23 then tableRead s (harqAt (harqMap s u p.harq % 2 ^ 17)) 32 else s
    | none => s
  let h := if dup then ((none, true), incR s Reg.HARQ_DUP 1)
    else if p.ulsch then harqDecide checked c n ue p
    else ((none, true), s)
  let s := h.2
  let x := match take with
    | some (j, q) => (UlPdu.new p ue j q.ctx).commit s q
    | none => UlPdu.new p ue (64 + k) (some (puschCtx s c n (64 + k)))
  let x := { x with dup := dup, desc := h.1.1, fresh := h.1.2, uciOut := if dup then x.uciOut.map (fun y => some (y.getD .dtx)) else x.uciOut }
  let s := match take with
    | some (j, q) => forEach (workPairs s c n j q.alloc) (modPred s c n j (fun q => { q with matched := true })) (fun pr s => flipPair s q.ctx pr)
    | none => s
  let s := modUl s c n (fun u => { u with pdus := u.pdus ++ [x] })
  match h.1 with
  | (some d, false) => harqPrefetch s d
  | _ => s

/-- Work that a committed PDU had finished before the flip. -/
def catchUp (s : State) (c n k : Nat) : State :=
  match pduAt s c n k with
  | none => s
  | some p =>
    let s := if p.committed && p.stage4 && p.decided.isNone then modPdu s c n k (fun p => { p with commitDue := true }) else s
    settleUciOnly (queueUci (commitsDue s c n false) c n k) c n k

def CtlRes.new (ue : Option Nat) (ctx : Nat) : CtlRes :=
  { ue := ue, done := false, reason := 0, bytes := [], uci := none, missing := false, ctx := some ctx, replays := 0, replayIn := none,
    taken := false, wrote := [], llr := [] }

/-- Keep a journal entry where one of the carrier's eight is free (09 R312). -/
def journalUl (s : State) (c n : Nat) (r : UlTti) : State :=
  if ((getCar s c).ul.filter (fun u => u.2.jnl)).length < 8 then
    modUl s c n (fun u => { u with jnl := true, reqDigest := crc64 r.hd.raw })
  else incR s Reg.ERR_JNL_FULL 1

/-- The UE entries of a request's PDUs as they are taken. -/
structure UeTaken where
  pusch : List (Option Nat)
  pucch : List (Option Nat)
  srs : List (Option Nat)
  deriving DecidableEq, Repr

def UeTaken.all (t : UeTaken) : List Nat := (t.pusch ++ t.pucch ++ t.srs).filterMap id

/-- Check the core of a UE entry before its PDU takes it (09 R307). -/
def ueChecked (s : State) (c rnti : Nat) : State :=
  match ueFind s c rnti with
  | some u => tableRead s (ueAt u) 128
  | none => s

/-- Take the entry of the next PDU of a kind that has not been taken yet. -/
def takeUe (c n : Nat) (r : UlTti) (b : UeTaken × State) (kind : Nat) : UeTaken × State :=
  let take := fun (rnti : Nat) (put : Option Nat → UeTaken) => let x := ueTake (ueChecked b.2 c rnti) c n rnti b.1.all; (put x.1, x.2)
  match kind with
  | 0 => match r.pusch[b.1.pusch.length]? with
    | some p => take (puschRnti p) (fun u => { b.1 with pusch := b.1.pusch ++ [u] })
    | none => b
  | 1 => match r.pucch[b.1.pucch.length]? with
    | some p => take p.rnti (fun u => { b.1 with pucch := b.1.pucch ++ [u] })
    | none => b
  | 2 => match r.srs[b.1.srs.length]? with
    | some p => take p.rnti (fun u => { b.1 with srs := b.1.srs ++ [u] })
    | none => b
  | _ => b

/-- Look up or allocate the UE contexts of a request, in PDU order (10 R350). -/
def takeUes (s : State) (c n : Nat) (r : UlTti) : UeTaken × State :=
  let rest := List.replicate r.pusch.length 0 ++ List.replicate r.pucch.length 1 ++ List.replicate r.srs.length 2
  (r.order ++ rest).foldl (takeUe c n r) ({ pusch := [], pucch := [], srs := [] }, s)

/-- Accept an on-time request (R68 to R70). -/
def acceptUl (s : State) (c n : Nat) (r : UlTti) : State :=
  let s := modUl s c n (fun u => { u with cls := .onTime, req := some r })
  let t := takeUes s c n r
  let s := journalUl t.2 c n r
  let s := modUl s c n (fun u => { u with
    pucch := t.1.pucch.zipIdx.map (fun x => CtlRes.new x.1 (ctlCtx s c n x.2))
    srs := t.1.srs.zipIdx.map (fun x => CtlRes.new x.1 (ctlCtx s c n (128 + x.2))) })
  let s := forEach (r.pusch.zip t.1.pusch).zipIdx s (fun p s => acceptPusch s c n p.2 p.1.1 p.1.2)
  let s := discardPreds s c n
  let k := slotsPerFrame (ccMu s c)
  let s := modCar s c (fun x => { x with history := mapPut (mapFilter (fun m => decide (n ≤ m + k)) x.history) n (r.pusch.map (·.alloc)) })
  let s := markMissing s c n
  let s := forEach (List.range r.pusch.length) s (fun k s =>
    catchUp (forEach (getUl s c n).closed s (fun l s => foPdu s c n k l)) c n k)
  sendReady s c n

/-- A late request: every PDU but PRACH is reported with reason 1 (R74). -/
def lateUl (s : State) (c n : Nat) (r : UlTti) : State :=
  let s := if (getUl s c n).cls = .open then discardPreds s c n else s
  let late := fun (i : Nat) => { CtlRes.new none (ctlCtx s c n i) with done := true, reason := 1 }
  let s := modUl s c n (fun u => { u with
    cls := .late, req := some r
    pdus := r.pusch.map (fun p => decide' (UlPdu.new p none 0 none) false 1)
    pucch := (List.range r.pucch.length).map late
    srs := (List.range r.srs.length).map (fun i => late (128 + i)) })
  let s := postEvent (incR s (Reg.SCH_CC_UL_LATE c) 1) 7 2 c 0xFF (slotArg s c n)
  sendReady (markMissing s c n) c n

/-- Judge a request that is complete at device time t, in grid units (R73 to R75). -/
def judgeUl (s : State) (c n : Nat) (r : UlTti) (t : Nat) : State :=
  if (getUl s c n).expired || decide (completionDeadline s c n ≤ t) then incR s (Reg.SCH_CC_UL_DISCARD c) 1
  else if ulCutoff s c n ≤ t then lateUl s c n r
  else acceptUl s c n r

/-- Whether an earlier uplink slot of the carrier still waits for its request (R76). -/
def earlierOpen (s : State) (c n : Nat) : Bool :=
  let first := slotNow s c - 8
  (List.range (n - first)).any (fun i =>
    let m := first + i
    decide ((getUl s c m).cls = .open) && !(ulSyms s c m).isEmpty && decide (nowGrid s < ulCutoff s c m))

/-- Take held requests, in slot order, that wait no longer. -/
def pumpHeld (s : State) (c : Nat) : State :=
  forEach (((getCar s c).ul.filter (fun u => u.2.held.isSome)).map (·.1)) s (fun n s =>
    match (getUl s c n).held with
    | some r =>
      if earlierOpen s c n then s
      else
        let t := (getUl s c n).heldAt
        judgeUl (modUl s c n (fun u => { u with held := none })) c n r t
    | none => s)

/-- The checks of an UL_TTI.request. -/
def ulChecks (s : State) (r : UlTti) (c n : Nat) : NbChecks :=
  let prb := ccPrb s c
  let u := getUl s c n
  { outside :=
      r.pusch.any (fun p => (List.range 600).any (fun b => decide (prb ≤ b) && recPrbs p.alloc b) ||
        decide (ccLayers s c < recField p.alloc 10 1) || decide (recField p.alloc 6 1 ≠ ccMu s c)) ||
      r.pucch.any (fun p => (p.prbStart :: p.hop.toList).any (fun f => decide (prb < f + p.prbs)) || decide (p.mu ≠ ccMu s c)) ||
      r.srs.any (fun p => decide (prb < p.prbStart + p.prbs) || decide (p.mu ≠ ccMu s c)) ||
      r.prach.any (fun p => decide (prb < p.prbStart + p.prbs))
    limits := decide (64 < r.pusch.length) || decide (128 < r.pucch.length) || decide (64 < r.srs.length) || decide (8 < r.prach.length)
    direction := (ulSyms s c n).isEmpty && decide (0 < r.pusch.length + r.pucch.length + r.srs.length + r.prach.length)
    absent := false
    dup := u.req.isSome || u.held.isSome }

/-- UL_TTI_REQUEST. -/
def execUlTtiRequest (r : UlTti) (s : State) : Host.Outcome State Fault Refusal :=
  .next (nbTake s r.hd 0x81 (ulChecks s r) (fun s c n =>
    if earlierOpen s c n then modUl s c n (fun u => { u with held := some r, heldAt := nowGrid s })
    else pumpHeld (judgeUl s c n r (nowGrid s)) c))

/-- UL_TTI_CUTOFF (R75). -/
def execUlTtiCutoff (c : CarrierId) (n : Nat) (s : State) : Host.Outcome State Fault Refusal :=
  let u := getUl s c.val n
  if (getCar s c.val).running && decide (u.cls = .open) && u.held.isNone && !(ulSyms s c.val n).isEmpty && decide (ulCutoff s c.val n ≤ nowGrid s) then
    let s := modUl (discardPreds s c.val n) c.val n (fun u => { u with cls := .noRequest })
    .next (pumpHeld s c.val)
  else .next s

/-! ### The completion deadline (R60, R61) -/

/-- Stop the coding work of a slot's undecided PDUs. -/
def stopCoding (s : State) (c n : Nat) : State :=
  let live := fun (k : Nat) => ((pduAt s c n k).map UlPdu.live).getD false
  let mine := fun (r : CbRef) => decide (r.carrier.val = c) && decide (r.slot = n) && live r.pdu
  let uci := fun (r : UciRef) => decide (r.carrier.val = c) && decide (r.slot = n)
  { s with coding := { s.coding with
      release := s.coding.release.filter (fun r => !mine r)
      slices := s.coding.slices.map (fun r => if (r.map mine).getD false then none else r)
      uciQ := s.coding.uciQ.filter (fun r => !uci r) } }

/-- Send what is ready of message type k, counting each PDU that is not. -/
def omitStep (s : State) (c n : Nat) (r : UlTti) (k : Nat) : State :=
  let u := getUl s c n
  if u.sent.contains k then s
  else
    let send := fun (s : State) (id : Nat) (items : List IndItem) => if items.isEmpty then s else sendInd s c id (sfnOf s c n) (slotOf s c n) items
    let count := fun (s : State) (m : Nat) => if m = 0 then s else incR s (Reg.SCH_CC_UL_OMIT c) m
    let s := match k with
      | 1 =>
        let l := (r.pucch.zip u.pucch).filter (fun x => x.2.done)
        count (send s indUci (l.map (fun x => ctlItem x.1.handle x.1.detections x.2))) (r.pucch.length - l.length)
      | 2 =>
        let l := r.prach.filter (fun p => ((findOcc u p.occ).map (·.done)).getD false)
        count (if l.isEmpty then s else sendRach s c n { r with prach := l }) (r.prach.length - l.length)
      | _ =>
        let l := (r.srs.zip u.srs).filter (fun x => x.2.done)
        count (send s indSrs (l.map (fun x => ctlItem x.1.handle 0 x.2))) (r.srs.length - l.length)
    modUl s c n (fun u => { u with sent := u.sent ++ [k] })

/-- Searches of a slot without a request are discarded (11 R364). -/
def unclaimed (s : State) (c n : Nat) : State :=
  let k := ((getUl s c n).occs.filter (·.done)).length
  if k = 0 then s else flag (incR s Reg.RXM_PRACH_UNCLAIMED k) Reg.RXM_FLAGS 2

/-- COMPLETION_DEADLINE. -/
def execCompletionDeadline (c : CarrierId) (n : Nat) (s : State) : Host.Outcome State Fault Refusal :=
  let u := getUl s c.val n
  if !(getCar s c.val).running || u.expired || u.held.isSome || (ulSyms s c.val n).isEmpty || decide (nowGrid s < completionDeadline s c.val n) then .next s
  else match u.req with
    | none => .next (modUl (unclaimed s c.val n) c.val n (fun u => { u with expired := true }))
    | some r =>
      let open' := u.pdus.any UlPdu.live
      let s := stopCoding s c.val n
      let s := modUl s c.val n (fun u => { u with pdus := u.pdus.map (fun p =>
        let p := decide' p false 3
        { p with uciOut := p.uciOut.map (fun x => some (x.getD .dtx)) }) })
      let s := if open' then postEvent s 7 1 c.val 0xFF (slotArg s c.val n) else s
      let s := [1, 2, 3].foldl (fun s k => sendReady (omitStep s c.val n r k) c.val n) s
      let s := modUl s c.val n (fun u => { u with expired := true })
      .next (slotEnds (commitsDue s c.val n false) c.val n)

end Sys2Proof.Machine
end

