-- ==== Sys2Proof/Machine/Downlink.lean ====
section
/-!
DEFINITION. Downlink.lean: downlink requests (02 R80), the downlink C-plane (12 R394), and the downlink U-plane: marks,
compression, egress and its bounds (02 R81, R82; 03 R105; 12 R395, R396).
-/
namespace Sys2Proof.Machine

open Sys2Proof

/-! ### Requests -/

/-- Whether an allocation reaches beyond the carrier. -/
def allocOutside (s : State) (c : Nat) (a : DlAlloc) : Bool := decide (2 ^ ccPrb s c ≤ a.prbs) || decide (2 ^ 14 ≤ a.syms) || decide (2 ^ 12 ≤ a.res)

def dlTtiChecks (s : State) (r : DlTti) (c n : Nat) : NbChecks :=
  let ctl := r.pdcch ++ r.ssb ++ r.csirs
  { outside := r.pdsch.any (fun p => allocOutside s c p.alloc || decide (p.mu ≠ ccMu s c)) || ctl.any (fun p => allocOutside s c p.alloc) ||
      (r.pdcch ++ r.csirs).any (fun p => decide (p.mu ≠ ccMu s c))
    limits := decide (64 < r.pdsch.length) || decide (32 < r.pdcch.length) || decide (128 < (r.pdcch.map (·.dcis)).sum) ||
      decide (4 < r.ssb.length) || decide (32 < r.csirs.length)
    direction := (dlSyms s c n).isEmpty && decide (0 < r.pdsch.length + ctl.length)
    absent := false
    dup := (getDl s c n).tti.isSome || (getDl s c n).lateTti }

def ulDciChecks (s : State) (r : UlDci) (c n : Nat) : NbChecks :=
  { outside := r.pdcch.any (fun p => allocOutside s c p.alloc || decide (p.mu ≠ ccMu s c))
    limits := decide (32 < r.pdcch.length) || decide (64 < (r.pdcch.map (·.dcis)).sum)
    direction := (dlSyms s c n).isEmpty && decide (0 < r.pdcch.length)
    absent := false
    dup := (getDl s c n).dci.isSome || (getDl s c n).lateDci }

/-- A TX_Data.request carries one payload per codeword, and names no PDU that an accepted DL_TTI.request lacks. -/
def txDataChecks (s : State) (r : TxData) (c n : Nat) : NbChecks :=
  let d := getDl s c n
  { outside := false
    limits := !decide ((r.pdus.map (fun p => (p.pduIndex, p.cw))).Nodup)
    direction := (dlSyms s c n).isEmpty && decide (0 < r.pdus.length)
    absent := match d.tti with
      | some q => r.pdus.any (fun p => !q.pdsch.any (fun x => decide (x.pduIndex = p.pduIndex)))
      | none => false
    dup := d.data.isSome || d.lateData }

/-- Whether a downlink request for slot n is on time now. -/
def dlOnTime (s : State) (c n : Nat) : Bool := decide (nowGrid s < dlCutoff s c n)

/-- The event of a late or missing downlink request. -/
def dlEvent (s : State) (c n : Nat) : State := postEvent s 7 3 c 0xFF (slotArg s c n)

/-- Keep a downlink journal entry where one of the carrier's four is free (09 R312). -/
def journalDl (s : State) (c n : Nat) (r : DlTti) : State :=
  if ((getCar s c).dl.filter (fun d => d.2.jnl)).length < 4 then
    modDl s c n (fun d => { d with jnl := true, digests := mapPut d.digests 0 (crc64 r.hd.raw) })
  else incR s Reg.ERR_JNL_FULL 1

/-- DL_TTI_REQUEST. A late one is discarded; the slot counts as without it at its cutoff. -/
def execDlTtiRequest (r : DlTti) (s : State) : Host.Outcome State Fault Refusal :=
  .next (nbTake s r.hd 0x80 (dlTtiChecks s r) (fun s c n =>
    if dlOnTime s c n then
      let works := (List.range r.pdsch.length).map (fun k =>
        ({ ctx := some (pdschCtx s c n k), done := false, replays := 0, replayIn := none, dropped := false } : DlWork))
      journalDl (modDl s c n (fun d => { d with tti := some r, accAt := nowGrid s, works := works })) c n r
    else modDl s c n (fun d => { d with lateTti := true })))

/-- UL_DCI_REQUEST. -/
def execUlDciRequest (r : UlDci) (s : State) : Host.Outcome State Fault Refusal :=
  .next (nbTake s r.hd 0x83 (ulDciChecks s r) (fun s c n =>
    if dlOnTime s c n then modDl s c n (fun d => { d with dci := some r, digests := mapPut d.digests 1 (crc64 r.hd.raw) })
    else dlEvent (incR (modDl s c n (fun d => { d with lateDci := true })) (Reg.SCH_CC_UL_DCI_LATE c) 1) c n))

/-- TX_DATA_REQUEST. -/
def execTxDataRequest (r : TxData) (s : State) : Host.Outcome State Fault Refusal :=
  .next (nbTake s r.hd 0x84 (txDataChecks s r) (fun s c n =>
    if dlOnTime s c n then modDl s c n (fun d => { d with data := some r, digests := mapPut d.digests 2 (crc64 r.hd.raw) })
    else modDl s c n (fun d => { d with lateData := true })))

/-- Whether a PDSCH PDU of an accepted slot has a payload for each codeword. -/
def hasData (d : DlSlot) (p : PdschPdu) : Bool :=
  (List.range p.codewords).all (fun w => (d.data.map (fun x => x.pdus.any (fun y => decide (y.pduIndex = p.pduIndex ∧ y.cw = w)))).getD false)

/-- DL_CUTOFF: what is late or missing at the slot's cutoff is counted and posted (R80). -/
def execDlCutoff (c : CarrierId) (n : Nat) (s : State) : Host.Outcome State Fault Refusal :=
  let d := getDl s c.val n
  if !(getCar s c.val).running || d.cut || (dlSyms s c.val n).isEmpty || decide (nowGrid s < dlCutoff s c.val n) then .next s
  else
    let s := modDl s c.val n (fun d => { d with cut := true })
    match d.tti with
    | none => .next (dlEvent (incR s (Reg.SCH_CC_DL_TTI_MISS c.val) 1) c.val n)
    | some r =>
      let k := (r.pdsch.filter (fun p => !hasData d p)).length
      .next (if k = 0 then s else dlEvent (incR s (Reg.SCH_CC_TX_DATA_MISS c.val) k) c.val n)

/-! ### The downlink C-plane (12 R394) -/

def symState (d : DlSlot) (k : Nat) : DlSym := mapGet .waiting d.syms k
def setSym (s : State) (c n k : Nat) (x : DlSym) : State := modDl s c n (fun d => { d with syms := mapPut d.syms k x })

/-- The PRBs that the slot's DL_TTI.request allocates in symbol k. -/
def allocPrbs (r : DlTti) (k : Nat) : Nat :=
  (r.pdsch.map (·.alloc) ++ (r.pdcch ++ r.ssb ++ r.csirs).map (·.alloc)).foldl (fun m a => if a.syms.testBit k then m ||| a.prbs else m) 0

/-- rbgSize of extension 6. -/
def rbgSize (s : State) (c : Nat) : Nat := ([1, 2, 3, 4, 6, 8, 16].find? (fun z => decide (ccPrb s c ≤ 28 * z))).getD 16

/-- rbgMask of symbol k: bit g stands for group g. -/
def rbgMask (s : State) (c : Nat) (r : DlTti) (k : Nat) : Nat :=
  let z := rbgSize s c
  (List.range 28).foldl (fun m g => if allocPrbs r k &&& prbMask (g * z) z = 0 then m else m + 2 ^ g) 0

def dlSparse (s : State) (c : Nat) : Bool := getB s (Reg.FHX_CC_DLCFG c) 23

/-- The PRBs that symbol k sends: all of the carrier, or the allocated groups. -/
def symPrbs (s : State) (c : Nat) (r : DlTti) (k : Nat) : List Nat :=
  (List.range (ccPrb s c)).filter (fun b => !dlSparse s c || (rbgMask s c r k).testBit (b / rbgSize s c))

/-- The moment a symbol's C-plane leaves. -/
def dlCpAt (s : State) (c n k : Nat) : Nat :=
  max (symStart s c n k - us (ccLeadMax s c) - us 50) ((getDl s c n).accAt + us 10)

/-- DL_CPLANE_SEND. -/
def execDlCplaneSend (c : CarrierId) (n k : Nat) (s : State) : Host.Outcome State Fault Refusal :=
  let d := getDl s c.val n
  match d.tti with
  | none => .next s
  | some r =>
    if sends s c.val && decide (k < 14) && dlSym s c.val n k && decide (symState d k = .waiting) && decide (dlCpAt s c.val n k ≤ nowGrid s) then
      if dlSparse s c.val && decide (rbgMask s c.val r k = 0) then .next (setSym s c.val n k .silent)
      else
        let s := modDl (setSym s c.val n k .cplane) c.val n (fun d => { d with cpAt := mapPut d.cpAt k (nowGrid s) })
        let ext := if dlSparse s c.val then some (rbgSize s c.val, rbgMask s c.val r k, 2 ^ k) else none
        .next (forEach (exOf s c.val 1 false) s (fun kv s =>
          let q := nextSeq s kv.1 0
          sendFront q.2 kv.1 (if ext.isSome then 24 else 16)
            (.cplane kv.1 q.1 1 (sfnOf s c.val n) (slotOf s c.val n) k 0 (if 255 < ccPrb s c.val then 0 else ccPrb s c.val) (exComp kv.2) ext)))
    else .next s

/-! ### Slot buffers and marks (12 R395) -/

def dlMark (s : State) (c n k : Nat) : Nat := dlBuf s c n + getF s (Reg.FHX_CC_DLCFG c) 11 0 * 65536 - 128 + 8 * k

def readyTag (s : State) (c n k : Nat) : Nat := 2 ^ 63 + sfnOf s c n * 2 ^ 16 + slotOf s c n * 2 ^ 8 + k

/-- A carrier's downlink port count: one more than the highest port of its downlink entries. -/
def dlPorts (s : State) (c : Nat) : Nat := (exOf s c 1 false).foldl (fun m kv => max m (exPort kv.2 + 1)) 0

/-- RE i of a downlink symbol and port, as parts. -/
def dlRe (s : State) (c n l p i : Nat) : XVal × XVal :=
  let fmt := if getF s (Reg.FHX_CC_DLCFG c) 27 24 = 8 then Fmt.cf32 else Fmt.cx16
  let w := fmt.width / 8
  fmt.decodeComplex (getLe s (dlBuf s c n + ((l * dlPorts s c + p) * 12 * ccPrb s c + i) * w) w)

/-! ### Compression (03 R105) -/

/-- Whether a part lies in the range of a w-bit mantissa at exponent x. -/
def mantFits (w : Nat) (v : XVal) (x : Nat) : Bool := !(intEncode w (v.mul2 (-(x : Int)))).clipped

/-- A PRB compressed: its block, and the REs with a clamped part. A part that is no number becomes mantissa 0, clamps nothing and fits every
exponent (DESIGN CHOICE, log 109). -/
def compressPrb (k comp : Nat) (res : List (XVal × XVal)) : PrbIq × Nat :=
  let w := iqWidth comp
  let parts := res.map (fun v => (v.1.mul2 k, v.2.mul2 k))
  let x := if comp = 0 then 0 else ((List.range 16).find? (fun x => parts.all (fun v => mantFits w v.1 x && mantFits w v.2 x))).getD 15
  let conv := parts.map (fun v => (intEncode w (v.1.mul2 (-(x : Int))), intEncode w (v.2.mul2 (-(x : Int)))))
  ({ exp := x, iq := conv.map (fun v => (signed w v.1.code, signed w v.2.code)) },
   (conv.filter (fun v => v.1.clipped || v.2.clipped)).length)

/-! ### Egress (12 R396) -/

/-- Whether RE j of PRB b of symbol k is sent as zero: a PDU without data (02 R80) or dropped after a fault (09 R319) holds it, and no
other work of the slot does. -/
def reZero (d : DlSlot) (r : DlTti) (k b j : Nat) : Bool :=
  let at' := fun (a : DlAlloc) => a.syms.testBit k && a.prbs.testBit b && a.res.testBit j
  let pd := r.pdsch.zipIdx.filter (fun p => at' p.1.alloc)
  let gone := fun (p : PdschPdu × Nat) => !hasData d p.1 || ((d.works[p.2]?).map (·.dropped)).getD false
  pd.any gone && pd.all gone && !(r.pdcch ++ r.ssb ++ r.csirs ++ (d.dci.map (·.pdcch)).getD []).any (fun p => at' p.alloc)

/-- The consecutive runs of a rising list of PRBs. -/
def prbRuns {α : Type} : List (Nat × α) → List (Nat × List α)
  | [] => []
  | (b, p) :: rest =>
    match prbRuns rest with
    | (b', ps) :: more => if b + 1 = b' then (b, p :: ps) :: more else (b, [p]) :: (b', ps) :: more
    | [] => [(b, [p])]

/-- Bytes of a PRB on the wire. -/
def prbWire (comp : Nat) : Nat := if comp = 0 then 48 else 3 * iqWidth comp + 1

/-- PRBs that a frame of a MAC holds beside its headers. -/
def prbsPerFrame (s : State) (e : BitVec 128) : Nat := max 1 ((maxFrame s (exMac e) - 64) / prbWire (exComp e))

/-- Split a list into pieces of at most k items. -/
def chunks {α : Type} (k : Nat) : Nat → List α → List (List α)
  | 0, _ => []
  | n + 1, l => if l.isEmpty then [] else l.take k :: chunks k n (l.drop k)

/-- Bytes of the eCPRI payload of a U-plane frame with so many sections and PRBs. -/
def uplaneBytes (e : BitVec 128) (sections prbs : Nat) : Nat := 8 + sections * (4 + (if exUdHdr e then 2 else 0)) + prbs * prbWire (exComp e)

/-- The payload bytes of a symbol's frames of one eAxC. -/
def symFrames (s : State) (e : BitVec 128) (prbs : List Nat) : List Nat :=
  (chunks (prbsPerFrame s e) 274 (prbs.map (fun b => (b, ())))).map (fun part => uplaneBytes e (prbRuns part).length part.length)

/-- Ticks that a symbol's frames take at the line rates of their MACs. -/
def symTicks (s : State) (c : Nat) (r : DlTti) (k : Nat) : Nat :=
  let prbs := symPrbs s c r k
  let bits := (exOf s c 1 false).map (fun kv => (exMac kv.2, ((symFrames s kv.2 prbs).map (fun n => 8 * (Config.frameBytes 1 n + 20))).sum))
  (bits.map (·.1)).dedup.foldl (fun m mac =>
    let rate := max 1 (modeBits (portMode s (mac / 4)))
    max m ((((bits.filter (fun x => decide (x.1 = mac))).map (·.2)).sum + rate - 1) / rate)) 0

/-- The bound of R81, and the latest start of R396. -/
def dlBound (s : State) (c n k : Nat) : Nat := symStart s c n k - us (ccLeadMin s c)
def dlLatest (s : State) (c n k : Nat) (r : DlTti) : Nat := dlBound s c n k - symTicks s c r k * gridPerTick

/-- Form a symbol's frames of one eAxC and give them to the pace (R396): none leaves before 25 µs after the symbol's C-plane, and those
of a MAC whose link is down are lost. -/
def sendSymbol (s : State) (c n k : Nat) (r : DlTti) (i : Nat) (e : BitVec 128) : State :=
  let d := getDl s c n
  let out := (symPrbs s c r k).map (fun b =>
    let res := (List.range 12).map (fun j => if reZero d r k b j then (XVal.zero, XVal.zero) else dlRe s c n k (exPort e) (12 * b + j))
    (b, compressPrb (exK e) (exComp e) res))
  let clips := (out.map (fun x => x.2.2)).sum
  let s := if clips = 0 then s else incR s (Reg.FHX_CLIP i) clips
  forEach (chunks (prbsPerFrame s e) 274 (out.map (fun x => (x.1, x.2.1)))) s (fun part s =>
    let runs := prbRuns part
    let q := nextSeq s i 1
    let f := frontFrame q.2 i (uplaneBytes e runs.length part.length) (.uplane i q.1 (sfnOf s c n) (slotOf s c n) k (exComp e) runs)
    if linkUp q.2 f.mac then { q.2 with net := { q.2.net with pace := q.2.net.pace ++ [{ after := mapGet 0 d.cpAt k + us 25, frame := f }] } } else q.2)

/-- Whether a frame is of symbol k of slot n of carrier c. -/
def ofSymbol (s : State) (c n k : Nat) (f : TxFrame) : Bool :=
  match f.msg with
  | .uplane i _ sfn slot sym _ _ => decide (exCarrier (exAt s i) = c) && decide (sfn = sfnOf s c n) && decide (slot = slotOf s c n) && decide (sym = k)
  | _ => false

/-- Whether frames of a symbol still wait or are leaving. -/
def symLeaving (s : State) (c n k : Nat) : Bool :=
  s.net.egress.any (ofSymbol s c n k) || s.net.wire.any (fun kv => ofSymbol s c n k kv.2.frame) ||
  s.net.pace.any (fun p => ofSymbol s c n k p.frame)

/-- Count a symbol that is not sent, once (R396). -/
def dlMiss (s : State) (c n k : Nat) : State :=
  if (getDl s c n).lost.contains k then s
  else flag (incR (modDl s c n (fun d => { d with lost := d.lost ++ [k] })) Reg.FHX_DL_MISS 1) Reg.FHX_FLAGS 2

/-- The slot's journal entry is freed once no symbol has anything left to send (09 R312). -/
def dlJournalEnd (s : State) (c n : Nat) : State :=
  let d := getDl s c n
  if d.jnl && (dlSyms s c n).all (fun k => decide (symState d k = .sent ∨ symState d k = .missed ∨ symState d k = .silent)) then
    modDl s c n (fun d => { d with jnl := false })
  else s

/-- PDSCH PDUs whose every symbol has been taken are complete (09 R314). -/
def worksSettle (s : State) (c n : Nat) : State :=
  match (getDl s c n).tti with
  | none => s
  | some r => modDl s c n (fun d => { d with works := d.works.zipIdx.map (fun w =>
      let syms := ((r.pdsch[w.2]?).map (·.alloc.syms)).getD 0
      if (List.range 14).all (fun k => !syms.testBit k || decide (symState d k ≠ .waiting ∧ symState d k ≠ .cplane)) then { w.1 with done := true } else w.1) })

/-- Egress of a symbol ends, or is abandoned: the mark is zeroed. -/
def symEnds (s : State) (c n k : Nat) (x : DlSym) : State :=
  dlJournalEnd (worksSettle (setLe (setSym s c n k x) (dlMark s c n k) 8 0) c n) c n

/-- Whether the engine reads the mark of a symbol in this cycle: at its start less dl_up_lead_max, and every 1 µs from there (R396). -/
def markRead (s : State) (c n k : Nat) : Bool :=
  let first := symStart s c n k - us (ccLeadMax s c)
  decide (first ≤ nowGrid s) && decide ((nowGrid s - first) % us 1 < gridPerTick)

/-- DL_MARK_POLL: a read of the mark. -/
def execDlMarkPoll (c : CarrierId) (n k : Nat) (s : State) : Host.Outcome State Fault Refusal :=
  let d := getDl s c.val n
  match d.tti with
  | none => .next s
  | some r =>
    if sends s c.val && decide (symState d k = .cplane) && markRead s c.val n k && decide (getLe s (dlMark s c.val n k) 8 = readyTag s c.val n k) then
      if dlLatest s c.val n k r < nowGrid s then .next (symEnds (dlMiss s c.val n k) c.val n k .missed)
      else
        let ex := exOf s c.val 1 false
        let s := worksSettle (setSym s c.val n k .sending) c.val n
        let s := if ex.any (fun kv => !linkUp s (exMac kv.2)) then dlMiss s c.val n k else s
        .next (forEach ex s (fun kv s => sendSymbol s c.val n k r kv.1 kv.2))
    else .next s

/-- DL_UPLANE_DEADLINE: after the latest start a symbol is not begun; after the bound what has not left is dropped. -/
def execDlUplaneDeadline (c : CarrierId) (n k : Nat) (s : State) : Host.Outcome State Fault Refusal :=
  let d := getDl s c.val n
  match d.tti with
  | none => .next s
  | some r =>
    if !(getCar s c.val).running || decide (14 ≤ k) || !dlSym s c.val n k then .next s
    else if (symState d k = .cplane ∨ symState d k = .waiting) ∧ dlLatest s c.val n k r < nowGrid s then
      .next (symEnds (dlMiss s c.val n k) c.val n k .missed)
    else if symState d k = .sending ∧ dlBound s c.val n k < nowGrid s ∧ symLeaving s c.val n k then
      let s := { s with net := { s.net with egress := s.net.egress.filter (fun f => !ofSymbol s c.val n k f)
                                            wire := s.net.wire.filter (fun kv => !ofSymbol s c.val n k kv.2.frame)
                                            pace := s.net.pace.filter (fun p => !ofSymbol s c.val n k p.frame) } }
      .next (symEnds (dlMiss s c.val n k) c.val n k .missed)
    else .next s

/-- After a tick of the MACs: symbols whose last frame has left. -/
def egressEnds (s : State) : State :=
  let l := s.carriers.flatMap (fun kv => kv.2.dl.flatMap (fun d =>
    (d.2.syms.filter (fun x => decide (x.2 = .sending))).map (fun x => (kv.1, d.1, x.1))))
  forEach l s (fun x s => if symLeaving s x.1 x.2.1 x.2.2 then s else symEnds s x.1 x.2.1 x.2.2 (if (getDl s x.1 x.2.1).lost.contains x.2.2 then .missed else .sent))

/-- A MAC's link is lost with its frames: each symbol that loses one counts (12 R403). -/
def macLost (s : State) (m : Nat) : State :=
  let hit := s.carriers.flatMap (fun kv => kv.2.dl.flatMap (fun d =>
    ((d.2.syms.filter (fun x => decide (x.2 = .sending))).map (fun x => (kv.1, d.1, x.1)))))
  let hit := hit.filter (fun x =>
    s.net.egress.any (fun f => decide (f.mac = m) && ofSymbol s x.1 x.2.1 x.2.2 f) ||
    s.net.wire.any (fun kv => decide (kv.1 = m) && ofSymbol s x.1 x.2.1 x.2.2 kv.2.frame) ||
    s.net.pace.any (fun p => decide (p.frame.mac = m) && ofSymbol s x.1 x.2.1 x.2.2 p.frame))
  let s := forEach hit s (fun x s => dlMiss s x.1 x.2.1 x.2.2)
  egressEnds (macDrop s m)

end Sys2Proof.Machine
end

