-- ==== Sys2Proof/Machine/Power.lean ====
section
/-!
DEFINITION. Power.lean: operating points, caps and throttling, the stop sequence, clock gates, hub power domains, tile
sleep and die dormancy (15).
-/
namespace Sys2Proof.Machine

open Sys2Proof

/-! ### A compute die's point (R479 to R482) -/

def clkOf (s : State) (d : Nat) : DieClk := nth DieClk.init s.power.clk d
def setClk (s : State) (d : Nat) (x : DieClk) : State := { s with power := { s.power with clk := listSet s.power.clk d x } }
def dieSt (s : State) (d : Nat) : DieSt := nth DieSt.awake s.power.dies d
def setDie (s : State) (d : Nat) (x : DieSt) : State := { s with power := { s.power with dies := listSet s.power.dies d x } }

/-- PWR_DIE_CTLn, and its auto_wake bit (R478). -/
def dieCtl (d : Nat) : Nat := Reg.PWR_DIE_CTL d
def autoWake (s : State) (d : Nat) : Bool := getB s (dieCtl d) 30

def requestedOp (s : State) (d : Nat) : Nat := nth 0 s.sched.opReq d

/-- The ceiling each reason sets on a die, by the reason's bit (R481, R490): a reason that sets no ceiling stands at OP7. -/
def ceilingOf (s : State) (d r : Nat) : Nat :=
  match r with
  | 0 => s.power.capCeil
  | 1 => (clkOf s d).thCeil
  | 2 => (clkOf s d).ilCeil
  | 4 => if s.power.coolHot then getF s Reg.THM_COOLANT_CFG 2 0 else 7
  | 5 => if d = 0 then getF s Reg.PWR_OP_CEIL 2 0 else getF s Reg.PWR_OP_CEIL 6 4
  | _ => 7

/-- The lowest ceiling in force on a die. -/
def lowestCeiling (s : State) (d : Nat) : Nat := (List.range 7).foldl (fun m r => min m (ceilingOf s d r)) 7

/-- The effective point (R481). -/
def effectiveOp (s : State) (d : Nat) : Nat := min (requestedOp s d) (lowestCeiling s d)

/-- The clock duty in force, of 16: the lowest of the cap's, the thermal control's and the brake's (R484, R487, R492). -/
def dutyOf (s : State) (d : Nat) : Nat :=
  let x := clkOf s d
  min (min s.power.capDuty x.thDuty) (if x.halved then getF s Reg.PWR_BRAKE_CFG 20 16 else 16)

/-- Whether a reason is active on a die (R481, R487). -/
def reasonOn (s : State) (d r : Nat) : Bool :=
  let x := clkOf s d
  let binding := decide (ceilingOf s d r < requestedOp s d) && decide (ceilingOf s d r = lowestCeiling s d)
  match r with
  | 0 => binding || decide (s.power.capDuty < 16)
  | 1 => binding || decide (x.thDuty < 16)
  | 3 => x.droop
  | 6 => x.halved
  | _ => binding

/-- The reasons active on a die, bit r for reason r. -/
def reasonsOf (s : State) (d : Nat) : Nat :=
  if s.boot.stage = .stopped then 0 else (List.range 7).foldl (fun m r => if reasonOn s d r then m + 2 ^ r else m) 0

def reasonsNow (s : State) : Nat := reasonsOf s 0 ||| reasonsOf s 1

/-- What follows at once from a change of a ceiling or a request: a raise whose point the effective point no longer reaches is
abandoned and the rail returns to the current point's voltage (R480), a blocked die is free to raise again once avs_timeout
is clear or its effective point has changed, and the reasons met are noted for the present µs (R490). -/
def powerSettle (s : State) : State :=
  let s := [0, 1].foldl (fun s d =>
    let x := clkOf s d
    let e := effectiveOp s d
    let x := match x.raise' with
      | some r => if e < r.to' then { x with raise' := none, volt := x.op } else x
      | none => x
    let x := if x.blocked.isSome && (decide (x.blocked ≠ some e) || !getB s Reg.PWR_FLAGS 4) then { x with blocked := none } else x
    setClk s d x) s
  { s with power := { s.power with seen := s.power.seen ||| reasonsNow s } }

/-- OP_CHANGE (R480): a die whose effective point differs from its point moves one point: down with the clock first, up with
the voltage first. -/
def execOpChange (d : DieId) (s : State) : Host.Outcome State Fault Refusal :=
  let s := powerSettle s
  let x := clkOf s d.val
  let e := effectiveOp s d.val
  if !dieAwake s d.val || x.raise'.isSome then .next s
  else if e < x.op then .next (powerSettle (setClk s d.val { x with op := x.op - 1, volt := x.op - 1 }))
  else if x.op < e ∧ x.blocked = none then
    .next (setClk s d.val { x with raise' := some { to' := x.op + 1, at' := s.now }, volt := x.op + 1 })
  else .next s

/-- AVS_VDONE (R480): the regulator reports the target, and the clock of a raise that still stands switches. -/
def execAvsVdone (d : DieId) (s : State) : Host.Outcome State Fault Refusal :=
  let s := powerSettle s
  let x := clkOf s d.val
  match x.raise' with
  | some r => .next (setClk s d.val { x with op := r.to', raise' := none })
  | none => .next s

/-- AVS_TIMEOUT (R480): a raise not reported within 50 µs is abandoned. -/
def execAvsTimeout (d : DieId) (s : State) : Host.Outcome State Fault Refusal :=
  let s := powerSettle s
  let x := clkOf s d.val
  match x.raise' with
  | some r =>
    if s.now < r.at' + 40000 then .next s
    else .next (event (flag (setClk s d.val { x with raise' := none, volt := x.op, blocked := some (effectiveOp s d.val) }) Reg.PWR_FLAGS 4) 2 4 d.val)
  | none => .next s

/-! ### Energy and the cap (R483, R484) -/

/-- The average power over the samples of the cap window, as energy in µJ and time in µs. -/
def windowSum (s : State) : Nat × Nat := (s.power.window.sum, 100 * s.power.window.length)

/-- CAP_EVAL: 100 µs have passed, in which the package used so many µJ. -/
def execCapEval (energyUj : Nat) (s : State) : Host.Outcome State Fault Refusal :=
  let n := 10 * getF s Reg.PWR_CAP_CFG 9 0
  let s := incR64 s Reg.PWR_ENERGY_LO Reg.PWR_ENERGY_HI energyUj
  let s := { s with power := { s.power with window := (energyUj :: s.power.window).take n } }
  let (e, t) := windowSum s
  let s := setR s Reg.PWR_MEAS (BitVec.ofNat 32 (min 65535 (10 * e / t)))
  let cap := getF s Reg.PWR_CAP 9 0
  let p := s.power
  let s :=
    if cap * t < e then
      let p := if 0 < p.capCeil then { p with capCeil := p.capCeil - 1 } else { p with capDuty := max 8 (p.capDuty - 1) }
      flag { s with power := { p with capLow := 0 } } Reg.PWR_FLAGS 0
    else if 100 * e < 95 * cap * t then
      if p.capLow + 1 < n then { s with power := { p with capLow := p.capLow + 1 } }
      else
        let p := if p.capDuty < 16 then { p with capDuty := p.capDuty + 1 } else { p with capCeil := min 7 (p.capCeil + 1) }
        { s with power := { p with capLow := 0 } }
    else { s with power := { p with capLow := 0 } }
  .next (powerSettle s)

/-! ### The current limit (R486) -/

/-- One rail's reading. -/
def ilimDie (s : State) (d amps : Nat) : State :=
  let x := clkOf s d
  let lim := if d = 0 then getF s Reg.PWR_ILIM 8 0 else getF s Reg.PWR_ILIM 24 16
  if lim < amps then flag (setClk s d { x with ilCeil := x.ilCeil - 1, ilLow := none }) Reg.PWR_FLAGS 1
  else if 100 * amps < 95 * lim then
    match x.ilLow with
    | none => setClk s d { x with ilLow := some s.now }
    | some t =>
      if s.now < t + 800000 then s
      else setClk s d { x with ilCeil := min 7 (x.ilCeil + 1), ilLow := some s.now }
  else setClk s d { x with ilLow := none }

/-- ILIM_EVAL: each compute rail's current is read back, in A. -/
def execIlimEval (a b : Nat) (s : State) : Host.Outcome State Fault Refusal := .next (powerSettle (ilimDie (ilimDie s 0 a) 1 b))

/-! ### Stopping (R493, R494) -/

/-- An address in the SAFE block, which a stop leaves at work (17 Table 17.8). -/
def inSafe (a : Nat) : Bool := decide (0x00010000 ≤ a) && decide (a < 0x00020000)

/-- The stop sequence of Table 15.6: every clock stops, every domain turns off, the HBM and the scratchpads lose their
contents, no further frame is sent; the cause is latched in the Safelight. Device time stops (13 R407). -/
def stopDevice (s : State) (coolant trip : Bool) : State :=
  let s := { s with safe := { s.safe with coolant := s.safe.coolant || coolant, trip := s.safe.trip || trip } }
  if s.boot.stage = .stopped then s
  else
    let s := { s with
      power := { s.power with dies := [.stopped, .stopped], hubOn := 0 }
      boot := { s.boot with stage := .stopped, reloading := false, swap := false, fwAt := none }
      time := { s.time with running := false }
      net := { s.net with egress := [], wire := [], pace := [] }
      host := { s.host with held := s.host.held.filter (fun h => !h.mem && inSafe h.addr)
                            buffer := s.host.buffer.filter (fun p => match p with | .reg a _ => inSafe a | _ => false)
                            flb := none, flbFail := none }
      mem := [], ecc := Ecc.init, tiles := [], ctxs := [], scrubWant := [] }
    setF s Reg.BOOT_STATUS 31 28 7

/-- COOLANT_STOP: two consecutive low samples of COOLANT_OK, 1 µs apart. -/
def execCoolantStop (s : State) : Host.Outcome State Fault Refusal := .next (stopDevice s true false)

/-! ### Thermal control (R489, R491 to R493) -/

/-- The highest of a range of sensors, in 0.125 °C. -/
def hottest (temps : List Int) (lo n : Nat) : Int := ((temps.drop lo).take n).foldl max ((temps[lo]?).getD 0)

def temp16 (x : Int) : Word := BitVec.ofNat 32 (wrapN 16 x)

/-- One die's thermal ceiling and duty: down one step per 1 ms at or above 100 °C, up one step per 10 ms at or below 97 °C. -/
def thermalDie (s : State) (d : Nat) (own hub : Int) : State :=
  let x := clkOf s d
  if 800 ≤ own ∨ 800 ≤ hub then
    if s.now < x.thMoved + 800000 then s
    else
      let x := if 0 < x.thCeil then { x with thCeil := x.thCeil - 1 } else { x with thDuty := max 8 (x.thDuty - 1) }
      flag (setClk s d { x with thMoved := s.now }) Reg.THM_FLAGS 1
  else if own ≤ 776 ∧ hub ≤ 776 ∧ (x.thCeil < 7 ∨ x.thDuty < 16) then
    if s.now < x.thMoved + 8000000 then s
    else
      let x := if x.thCeil < 7 then { x with thCeil := x.thCeil + 1 } else { x with thDuty := x.thDuty + 1 }
      setClk s d { x with thMoved := s.now }
  else s

/-- A sensor's reading: passing warn_c sets THM_FLAGS.warn and posts an event that names the sensor. -/
def sensorRead (s : State) (i : Nat) (t : Int) : State :=
  let warn := (getF s Reg.THM_CFG 7 0 : Int) * 8
  let old := signed 16 (getN s (Reg.THM_SENSOR i))
  let s := setR s (Reg.THM_SENSOR i) (temp16 t)
  if warn < t ∧ old ≤ warn then event (flag s Reg.THM_FLAGS 0) 2 2 i else s

/-- THERMAL_EVAL: the 40 sensors as read, in 0.125 °C; one at 115 °C trips the device. -/
def execThermalEval (temps : List Int) (s : State) : Host.Outcome State Fault Refusal :=
  if temps.length ≠ 40 then .fault .illFormed
  else
    let s := forEach temps.zipIdx s (fun x s => sensorRead s x.2 x.1)
    let a := hottest temps 0 16
    let b := hottest temps 16 16
    let h := hottest temps 32 8
    let s := setR (setR (setR s Reg.THM_TJ_A (temp16 a)) Reg.THM_TJ_B (temp16 b)) Reg.THM_TJ_HUB (temp16 h)
    let s := powerSettle (thermalDie (thermalDie s 0 a h) 1 b h)
    .next (if temps.any (fun t => decide (920 ≤ t)) then stopDevice s false true else s)

/-- The coolant warning after a write of THM_COOLANT or of its configuration. -/
def coolantEval (s : State) : State :=
  let v := getR s Reg.THM_COOLANT
  let t := signed 16 (fieldOf v 15 0)
  let warn := (getF s Reg.THM_COOLANT_CFG 23 16 : Int) * 8
  let put := fun (s : State) (b : Bool) => { s with power := { s.power with coolHot := b } }
  let s :=
    if bitOf v 31 && decide (warn < t) then
      (if s.power.coolHot then s else event (flag (put s true) Reg.THM_FLAGS 2) 2 3 0)
    else if !bitOf v 31 || decide (t ≤ warn - 16) then put s false
    else s
  powerSettle s

/-- COOLANT_TEMP_WRITE (R489): a write of THM_COOLANT. -/
def execCoolantTempWrite (v : Word) (s : State) : Host.Outcome State Fault Refusal :=
  .next (coolantEval (regWrite s Reg.THM_COOLANT v))

/-! ### The brake and droop (R487, R488) -/

/-- Halve the clocks of the compute dies that run. -/
def brakeApply (s : State) : State :=
  let on := [0, 1].filter (dieAwake s)
  if on.isEmpty then s
  else powerSettle (flag (on.foldl (fun s d => setClk s d { (clkOf s d) with halved := true }) s) Reg.PWR_FLAGS 3)

/-- Whether the compute clocks have started (Table 16.2 step 3). -/
def clocksRun (s : State) : Bool := decide (s.boot.stage ≠ .judging ∧ s.boot.stage ≠ .noReference ∧ s.boot.stage ≠ .locking ∧ s.boot.stage ≠ .stopped)

/-- BRAKE_FALL: PWR_BRAKE_N falls. -/
def execBrakeFall (s : State) : Host.Outcome State Fault Refusal :=
  let s := { s with power := { s.power with brakeLow := true, brakeUntil := none } }
  .next (if clocksRun s then brakeApply s else s)

/-- BRAKE_RISE: the hold of hold_us begins. -/
def execBrakeRise (s : State) : Host.Outcome State Fault Refusal :=
  if s.power.brakeLow then
    let held := s.power.clk.any (·.halved)
    .next { s with power := { s.power with brakeLow := false,
                                           brakeUntil := if held then some (s.now + 800 * getF s Reg.PWR_BRAKE_CFG 9 0) else none } }
  else .next s

/-- BRAKE_HOLD_END: the hold has run and the halving ends. -/
def execBrakeHoldEnd (s : State) : Host.Outcome State Fault Refusal :=
  match s.power.brakeUntil with
  | some t =>
    if s.now < t then .next s
    else .next (powerSettle { s with power := { s.power with brakeUntil := none, clk := s.power.clk.map (fun x => { x with halved := false }) } })
  | none => .next s

/-- DROOP_DETECT: a detector of a die finds its supply below the threshold, and the clock is stretched. -/
def execDroopDetect (d : DieId) (s : State) : Host.Outcome State Fault Refusal :=
  if dieAwake s d.val && clocksRun s then .next (powerSettle (flag (setClk s d.val { (clkOf s d.val) with droop := true }) Reg.PWR_FLAGS 2)) else .next s

/-- DROOP_END: every detector of a die has been above the threshold for 64 cycles. -/
def execDroopEnd (d : DieId) (s : State) : Host.Outcome State Fault Refusal :=
  .next (setClk s d.val { (clkOf s d.val) with droop := false })

/-! ### Clock gates and hub domains (R469 to R472) -/

/-- A carrier context of the armed plan is in use. -/
def anyCarrier (s : State) : Bool := schArmed s && (List.range 32).any (fun c => getB s (Reg.SCH_CC_CFG c 0) 31)

/-- A Peer Link is cabled in the group map. -/
def cabled (s : State) (l : Nat) : Bool := decide (linkState s l ≠ 0)

/-- A block that the armed plan uses: gate bit i of CLK_GATE_EN0 (k = 0) or CLK_GATE_EN1. -/
def gateUsed (s : State) (k i : Nat) : Bool :=
  if k = 0 then
    match i with
    | 4 => schArmed s
    | 10 => schArmed s
    | 0 => false
    | 1 => false
    | _ => anyCarrier s
  else if i < 8 then anyCarrier s && decide (getF s (Reg.ETH_P_CFG i) 1 0 ≠ 0)
  else schArmed s && cabled s (i - 8) && decide (1 < groupSize s)

/-- A block that is at work: its gate waits for the block's next idle cycle. The decoders work on code blocks, RXM on searches, an
Ethernet port on frames to send, and a Peer Link on frames not yet acknowledged. -/
def gateBusy (s : State) (k i : Nat) : Bool :=
  if k = 0 then
    match i with
    | 7 => s.coding.slices.any (·.isSome)
    | 8 => !s.coding.uciQ.isEmpty
    | 9 => s.carriers.any (fun kv => kv.2.ul.any (fun u => u.2.occs.any (·.searching)))
    | _ => false
  else if i < 8 then s.net.egress.any (fun f => decide (f.mac / 4 = i)) || s.net.wire.any (fun kv => decide (kv.1 / 4 = i))
  else !(getL s (i - 8)).replay.isEmpty || !(getL s (i - 8)).waiting.isEmpty

def gateReg (k : Nat) : Nat := if k = 0 then Reg.CLK_GATE_EN0 else Reg.CLK_GATE_EN1

/-- A write of a clock gate register (R470, 16 R523): SEC and BOOT stay open from step 3, the blocks of the armed plan stay
open, and a busy block's gate closes when it is idle. In Holding every other gate stays closed (16 R512). -/
def gateWrite (s : State) (k : Nat) (v : Word) : State :=
  let a := gateReg k
  let v := if s.boot.stage = .holding ∨ s.boot.stage = .recovery then v &&& (if k = 0 then 3#32 else 0#32) else v
  let n := if k = 0 then 11 else 12
  let cleared := (List.range n).filter (fun i => getB s a i && !bitOf v i)
  let kept := fun i => gateUsed s k i || (decide (k = 0) && decide (i < 2))
  if cleared.any kept then reservedWrite s
  else
    let wait := cleared.filter (gateBusy s k)
    let off := s.power.gateOff.filter (fun g => !(decide (g.1 = k) && bitOf v g.2))
    let s := regWrite s a v
    let s := forEach wait s (fun i s => flag s a i)
    { s with power := { s.power with gateOff := (off ++ wait.map (fun i => (k, i))).dedup } }

/-- Gates whose block has become idle close. -/
def closeGates (s : State) : State :=
  let done := s.power.gateOff.filter (fun g => !gateBusy s g.1 g.2)
  if done.isEmpty then s
  else forEach done { s with power := { s.power with gateOff := s.power.gateOff.filter (fun g => !done.contains g) } } (fun g s => setBitR s (gateReg g.1) g.2 false)

/-- CLK_GATE_WRITE. -/
def execClkGateWrite (k : Fin 2) (v : Word) (s : State) : Host.Outcome State Fault Refusal := .next (gateWrite s k.val v)

/-- A switched hub domain is on, by its bit of PWR_HUB_EN. -/
def hubOn (s : State) (i : Nat) : Bool := s.power.hubOn.testBit i

/-- The lines of a weight cache bank are gone (06 R228, R231). -/
def wcEmptyBank (s : State) (k : Nat) : State := { s with wc := { s.wc with sets := mapFilter (fun n => decide (n % 4 ≠ k)) s.wc.sets } }

/-- A weight cache bank's array comes up zeroed (15 R472). -/
def wcZeroBank (s : State) (k : Nat) : State :=
  let s := wcEmptyBank s k
  { s with wc := { s.wc with filled := mapFilter (fun n => decide (n % 12288 % 4 ≠ k)) s.wc.filled } }

/-- A hub domain turns off: a weight cache bank empties. -/
def hubOff (s : State) (i : Nat) : State :=
  let s := { s with power := { s.power with hubOn := if hubOn s i then s.power.hubOn - 2 ^ i else s.power.hubOn } }
  if 14 ≤ i then wcEmptyBank s (i - 14) else s

/-- An LDPC slice that is decoding stays on until its code block is finished. -/
def sliceBusy (s : State) (i : Nat) : Bool := decide (8 ≤ i) && decide (i < 12) && (nth none s.coding.slices (i - 8)).isSome

/-- Domains that have been switched off and are no longer at work turn off. -/
def hubSettle (s : State) : State :=
  forEach ((List.range 18).filter (fun i => hubOn s i && !getB s Reg.PWR_HUB_EN i && !sliceBusy s i)) s (fun i s => hubOff s i)

/-- Whether turning a domain off is refused (R472). -/
def hubRefused (s : State) (i : Nat) : Bool :=
  if i < 4 then decide (getF s (Reg.ETH_P_CFG (2 * i)) 1 0 ≠ 0) || decide (getF s (Reg.ETH_P_CFG (2 * i + 1)) 1 0 ≠ 0)
  else if i < 8 then cabled s (i - 4)
  else if i = 12 ∨ i = 13 then anyCarrier s
  else false

/-- A write of PWR_HUB_EN (R472): a refused write changes nothing. -/
def hubEnWrite (s : State) (v : Word) : State :=
  let off := (List.range 18).filter (fun i => getB s Reg.PWR_HUB_EN i && !bitOf v i)
  if off.any (hubRefused s) then reservedWrite s else hubSettle (regWrite s Reg.PWR_HUB_EN v)

/-- PWR_HUB_EN_WRITE. -/
def execPwrHubEnWrite (v : Word) (s : State) : Host.Outcome State Fault Refusal := .next (hubEnWrite s v)

/-- HUB_DOMAIN_ON (R472, Table 15.5): domain d of Table 15.3, 74 to 91, finishes its power-up and comes up zeroed. -/
def execHubDomainOn (d : Nat) (s : State) : Host.Outcome State Fault Refusal :=
  let i := d - 74
  if d < 74 ∨ 91 < d ∨ hubOn s i ∨ getB s Reg.PWR_HUB_EN i = false ∨ s.boot.stage = .stopped then .next s
  else
    let s := { s with power := { s.power with hubOn := s.power.hubOn ||| 2 ^ i } }
    .next (if 4 ≤ i ∧ i < 8 then modL s (i - 4) (fun x => { PeerLink.init with out := x.out, since := s.now })
      else if i = 13 then { s with carriers := s.carriers.map (fun kv => (kv.1, { kv.2 with rxStore := [] })) }
      else if 14 ≤ i then wcZeroBank s (i - 14)
      else s)

/-! ### Tile sleep (R473 to R475) -/

def sleepEn (s : State) (t : Nat) : Bool := getB s (Reg.TILE_PWR_CTL t) 31

/-- An exposure that is due, waits or still has to start on a tile, one that waits behind its own context (08 R274), or a stopped one
that waits to resume on it. -/
def tileWanted (s : State) (t : Nat) : Bool :=
  s.ctxs.any (fun kv =>
    let on := fun (i : ExpInst) => ((entryAt s (ctxPart s kv.1) i.entry).map (fun e => bitOf e.tiles t)).getD false
    kv.2.inst.any (fun i => on i && (wantsTiles kv.2 || (isRunning kv.2 && !i.started.contains t))) || kv.2.queued.any on)

/-- The planned starts of the entries whose tile set meets a set of tiles. -/
def nextStarts (s : State) (meet : BitVec 256 → Bool) : List Nat :=
  if !schArmed s then []
  else ((s.plan.map (·.parts)).getD []).flatMap (fun q => q.entries.zipIdx.filterMap (fun (e, i) =>
    if meet e.tiles then some (plannedStart s q.part i e) else none))

/-- A teardown is in progress on a tile: pages of its scratchpad wait for their scrub (08 Table 08.8). -/
def tornDown (s : State) (t : Nat) : Bool :=
  s.foreignDirty.any (fun p => decide (spBase t ≤ p * 0x10000) && decide (p * 0x10000 < spBase t + spBytes))

/-- Whether a tile may sleep. -/
def maySleep (s : State) (t : Nat) : Bool :=
  let ahead := s.time.dev + (getF s (Reg.TILE_PWR_CTL t) 9 0 + 2) * unitsPerUs
  sleepEn s t && decide ((getT s t).power = .awake) && (getT s t).run.isNone && !tileWanted s t && dieAwake s (dieOf t) &&
    (nextStarts s (fun w => bitOf w t)).all (fun x => decide (ahead < x)) && !tornDown s t

/-- TILE_SLEEP. -/
def execTileSleep (t : TileId) (s : State) : Host.Outcome State Fault Refusal :=
  .next (if maySleep s t.val then modT s t.val (fun x => { x with power := .asleep }) else s)

/-- TILE_WAKE (R475): a due exposure or a resume that finds the tile asleep, or a lead that has begun, wakes it. -/
def execTileWake (t : TileId) (s : State) : Host.Outcome State Fault Refusal :=
  let lead := (nextStarts s (fun w => bitOf w t.val)).any (fun x => decide (x ≤ s.time.dev + 2 * unitsPerUs))
  .next (if (tileWanted s t.val || lead) && dieAwake s (dieOf t.val) then wakeTile s t.val else s)

/-- TILE_AWAKE (R475): the wake has taken its 2 µs; the Enlarger stands at activity level 0 (04 R146). -/
def execTileAwake (t : TileId) (s : State) : Host.Outcome State Fault Refusal :=
  let x := getT s t.val
  .next (if x.power = .waking ∧ x.wakeAt + 1600 ≤ s.now then
      setT s t.val { x with power := .awake, enl := quietEnl x.enl }
    else s)

/-! ### Die dormancy (R476 to R478) -/

/-- A die begins to wake. -/
def wakeDie (s : State) (d : Nat) : State :=
  if dieSt s d = .dormant then setClk (setDie s d .waking) d { (clkOf s d) with wakeAt := s.now } else s

/-- A write of PWR_DIE_CTLn: dormant = 1 requests dormancy; dormant = 0 wakes a dormant die, and withdraws a request. -/
def dieCtlWrite (s : State) (d : Nat) (v : Word) : State :=
  let s := regWrite s (dieCtl d) v
  if bitOf v 31 then (if dieSt s d = .awake then setDie s d .entering else s) else wakeDie s d

/-- DIE_DORMANCY_REQUEST. -/
def execDieDormancyRequest (d : DieId) (v : Word) (s : State) : Host.Outcome State Fault Refusal :=
  .next (if bitOf v 31 then dieCtlWrite s d.val v else s)

/-- DIE_WAKE_REQUEST. -/
def execDieWakeRequest (d : DieId) (v : Word) (s : State) : Host.Outcome State Fault Refusal :=
  .next (if bitOf v 31 then s else dieCtlWrite s d.val v)

/-- A tile set touches a die. -/
def touches (d : Nat) (w : BitVec 256) : Bool := (tilesOf w).any (fun t => decide (dieOf t = d))

/-- An entry that touches the die is due within 52 µs and wakes it by itself (Table 15.7). -/
def autoWakeDue (s : State) (d : Nat) : Bool :=
  autoWake s d && (nextStarts s (touches d)).any (fun x => decide (x ≤ s.time.dev + 52 * unitsPerUs))

/-- The conditions of R476, and the deferral of Table 15.7. -/
def mayDormant (s : State) (d : Nat) : Bool :=
  let tiles := (List.range 128).map (· + 128 * d)
  tiles.all (fun t => (getT s t).run.isNone && !tileWanted s t) &&
    s.ctxs.all (fun kv => kv.2.stopping.all (fun t => decide (dieOf t ≠ d)) && kv.2.negs.all (fun n => decide (dieOf n.1 ≠ d) || kv.2.negHbm.contains n.1)) &&
    !autoWakeDue s d

/-- The tiles of a die lose their units' state and stand asleep. -/
def dieDark (s : State) (d : Nat) : State :=
  forEach ((List.range 128).map (· + 128 * d)) s (fun t s =>
    let s := modT (clearUnit s t) t (fun x => { x with power := .asleep, lastCtx := none, tlb := [], enl := quietEnl x.enl })
    { s with ecc := { s.ecc with scrubQ := s.ecc.scrubQ.filter (fun r => decide (r.tile ≠ t)) } })

/-- DIE_DORMANCY_ENTER (R476): a wake written meanwhile follows the entry (Table 15.7). -/
def execDieDormancyEnter (d : DieId) (s : State) : Host.Outcome State Fault Refusal :=
  if dieSt s d.val = .entering ∧ mayDormant s d.val then
    let s := dieDark (setDie s d.val .dormant) d.val
    .next (if getB s (dieCtl d.val) 31 then s else wakeDie s d.val)
  else .next s

/-- DIE_AUTO_WAKE (R478). -/
def execDieAutoWake (d : DieId) (s : State) : Host.Outcome State Fault Refusal :=
  .next (if autoWakeDue s d.val then wakeDie s d.val else s)

/-- DIE_READY (R478): 50 µs after its wake began a die stands at OP0, with its scratchpads zeroed. A standing request for
dormancy takes hold again once its conditions do. -/
def execDieReady (d : DieId) (s : State) : Host.Outcome State Fault Refusal :=
  if dieSt s d.val = .waking ∧ (clkOf s d.val).wakeAt + 40000 ≤ s.now then
    let s := setDie s d.val (if getB s (dieCtl d.val) 31 then .entering else .awake)
    let s := setClk s d.val { (clkOf s d.val) with op := 0, volt := 0, raise' := none, blocked := none, droop := false }
    let s := { s with sched := { s.sched with opReq := listSet s.sched.opReq d.val 0 } }
    let s := forEach ((List.range 128).map (· + 128 * d.val)) s (fun t s => zeroRange s (spBase t) spBytes)
    .next (if s.power.brakeLow then brakeApply s else powerSettle s)
  else .next s

/-! ### The Safelight's µs (R490) -/

/-- The end of a µs of the Safelight: every reason met in it counts once, and the next µs begins with the reasons that are
active now. Spans of collectives note the reasons of the dies their context uses (14 R460). -/
def powerMicro (s : State) : State :=
  let s := forEach ((List.range 7).filter (fun r => s.power.seen.testBit r)) s (fun r s => incR64 s (Reg.PWR_THR_US_LO r) (Reg.PWR_THR_US_HI r) 1)
  { s with power := { s.power with seen := reasonsNow s } }

/-- What a tick adds to the spans of collectives in progress. -/
def spanTick (s : State) : State :=
  { s with peer := { s.peer with spans := s.peer.spans.map (fun kv =>
      let dies := (((declOf s kv.1).map (fun d => tilesOf d.tiles)).getD []).map dieOf
      let r := (dies.dedup.map (reasonsOf s)).foldl (· ||| ·) 0
      if r = 0 then kv else (kv.1, { kv.2 with reasons := kv.2.reasons ||| r, throttled := kv.2.throttled + 1 })) } }

end Sys2Proof.Machine
end

