-- ==== Sys2Proof/Machine/TimeSync.lean ====
section
/-!
DEFINITION. TimeSync.lean: device time, its steps, the servos, PPS, the timed pins (13) and the loss of the reference
(15 R467). Rates are exact integers in units of 2^-40 ppb: a Q8.24 gain times a sample in 2^-16 ns is one.
-/
namespace Sys2Proof.Machine

open Sys2Proof

/-! ### Servos and rates (13 R405, R419 to R425) -/

def activeServo (s : State) : Nat := if getB s Reg.TIME_STATUS 30 then 1 else 0
def servoOf (s : State) (n : Nat) : Servo := nth Servo.init s.time.servos n
def setServo (s : State) (n : Nat) (x : Servo) : State := { s with time := { s.time with servos := listSet s.time.servos n x } }
def servoEn (s : State) (n : Nat) : Bool := getB s (Reg.TIME_S_CFG n) 31
def servoSrc (s : State) (n : Nat) : Nat := getF s (Reg.TIME_S_CFG n) 29 28
def dpllMode (s : State) : Nat := getF s Reg.TIME_DPLL_CFG 1 0

/-- The rate correction of a servo, −y; a servo in free-run gives none. -/
def servoRate (x : Servo) : Int := if x.st = 0 then 0 else -x.y

/-- The rate of device time (R405, R425): the recovered clock of mode 1 stands at its nominal rate here (DESIGN CHOICE, log 22). -/
def timeRate (s : State) : Int :=
  if dpllMode s = 2 then 0
  else match s.time.rateHeld with
    | some r => r
    | none => servoRate (servoOf s (activeServo s))

/-- A flag of TIME_FLAGS is set and posts its event (R434). -/
def timeFlag (s : State) (bit arg : Nat) : State := event (flag s Reg.TIME_FLAGS bit) 4 bit arg

def clampInt (x lim : Int) : Int := max (-lim) (min lim x)

/-! ### Time steps (R411, R412, R432) -/

/-- Device time as a step leaves it: 48 bits of seconds. -/
def wrapTime (x : Int) : Nat := (x % ((2 ^ 48 * unitsPerSec : Nat) : Int)).toNat

/-- A step's size as its event carries it: ns, to the nearest with ties to even, saturated to 32 bits. -/
def stepSize (old new : Nat) : Nat :=
  let d : Int := (new : Int) - old
  wrapN 32 (max (-2147483648) (min 2147483647 (rneInt (decide (d < 0)) d.natAbs 65536)))

def getPin (s : State) (k : Nat) : Tpin := mapGet Tpin.init s.time.pins k
def setPin (s : State) (k : Nat) (x : Tpin) : State := { s with time := { s.time with pins := mapSet Tpin.init s.time.pins k x } }
def pinArmed (s : State) (k : Nat) : Bool := getB s (Reg.TPIN_I_CFG k) 31

/-- The first instant base + m × len, m ≥ 0, that is not past. -/
def firstFrom (base len now : Nat) : Nat := if now ≤ base then base else base + (now - base + len - 1) / len * len

/-- The next trigger of an armed pin, from device time now (Table 13.6). -/
def nextTrigger (s : State) (x : Tpin) : Nat :=
  let gps := 315964819 * unitsPerSec
  match x.mode with
  | 3 => firstFrom x.t x.period s.time.dev
  | 4 => firstFrom (gps + x.t) (cycleUnits 0) s.time.dev
  | 5 => firstFrom (gps + x.t) (cycleUnits (cycleCode s)) s.time.dev
  | _ => x.t

/-- Armed pins after a time step (R432). -/
def pinsStep (s : State) : State :=
  forEach ((List.range 16).filter (pinArmed s)) s (fun k s =>
    let x := getPin s k
    setPin s k { x with next := nextTrigger s x, late := decide (x.mode = 2) && decide (x.t < s.time.dev) })

/-- Device time is stepped to a new value (R412). -/
def timeStep (s : State) (new : Nat) : State :=
  let old := s.time.dev
  let s := { s with time := { s.time with dev := new, ppsDone := new } }
  pinsStep (planStep (timeFlag s 2 (stepSize old new)) old)

/-- The time that TIME_SET names. -/
def setTime (s : State) : Nat :=
  ((getF s Reg.TIME_SET_SEC_HI 15 0 * 2 ^ 32 + getN s Reg.TIME_SET_SEC_LO) * 1000000000 + getN s Reg.TIME_SET_NS) * 65536 + getF s Reg.TIME_SET_FRAC 15 0

/-- Device time becomes valid, and the plan may arm (R406; 08 R265); PPS_OUT rises at the instants from then on (R427). -/
def timeValid (s : State) : State :=
  if getB s Reg.TIME_STATUS 31 then s
  else armNow { (setBitR s Reg.TIME_STATUS 31 true) with time := { s.time with ppsDone := s.time.dev } }

/-- TIME_CTL.set (R411). -/
def timeSet (s : State) (setValid : Bool) : State :=
  if !s.time.running then s
  else
    let s := timeStep { s with time := { s.time with setAt := some s.now } } (setTime s)
    if setValid then timeValid s else s

/-- TIME_CTL.adj (R411). -/
def timeAdj (s : State) : State :=
  if !s.time.running then s
  else timeStep s (wrapTime ((s.time.dev : Int) + signed 48 (getF s Reg.TIME_ADJ_HI 15 0 * 2 ^ 32 + getN s Reg.TIME_ADJ_LO)))

/-- TIME_SET. -/
def execTimeSet (setValid : Bool) (s : State) : Host.Outcome State Fault Refusal := .next (timeSet s setValid)

/-- TIME_ADJ. -/
def execTimeAdj (s : State) : Host.Outcome State Fault Refusal := .next (timeAdj s)

/-! ### Switching servos (R422 to R424) -/

/-- A loss of a servo's source is due by its timeout (R421); in the cycle the timeout expires a sample still applies (Table 13.7). -/
def lossDue (s : State) (n : Nat) : Bool :=
  ((servoOf s n).last.map (fun t => decide (t + 800000 * getN s (Reg.TIME_S_LOSS n) < s.now))).getD false

/-- The shadow counts as locked for Table 13.5; a shadow that loses its source in the same cycle does not (Table 13.7). -/
def shadowLocked (s : State) : Bool :=
  let n := 1 - activeServo s
  decide ((servoOf s n).st = 2) && !lossDue s n

/-- The shadow becomes active: it takes the sum of the rates as its I, and `offset` as its offset, which the PI law removes.
The former active servo becomes the shadow, whose virtual clock starts at its first sample (R424). -/
def switchServo (s : State) (offset : Int) : State :=
  let a := activeServo s
  let n := 1 - a
  let old := servoOf s a
  let x := servoOf s n
  let f : Int := (getN s (Reg.TIME_S_FMAX n) : Int) * 2 ^ 40
  let i := clampInt ((if old.st = 0 then 0 else old.y) + (if x.st = 0 then 0 else x.y)) f
  let s := setServo s n { x with i := i, y := clampInt ((getN s (Reg.TIME_S_KP n) : Int) * offset + i) f, phi := 0, phiAcc := 0, started := false }
  let s := setServo s a { old with phi := 0, phiAcc := 0, started := false }
  let s := setR s (Reg.TIME_S_PHASE n) (BitVec.ofNat 32 (wrapN 32 (offset / 256)))
  let s := setBitR (setBitR s Reg.TIME_STATUS 30 (decide (n = 1))) Reg.TIME_STATUS 25 false
  timeFlag { s with time := { s.time with former := some a } } 3 n

/-- Rows 2 to 4 of Table 13.5 for a locked shadow. -/
def switchRows (s : State) (policy : Bool) : State :=
  let n := 1 - activeServo s
  let phi := (servoOf s n).phi
  if phi.natAbs ≤ 50 * 65536 then switchServo s phi
  else if policy then switchServo (timeStep s (wrapTime ((s.time.dev : Int) + phi))) 0
  else timeFlag s 4 (activeServo s)

/-- A switch by the device's own decision; a driver's request in the same cycle finds it done (Table 13.7). -/
def autoSwitch (s : State) : State :=
  let a := activeServo s
  let s := switchRows s (getB s Reg.TIME_SWITCH_CFG 0)
  if activeServo s = a then s else { s with time := { s.time with switchAt := some s.now } }

/-- Table 13.5, when the active servo has entered holdover. -/
def switchOnLoss (s : State) : State := if shadowLocked s then autoSwitch s else s

/-- The switch back of R424, once the former active servo locks as shadow. -/
def switchBack (s : State) : State :=
  if getB s Reg.TIME_SWITCH_CFG 1 then
    let a := activeServo s
    let s := autoSwitch s
    if activeServo s = a then s else { s with time := { s.time with former := none } }
  else s

/-- A driver's switch request (R424); in the cycle of an automatic switch it has no effect (Table 13.7). -/
def switchRequest (s : State) (force : Bool) : State :=
  if s.time.switchAt = some s.now then s
  else if shadowLocked s then switchRows s (force || getB s Reg.TIME_SWITCH_CFG 0) else timeFlag s 4 (activeServo s)

/-- TIME_SWITCH_REQUEST. -/
def execTimeSwitchRequest (force : Bool) (s : State) : Host.Outcome State Fault Refusal := .next (if s.time.running then switchRequest s force else s)

/-! ### Samples and losses (R420, R421) -/

/-- A servo enters holdover: the rate is held at I of the last accepted sample. -/
def enterHold (s : State) (n : Nat) : State :=
  let x := servoOf s n
  let s := setServo s n { x with st := 3, y := x.i, run := 0, holdAt := s.now }
  timeFlag s 1 n

/-- The lock state after a sample (Table 13.4): `v` is x, or x′ of the shadow, in 2^-16 ns. A shadow that locks in the cycle the active
servo lost its source counts as locked for Table 13.5 (Table 13.7). -/
def lockStep (s : State) (n : Nat) (v : Int) : State :=
  let x := servoOf s n
  let act := activeServo s
  if x.st = 2 then
    let thr := getF s (Reg.TIME_S_UNLOCK n) 15 0 * 65536
    let run := if thr < v.natAbs then x.run + 1 else 0
    let s := setServo s n { x with run := run }
    if thr < v.natAbs ∧ getF s (Reg.TIME_S_UNLOCK n) 23 16 ≤ run then
      let s := enterHold s n
      if act = n then switchOnLoss s else s
    else s
  else
    let good := decide (v.natAbs ≤ getF s (Reg.TIME_S_LOCK n) 15 0 * 65536)
    let run := if good then x.run + 1 else 0
    if good ∧ getF s (Reg.TIME_S_LOCK n) 23 16 ≤ run then
      let s := timeFlag (setServo s n { x with st := 2, run := 0, ever := true }) 0 n
      if act = n then timeValid s
      else if (servoOf s act).st = 3 ∧ (servoOf s act).holdAt = s.now then switchOnLoss s
      else if s.time.former = some n then switchBack s else s
    else setServo s n { x with st := 1, run := run }

/-- An offset sample reaches a servo, in 2^-16 ns (R413, R420 to R422). One that would step device time in the cycle of a driver's set is
discarded (Table 13.7). -/
def servoSample (s : State) (n : Nat) (x : Int) : State :=
  if !servoEn s n || !s.time.running then s
  else
    let s0 := s
    let v := servoOf s n
    let active := decide (activeServo s = n)
    let s := incR s (Reg.TIME_S_SAMPLES n) 1
    let s := if active && decide (v.st = 3) then setBitR s Reg.TIME_STATUS 25 false else s
    let v := { v with last := some s.now, st := if v.st = 0 ∨ v.st = 3 then 1 else v.st, run := if v.st = 0 ∨ v.st = 3 then 0 else v.run }
    let v := if active || v.started then v else { v with started := true, phi := x, phiAcc := 0 }
    let e := if active then x else x - v.phi
    let thr := getN s (Reg.TIME_S_STEP_THR n) * 65536
    let mayStep := getB s (Reg.TIME_S_CFG n) 27 && (!schArmed s || getB s (Reg.TIME_S_CFG n) 26)
    let s := if active then setR s (Reg.TIME_S_PHASE n) (BitVec.ofNat 32 (wrapN 32 (x / 256))) else s
    if thr ≤ e.natAbs ∧ mayStep ∧ active = true ∧ s.time.setAt = some s.now then s0
    else if thr ≤ e.natAbs ∧ mayStep then
      let v := { v with st := 1, run := 0, phi := if active then v.phi else v.phi + e }
      let s := incR (setServo s n v) (Reg.TIME_S_STEPS n) 1
      if active then timeStep s (wrapTime ((s.time.dev : Int) - x)) else s
    else
      let f : Int := (getN s (Reg.TIME_S_FMAX n) : Int) * 2 ^ 40
      let i := clampInt (v.i + (getN s (Reg.TIME_S_KI n) : Int) * e) f
      let y := clampInt ((getN s (Reg.TIME_S_KP n) : Int) * e + i) f
      lockStep (setServo s n { v with i := i, y := y }) n e

/-- SERVO_SAMPLE. -/
def execServoSample (n : Fin 2) (x : BitVec 48) (s : State) : Host.Outcome State Fault Refusal := .next (servoSample s n.val x.toInt)

/-- A servo's source is lost (R421): from locked it enters holdover; before it has ever locked it returns to free-run. -/
def servoLoss (s : State) (n : Nat) : State :=
  let x := servoOf s n
  let act := activeServo s
  let s := setServo s n { x with last := none }
  if x.st = 2 then
    let s := enterHold s n
    if act = n then switchOnLoss s else s
  else if x.st = 1 ∧ x.ever = false then setServo s n { x with st := 0, run := 0, last := none }
  else s

/-- SERVO_LOSS_TIMEOUT: loss_timeout has passed without a sample. -/
def execServoLossTimeout (n : Fin 2) (s : State) : Host.Outcome State Fault Refusal :=
  .next (if lossDue s n.val && s.time.running then servoLoss s n.val else s)

/-- Whole seconds of a servo's holdover. -/
def holdSec (s : State) (n : Nat) : Nat := if (servoOf s n).st = 3 then (s.now - (servoOf s n).holdAt) / 800000000 else 0

/-- HOLD_LIMIT_EXPIRED (R421). -/
def execHoldLimitExpired (s : State) : Host.Outcome State Fault Refusal :=
  let a := activeServo s
  if (servoOf s a).st = 3 ∧ getN s Reg.TIME_HOLD_LIMIT ≤ holdSec s a ∧ getB s Reg.TIME_STATUS 25 = false then
    .next (timeFlag (setBitR s Reg.TIME_STATUS 25 true) 5 a)
  else .next s

/-! ### The DPLL's references (15 R467, 13 R425) -/

/-- The recovered clock of synce_src is lost, in mode 1. -/
def synceLoss (s : State) : State :=
  if dpllMode s = 1 ∧ s.time.synceLost = false then
    timeFlag { s with time := { s.time with rateHeld := some (timeRate s), synceLost := true } } 7 (activeServo s)
  else s

/-- A logical MAC's link is up. -/
def macUp (s : State) (m : Nat) : Bool := getB s (Reg.ETH_P_STATUS (m / 4)) (m % 4)

def synceSrc (s : State) : Nat := getF s Reg.TIME_DPLL_CFG 12 8

/-- The frequency to which SYNCE_CLK_OUTn divides its source's clock, in Hz. -/
def synceHz (s : State) (n : Nat) : Nat := if getB s (Reg.TIME_SYNCE_OUT n) 30 then 156250000 else 25000000

/-- What SYNCE_CLK_OUTn carries (R426): the logical MAC whose recovered clock it divides and the frequency it comes to, or none while it is held low,
disabled or with its source's link down. -/
def synceClk (s : State) (n : Nat) : Option (Nat × Nat) :=
  let m := getF s (Reg.TIME_SYNCE_OUT n) 4 0
  if getB s (Reg.TIME_SYNCE_OUT n) 31 && linkUp s m then some (m, synceHz s n) else none

/-- SYNCE_CLOCK_LOST. -/
def execSynceClockLost (s : State) : Host.Outcome State Fault Refusal := .next (synceLoss s)

/-- SYNCE_CLOCK_RESTORED: the recovered clock of a link that is up has returned. -/
def execSynceClockRestored (s : State) : Host.Outcome State Fault Refusal :=
  .next (if s.time.synceLost && macUp s (synceSrc s) then { s with time := { s.time with rateHeld := none, synceLost := false } } else s)

/-- A write of TIME_DPLL_CFG: leaving mode 1 ends the hold; entering it, or naming another source, judges the source's link. -/
def dpllWrite (s : State) (v : Word) : State :=
  let old := getR s Reg.TIME_DPLL_CFG
  let s := regWrite s Reg.TIME_DPLL_CFG v
  if fieldOf old 1 0 = dpllMode s ∧ fieldOf old 12 8 = synceSrc s then s
  else
    let s := { s with time := { s.time with rateHeld := none, synceLost := false } }
    if dpllMode s = 1 ∧ macUp s (synceSrc s) = false then synceLoss s else s

/-- REF_LOST (15 R467): the clock monitor finds the reference stopped or drifting; the PLLs hold their frequency. -/
def execRefLost (s : State) : Host.Outcome State Fault Refusal :=
  if clocksRun s ∧ getB s Reg.TIME_DPLL_STATUS 30 = false then
    .next (event (flag (flag { s with boot := { s.boot with refOk := false } } Reg.TIME_DPLL_STATUS 30) Reg.CLK_FLAGS 0) 2 1 0)
  else .next s

/-! ### PPS (13 R427, R428) -/

/-- PPS_IN_EDGE: an edge of the selected polarity, its offset from the nearest device second, and the sample it is. -/
def execPpsInEdge (s : State) : Host.Outcome State Fault Refusal :=
  if !getB s Reg.TIME_PPS_IN_CFG 31 || !s.time.running then .next s
  else
    let r := s.time.dev % unitsPerSec
    let x : Int := if 2 * r < unitsPerSec then (r : Int) else (r : Int) - unitsPerSec
    let s := setBitR (setR s Reg.TIME_PPS_IN_ERR (BitVec.ofNat 32 (wrapN 32 (x / 256)))) Reg.TIME_STATUS 24 true
    let s := { s with time := { s.time with ppsIn := some s.now } }
    .next (forEach ([0, 1].filter (fun n => decide (servoSrc s n = 1))) s (fun n s => servoSample s n x))

/-- PPS_IN_LOST: 1.5 s without an edge. -/
def execPpsInLost (s : State) : Host.Outcome State Fault Refusal :=
  match s.time.ppsIn with
  | some t =>
    if s.now < t + 1200000000 then .next s
    else
      let on := [0, 1].filter (fun n => decide (servoSrc s n = 1) && servoEn s n)
      let s := setBitR { s with time := { s.time with ppsIn := none } } Reg.TIME_STATUS 24 false
      let s := timeFlag s 6 (on.headD (activeServo s))
      .next (forEach on s (fun n s => servoLoss s n))
  | none => .next s

/-- The last instant of PPS_OUT at or before now. -/
def ppsInstant (s : State) : Int :=
  let ofs := signed 32 (getN s Reg.TIME_PPS_OUT_OFS) * 65536
  ((s.time.dev : Int) - ofs) / (unitsPerSec : Int) * unitsPerSec + ofs

/-- PPS_OUT is held low while device time is invalid or the output is disabled. -/
def ppsAllowed (s : State) : Bool := getB s Reg.TIME_STATUS 31 && getB s Reg.TIME_PPS_OUT 31 && s.time.running

/-- PPS_OUT_EDGE: the output falls once its width has passed, else rises at the instant that has come. -/
def execPpsOutEdge (s : State) : Host.Outcome State Fault Refusal :=
  let put := fun (u : Option Nat) (d : Nat) => { s with time := { s.time with ppsUntil := u, ppsDone := d } }
  if !ppsAllowed s then .next (put none s.time.ppsDone)
  else if (s.time.ppsUntil.map (fun u => decide (u ≤ s.time.dev))).getD false then .next (put none s.time.ppsDone)
  else
    let i := (ppsInstant s).toNat
    if s.time.ppsDone < i then .next (put (some (i + getF s Reg.TIME_PPS_OUT 8 0 * 1000 * unitsPerUs)) i) else .next s

/-- A write of TIME_PPS_OUT or TIME_PPS_OUT_OFS: an output that is off is low, and one that is switched on or shifted rises at the instants
from then on. -/
def ppsWrite (s : State) (a : Nat) (v : Word) : State :=
  let was := ppsAllowed s
  let at' := ppsInstant s
  let s := regWrite s a v
  if !ppsAllowed s then { s with time := { s.time with ppsUntil := none } }
  else if !was || decide (ppsInstant s ≠ at') then { s with time := { s.time with ppsDone := s.time.dev } }
  else s

/-! ### Frames and timed pins (13 R408, R429 to R431) -/

/-- The device frame that holds device time, from the GPS epoch. -/
def frameNow (s : State) : Nat := (s.time.dev - 315964819 * unitsPerSec) / cycleUnits 0

/-- DEVICE_FRAME_START: a frame has started that none has followed yet; a step back starts its frames again. -/
def execDeviceFrameStart (s : State) : Host.Outcome State Fault Refusal :=
  .next (if s.time.running then { s with time := { s.time with frame := frameNow s } } else s)

/-- The level of a pin: an output drives its active level while a pulse is in progress and its inactive one otherwise; an input stands as the
board drives it (R429). -/
def pinLevel (s : State) (k : Nat) : Bool :=
  let m := getF s (Reg.TPIN_I_CFG k) 2 0
  if 2 ≤ m ∧ m ≤ 5 then (getPin s k).active ^^ getB s (Reg.TPIN_I_CFG k) 3 else (getPin s k).level

/-- A flag of TPIN_i_FLAGS is set and posts its event (R434). -/
def pinFlag (s : State) (k bit : Nat) : State := event (flag s (Reg.TPIN_I_FLAGS k) bit) 5 (4 * k + bit) k

/-- A pin's arm ends and it stands at its inactive level. -/
def pinOff (s : State) (k : Nat) : State :=
  setPin (setBitR s (Reg.TPIN_I_CFG k) 31 false) k { (getPin s k) with active := false, until' := none, late := false }

/-- A configuration is refused (R430): the period bounds mode 3, which alone uses it. -/
def pinBad (mode period width : Nat) : Bool :=
  match mode with
  | 3 => decide (period < 10 * 65536) || decide (period ≤ width)
  | 4 => decide (10000000 * 65536 ≤ width)
  | 5 => decide (10000000 * 65536 ≤ width)
  | _ => false

/-- Arm a pin with the times as they stand (R430). -/
def pinArm (s : State) (k : Nat) : State :=
  let mode := getF s (Reg.TPIN_I_CFG k) 2 0
  let ns := getN s (Reg.TPIN_I_T_NS k)
  let t := if mode = 2 ∨ mode = 3 then
      ((getF s (Reg.TPIN_I_T_SEC_HI k) 15 0 * 2 ^ 32 + getN s (Reg.TPIN_I_T_SEC_LO k)) * 1000000000 + ns) * 65536 + getF s (Reg.TPIN_I_T_FRAC k) 15 0
    else ns * 65536
  let period := getN s (Reg.TPIN_I_PERIOD_NS k) * 65536 + getF s (Reg.TPIN_I_PERIOD_FRAC k) 15 0
  let width := getN s (Reg.TPIN_I_WIDTH k) * 65536
  if mode < 2 ∨ 5 < mode then setBitR s (Reg.TPIN_I_CFG k) 31 false
  else if pinBad mode period width then pinFlag (pinOff s k) k 3
  else
    let x := { (getPin s k) with mode := mode, t := t, period := period, width := width, active := false, until' := none,
                                 late := decide (mode = 2) && decide (t < s.time.dev) }
    setPin (setBitR s (Reg.TPIN_I_CFG k) 31 true) k { x with next := nextTrigger s x }

/-- A write of TPIN_i_CFG: the fields first, then disarm, then arm. A new mode ends what the pin was doing (Table 13.6). -/
def pinCfgWrite (s : State) (k : Nat) (v : Word) : State :=
  let a := Reg.TPIN_I_CFG k
  let old := getR s a
  let s := regWrite s a v
  let s := setBitR (setBitR s a 30 false) a 31 (bitOf old 31)
  let s := if bitOf v 30 || decide (fieldOf old 2 0 ≠ getF s a 2 0) then pinOff s k else s
  if bitOf v 31 then pinArm s k else s

/-- TPIN_ARM. -/
def execTpinArm (k : Fin 16) (v : Word) (s : State) : Host.Outcome State Fault Refusal := .next (if bitOf v 31 then pinCfgWrite s k.val v else s)

/-- TPIN_DISARM. -/
def execTpinDisarm (k : Fin 16) (v : Word) (s : State) : Host.Outcome State Fault Refusal := .next (if bitOf v 30 then pinCfgWrite s k.val v else s)

/-- TPIN_FIRE: an armed pin's trigger instant has come. -/
def execTpinFire (k : Fin 16) (s : State) : Host.Outcome State Fault Refusal :=
  let x := getPin s k.val
  if !pinArmed s k.val || !s.time.running || decide (s.time.dev < x.next) || (decide (x.mode = 5) && !schArmed s) then .next s
  else
    let at' := if x.late then s.time.dev else x.next
    let u := if x.mode = 2 ∧ x.width = 0 then none else some (at' + x.width)
    let s := pinFlag s k.val 0
    let s := if x.late then pinFlag s k.val 1 else s
    let next := match x.mode with
      | 3 => x.next + x.period
      | 4 => x.next + cycleUnits 0
      | 5 => x.next + cycleUnits (cycleCode s)
      | _ => x.next
    let s := setPin s k.val { x with active := true, until' := u, late := false, next := next }
    .next (if x.mode = 2 then setBitR s (Reg.TPIN_I_CFG k.val) 31 false else s)

/-- TPIN_PULSE_END. -/
def execTpinPulseEnd (k : Fin 16) (s : State) : Host.Outcome State Fault Refusal :=
  let x := getPin s k.val
  if x.active && (x.until'.map (fun u => decide (u ≤ s.time.dev))).getD false then .next (setPin s k.val { x with active := false, until' := none })
  else .next s

/-- TPIN_CAPTURE_EDGE: the pin's level changes, and in mode 1 an edge of the selected polarity is stamped. -/
def execTpinCaptureEdge (k : Fin 16) (rising : Bool) (s : State) : Host.Outcome State Fault Refusal :=
  let cfg := getR s (Reg.TPIN_I_CFG k.val)
  let s := setPin s k.val { (getPin s k.val) with level := rising }
  let x := getPin s k.val
  let sel := match fieldOf cfg 5 4 with
    | 0 => rising
    | 1 => !rising
    | _ => true
  if fieldOf cfg 2 0 ≠ 1 ∨ sel = false then .next s
  else if x.fifo.length < 4 then .next (setPin s k.val { x with fifo := x.fifo ++ [s.time.dev] })
  else .next (pinFlag s k.val 2)

/-- A write of TPIN_i_CAP_POP. -/
def capPop (s : State) (k : Nat) (v : Word) : State :=
  let x := getPin s k
  let s := regWrite s (Reg.TPIN_I_CAP_POP k) v
  if bitOf v 0 then setPin s k { x with fifo := x.fifo.tail } else s

/-- TPIN_CAP_POP. -/
def execTpinCapPop (k : Fin 16) (v : Word) (s : State) : Host.Outcome State Fault Refusal := .next (capPop s k.val v)

/-! ### Other writes of the TIME block -/

/-- A write of TIME_CTL (R411, R424; Table 13.7): set, then adj, then the switch. -/
def timeCtlWrite (s : State) (v : Word) : State :=
  let s := setR (regWrite s Reg.TIME_CTL v) Reg.TIME_CTL 0#32
  let s := if bitOf v 0 then timeSet s (bitOf v 1) else s
  let s := if bitOf v 2 then timeAdj s else s
  if bitOf v 3 && s.time.running then switchRequest s (bitOf v 4) else s

/-- A write of TIME_Sn_OFFSET_LO keeps the sample's low word; a write of TIME_Sn_OFFSET_HI submits the sample to a servo whose
source is the firmware (R419). -/
def offsetLo (s : State) (n : Nat) (v : Word) : State := setR s (Reg.TIME_S_OFFSET_LO n) v

def offsetHi (s : State) (n : Nat) (v : Word) : State :=
  let s := regWrite s (Reg.TIME_S_OFFSET_HI n) v
  if servoSrc s n = 0 then servoSample s n (signed 48 (fieldOf v 15 0 * 2 ^ 32 + getN s (Reg.TIME_S_OFFSET_LO n))) else s

/-! ### The tick (R405, R407) -/

/-- The denominator of a tick's advance: 10^9 × 2^40. -/
def rateUnit : Nat := 1000000000 * 2 ^ 40

/-- One time-domain cycle: device time advances by 1.25 ns scaled by the rate, exactly, and the shadow's phase by its rate. -/
def timeTick (s : State) : State :=
  if !s.time.running then s
  else
    let num : Int := (s.time.acc : Int) + 81920 * ((rateUnit : Int) + timeRate s)
    let n := 1 - activeServo s
    let x := servoOf s n
    let s := { s with time := { s.time with dev := s.time.dev + (num / rateUnit).toNat, acc := (num % rateUnit).toNat } }
    if x.started && decide (x.st ≠ 0) then
      let p : Int := x.phiAcc + 81920 * x.y
      setServo s n { x with phi := x.phi + p / rateUnit, phiAcc := p % rateUnit }
    else s

end Sys2Proof.Machine
end

