-- ==== Sys2Proof/Machine/Ether.lean ====
section
/-!
DEFINITION. Ether.lean: the Ethernet ports (12 R379 to R382), one-way-delay measurement (12 R386), PTP messages (13 R417) and
the reassembly of northbound messages (12 R398).
-/
namespace Sys2Proof.Machine

open Sys2Proof

/-! ### Port modes and links -/

/-- TIME_P_CORR of a port mode (13 Table 13.2). -/
def corrOf (mode : Nat) : Word := match mode with
  | 2 => BitVec.ofNat 32 (510 * 65536 + 880)
  | 3 => BitVec.ofNat 32 (710 * 65536 + 1320)
  | _ => BitVec.ofNat 32 (435 * 65536 + 666)

/-- A link goes down: its frames are lost, and a recovered clock with it (13 R425). -/
def linkDown (s : State) (m : Nat) : State :=
  let p := m / 4
  if !getB s (Reg.ETH_P_STATUS p) (m % 4) then s
  else
    let s := setBitR (setBitR s (Reg.ETH_P_STATUS p) (m % 4) false) (Reg.ETH_P_STATUS p) (4 + m % 4) false
    let s := macLost (flag s (Reg.ETH_P_FLAGS p) (m % 4)) m
    if m = synceSrc s then synceLoss s else s

/-- A write of ETH_P_CFG: a change of mode drops the port's links. -/
def ethModeWrite (s : State) (p : Nat) (v : Word) : State :=
  let old := portMode s p
  let s' := regWrite s (Reg.ETH_P_CFG p) v
  if portMode s' p = old then s'
  else
    let s := (List.range 4).foldl (fun s q => linkDown s (4 * p + q)) s
    setR (regWrite s (Reg.ETH_P_CFG p) v) (Reg.TIME_P_CORR p) (corrOf (portMode s' p))

/-- ETH_MODE_WRITE. -/
def execEthModeWrite (p : Fin 8) (v : Word) (s : State) : Host.Outcome State Fault Refusal := .next (ethModeWrite s p.val v)

/-- ETH_LINK_UP: a sub-port of the present mode. -/
def execEthLinkUp (m : MacId) (s : State) : Host.Outcome State Fault Refusal :=
  let p := m.val / 4
  .next (if modeHas (portMode s p) (m.val % 4) then
    setBitR (setBitR s (Reg.ETH_P_STATUS p) (m.val % 4) true) (Reg.ETH_P_STATUS p) (4 + m.val % 4) true else s)

/-- ETH_LINK_DOWN. -/
def execEthLinkDown (m : MacId) (s : State) : Host.Outcome State Fault Refusal := .next (linkDown s m.val)

/-! ### Received frames (R381, R382) -/

/-- The PTP multicast addresses (13 Table 13.3). -/
def ptpDst (d : Nat) : Bool := decide (d = 0x011B19000000 ∨ d = 0x0180C200000E)

def addSegment (r : Reasm) (seg : Nat) (more : Bool) : Reasm :=
  { r with segs := if r.segs.contains seg then r.segs else r.segs ++ [seg], last := if more then r.last else some seg }

/-- Whether every segment of a message is here. -/
def Reasm.whole (r : Reasm) : Bool := match r.last with
  | some k => (List.range (k + 1)).all (fun i => r.segs.contains i)
  | none => false

/-- The messages that the northbound engine takes (Table 12.6). -/
def nbKnown (msgId : Nat) : Bool := decide (msgId = 0x80 ∨ msgId = 0x81 ∨ msgId = 0x83 ∨ msgId = 0x84)

/-- The first reason of Table 12.7 of a message known by its transport header alone, if its segments are missing or it is
none of Table 12.6. -/
def headCode (s : State) (r : Reasm) : Nat :=
  match nbCarrier s r.phyId with
  | none => 1
  | some c => if !nbKnown r.msgId then 2 else if !(getCar s c).running then 3 else 5

/-- A segment of a northbound message: a message outside Table 12.6 is rejected once it is whole. -/
def nbSegment (s : State) (mac phyId msgId seq seg : Nat) (more : Bool) : State :=
  let key := fun (r : Reasm) => decide (r.mac = mac ∧ r.phyId = phyId ∧ r.msgId = msgId ∧ r.seq = seq)
  let new : Reasm := { mac := mac, phyId := phyId, msgId := msgId, seq := seq, segs := [], last := none, first := s.now }
  let r := addSegment ((s.net.reasm.find? key).getD new) seg more
  let rest := s.net.reasm.filter (fun r => !key r)
  if r.whole && !nbKnown msgId then nbReject { s with net := { s.net with reasm := rest } } (nbCarrier s phyId) msgId (headCode s r)
  else { s with net := { s.net with reasm := rest ++ [r] } }

/-- Whether a segment's datagram is sound (R398). A UDP checksum is given as whether it passes. -/
def datagramOk (ipv6 fragment ipCsumBad : Bool) (udpCsum : Option Bool) : Bool :=
  !fragment && (ipv6 || !ipCsumBad) && (match udpCsum with | some ok => ok | none => !ipv6)

/-- Classify an accepted frame (Table 12.2). eCPRI frames are the fronthaul rows' own commands. -/
def classify (s : State) (f : EthFrame) : State :=
  let m := f.mac.val
  let own := decide (f.dst = macAddr s m)
  let drop := incR s (Reg.ETH_PQ_RX_UNCLASS (m / 4) (m % 4)) 1
  match f.body with
  | .ptp ty sq _ =>
    if own || ptpDst f.dst then { s with net := { s.net with ingress := s.net.ingress ++ [(m, ty, sq, stampIn s m f.ago)] } } else drop
  | .slow sub => if sub = 0x0A then s else drop
  | .ecpri => if own then s else drop
  | .udp ipv6 srcIp srcPort ip port fragment bad csum phyId msgId seq seg more =>
    if own && (ipv6 == nbIpv6 s) && decide (ip = (nbPath s).localIp) && decide (port = (nbPath s).localPort) then
      if nbHears s m && fromPeer s srcIp srcPort && datagramOk ipv6 fragment bad csum then nbSegment s m phyId msgId seq seg more else s
    else drop
  | .pause => s
  | .other => drop

/-- ETH_FRAME_RX. -/
def execEthFrameRx (f : EthFrame) (s : State) : Host.Outcome State Fault Refusal :=
  let m := f.mac.val
  let reg := fun (r : Nat → Nat → Nat) => r (m / 4) (m % 4)
  if !linkUp s m then .next s
  else if !f.fcsOk || decide (f.length < 64) || decide (maxFrame s m < f.length) || decide (2 ≤ f.tags.length) then
    .next (incR s (reg Reg.ETH_PQ_RX_ERR) 1)
  else if f.body = .pause then .next (incR s (reg Reg.ETH_PQ_RX_PAUSE) 1)
  else if f.tags.isEmpty && !getB s (Reg.ETH_P_CFG (m / 4)) (8 + m % 4) then .next (incR s (reg Reg.ETH_PQ_RX_ERR) 1)
  else .next (classify (incR s (reg Reg.ETH_PQ_RX_FRAMES) 1) f)

/-- NB_SEG_TIMEOUT: segments of a message are still missing seg_timeout after its first. -/
def execNbSegTimeout (p : Fin 16) (s : State) : Host.Outcome State Fault Refusal :=
  match s.net.reasm[p.val]? with
  | some r =>
    if !r.whole && decide (r.first + 800 * getF s Reg.NB_TIMING 31 16 ≤ s.now) then
      .next (nbReject { s with net := { s.net with reasm := s.net.reasm.erase r } } (nbCarrier s r.phyId) r.msgId (headCode s r))
    else .next s
  | none => .next s

/-! ### One-way delay (R386) -/

/-- Queue a type 5 message on a MAC. -/
def sendOwd (s : State) (mac dst action measId stamp : Nat) : State :=
  enqueue s { mac := mac, queue := 0, bytes := Config.frameBytes 3 24, dst := dst, msg := .owd action measId stamp 0 }

/-- Whether a type 5 message has the form that Table 12.3 lists: revision 1, no concatenation, its payload size the frame's. -/
def owdForm (f : OwdMsg) : Bool := f.sizeOk && decide (f.revision = 1) && !f.concat

/-- ECPRI_OWD_REQUEST: actions 0x00 and 0x01 are answered with the ingress stamp; 0x05 brings a follow-up's stamp and needs no
answer of its own. -/
def execEcpriOwdRequest (f : OwdMsg) (s : State) : Host.Outcome State Fault Refusal :=
  let m := f.mac.val
  if !linkUp s m then .next s
  else if !owdForm f || !decide (f.action = 0 ∨ f.action = 1 ∨ f.action = 5) then .next (incR s Reg.FHX_RX_BADHDR 1)
  else if f.action = 5 then .next s
  else .next (sendOwd s m f.src 2 f.measId (stampIn s m f.ago))

/-- The MAC through which an RU is reached: that of the lowest valid eAxC entry that names it. -/
def ruPort (s : State) (ru : Nat) : Option Nat := (s.net.eaxc.find? (fun kv => exValid kv.2 && decide (exRu kv.2 = ru))).map (fun kv => exMac kv.2)

/-- A write of FHX_OWD_CTL: start begins a measurement unless one is in progress. -/
def owdCtlWrite (s : State) (v : Word) : State :=
  let busy := s.net.owd.isSome
  let s := setBitR (regWrite s Reg.FHX_OWD_CTL v) Reg.FHX_OWD_CTL 31 (busy || bitOf v 31)
  if busy || !bitOf v 31 then s
  else
    let ru := fieldOf v 5 0
    let (k, s) := fresh s
    let id := Config.freeValue k % 256
    let s := { setR s Reg.FHX_OWD_RESULT 0#32 with net := { s.net with owd := some { ru := ru, measId := id, start := s.now, stamp := 0 } } }
    match ruPort s ru with
    | some m => sendOwd s m (ruMac s ru) 0 id 0
    | none => s

/-- OWD_START. -/
def execOwdStart (v : Word) (s : State) : Host.Outcome State Fault Refusal := .next (owdCtlWrite s v)

/-- A measurement ends with its result. -/
def owdEnd (s : State) (result : Nat) : State :=
  { setBitR (setR s Reg.FHX_OWD_RESULT (BitVec.ofNat 32 result)) Reg.FHX_OWD_CTL 31 false with net := { s.net with owd := none } }

/-- OWD_RESPONSE_RX: the delay is the response's corrected receive stamp less the request's egress stamp, in ns. -/
def execOwdResponseRx (f : OwdMsg) (s : State) : Host.Outcome State Fault Refusal :=
  if !linkUp s f.mac.val then .next s
  else if !owdForm f || decide (f.action ≠ 2) then .next (incR s Reg.FHX_RX_BADHDR 1)
  else match s.net.owd with
    | some o =>
      if f.measId = o.measId ∧ o.stamp ≠ 0 then
        let d : Int := ((f.stamp : Nat) : Int) - f.comp - ((o.stamp : Nat) : Int)
        .next (owdEnd s (2 ^ 31 + wrapN 30 (d / 65536)))
      else .next s
    | none => .next s

/-- OWD_TIMEOUT: 10 ms without a response. -/
def execOwdTimeout (s : State) : Host.Outcome State Fault Refusal :=
  match s.net.owd with
  | some o => .next (if o.start + 8000000 ≤ s.now then owdEnd s (2 ^ 30) else s)
  | none => .next s

/-! ### PTP (13 R417) -/

/-- PTP_EVENT_MESSAGE_TX: the firmware hands a message to a MAC; a one-step Sync takes its stamp as it leaves. -/
def execPtpEventMessageTx (r : PtpTx) (s : State) : Host.Outcome State Fault Refusal :=
  .next (enqueue s { mac := r.mac.val, queue := r.pcp % 8, bytes := r.length, dst := 0x011B19000000,
                     msg := .ptp r.msgType r.seqId (if r.oneStep ∧ r.msgType = 0 then some 0 else none) })

end Sys2Proof.Machine
end

