-- ==== Sys2Proof/Machine/PeerGroup.lean ====
section
/-!
DEFINITION. PeerGroup.lean: the commands of Peer Links and device groups (14).
-/
namespace Sys2Proof.Machine

open Sys2Proof

/-! ### Frames (R437, R440 to R444) -/

/-- Drop the kept frames that an acknowledgement covers: it names the next number expected. -/
def ackFrames (s : State) (l ack : Nat) : State :=
  modL s l (fun x =>
    if x.replay.any (fun k => decide (k.frame.seq = ack)) then { x with replay := x.replay.dropWhile (fun k => decide (k.frame.seq ≠ ack)) }
    else if ack = x.txSeq then { x with replay := [] }
    else x)

/-- A link-control frame that carries only the header's acknowledgement, or a nack. -/
def ackFrame (s : State) (nack : Bool) : PeerFrame := { ownFrame s 1 (ownMember s) .ack with nack := nack }

/-- A frame checked against the epoch at its destination (R444). -/
def epochChecked (b : PeerBody) : Bool :=
  match b with
  | .data _ => true
  | .arrival _ _ => true
  | .withdrawal _ _ => true
  | .release _ _ => true
  | .timeReq _ _ => true
  | .timeResp _ _ _ _ _ => true
  | _ => false

/-- A frame in transit: it waits here for its residence time (R449). -/
def forwardBody (s : State) (b : PeerBody) : PeerBody :=
  match b with
  | .timeReq t r => .timeReq t (r - (s.time.dev : Int))
  | .timeResp a b' t r q => .timeResp a b' t r (q - (s.time.dev : Int))
  | b => b

/-- A data frame for which no link that is up leads on. -/
def cutOff (s : State) (f : PeerFrame) : Bool := f.kind == 0 && !((routeTo s f.dst).map (peerUp s)).getD false

/-- A frame for another member (R437). A burst whose route is cut here faults its source context, by a stream notice to the source's
member (R442; DEDUCED, log 76). -/
def forwardFrame (s : State) (l : Nat) (f : PeerFrame) : State :=
  if 7 ≤ f.hops then flag (incR s (Reg.PEER_L_HOP_DROP l) 1) Reg.PEER_GRP_FLAGS 1
  else if cutOff s f then sendTo s { ownFrame s 2 f.src .notice with stream := f.stream }
  else sendTo (incR s (Reg.PEER_L_FWD l) 1) { f with hops := f.hops + 1, nack := false, body := forwardBody s f.body }

/-! ### Roll calls (R446 to R448) -/

/-- 100 ms of device time. -/
def armLead : Nat := 100000 * unitsPerUs

def groupForms (s : State) : State :=
  flag (setBitR { s with peer := { s.peer with formed := true } } Reg.PEER_GRP_STATUS 31 true) Reg.PEER_GRP_FLAGS 0

/-- The arm cycle reaches this member. -/
def takeArmCycle (s : State) (t : Nat) : State := armNow (groupForms { s with peer := { s.peer with armAt := some t } })

/-- A worker whose answer a formed group has accepted arms after 100 ms (R448). -/
def takeAccepted (s : State) (formed : Bool) : State :=
  if formed && s.peer.armAt.isNone then takeArmCycle s (cycleFrom s (s.time.dev + armLead)) else s

/-- The conditions on a worker's answer (R446). -/
def answerOk (s : State) (m : Member) (nonce : Nat) (p pub : List Byte) : Bool :=
  decide (p.length = 256) && decide (sha256 pub = m.keyDigest) && ecdsaVerify pub (p.take 192) (p.drop 192) &&
  decide ((p.take 8) = leBytes 4 0x42585046 ++ leBytes 2 1 ++ leBytes 2 256) &&
  decide (leNat ((p.drop 8).take 16) = nonce) && decide (leNat ((p.drop 24).take 16) = m.devId) &&
  decide (leNat ((p.drop 44).take 4) = epochOf s) && decide ((p.drop 104).take 32 = regBytes s (Reg.BOOT_SHEET_DIGEST 0) 8)

/-- A Proof reaches the manager. -/
def takeAnswer (s : State) (m : Nat) (p pub : List Byte) : State :=
  match s.peer.roll, s.peer.members[m]? with
  | some r, some mem =>
    if s.now ≤ r.start + 8000000 ∧ answerOk s mem r.nonce p pub ∧ r.ok.testBit m = false then
      let s := { s with peer := { s.peer with roll := some { r with ok := r.ok + 2 ^ m } } }
      sendTo s (ownFrame s 2 m (.accepted s.peer.formed))
    else s
  | _, _ => s

/-- ROLL_CALL_START: a write of PEER_ROLL_CTL.start, on the manager. -/
def execRollCallStart (s : State) : Host.Outcome State Fault Refusal := .next (startRoll s)

/-- PEER_GRP_CFG.roll_period, in ticks. -/
def rollPeriod (s : State) : Nat := getF s Reg.PEER_GRP_CFG 15 0 * 800000

/-- ROLL_PERIOD_EXPIRY. -/
def execRollPeriodExpiry (s : State) : Host.Outcome State Fault Refusal :=
  .next (if s.peer.lastRoll + rollPeriod s ≤ s.now then startRoll s else s)

/-- The group forms: the manager fixes the arm cycle and sends it to every member (R447). -/
def formGroup (s : State) : State :=
  let t := cycleFrom s (s.time.dev + armLead)
  let s := takeArmCycle s t
  forEach ((List.range (groupSize s)).drop 1) s (fun m s => sendTo s (ownFrame s 2 m (.armCycle t)))

/-- ROLL_CALL_TIMEOUT: the 10 ms window closes. -/
def execRollCallTimeout (s : State) : Host.Outcome State Fault Refusal :=
  match s.peer.roll with
  | none => .next s
  | some r =>
    if s.now < r.start + 8000000 then .next s
    else
      let n := groupSize s
      let missing := (List.range n).filter (fun m => !r.ok.testBit m)
      let s := { s with peer := { s.peer with roll := none } }
      let s := setN64 s Reg.PEER_MEMBER_OK_LO Reg.PEER_MEMBER_OK_HI r.ok
      let s := setR s Reg.PEER_ROLL_STATUS (BitVec.ofNat 32 ((n - 1 - missing.length) * 256 + missing.length))
      let s := forEach missing s (fun m s => event (flag s Reg.PEER_GRP_FLAGS 4) 9 1 m)
      .next (if missing.isEmpty && !s.peer.formed then formGroup s else s)

/-- MANAGER_LOST: a worker of a formed group has received no roll call for three periods. -/
def execManagerLost (s : State) : Host.Outcome State Fault Refusal :=
  if !isManager s && s.peer.formed && !s.peer.lost && decide (s.peer.lastRoll + 3 * rollPeriod s ≤ s.now) then
    .next (event (flag { s with peer := { s.peer with lost := true } } Reg.PEER_GRP_FLAGS 5) 9 3 0)
  else .next s

/-- A roll-call nonce reaches a worker: its Proof is queued. -/
def takeNonce (s : State) (n : Nat) : State :=
  let s := { s with peer := { s.peer with lastRoll := s.now, lost := false } }
  if canSign s then { s with sec := { s.sec with queue := s.sec.queue ++ [.roll n] } } else s

/-! ### Time frames (R449) -/

/-- The servos that take their samples from the group manager (13 R419). -/
def peerServos (s : State) : List Nat := [0, 1].filter (fun n => servoEn s n && decide (servoSrc s n = 2))

/-- One of them. -/
def peerServo (s : State) : Option Nat := (peerServos s).head?

/-- The next of the 16 exchanges of a second is due. -/
def exchangeDue (s : State) : Bool := (s.peer.timeAt.map (fun t => decide (t + 50000000 ≤ s.now))).getD true

/-- PEER_TIME_EXCHANGE: a worker with src = 2 sends its request, 16 times a second. -/
def execPeerTimeExchange (m : Nat) (s : State) : Host.Outcome State Fault Refusal :=
  if m = ownMember s ∧ isManager s = false ∧ (peerServo s).isSome ∧ exchangeDue s then
    .next (sendTo { s with peer := { s.peer with timeAt := some s.now } } (ownFrame s 2 0 (.timeReq 0 0)))
  else .next s

/-- The manager's answer comes back: one sample. -/
def takeTimeResp (s : State) (t1 t2 t3 : Nat) (r1 r2 : Int) : State :=
  if s.peer.timeReq = some t1 then
    let x : Int := (((t1 : Int) + r1 - t2) + ((s.time.dev : Int) - t3 - r2)) / 2
    let s := { s with peer := { s.peer with timeReq := none } }
    forEach (peerServos s) s (fun n s => servoSample s n x)
  else s

/-! ### Delivery -/

/-- A frame for this member is delivered by its body. -/
def deliverFrame (s : State) (l : Nat) (f : PeerFrame) : State :=
  match f.body with
  | .data bs => takeData s f.stream f.src f.offset bs
  | .credit seat => burstLanded s f.stream seat
  | .nonce n => takeNonce s n
  | .proof p pub => takeAnswer s f.src p pub
  | .accepted b => takeAccepted s b
  | .armCycle t => takeArmCycle s t
  | .arrival b seat => if isManager s then managerArrival s b seat else s
  | .withdrawal b seat => if isManager s then managerWithdraw s b seat else s
  | .release b t => takeRelease s b t
  | .timeReq t1 r => if isManager s then sendTo s (ownFrame s 2 f.src (.timeResp t1 s.time.dev 0 r 0)) else s
  | .timeResp t1 t2 t3 r1 r2 => takeTimeResp s t1 t2 t3 r1 r2
  | .notice => noticeHere s f.stream l
  | .ack => s
  | .other => s

/-- An accepted frame: forwarded, discarded for its epoch, or delivered. -/
def routeFrame (s : State) (l : Nat) (f : PeerFrame) : State :=
  if f.kind = 1 ∧ f.body = .ack then s
  else if f.dst ≠ ownMember s then forwardFrame s l f
  else if epochChecked f.body && decide (f.epoch ≠ epochOf s % 256) then
    event (flag (incR s (Reg.PEER_L_EPOCH_ERR l) 1) Reg.PEER_GRP_FLAGS 3) 9 2 f.src
  else pumpRecv (deliverFrame s l f)

/-- PEER_FRAME_RX (R441): a frame arrives on a link. A good frame in sequence is accepted and acknowledged, in a frame that
leaves on this link or in one of its own; any other is discarded and nacked. -/
def execPeerFrameRx (l : LinkId) (f : PeerFrame) (s : State) : Host.Outcome State Fault Refusal :=
  if !peerUp s l.val then .next s
  else if !f.crcOk then .next (linkSend (incR s (Reg.PEER_L_CRC_ERR l.val) 1) l.val (ackFrame s true))
  else if f.seq ≠ (getL s l.val).rxNext then .next (linkSend s l.val (ackFrame s true))
  else
    let s := incR (modL s l.val (fun x => { x with rxNext := (x.rxNext + 1) % 4096 })) (Reg.PEER_L_RX_FRAMES l.val) 1
    let s := if f.ackValid then pumpLink 512 (ackFrames s l.val f.ack) l.val else s
    let s := if f.nack then resendOr s l.val else s
    let before := (getL s l.val).out.length
    let s := routeFrame s l.val f
    .next (if (getL s l.val).out.length = before then linkSend s l.val (ackFrame s false) else s)

/-- PEER_ACK_TIMEOUT (R441): the oldest kept frame has waited 4 µs. -/
def execPeerAckTimeout (l : LinkId) (s : State) : Host.Outcome State Fault Refusal :=
  match (getL s l.val).replay with
  | k :: _ =>
    if !peerUp s l.val || decide (s.now < k.at' + 3200) then .next s
    else .next (resendOr s l.val)
  | [] => .next s

/-! ### Training (R439, R441) -/

/-- A write of PEER_L_CTL.retrain. -/
def peerCtlWrite (s : State) (l : Nat) (v : Word) : State :=
  let s := setR (regWrite s (Reg.PEER_L_CTL l) v) (Reg.PEER_L_CTL l) 0#32
  if bitOf v 0 && cabled s l then setF (startRetrain s l) (Reg.PEER_L_STATUS l) 9 8 0 else s

/-- PEER_RETRAIN. -/
def execPeerRetrain (l : LinkId) (v : Word) (s : State) : Host.Outcome State Fault Refusal :=
  .next (if bitOf v 0 then peerCtlWrite s l.val v else s)

/-- PEER_LINK_TRAINED: training ends well, and kept frames leave again under new numbers, with the group
barriers that waited for the link (R453), or it fails. -/
def execPeerLinkTrained (l : LinkId) (ok : Bool) (s : State) : Host.Outcome State Fault Refusal :=
  let a := Reg.PEER_L_STATUS l.val
  let st := linkState s l.val
  if st ≠ 1 ∧ st ≠ 3 then .next s
  else if ok then
    let s := flag (setR s a (BitVec.ofNat 32 (2 * 2 ^ 29 + 0xFF))) (Reg.PEER_L_FLAGS l.val) 0
    let s := modL s l.val (fun x => { x with txSeq := 0, rxNext := 0, replay := [], waiting := x.replay.map (·.frame) ++ x.waiting })
    let s := pumpLink 1024 s l.val
    .next (forEach (s.peer.bars.map (·.num)) s (fun b s => releaseBar s b))
  else
    let n := getF s a 9 8 + 1
    let s := modL (setF (setF s a 9 8 (min 3 n)) a 31 29 (if 3 ≤ n then 4 else 3)) l.val (fun x => { x with since := s.now })
    .next (if 3 ≤ n then flag s (Reg.PEER_L_FLAGS l.val) 3 else s)

/-! ### Streams (R443, R455 to R458) -/

/-- Streams whose next burst may leave now and uses a link, by virtual channel. -/
def readyOn (s : State) (l v : Nat) : Bool :=
  ((s.plan.map (·.streams)).getD []).any (fun st => decide (st.vc = v) && (nextBurst s st).isSome && (burstLinks s st.dstSeats).contains l)

/-- Round robin over the virtual channels of each link of a burst (R443). -/
def rrTurn (s : State) (l v : Nat) : Bool :=
  let r := (getL s l).rr
  ((List.range 4).map (fun i => (r + 1 + i) % 4)).find? (fun x => readyOn s l x) = some v

/-- The seats a burst goes to. -/
def burstSeats (s : State) (st : Stream) : NextBurst → Nat
  | .ring _ => st.dstSeats
  | .stage _ => st.dstSeats - (st.dstSeats &&& (getTx s st.num).detached)
  | .uni seat _ => 2 ^ seat

/-- PEER_BURST_SEND: the next burst of a stream leaves. -/
def execPeerBurstSend (st : Nat) (s : State) : Host.Outcome State Fault Refusal :=
  match streamOf s st with
  | none => .next s
  | some x =>
    match nextBurst s x with
    | none => .next s
    | some k =>
      let links := (burstLinks s (burstSeats s x k)).dedup
      if !running s || !links.all (fun l => rrTurn s l x.vc) then .next s
      else match links.find? (fun l => !peerUp s l) with
        | some l => .next (contextFault s x.srcCtx (peerLost s x.srcCtx l))
        | none =>
          if !burstRoom s x (burstSeats s x k) then .next s else
          let s := forEach links s (fun l s => modL s l (fun y => { y with rr := x.vc }))
          .next (pumpRecv (sendNext s x k))

/-- MULTICAST_DETACH (R458): a multicast has been held at its lead for 20 µs; the destinations that have not landed its oldest
burst are detached, and what they have not landed counts from now on as their own. A landing in the cycle the 20 µs end still applies
(Table 14.5). -/
def execMulticastDetach (st : Nat) (s : State) : Host.Outcome State Fault Refusal :=
  let x := getTx s st
  match x.heldAt, x.out.find? (fun b => !b.uni) with
  | some t, some b =>
    if s.now ≤ t + 16000 ∨ (x.out.filter (fun b => !b.uni)).length < 8 then .next s
    else
      let lag := b.seats
      let split := x.out.flatMap (fun y =>
        if y.uni then [y]
        else
          let own := (bits64 (y.seats &&& lag)).map (fun n => ({ no := y.no, seats := 2 ^ n, uni := true } : Burst))
          let rest := y.seats - (y.seats &&& lag)
          if rest = 0 then own else { y with seats := rest } :: own)
      let s := setTx s st { x with out := split, detached := x.detached ||| lag, heldAt := none,
                                   uniNext := (bits64 lag).foldl (fun m n => mapPut m n x.next) x.uniNext }
      let s := setN64 s (Reg.PEER_ST_DET_LO st) (Reg.PEER_ST_DET_HI st) (getN64 s (Reg.PEER_ST_DET_LO st) (Reg.PEER_ST_DET_HI st) ||| lag)
      .next (forEach (bits64 lag) s (fun _ s => event (flag (incR s Reg.PEER_DETACH_CNT 1) Reg.PEER_GRP_FLAGS 2) 9 4 st))
  | _, _ => .next s

/-! ### Group barriers and collectives (R451, R460) -/

/-- GROUP_BARRIER_RELEASE: the releases of a barrier that are due on this member. -/
def execGroupBarrierRelease (b : Nat) (s : State) : Host.Outcome State Fault Refusal :=
  let due := s.peer.rel.filter (fun r => decide (r.1 = b) && (if r.2.2.2 then decide (r.2.2.1 ≤ s.now) else decide (r.2.2.1 ≤ s.time.dev)))
  .next (forEach due s (fun r s =>
    performRelease { s with peer := { s.peer with rel := s.peer.rel.erase r } } b r.2.1 r.2.2.2))

/-- A write of PEER_COLL_POP. -/
def collPop (s : State) (v : Word) : State :=
  let s := regWrite s Reg.PEER_COLL_POP v
  if bitOf v 0 then { s with peer := { s.peer with coll := s.peer.coll.tail } } else s

/-- PEER_COLL_POP. -/
def execPeerCollPop (v : Word) (s : State) : Host.Outcome State Fault Refusal := .next (collPop s v)

end Sys2Proof.Machine
end

