-- ==== Sys2Proof/Machine/Carriers.lean ====
section
/-!
DEFINITION. Carriers.lean: slot and frame boundaries of a carrier (02 R64; 10 R353; 12 R388, R402), and the start, stop and P5
load of a carrier (12 R402).
-/
namespace Sys2Proof.Machine

open Sys2Proof

/-! ### Slot boundary -/

/-- The carrier whose slot boundary applies a rewrite of eAxC entry i: the old entry's where it is in use. -/
def rewriteCarrier (s : State) (i : Nat) (e : BitVec 128) : Nat := if exValid (exAt s i) then exCarrier (exAt s i) else exCarrier e

/-- Whether two valid entries share a key. -/
def dupKeys (s : State) (i : Nat) : Bool :=
  exValid (exAt s i) && s.net.eaxc.any (fun kv => decide (kv.1 ≠ i) && exValid kv.2 && decide (exKey kv.2 = exKey (exAt s i)))

/-- Pending rewrites of a carrier's entries take effect (R388). -/
def eaxcDue (s : State) (c : Nat) : State :=
  let due := s.net.eaxcPend.filter (fun kv => decide (rewriteCarrier s kv.1 kv.2 = c))
  let s := { s with net := { s.net with
    eaxcPend := s.net.eaxcPend.filter (fun kv => !due.any (fun d => decide (d.1 = kv.1)))
    eaxc := due.foldl (fun m kv => mapSet 0#128 m kv.1 kv.2) s.net.eaxc } }
  flagIf s (due.any (fun kv => dupKeys s kv.1)) Reg.FHX_FLAGS 1

/-- CARRIER_SLOT_BOUNDARY: rewrites and releases take effect, and the slot that begins is predicted. -/
def execCarrierSlotBoundary (c : CarrierId) (s : State) : Host.Outcome State Fault Refusal :=
  let s := releasesDue (eaxcDue s c.val) c.val
  .next (if (getCar s c.val).running then predict s c.val (slotNow s c.val) else s)

/-! ### Frame boundary -/

/-- A stop: speculative and journal state is discarded, and with it what the carrier's slots still had to do (R402). -/
def stopCarrier (s : State) (c : Nat) : State :=
  let s := forEach ((getCar s c).ul.map (·.1)) s (fun n s => if (getUl s c n).cls = .open then discardPreds s c n else s)
  let mine := fun (f : TxFrame) => match f.msg with
    | .cplane i _ _ _ _ _ _ _ _ _ => decide (exCarrier (exAt s i) = c)
    | .prach i _ _ _ _ _ _ _ _ _ => decide (exCarrier (exAt s i) = c)
    | .uplane i _ _ _ _ _ _ => decide (exCarrier (exAt s i) = c)
    | .ind i _ _ _ => decide (i.carrier = c)
    | _ => false
  let s := { s with
    net := { s.net with egress := s.net.egress.filter (fun f => !mine f), pace := s.net.pace.filter (fun p => !mine p.frame) }
    coding := { s.coding with
      release := s.coding.release.filter (fun r => decide (r.carrier.val ≠ c))
      slices := s.coding.slices.map (fun r => if (r.map (fun r => decide (r.carrier.val = c))).getD false then none else r)
      uciQ := s.coding.uciQ.filter (fun r => decide (r.carrier.val ≠ c)) } }
  modCar s c (fun x => { x with running := false, ul := [], dl := [], history := [] })

/-- The device has been quiesced: its carriers stay stopped until a reset (18 R556, R558). -/
def quiesced (s : State) : Bool := decide (s.boot.quiesce = .stopping ∨ s.boot.quiesce = .removed)

/-- A requested change of run takes effect; a start waits for a load in progress and for one that has failed, and none comes after a
removal's stop. -/
def runDue (s : State) (c : Nat) : State :=
  match (getCar s c).runReq with
  | some true =>
    if getB s (Reg.NB_CC_CTL c) 30 || getB s (Reg.NB_CC_CTL c) 29 || quiesced s then s
    else modCar s c (fun x => { x with runReq := none, running := true })
  | some false => modCar (if (getCar s c).running then stopCarrier s c else s) c (fun x => { x with runReq := none })
  | none => s

/-- CARRIER_FRAME_BOUNDARY: rewrites of the configured-grant table and changes of run take effect. -/
def execCarrierFrameBoundary (c : CarrierId) (s : State) : Host.Outcome State Fault Refusal :=
  let s := forEach (getCar s c.val).cgPend s (fun kv s => setBytes s kv.1 [kv.2])
  .next (runDue (modCar s c.val (fun x => { x with cgPend := [] })) c.val)

/-! ### NB_CC_CTL -/

/-- A write of NB_CC_CTL: run asks for a change at the next frame boundary; load is taken while the carrier is stopped. -/
def ccCtlWrite (s : State) (c : Nat) (v : Word) : State :=
  let load := getB s (Reg.NB_CC_CTL c) 30 || (bitOf v 30 && !(getCar s c).running)
  let s := setBitR (regWrite s (Reg.NB_CC_CTL c) v) (Reg.NB_CC_CTL c) 30 load
  modCar s c (fun x => { x with runReq := if bitOf v 31 = x.running then none else some (bitOf v 31) })

/-- NB_CC_RUN. -/
def execNbCcRun (c : CarrierId) (v : Word) (s : State) : Host.Outcome State Fault Refusal := .next (ccCtlWrite s c.val v)

/-- NB_CC_LOAD: a write of load = 1 that leaves run as it is. -/
def execNbCcLoad (c : CarrierId) (s : State) : Host.Outcome State Fault Refusal :=
  .next (ccCtlWrite s c.val (setBit (getR s (Reg.NB_CC_CTL c.val)) 30 true))

/-- The P5 block of a carrier as it stands in memory, as one number; its length is the plan's (DESIGN CHOICE, log 16). -/
def p5Block (s : State) (c : Nat) : Nat :=
  let n := Config.planName (planId s) 15 c 0 0 % 2 ^ 16
  leNat (getBytes s (getN64 s (Reg.NB_CC_P5_LO c) (Reg.NB_CC_P5_HI c)) n) + 2 ^ (8 * n)

/-- The blocks of the carriers that run a plan, with carrier c's as given, and their numerologies. -/
def p5Blocks (s : State) (c block : Nat) : List (Nat × Nat) :=
  ((List.range 32).filter (fun d => getB s (Reg.SCH_CC_CFG d 0) 31)).map (fun d => (if d = c then block else (getCar s d).p5, ccMu s d))

/-- Whether carrier c can take a block. -/
def p5Fits (s : State) (c block : Nat) : Bool := p5Passes block (ccMu s c) && prachLoadOk (p5Blocks s c block)

/-- P5_LOAD_CHECKED: the check of a load in progress ends. -/
def execP5LoadChecked (c : CarrierId) (s : State) : Host.Outcome State Fault Refusal :=
  let a := Reg.NB_CC_CTL c.val
  if !getB s a 30 then .next s
  else
    let block := p5Block s c.val
    let s := setBitR s a 30 false
    .next (if p5Fits s c.val block then modCar (setBitR s a 29 false) c.val (fun x => { x with p5 := block })
      else postEvent (setBitR s a 29 true) 6 2 c.val 0xFF (getN s Reg.NB_REJECT))

end Sys2Proof.Machine
end

