-- ==== Sys2Proof/Machine/Safelight.lean ====
section
/-!
DEFINITION. Safelight.lean: the event FIFO, wake timers and error log as the driver handles them (09 R325; 17 R540 to R543), the
flash bridge (17 R534), field repair requests (01 R29), and what stops all work: a device-fatal error (09 R310), a removal
(18 R556 to R558).
-/
namespace Sys2Proof.Machine

open Sys2Proof

/-! ### Records -/

/-- A write of SAFE_EVT_POP: bit 0 removes the oldest record. -/
def evtPop (s : State) (v : Word) : State := if bitOf v 0 then { s with safe := { s.safe with events := s.safe.events.tail } } else s

/-- SAFE_EVT_POP. -/
def execSafeEvtPop (v : Word) (s : State) : Host.Outcome State Fault Refusal := .next (evtPop (regWrite s Reg.SAFE_EVT_POP v) v)

/-- A write of ERR_LOG_POP: bit 0 removes the oldest error record. -/
def errPop (s : State) (v : Word) : State := if bitOf v 0 then { s with errLog := s.errLog.tail } else s

/-- ERR_LOG_POP. -/
def execErrLogPop (v : Word) (s : State) : Host.Outcome State Fault Refusal := .next (errPop (regWrite s Reg.ERR_LOG_POP v) v)

/-! ### Wake timers (R542) -/

def wakeArmed (s : State) (w : Nat) : Bool := getB s (Reg.SAFE_WAKE_CTL w) 31

/-- A write of SAFE_WAKEw_CTL: the action, then disarm, then arm. -/
def wakeCtlWrite (s : State) (w : Nat) (v : Word) : State :=
  let a := Reg.SAFE_WAKE_CTL w
  let armed := bitOf v 31 || (wakeArmed s w && !bitOf v 30)
  setBitR (setBitR (regWrite s a v) a 30 false) a 31 armed

/-- A write of SAFE_WAKEw_AT_LO or _HI: ignored while the timer is armed. -/
def wakeAtWrite (s : State) (w a : Nat) (v : Word) : State := if wakeArmed s w then reservedWrite s else regWrite s a v

/-- WAKE_TIMER_ARM. -/
def execWakeTimerArm (w : Fin 4) (v : Word) (s : State) : Host.Outcome State Fault Refusal :=
  .next (if bitOf v 31 then wakeCtlWrite s w.val v else s)

/-- WAKE_TIMER_DISARM. -/
def execWakeTimerDisarm (w : Fin 4) (v : Word) (s : State) : Host.Outcome State Fault Refusal :=
  .next (if bitOf v 30 then wakeCtlWrite s w.val v else s)

/-- The target of a wake timer, in µs of SAFE_UPTIME. -/
def wakeTarget (s : State) (w : Nat) : Nat := getN64 s (Reg.SAFE_WAKE_AT_LO w) (Reg.SAFE_WAKE_AT_HI w)

/-- A wake: a write of dormant = 0 that leaves the other fields. -/
def wakeWrite (s : State) (d : Nat) : State := dieCtlWrite s d (setBit (getR s (dieCtl d)) 31 false)

/-- WAKE_TIMER_FIRE. -/
def execWakeTimerFire (w : Fin 4) (s : State) : Host.Outcome State Fault Refusal :=
  let a := Reg.SAFE_WAKE_CTL w.val
  if wakeArmed s w.val && decide (wakeTarget s w.val ≤ uptime s) then
    let act := getF s a 1 0
    let s := event (setBitR s a 31 false) 1 w.val act
    let s := if act.testBit 0 then wakeWrite s 0 else s
    .next (if act.testBit 1 then wakeWrite s 1 else s)
  else .next s

/-! ### The flash bridge (R534) -/

/-- The start-up reads of flash, steps 5 to 7, or a reload's, are in progress (16 R514). -/
def flashReads (s : State) : Bool := s.boot.reloading || (decide (s.boot.stage = .loading) && !getB s Reg.BOOT_STATUS 25)

/-- The bridge is at work: DEV_FLB_CMD.go reads 1. -/
def flbBusy (s : State) : Bool := s.host.flb.isSome

/-- A result of the bridge. -/
def flbEnd (s : State) (r : Nat) : State :=
  let s := { s with host := { s.host with flb := none, flbFail := none } }
  setR (setBitR s Reg.DEV_FLB_CMD 31 false) Reg.DEV_FLB_STATUS (BitVec.ofNat 32 ((if r = 0 then 0 else 2 ^ 30) + r))

/-- The bytes of flash an operation works on: first address and count. -/
def flbSpan (s : State) : Nat × Nat :=
  let a := getF s Reg.DEV_FLB_ADDR 28 0
  match getF s Reg.DEV_FLB_CMD 3 0 with
  | 3 => (a / 0x1000 * 0x1000, 0x1000)
  | 4 => (a / 0x10000 * 0x10000, 0x10000)
  | 5 => (a, 1)
  | _ => (a, getF s Reg.DEV_FLB_LEN 12 0)

/-- A write of DEV_FLB_CMD: go starts the operation; a reserved operation code leaves op; a write while go reads 1 is ignored. -/
def flbCmdWrite (s : State) (v : Word) : State :=
  if flbBusy s then reservedWrite s
  else
    let bad := decide (fieldOf v 3 0 = 0 ∨ 5 < fieldOf v 3 0)
    let s := if bad then reservedWrite s else s
    let w := if bad then setField v 3 0 (getF s Reg.DEV_FLB_CMD 3 0) else v
    let s := setBitR (regWrite s Reg.DEV_FLB_CMD w) Reg.DEV_FLB_CMD 31 false
    if !bitOf v 31 || decide (getF s Reg.DEV_FLB_CMD 3 0 = 0) then s
    else if flashReads s then flbEnd s 1
    else
      let (a, n) := flbSpan s
      let s := setBitR (setR s Reg.DEV_FLB_STATUS (BitVec.ofNat 32 (2 ^ 31))) Reg.DEV_FLB_CMD 31 true
      { s with host := { s.host with flb := some s.now, flbFail := if flashSpace s.flash < a + n then some 2 else none } }

/-- A go of operation k with the address and length as they stand. -/
def flbGo (k : Nat) (s : State) : Host.Outcome State Fault Refusal := .next (flbCmdWrite s (BitVec.ofNat 32 (2 ^ 31 + k)))

/-- FLB_READ. -/
def execFlbRead (s : State) : Host.Outcome State Fault Refusal := flbGo 1 s
/-- FLB_PROGRAM. -/
def execFlbProgram (s : State) : Host.Outcome State Fault Refusal := flbGo 2 s
/-- FLB_ERASE_SECTOR. -/
def execFlbEraseSector (s : State) : Host.Outcome State Fault Refusal := flbGo 3 s
/-- FLB_ERASE_BLOCK. -/
def execFlbEraseBlock (s : State) : Host.Outcome State Fault Refusal := flbGo 4 s
/-- FLB_READ_SFDP. -/
def execFlbReadSfdp (s : State) : Host.Outcome State Fault Refusal := flbGo 5 s

/-- The bridge buffer's bytes. -/
def flbBuffer (s : State) (n : Nat) : List Byte := (regBytes s (Reg.DEV_FLB_BUF 0) 1024).take n

/-- Put bytes at the front of the bridge buffer. -/
def flbFill (s : State) (bs : List Byte) : State :=
  putRegBytes s (Reg.DEV_FLB_BUF 0) (bs ++ (regBytes s (Reg.DEV_FLB_BUF 0) 1024).drop bs.length)

def putFlash (s : State) (a : Nat) (bs : List Byte) : State :=
  { s with flash := { s.flash with bytes := bs.zipIdx.foldl (fun m x => mapSet 0xFF#8 m (a + x.2) x.1) s.flash.bytes } }

/-- What the flash holds in a span after a program or an erase that it reports as failed: free values. -/
def flashUnknown (s : State) (a n : Nat) : State :=
  let (k, s) := fresh s
  putFlash s a (build n (fun i => BitVec.ofNat 8 (Config.freeValue k / 256 ^ i)))

/-- What an operation does. Programming clears bits and erasing sets them (the family's NOR flash). -/
def flbApply (s : State) : State :=
  let (a, n) := flbSpan s
  let old := build n (fun i => flashByte s.flash (a + i))
  match getF s Reg.DEV_FLB_CMD 3 0 with
  | 1 => flbFill s old
  | 2 => putFlash s a (List.zipWith (fun x y => x &&& y) old (flbBuffer s n))
  | 5 => flbFill s ((if a < s.flash.size0 then s.flash.sfdp0 else s.flash.sfdp1).take 4096)
  | _ => putFlash s a (List.replicate n 0xFF#8)

/-- FLB_DONE: the operation in progress ends; `failed` is the flash's report of a program or erase. -/
def execFlbDone (failed : Bool) (s : State) : Host.Outcome State Fault Refusal :=
  if !flbBusy s then .next s
  else match s.host.flbFail with
    | some r => .next (flbEnd s r)
    | none =>
      let k := getF s Reg.DEV_FLB_CMD 3 0
      if failed ∧ (2 ≤ k ∧ k ≤ 4) then .next (flbEnd (flashUnknown s (flbSpan s).1 (flbSpan s).2) 3)
      else .next (flbEnd (flbApply s) 0)

/-- FLB_TIMEOUT: no answer within 5 s. -/
def execFlbTimeout (s : State) : Host.Outcome State Fault Refusal :=
  match s.host.flb with
  | some t => .next (if t + 4000000000 ≤ s.now then flbEnd s 4 else s)
  | none => .next s

/-! ### Field repair (01 R29, Table 01.11) -/

/-- A write of PHYS_FIELD_REPAIR: a column above 16 leaves arm at 0 and sets reserved_write; the register's other fields, the column among them,
hold what was written (DESIGN CHOICE, log 108). -/
def fieldRepairWrite (s : State) (v : Word) : State :=
  let a := Reg.PHYS_FIELD_REPAIR
  let s := regWrite s a v
  let s := if 16 < fieldOf v 4 0 then reservedWrite (setBitR s a 31 false) else s
  setBitR s Reg.PHYS_STATUS 1 (getB s a 31)

/-- FIELD_REPAIR_WRITE. -/
def execFieldRepairWrite (v : Word) (s : State) : Host.Outcome State Fault Refusal := .next (fieldRepairWrite s v)

/-! ### Stopping all work -/

/-- Stop every context without saving: their tiles are cleared, their shadow pages and what they hold are given back. -/
def haltContexts (s : State) : State :=
  let s := forEach (s.ctxs.map (·.1)) s (fun c s => dropShadows s c)
  let s := forEach ((s.tiles.filter (fun kv => kv.2.run.isSome || kv.2.lastCtx.isSome)).map (·.1)) s (fun t s =>
    modT (clearUnit s t) t (fun x => { x with run := none, lastCtx := none, seq := .idle }))
  { s with ctxs := [], advances := [], parts := s.parts.map (fun kv => (kv.1, { kv.2 with waiters := [] })) }

/-- Frames that a stop takes back: fronthaul and FAPI messages that have not begun to leave. -/
def dropMessages (s : State) : State :=
  { s with net := { s.net with egress := s.net.egress.filter (fun f => match f.msg with | .ptp _ _ _ => true | .owd _ _ _ _ => true | _ => false), pace := [] } }

/-- The log entry of a device-fatal error: in a full log it replaces the newest record (09 Table 09.4). -/
def logFatal (s : State) (e : FatalError) : State :=
  let s := if s.errLog.length < 512 then s else { incR s Reg.ERR_LOG_LOST 1 with errLog := s.errLog.dropLast }
  let seq := s.errSeq
  let r := { ErrRec.of 0x1F with seq := seq, action := 6, detail := e.detail, addr := e.addr, sec := devSec s % 2 ^ 32, ns := devNs s, tick := s.now }
  let s := { countError s 0x1F with errSeq := (seq + 1) % 2 ^ 32, errLog := s.errLog ++ [r] }
  postEvent s 8 3 0xFF 0xFF seq

/-- DEVICE_FATAL_ERROR (R310). -/
def execDeviceFatalError (e : FatalError) (s : State) : Host.Outcome State Fault Refusal :=
  .next (dropMessages (haltContexts (flag (logFatal s e) Reg.ERR_LOG_STATUS 31)))

/-! ### Removal (18 R556 to R558) -/

/-- QUIESCE_REQUEST: two consecutive low samples of QUIESCE_N. Before Ready, or in Holding, start-up halts. -/
def execQuiesceRequest (s : State) : Host.Outcome State Fault Refusal :=
  if s.boot.quiesce ≠ .none then .next s
  else
    let s := { s with boot := { s.boot with quiesceLow := true } }
    match s.boot.stage with
    | .ready => .next { s with boot := { s.boot with quiesce := .requested, quiesceAt := s.time.frame } }
    | .stopped => .next { s with boot := { s.boot with quiesce := .removed } }
    | st =>
      let recov := decide (st = .recovery) || getB s Reg.BOOT_STATUS 25
      let s := if recov then setBitR (setBitR s Reg.BOOT_CTL 2 false) Reg.BOOT_RECOV_STATUS 31 false else s
      .next { s with boot := { s.boot with stage := .halted, fwAt := none, quiesce := .stopping, quiesceAt := s.now } }

/-- QUIESCE_STOP: step 2 of 18 Table 18.6, at the first device frame start after the request. -/
def execQuiesceStop (s : State) : Host.Outcome State Fault Refusal :=
  if s.boot.quiesce = .requested ∧ s.boot.quiesceAt < s.time.frame then
    let s := forEach (s.carriers.map (·.1)) (haltContexts s) (fun c s => stopCarrier s c)
    let s := dropMessages s
    let s := { s with peer := { s.peer with links := s.peer.links.map (fun (kv : Nat × PeerLink) =>
      (kv.1, { kv.2 with waiting := kv.2.waiting.filter (fun f => match f.body with | .data _ => false | _ => true) })) } }
    .next { s with boot := { s.boot with quiesce := .stopping, quiesceAt := s.now, reloading := false, swap := false } }
  else .next s

/-- REMOVE_OK_RAISED: steps 3 to 5. The stop sequence alone raises it for a stopped device (18 Table 18.15). -/
def execRemoveOkRaised (s : State) : Host.Outcome State Fault Refusal :=
  if s.boot.quiesce = .stopping ∧ flbBusy s = false then
    .next { s with boot := { s.boot with quiesce := .removed }, net := { s.net with egress := [], wire := [], pace := [] }
                   peer := { s.peer with links := s.peer.links.map (fun (kv : Nat × PeerLink) => (kv.1, { kv.2 with waiting := [], replay := [] })) } }
  else if s.boot.quiesce ≠ .none ∧ s.boot.stage = .stopped then .next { s with boot := { s.boot with quiesce := .removed } }
  else .next s

end Sys2Proof.Machine
end

