-- ==== Sys2Proof/Machine/TileExec.lean ====
section
/-!
DEFINITION. TileExec.lean: the instructions of a tile's program (04 Table 04.3, 05 Table 05.5, 07 Table 07.2) as commands.
Each names an instruction the tile has fetched (DESIGN CHOICE, log 12): its opcode is the command's, the rest of the word its operand. It
issues, waits or faults its context; queued work of the tile then runs as far as it may.
-/
namespace Sys2Proof.Machine

open Sys2Proof

/-! ### Issue of a command -/

/-- An instruction word with its opcode, bits 63:56. -/
def withOp {n : Nat} (op : Nat) (w : BitVec n) : BitVec n := setField w 63 56 op

/-- What an attempt on a tile comes to: queued work settles, a fault tears its context down, the watchdog looks on. -/
def tileStep (t : Nat) (r : Step') : State := watchWindow (orFault (andSettle t r)) t

/-- Scoreboard entries in use (06 R208). -/
def sbInUse (x : Tile) : Nat := (sbAll x).length

/-- The issue of an instruction that takes a scoreboard entry: with all 32 in use it stalls (06 R208). -/
def sbGate (t : Nat) (s : State) (issue : State → SeqRes) : SeqRes :=
  if 32 ≤ sbInUse (getT s t) then .wait (incR s (Reg.TILE_SB_FULL t) 1)
  else match issue s with
    | .next s => .next (modT s t (fun x => { x with sbHigh := max x.sbHigh (sbInUse x) }))
    | r => r

/-- A Developer instruction that touches no scratchpad. -/
def devCmd (op : Nat) (t : TileId) (w : Word64) (s : State) : State :=
  tileStep t.val (seqIssue s t.val op 1 (fun s _ => issueDev s t.val (withOp op w)))

/-- A Developer instruction that reads or writes scratchpad. -/
def devMemCmd (op : Nat) (t : TileId) (w : Word64) (s : State) : State :=
  tileStep t.val (seqIssue s t.val op 1 (fun s _ => sbGate t.val s (fun s => issueDev s t.val (withOp op w))))

/-- An Enlarger command. -/
def enlCmd (op : Nat) (t : TileId) (w : Word128) (s : State) : State :=
  tileStep t.val (seqIssue s t.val op 2 (fun s _ =>
    if op = 0xE0 ∨ op = 0xE2 then sbGate t.val s (fun s => issueEnl s t.val (withOp op w)) else issueEnl s t.val (withOp op w)))

/-- A sequencer instruction of one word. -/
def seqCmd (op : Nat) (f : Word64 → Nat → State → Nat → SeqRes) (t : TileId) (w : Word64) (s : State) : State :=
  tileStep t.val (seqIssue s t.val op 1 (fun s c => f (withOp op w) t.val s c))

/-- An event of a tile's unit, which may let queued work run. -/
def unitEvent (t : Nat) (s : State) : State := tileStep t (s, none)

/-! ### The Enlarger (04) -/

/-- ENL.LOADS (04 R130, R135). -/
def execEnlLoads (t : TileId) (w : Word128) (s : State) : Host.Outcome State Fault Refusal := .next (enlCmd 0xE0 t w s)

/-- ENL.SWAP (04 R131). -/
def execEnlSwap (t : TileId) (w : Word128) (s : State) : Host.Outcome State Fault Refusal := .next (enlCmd 0xE1 t w s)

/-- ENL.PASS (04 R136, R137). -/
def execEnlPass (t : TileId) (w : Word128) (s : State) : Host.Outcome State Fault Refusal := .next (enlCmd 0xE2 t w s)

/-- ENL.WAKE (04 R148). -/
def execEnlWake (t : TileId) (w : Word128) (s : State) : Host.Outcome State Fault Refusal := .next (enlCmd 0xE3 t w s)

/-- ENL.IDLE (04 R147). -/
def execEnlIdle (t : TileId) (w : Word128) (s : State) : Host.Outcome State Fault Refusal := .next (enlCmd 0xE4 t w s)

/-- ENL.MODE (04 Table 04.3). -/
def execEnlMode (t : TileId) (w : Word128) (s : State) : Host.Outcome State Fault Refusal := .next (enlCmd 0xE5 t w s)

/-- ENL.FENCE (04 Table 04.3): issue stalls until every earlier Enlarger command has completed and written its outputs. -/
def execEnlFence (t : TileId) (_w : Word128) (s : State) : Host.Outcome State Fault Refusal :=
  .next (tileStep t.val (seqIssue s t.val 0xE6 2 (fun s _ => if enlQuiet (getT s t.val).enl then .next s else .wait s)))

/-- ENL_WAVE_RELEASE (04 R149): the wave's delay has passed. -/
def execEnlWaveRelease (t : TileId) (s : State) : Host.Outcome State Fault Refusal :=
  match (getT s t.val).enl.waveUntil with
  | some u => .next (if u ≤ s.now * 1250 then unitEvent t.val (waveRelease s t.val) else s)
  | none => .next s

/-- An attempt of a tile's unit as a step: what has been done so far stands when it waits. -/
def unitRes (r : TRes) : Step' :=
  match r with
  | .ok s => (s, none)
  | .wait s => (s, none)
  | .fault s e => (s, some e)

/-- The context whose units work on a tile, unless the Shutter has stopped it there (08 R283). -/
def workingCtx (s : State) (t : Nat) : Option Nat :=
  let x := getT s t
  if x.seq = .stopped then none else x.run.map (·.val)

/-- ENL_LOADS_COMPLETE (04 R130): the load writes its remaining rows and completes. A row that meets a waking group waits. -/
def execEnlLoadsComplete (t : TileId) (s : State) : Host.Outcome State Fault Refusal :=
  match (getT s t.val).enl.loading, workingCtx s t.val with
  | some _, some c => .next (tileStep t.val (unitRes ((loadRows 64 s t.val c).andThen (fun s => .ok (loadsComplete s t.val)))))
  | _, _ => .next s

/-- ENL_LEVEL_STEP (04 R146 to R148). -/
def execEnlLevelStep (t : TileId) (s : State) : Host.Outcome State Fault Refusal := .next (unitEvent t.val (levelStep s t.val))

/-- ENL_RAMPDOWN_START (04 R147). -/
def execEnlRampdownStart (t : TileId) (s : State) : Host.Outcome State Fault Refusal := .next (unitEvent t.val (rampDownStart s t.val))

/-- ENL_ENTRY_FINISHED (04 R141). -/
def execEnlEntryFinished (t : TileId) (s : State) : Host.Outcome State Fault Refusal := .next (unitEvent t.val (entryFinished s t.val))

/-! ### The Fixer (03 R112 to R119) -/

/-- The Fixer command (03 R112), opcode 0xF0. -/
def execFixerCommand (t : TileId) (w : Word128) (s : State) : Host.Outcome State Fault Refusal :=
  .next (tileStep t.val (seqIssue s t.val 0xF0 2 (fun s _ => sbGate t.val s (fun s => issueFix s t.val (withOp 0xF0 w)))))

/-- A Fixer command that has converted its last group completes. -/
def fixFinish (s : State) (t : Nat) : State :=
  match (getT s t).fix with
  | some j => if fixDone j then fixComplete s t j else s
  | none => s

/-- FIXER_COMPLETE (03 R119): the command that runs does its remaining groups and completes. A group that meets a waking group of
banks waits. -/
def execFixerComplete (t : TileId) (s : State) : Host.Outcome State Fault Refusal :=
  match (getT s t.val).fix, workingCtx s t.val with
  | some j, some c =>
    .next (if j.waiting then s
      else tileStep t.val (unitRes ((fixGroups (2 * (FixCmd.of j.cmd).groups) s t.val c).andThen (fun s => .ok (fixFinish s t.val)))))
  | _, _ => .next s

/-! ### The Developer (05 Table 05.5) -/

/-- NOP (05 Table 05.5). -/
def execDevNop (t : TileId) (w : Word64) (s : State) : Host.Outcome State Fault Refusal := .next (devCmd 0x00 t w s)

/-- SETVL (05 Table 05.5). -/
def execSetvl (t : TileId) (w : Word64) (s : State) : Host.Outcome State Fault Refusal := .next (devCmd 0x01 t w s)

/-- SLI (05 Table 05.5). -/
def execSli (t : TileId) (w : Word64) (s : State) : Host.Outcome State Fault Refusal := .next (devCmd 0x02 t w s)

/-- SADD (05 Table 05.5). -/
def execSadd (t : TileId) (w : Word64) (s : State) : Host.Outcome State Fault Refusal := .next (devCmd 0x03 t w s)

/-- VEXT (05 Table 05.5). -/
def execVext (t : TileId) (w : Word64) (s : State) : Host.Outcome State Fault Refusal := .next (devCmd 0x04 t w s)

/-- FENCE (05 Table 05.5). -/
def execDevFence (t : TileId) (w : Word64) (s : State) : Host.Outcome State Fault Refusal := .next (devCmd 0x05 t w s)

/-- GETF (05 Table 05.5). -/
def execGetf (t : TileId) (w : Word64) (s : State) : Host.Outcome State Fault Refusal := .next (devCmd 0x06 t w s)

/-- CLRF (05 Table 05.5). -/
def execClrf (t : TileId) (w : Word64) (s : State) : Host.Outcome State Fault Refusal := .next (devCmd 0x07 t w s)

/-- SETCB (05 Table 05.5). -/
def execSetcb (t : TileId) (w : Word64) (s : State) : Host.Outcome State Fault Refusal := .next (devCmd 0x08 t w s)

/-- FADD (05 Table 05.5). -/
def execFadd (t : TileId) (w : Word64) (s : State) : Host.Outcome State Fault Refusal := .next (devCmd 0x10 t w s)

/-- FSUB (05 Table 05.5). -/
def execFsub (t : TileId) (w : Word64) (s : State) : Host.Outcome State Fault Refusal := .next (devCmd 0x11 t w s)

/-- FMUL (05 Table 05.5). -/
def execFmul (t : TileId) (w : Word64) (s : State) : Host.Outcome State Fault Refusal := .next (devCmd 0x12 t w s)

/-- FMA (05 Table 05.5). -/
def execFma (t : TileId) (w : Word64) (s : State) : Host.Outcome State Fault Refusal := .next (devCmd 0x13 t w s)

/-- FMIN (05 Table 05.5). -/
def execFmin (t : TileId) (w : Word64) (s : State) : Host.Outcome State Fault Refusal := .next (devCmd 0x14 t w s)

/-- FMAX (05 Table 05.5). -/
def execFmax (t : TileId) (w : Word64) (s : State) : Host.Outcome State Fault Refusal := .next (devCmd 0x15 t w s)

/-- FABS (05 Table 05.5). -/
def execFabs (t : TileId) (w : Word64) (s : State) : Host.Outcome State Fault Refusal := .next (devCmd 0x16 t w s)

/-- FNEG (05 Table 05.5). -/
def execFneg (t : TileId) (w : Word64) (s : State) : Host.Outcome State Fault Refusal := .next (devCmd 0x17 t w s)

/-- FCMP (05 Table 05.5). -/
def execFcmp (t : TileId) (w : Word64) (s : State) : Host.Outcome State Fault Refusal := .next (devCmd 0x18 t w s)

/-- IADD (05 Table 05.5). -/
def execIadd (t : TileId) (w : Word64) (s : State) : Host.Outcome State Fault Refusal := .next (devCmd 0x20 t w s)

/-- ISUB (05 Table 05.5). -/
def execIsub (t : TileId) (w : Word64) (s : State) : Host.Outcome State Fault Refusal := .next (devCmd 0x21 t w s)

/-- IMUL (05 Table 05.5). -/
def execImul (t : TileId) (w : Word64) (s : State) : Host.Outcome State Fault Refusal := .next (devCmd 0x22 t w s)

/-- IMIN (05 Table 05.5). -/
def execImin (t : TileId) (w : Word64) (s : State) : Host.Outcome State Fault Refusal := .next (devCmd 0x23 t w s)

/-- IMAX (05 Table 05.5). -/
def execImax (t : TileId) (w : Word64) (s : State) : Host.Outcome State Fault Refusal := .next (devCmd 0x24 t w s)

/-- AND (05 Table 05.5). -/
def execVand (t : TileId) (w : Word64) (s : State) : Host.Outcome State Fault Refusal := .next (devCmd 0x25 t w s)

/-- OR (05 Table 05.5). -/
def execVor (t : TileId) (w : Word64) (s : State) : Host.Outcome State Fault Refusal := .next (devCmd 0x26 t w s)

/-- XOR (05 Table 05.5). -/
def execVxor (t : TileId) (w : Word64) (s : State) : Host.Outcome State Fault Refusal := .next (devCmd 0x27 t w s)

/-- SHL (05 Table 05.5). -/
def execShl (t : TileId) (w : Word64) (s : State) : Host.Outcome State Fault Refusal := .next (devCmd 0x28 t w s)

/-- SHR (05 Table 05.5). -/
def execShr (t : TileId) (w : Word64) (s : State) : Host.Outcome State Fault Refusal := .next (devCmd 0x29 t w s)

/-- SRA (05 Table 05.5). -/
def execSra (t : TileId) (w : Word64) (s : State) : Host.Outcome State Fault Refusal := .next (devCmd 0x2A t w s)

/-- ICMP (05 Table 05.5). -/
def execIcmp (t : TileId) (w : Word64) (s : State) : Host.Outcome State Fault Refusal := .next (devCmd 0x2B t w s)

/-- SEL (05 Table 05.5). -/
def execSel (t : TileId) (w : Word64) (s : State) : Host.Outcome State Fault Refusal := .next (devCmd 0x30 t w s)

/-- MAND (05 Table 05.5). -/
def execMand (t : TileId) (w : Word64) (s : State) : Host.Outcome State Fault Refusal := .next (devCmd 0x31 t w s)

/-- MOR (05 Table 05.5). -/
def execMor (t : TileId) (w : Word64) (s : State) : Host.Outcome State Fault Refusal := .next (devCmd 0x32 t w s)

/-- MXOR (05 Table 05.5). -/
def execMxor (t : TileId) (w : Word64) (s : State) : Host.Outcome State Fault Refusal := .next (devCmd 0x33 t w s)

/-- MNOT (05 Table 05.5). -/
def execMnot (t : TileId) (w : Word64) (s : State) : Host.Outcome State Fault Refusal := .next (devCmd 0x34 t w s)

/-- MPOP (05 Table 05.5). -/
def execMpop (t : TileId) (w : Word64) (s : State) : Host.Outcome State Fault Refusal := .next (devCmd 0x35 t w s)

/-- CVT (05 Table 05.5). -/
def execCvt (t : TileId) (w : Word64) (s : State) : Host.Outcome State Fault Refusal := .next (devCmd 0x38 t w s)

/-- VLD (05 Table 05.5). -/
def execVld (t : TileId) (w : Word64) (s : State) : Host.Outcome State Fault Refusal := .next (devMemCmd 0x40 t w s)

/-- VST (05 Table 05.5). -/
def execVst (t : TileId) (w : Word64) (s : State) : Host.Outcome State Fault Refusal := .next (devMemCmd 0x41 t w s)

/-- FBQ.RD (05 Table 05.5). -/
def execFbqRd (t : TileId) (w : Word64) (s : State) : Host.Outcome State Fault Refusal := .next (devCmd 0x42 t w s)

/-- FBQ.REL (05 Table 05.5). -/
def execFbqRel (t : TileId) (w : Word64) (s : State) : Host.Outcome State Fault Refusal := .next (devCmd 0x43 t w s)

/-- VPERM (05 Table 05.5). -/
def execVperm (t : TileId) (w : Word64) (s : State) : Host.Outcome State Fault Refusal := .next (devCmd 0x48 t w s)

/-- VSLIDEUP (05 Table 05.5). -/
def execVslideup (t : TileId) (w : Word64) (s : State) : Host.Outcome State Fault Refusal := .next (devCmd 0x49 t w s)

/-- VSLIDEDN (05 Table 05.5). -/
def execVslidedn (t : TileId) (w : Word64) (s : State) : Host.Outcome State Fault Refusal := .next (devCmd 0x4A t w s)

/-- VREV (05 Table 05.5). -/
def execVrev (t : TileId) (w : Word64) (s : State) : Host.Outcome State Fault Refusal := .next (devCmd 0x4B t w s)

/-- SCAN (05 Table 05.5). -/
def execScan (t : TileId) (w : Word64) (s : State) : Host.Outcome State Fault Refusal := .next (devCmd 0x50 t w s)

/-- RED (05 Table 05.5). -/
def execRed (t : TileId) (w : Word64) (s : State) : Host.Outcome State Fault Refusal := .next (devCmd 0x51 t w s)

/-- SMAX (05 Table 05.5). -/
def execSmax (t : TileId) (w : Word64) (s : State) : Host.Outcome State Fault Refusal := .next (devCmd 0x52 t w s)

/-- EXP2 (05 Table 05.5). -/
def execExp2 (t : TileId) (w : Word64) (s : State) : Host.Outcome State Fault Refusal := .next (devCmd 0x58 t w s)

/-- LOG2 (05 Table 05.5). -/
def execLog2 (t : TileId) (w : Word64) (s : State) : Host.Outcome State Fault Refusal := .next (devCmd 0x59 t w s)

/-- RCP (05 Table 05.5). -/
def execRcp (t : TileId) (w : Word64) (s : State) : Host.Outcome State Fault Refusal := .next (devCmd 0x5A t w s)

/-- RSQRT (05 Table 05.5). -/
def execRsqrt (t : TileId) (w : Word64) (s : State) : Host.Outcome State Fault Refusal := .next (devCmd 0x5B t w s)

/-- CADD (05 Table 05.5). -/
def execCadd (t : TileId) (w : Word64) (s : State) : Host.Outcome State Fault Refusal := .next (devCmd 0x60 t w s)

/-- CMUL (05 Table 05.5). -/
def execCmul (t : TileId) (w : Word64) (s : State) : Host.Outcome State Fault Refusal := .next (devCmd 0x61 t w s)

/-- CMULC (05 Table 05.5). -/
def execCmulc (t : TileId) (w : Word64) (s : State) : Host.Outcome State Fault Refusal := .next (devCmd 0x62 t w s)

/-- CMAG2 (05 Table 05.5). -/
def execCmag2 (t : TileId) (w : Word64) (s : State) : Host.Outcome State Fault Refusal := .next (devCmd 0x63 t w s)

/-- DSP.CMAC (05 Table 05.5). -/
def execDspCmac (t : TileId) (w : Word64) (s : State) : Host.Outcome State Fault Refusal := .next (devCmd 0x80 t w s)

/-- DSP.ACLR (05 Table 05.5). -/
def execDspAclr (t : TileId) (w : Word64) (s : State) : Host.Outcome State Fault Refusal := .next (devCmd 0x81 t w s)

/-- DSP.MOVQ (05 Table 05.5). -/
def execDspMovq (t : TileId) (w : Word64) (s : State) : Host.Outcome State Fault Refusal := .next (devCmd 0x82 t w s)

/-- DSP.LDA (05 Table 05.5). -/
def execDspLda (t : TileId) (w : Word64) (s : State) : Host.Outcome State Fault Refusal := .next (devCmd 0x83 t w s)

/-- DSP.CMULQ (05 Table 05.5). -/
def execDspCmulq (t : TileId) (w : Word64) (s : State) : Host.Outcome State Fault Refusal := .next (devCmd 0x84 t w s)

/-- DSP.CADDQ (05 Table 05.5). -/
def execDspCaddq (t : TileId) (w : Word64) (s : State) : Host.Outcome State Fault Refusal := .next (devCmd 0x85 t w s)

/-- DSP.CSUBQ (05 Table 05.5). -/
def execDspCsubq (t : TileId) (w : Word64) (s : State) : Host.Outcome State Fault Refusal := .next (devCmd 0x86 t w s)

/-- DSP.LDC (05 Table 05.5). -/
def execDspLdc (t : TileId) (w : Word64) (s : State) : Host.Outcome State Fault Refusal := .next (devMemCmd 0x87 t w s)

/-- DSP.STC (05 Table 05.5). -/
def execDspStc (t : TileId) (w : Word64) (s : State) : Host.Outcome State Fault Refusal := .next (devMemCmd 0x88 t w s)

/-! ### The sequencer (07 Table 07.2) -/

/-- SEQ.BAR (08 R277, 14 R450, R451): the tile arrives and waits. With the last tile of the set, a local barrier releases 30 ns
later, and a group barrier's arrival goes to the manager. -/
def seqBar (w : Word64) (t : Nat) (s : State) (c : Nat) : SeqRes :=
  let b := fieldOf w 7 0
  if !onlyFields w [(7, 0)] || (decide (224 ≤ b) && (barMask s b).isNone) then illegalSeq s t c
  else
    let s := barArrive s c t b
    if !barFull s c b then .stay s
    else if b < 224 then .stay (modC s c (fun x => { x with barRel := x.barRel ++ [(b, s.now + 24)] }))
    else .stay (tellArrival (spanArrive s c) b (ctxSeat s c))

/-- SEQ.NOP. -/
def execSeqNop (t : TileId) (w : Word64) (s : State) : Host.Outcome State Fault Refusal := .next (seqCmd 0xC0 seqNop t w s)

/-- SEQ.LI. -/
def execSeqLi (t : TileId) (w : Word64) (s : State) : Host.Outcome State Fault Refusal := .next (seqCmd 0xC1 seqLi t w s)

/-- SEQ.LIH. -/
def execSeqLih (t : TileId) (w : Word64) (s : State) : Host.Outcome State Fault Refusal := .next (seqCmd 0xC2 seqLih t w s)

/-- SEQ.ADD. -/
def execSeqAdd (t : TileId) (w : Word64) (s : State) : Host.Outcome State Fault Refusal := .next (seqCmd 0xC3 seqAdd t w s)

/-- SEQ.BNZ. -/
def execSeqBnz (t : TileId) (w : Word64) (s : State) : Host.Outcome State Fault Refusal := .next (seqCmd 0xC4 seqBnz t w s)

/-- SEQ.JMP. -/
def execSeqJmp (t : TileId) (w : Word64) (s : State) : Host.Outcome State Fault Refusal := .next (seqCmd 0xC5 seqJmp t w s)

/-- SEQ.PTOS. -/
def execSeqPtos (t : TileId) (w : Word64) (s : State) : Host.Outcome State Fault Refusal := .next (seqCmd 0xC6 seqPtos t w s)

/-- RING.WAIT (06 R214). -/
def execRingWait (t : TileId) (w : Word64) (s : State) : Host.Outcome State Fault Refusal := .next (seqCmd 0xC7 ringWait t w s)

/-- SEQ.STRIP (07 R238, R239). -/
def execSeqStrip (t : TileId) (w : Word64) (s : State) : Host.Outcome State Fault Refusal := .next (seqCmd 0xC9 seqStrip t w s)

/-- SEQ.SRET. -/
def execSeqSret (t : TileId) (w : Word64) (s : State) : Host.Outcome State Fault Refusal := .next (seqCmd 0xCA seqSret t w s)

/-- SEQ.BAR. -/
def execSeqBar (t : TileId) (w : Word64) (s : State) : Host.Outcome State Fault Refusal := .next (seqCmd 0xCB seqBar t w s)

/-- SEM.ACQ (08 R279, R280). -/
def execSemAcq (t : TileId) (w : Word64) (s : State) : Host.Outcome State Fault Refusal := .next (seqCmd 0xCC semAcq t w s)

/-- SEM.REL (08 R279). -/
def execSemRel (t : TileId) (w : Word64) (s : State) : Host.Outcome State Fault Refusal := .next (seqCmd 0xCD semRel t w s)

/-- RING.ADV (06 R214). -/
def execRingAdv (t : TileId) (w : Word64) (s : State) : Host.Outcome State Fault Refusal :=
  .next (seqCmd 0xC8 (fun w t s c => sbGate t s (fun s => ringAdv w t s c)) t w s)

/-- DMA.GO (06 R217): with a range of length 0 it takes no scoreboard entry. -/
def execDmaGo (t : TileId) (w : Word128) (s : State) : Host.Outcome State Fault Refusal :=
  .next (tileStep t.val (seqIssue s t.val 0xD0 2 (fun s c =>
    if fieldOf w 30 16 = 0 then dmaGo (withOp 0xD0 w) t.val s c else sbGate t.val s (fun s => dmaGo (withOp 0xD0 w) t.val s c))))

end Sys2Proof.Machine
end

