-- ==== Sys2Proof/Machine/TileMem.lean ====
section
/-!
DEFINITION. TileMem.lean: the driver's writes of a tile's rings, strip bases and sleep groups (06 R205, R206, R213; 07 R262),
the scrubs and the HBM patrol (06 R203, R204; 09 R309), and the weight cache's invalidation (06 R230, R231).
-/
namespace Sys2Proof.Machine

open Sys2Proof

/-! ### Register writes -/

/-- A write of TILE_RING_CFGn (06 R213): a configuration beyond its limits leaves en at 0. -/
def ringCfgWrite (s : State) (t n : Nat) (v : Word) : State :=
  if ringCfgOk v then regWrite s (Reg.TILE_RING_CFG t n) v
  else reservedWrite (setBitR (regWrite s (Reg.TILE_RING_CFG t n) v) (Reg.TILE_RING_CFG t n) 31 false)

/-- A write of TILE_STRIP_BASEn (07 R262): reserved bits are ignored, a base above 0x17_FFC0 leaves the register. -/
def stripBaseWrite (s : State) (t n : Nat) (v : Word) : State :=
  if 0x17FFC0 < fieldOf v 20 6 * 64 then reservedWrite s else regWrite s (Reg.TILE_STRIP_BASE t n) v

/-- A write of TILE_SP_SLEEP (06 R205, R206): groups whose bit is cleared wake, groups whose bit is set sleep once they may. -/
def spSleepWrite (s : State) (t : Nat) (v : Word) : State :=
  sleepGroups (wakeList (regWrite s (Reg.TILE_SP_SLEEP t) v) t ((List.range 6).filter (fun g => !bitOf v g))) t

/-- TILE_RING_CFG_WRITE. -/
def execTileRingCfgWrite (t : TileId) (n : Fin 32) (v : Word) (s : State) : Host.Outcome State Fault Refusal :=
  .next (ringCfgWrite s t.val n.val v)

/-- TILE_STRIP_BASE_WRITE. -/
def execTileStripBaseWrite (t : TileId) (n : Fin 16) (v : Word) (s : State) : Host.Outcome State Fault Refusal :=
  .next (stripBaseWrite s t.val n.val v)

/-- TILE_SP_SLEEP_WRITE. -/
def execTileSpSleepWrite (t : TileId) (v : Word) (s : State) : Host.Outcome State Fault Refusal := .next (spSleepWrite s t.val v)

/-- SP_GROUP_AWAKE (06 R206): a waking group is readable; what waits for it may go on. -/
def execSpGroupAwake (t : TileId) (g : Fin 6) (s : State) : Host.Outcome State Fault Refusal :=
  if (getT s t.val).wakingG.contains g.val then
    .next (pumpRecv (unitEvent t.val (modT s t.val (fun x => { x with wakingG := x.wakingG.filter (fun h => decide (h ≠ g.val)) }))))
  else .next s

/-! ### Scrubs -/

/-- Read one row of a bank for the patrol: a correctable row is counted and queued, an uncorrectable word recorded. -/
def patrolRead (s : State) (t row : Nat) : State :=
  let base := spBase t + row * 64
  match checkRead s base 64 with
  | (s, none) => s
  | (s, some w) => logError s { ErrRec.of 0x02 with cause := 5, action := 5, source := dieOf t, tile := t, detail := w % 8, addr := row * 64 }

/-- SCRUB_PATROL (06 R203): row n of every bank that holds data, n rising and wrapping at 1,024. -/
def execScrubPatrol (t : TileId) (s : State) : Host.Outcome State Fault Refusal :=
  let x := getT s t.val
  let c := Reg.TILE_SP_SCRUB t.val
  if decide (x.power = .awake) && getB s c 31 && decide (getF s c 7 0 ≠ 0) then
    let banks := (List.range 24).filter (fun b => !x.asleep.contains (b / 4) && !x.wakingG.contains (b / 4))
    let s := forEach banks s (fun b s => patrolRead s t.val (b * 1024 + x.patrolRow))
    .next (modT s t.val (fun x => { x with patrolRow := (x.patrolRow + 1) % 1024 }))
  else .next s

/-- SCRUB_WRITEBACK (06 R204): the oldest queued row is written back corrected. No data value changes. -/
def execScrubWriteback (t : TileId) (s : State) : Host.Outcome State Fault Refusal :=
  match scrubRows s t.val with
  | [] => .next s
  | row :: _ =>
    .next { s with ecc := { s.ecc with single := s.ecc.single.filter (fun w => decide (w / 8 ≠ spBase t.val / 64 + row))
                                       scrubQ := s.ecc.scrubQ.filter (fun r => !decide (r.tile = t.val ∧ r.row = row)) } }

/-- HBM_PATROL (09 R309): the next 64 B of a stack are read: a corrected word is rewritten, an uncorrectable one stays
poisoned and is recorded without a context fault (classes 0x06, 0x07). -/
def execHbmPatrol (k : Fin 2) (s : State) : Host.Outcome State Fault Refusal :=
  if getB s Reg.ERR_HBM_PATROL 31 && decide (getF s Reg.ERR_HBM_PATROL 7 0 ≠ 0) && dieAwake s k.val then
    let unit := nth 0 s.patrol k.val
    let word := (k.val * hbmStackBytes + unit * 64) / 8
    let single := s.ecc.single.filter (fun w => decide (w / 8 = word / 8))
    let bad := s.ecc.bad.filter (fun w => decide (w / 8 = word / 8))
    let s := { s with ecc := { s.ecc with single := s.ecc.single.filter (fun w => decide (w / 8 ≠ word / 8)) }
                      patrol := s.patrol.set k.val ((unit + 1) % (hbmStackBytes / 64)) }
    let s := forEach single s (fun _ s => countError s 0x06)
    .next (forEach bad s (fun w s => logError s { ErrRec.of 0x07 with cause := 5, action := 5, source := k.val, addr := 8 * w, detail := w % 8 }))
  else .next s

/-! ### The weight cache -/

/-- A write of MEM_WC_CTL (06 R230, R231): inv starts an invalidation; a bank that is disabled loses its lines. -/
def wcCtlWrite (s : State) (v : Word) : State :=
  let s := regWrite s Reg.MEM_WC_CTL v
  let s := forEach ((List.range 4).filter (fun k => !getB s Reg.MEM_WC_CTL k)) s (fun k s => wcEmptyBank s k)
  if bitOf v 31 then { s with wc := { s.wc with inv := true } } else s

/-- WC_INVALIDATE. -/
def execWcInvalidate (v : Word) (s : State) : Host.Outcome State Fault Refusal := .next (wcCtlWrite s v)

/-- The whole cache is empty, and inv reads 0. -/
def wcClear (s : State) : State := setBitR { s with wc := { s.wc with sets := [], inv := false } } Reg.MEM_WC_CTL 31 false

/-- WC_INV_COMPLETE (06 R230): an invalidation waits for fills in progress. -/
def execWcInvComplete (s : State) : Host.Outcome State Fault Refusal :=
  let fills := s.tiles.any (fun kv => kv.2.dma.any (fun ch => ch.inFlight.any (fun r => !r.fills.isEmpty)))
  .next (if s.wc.inv && !fills then wcClear s else s)

end Sys2Proof.Machine
end

