-- ==== Sys2Proof/Machine/RegEffects.lean ====
section
/-!
DEFINITION. RegEffects.lean: what a write of a register does by the rules of its chapter, for every block but BOOT and the life-cycle
control, which Boot.lean adds (17 R537).
-/
namespace Sys2Proof.Machine

open Sys2Proof

/-- The index of an address in an array of n registers from a base on. -/
def arrayIdx (base stride n a : Nat) : Option Nat :=
  if base ≤ a ∧ a < base + stride * n ∧ (a - base) % stride = 0 then some ((a - base) / stride) else none

/-- A write into the eAxC table window (12 R388): the entry's rewrite waits for its carrier's slot boundary. -/
def eaxcWrite (s : State) (a : Nat) (v : Word) : State :=
  let i := (a - 0x00160000) / 16
  let k := (a - 0x00160000) / 4 % 4
  let e := mapGet (exAt s i) s.net.eaxcPend i
  { s with net := { s.net with eaxcPend := mapPut s.net.eaxcPend i (setField e (32 * k + 31) (32 * k) v.toNat) } }

/-- A next state of a command that always runs. -/
def nextOf (s : State) (o : Host.Outcome State Fault Refusal) : State :=
  match o with
  | .next s' => s'
  | _ => s

/-- Writes in a tile's window. -/
def tileEffect (s : State) (a : Nat) (v : Word) : Option State :=
  let t := (a - 0x01000000) / 0x10000
  if a < 0x01000000 ∨ 0x02000000 ≤ a then none
  else if a = Reg.TILE_SP_SLEEP t then some (spSleepWrite s t v)
  else ((arrayIdx (Reg.TILE_RING_CFG t 0) 4 32 a).map (fun n => ringCfgWrite s t n v)).or
    ((arrayIdx (Reg.TILE_STRIP_BASE t 0) 4 16 a).map (fun n => stripBaseWrite s t n v))

/-- Writes of single registers with an effect of their own. -/
def oneEffect (s : State) (a : Nat) (v : Word) : Option State :=
  if a = Reg.CLK_GATE_EN0 then some (gateWrite s 0 v)
  else if a = Reg.CLK_GATE_EN1 then some (gateWrite s 1 v)
  else if a = Reg.PWR_HUB_EN then some (hubEnWrite s v)
  else if a = Reg.THM_COOLANT ∨ a = Reg.THM_COOLANT_CFG then some (coolantEval (regWrite s a v))
  else if a = Reg.TIME_CTL then some (timeCtlWrite s v)
  else if a = Reg.TIME_DPLL_CFG then some (dpllWrite s v)
  else if a = Reg.TIME_PPS_OUT ∨ a = Reg.TIME_PPS_OUT_OFS then some (ppsWrite s a v)
  else if a = Reg.PEER_COLL_POP then some (collPop s v)
  else if a = Reg.PEER_ROLL_CTL then some (if bitOf v 0 then startRoll s else s)
  else if a = Reg.SEC_PROOF_CTL then some (if bitOf v 0 then proofRequest s else s)
  else if a = Reg.SEC_SECVER_CTL then some (if bitOf v 0 then secverCommit s else s)
  else if a = Reg.SCH_SHUTTER then
    some (match fieldOf v 31 30 with
      | 1 => nextOf s (execSchShutterStop v s)
      | 2 => nextOf s (execSchShutterResume v s)
      | _ => s)
  else if a = Reg.MEM_WC_CTL then some (wcCtlWrite s v)
  else if a = Reg.CTX_RELEASE then some (ctxReleaseWrite s v)
  else if a = Reg.HARQ_FLUSH then some (harqFlushWrite s v)
  else if a = Reg.FHX_OWD_CTL then some (owdCtlWrite s v)
  else if a = Reg.SAFE_EVT_POP then some (evtPop s v)
  else if a = Reg.ERR_LOG_POP then some (errPop s v)
  else if a = Reg.DEV_FLB_CMD then some (flbCmdWrite s v)
  else if flbBusy s && (decide (a = Reg.DEV_FLB_ADDR ∨ a = Reg.DEV_FLB_LEN ∨ a = Reg.DEV_FLB_STATUS) || decide (Reg.DEV_FLB_BUF 0 ≤ a ∧ a < Reg.DEV_FLB_BUF 1024)) then
    some (reservedWrite s)
  else if a = Reg.PHYS_FIELD_REPAIR then some (fieldRepairWrite s v)
  else if 0x00160000 ≤ a ∧ a < 0x00180000 then some (eaxcWrite s a v)
  else none

/-- Writes of registers in arrays with an effect of their own. -/
def arrayEffect (s : State) (a : Nat) (v : Word) : Option State :=
  ((arrayIdx (Reg.PWR_DIE_CTL 0) 4 2 a).map (fun d => dieCtlWrite s d v)).or
  (((arrayIdx (Reg.TIME_S_OFFSET_LO 0) 0x80 2 a).map (fun n => offsetLo s n v)).or
  (((arrayIdx (Reg.TIME_S_OFFSET_HI 0) 0x80 2 a).map (fun n => offsetHi s n v)).or
  (((arrayIdx (Reg.TPIN_I_CFG 0) 0x40 16 a).map (fun k => pinCfgWrite s k v)).or
  (((arrayIdx (Reg.TPIN_I_CAP_POP 0) 0x40 16 a).map (fun k => capPop s k v)).or
  (((arrayIdx (Reg.PEER_L_CTL 0) 0x40 4 a).map (fun l => peerCtlWrite s l v)).or
  (((arrayIdx (Reg.SCH_REARM 0) 4 4 a).map (fun k => nextOf s (execSchRearm (Fin.ofNat 4 k) v s))).or
  (((arrayIdx (Reg.ETH_P_CFG 0) 0x2000 8 a).map (fun p => ethModeWrite s p v)).or
  (((arrayIdx (Reg.NB_CC_CTL 0) 4 32 a).map (fun c => ccCtlWrite s c v)).or
  (((arrayIdx (Reg.SAFE_WAKE_CTL 0) 0x10 4 a).map (fun w => wakeCtlWrite s w v)).or
  (((arrayIdx (Reg.SAFE_WAKE_AT_LO 0) 0x10 4 a).map (fun w => wakeAtWrite s w a v)).or
  ((arrayIdx (Reg.SAFE_WAKE_AT_HI 0) 0x10 4 a).map (fun w => wakeAtWrite s w a v))))))))))))

/-- A captured partner is dropped by a write of any register of its pair (17 R544): the pairs as first and last address. -/
def capturePairs (a : Nat) : List (Nat × List Nat) :=
  let t := (a - 0x01000000) / 0x10000
  let st := (a - Reg.PEER_ST_DET_LO 0) / 8
  let r := (a - Reg.PWR_THR_US_LO 0) / 8
  [(Reg.TILE_ENL_MAC_LO t, [Reg.TILE_ENL_MAC_HI t]), (Reg.TILE_DMA_BYTES_LO t, [Reg.TILE_DMA_BYTES_HI t]),
   (Reg.MEM_WC_HIT_LO, [Reg.MEM_WC_HIT_HI]), (Reg.MEM_WC_MISS_LO, [Reg.MEM_WC_MISS_HI]),
   (Reg.TIME_NOW_SEC_LO, [Reg.TIME_NOW_SEC_HI, Reg.TIME_NOW_NS, Reg.TIME_NOW_FRAC]),
   (Reg.PEER_MEMBER_OK_LO, [Reg.PEER_MEMBER_OK_HI]), (Reg.PEER_ST_DET_LO st, [Reg.PEER_ST_DET_HI st]),
   (Reg.PWR_ENERGY_LO, [Reg.PWR_ENERGY_HI]), (Reg.PWR_THR_US_LO r, [Reg.PWR_THR_US_HI r]),
   (Reg.SAFE_UPTIME_LO, [Reg.SAFE_UPTIME_HI]), (Reg.SAFE_TIME_SEC_LO, [Reg.SAFE_TIME_SEC_HI, Reg.SAFE_TIME_US])]

/-- The partners of a register that a capture names (17 Table 17.14): those of the pair whose _LO register it is. -/
def partnersOf (a : Nat) : List Nat := ((capturePairs a).find? (fun p => decide (p.1 = a))).map (·.2) |>.getD []

/-- A write of a register of a captured pair discards the capture. -/
def dropCapture (s : State) (a : Nat) : State :=
  let mine := ((capturePairs a).filter (fun p => decide (p.1 = a) || p.2.contains a)).flatMap (·.2)
  if mine.isEmpty then s else { s with host := { s.host with captures := mapFilter (fun k => !mine.contains k) s.host.captures } }

/-- What follows a write whatever the register: ceilings, domains and droop thresholds may have changed (15 R472, R481). -/
def afterWrite (s : State) : State := hubSettle (powerSettle s)

/-- A write of a register. -/
def regEffect (s : State) (a : Nat) (v : Word) : State :=
  let s := dropCapture s a
  afterWrite ((((tileEffect s a v).or ((oneEffect s a v).or (arrayEffect s a v)))).getD (regWrite s a v))

end Sys2Proof.Machine
end

