-- ==== Sys2Proof/Machine/Resets.lean ====
section
/-!
DEFINITION. Resets.lean: the two resets and the fuse sequencer (01 R24 to R30; 16 R498 to R501), Holding (R512), life-cycle
transitions (R520, R521), and the registers of BOOT and of the life-cycle control as the driver writes them (16 R523).
-/
namespace Sys2Proof.Machine

open Sys2Proof

/-! ### The fuse map (01 R22 to R30) -/

/-- The logical tile of a die, row and logical column (01 R20, R21). -/
def logicalTile (die row col : Nat) : Nat := 128 * die + 16 * row + col

/-- The logical column that sits at a physical column of a row (01 R22). -/
def logicalCol (w col : Nat) : Option Nat :=
  if w.testBit 6 then
    (if col < nbits w 4 0 then some col else if col = nbits w 4 0 then none else some (col - 1))
  else if col < 16 then some col else none

/-- The repair-rejected event. -/
def repairRejected (s : State) (tile : Option Nat) : State := event s 10 1 (tile.getD 0xFFFFFFFF)

/-- Mark a logical tile unavailable. -/
def failTile (s : State) (t : Nat) : State :=
  repairRejected { s with otp := { s.otp with failed := if s.otp.failed.contains t then s.otp.failed else s.otp.failed ++ [t] } } (some t)

/-- Apply an armed field record (R29). -/
def applyRecord (s : State) (v : Word) : State :=
  let die := fieldOf v 8 8
  let row := fieldOf v 7 5
  let col := fieldOf v 4 0
  let i := 8 * die + row
  let w := mapGet 0 s.otp.rows i
  let put := fun (w : Nat) => { s with otp := { s.otp with rows := mapSet 0 s.otp.rows i w } }
  if !bitOf v 31 then s
  else if col = 16 then
    let s := put (w ||| 0x80)
    if w.testBit 6 then failTile s (logicalTile die row 15) else s
  else if nbits w 9 8 = 0 ∧ w.testBit 7 = false then put (2 * 2 ^ 8 + 2 ^ 6 + col)
  else match logicalCol w col with
    | some c => failTile s (logicalTile die row c)
    | none => repairRejected s none

/-- The PHYS registers that the fuse map gives (R42, R43). -/
def applyMap (s : State) : State :=
  let rows := build 16 (fun i => mapGet 0 s.otp.rows i)
  let spare := build 256 (fun t => mapGet 0 s.otp.enlSpare t)
  let s := forEach rows.zipIdx s (fun x s => setR s (Reg.PHYS_ROW_MAP x.2) (BitVec.ofNat 32 x.1))
  let s := forEach spare.zipIdx s (fun x s => setR s (Reg.PHYS_ENL_SPARE x.2) (BitVec.ofNat 32 x.1))
  let s := forEach (List.range 8) s (fun k s =>
    setR s (Reg.PHYS_TILE_AVAIL k) (BitVec.ofNat 32 (((List.range 32).filter (fun j => !s.otp.failed.contains (32 * k + j))).map (2 ^ ·)).sum))
  let s := putRegBytes s (Reg.PHYS_SPARE_DIGEST 0) (sha256 ((rows ++ spare).flatMap (leBytes 4)))
  setR s Reg.PHYS_STATUS (BitVec.ofNat 32 ((rows.filter (fun w => w.testBit 6)).length * 256 + 1))

/-- A new transition nonce: free values. -/
def newNonce (s : State) : State :=
  forEach (List.range 4) s (fun k s => let (i, s) := fresh s; setR s (Reg.SEC_LC_NONCE k) (BitVec.ofNat 32 (Config.freeValue i)))

/-! ### Resets (16 Table 16.1) -/

/-- What both resets do: everything but OTP, flash and the free-value counter starts again; memory keeps its contents until the
wipe, and no access reaches it before. `keep` are the registers that keep their value, `cause` the bit of BOOT_RST_CAUSE. -/
def resetWith (s : State) (keep : SMap Word) (safe : Safe) (flash : Flash) (cause : Nat) (b : Board) (locked : Bool) : State :=
  let record := getR s Reg.PHYS_FIELD_REPAIR
  let t : State := { State.reset with
    pending := s.pending, freeCtr := s.freeCtr, now := s.now, regs := keep, mem := s.mem, ecc := s.ecc, safe := safe, otp := s.otp, flash := flash
    power := { Power.init with brakeLow := b.brakeLow }
    boot := { Boot.init with stage := if locked then .locking else .judging, relAt := s.now, refOk := locked, quiesceLow := b.quiesceLow } }
  let t := newNonce (applyMap (applyRecord t record))
  let t := setR t Reg.BOOT_RST_CAUSE (BitVec.ofNat 32 (2 ^ cause))
  let t := setF t Reg.BOOT_STATUS 27 26 b.bootMode
  let t := if b.quiesceLow then { t with boot := { t.boot with stage := .halted, quiesce := .removed } } else t
  if b.coolantOk then t else stopDevice t true false

/-- A power-on reset. -/
def powerOn (s : State) (b : Board) : State :=
  resetWith s (mapSet 0#32 [] Reg.CLK_STATUS (BitVec.ofNat 32 (b.xoDly % 8))) State.reset.safe (b.flash.getD s.flash) 0 b false

/-- POWER_ON_RESET (R498). -/
def execPowerOnReset (b : Board) (s : State) : Host.Outcome State Fault Refusal := .next (powerOn s b)

/-- A system reset by a cause, ignored while the trip latch is set (R499); the reference is judged again when it is not in use. -/
def systemReset (s : State) (cause : Nat) (b : Board) : State :=
  if s.safe.trip then s
  else
    let clk := setField 0#32 2 0 (getF s Reg.CLK_STATUS 2 0)
    let clk := if s.boot.refOk then setBit clk 29 (getB s Reg.CLK_STATUS 29) else clk
    let keep := mapSet 0#32 (mapFilter inSafe s.regs) Reg.CLK_STATUS clk
    resetWith s keep { s.safe with coolant := false } s.flash cause b s.boot.refOk

/-- SYSTEM_RESET: SYS_RST_N low; a pulse shorter than 100 ns is no reset (18 Table 18.16). -/
def execSystemReset (b : Board) (pulseNs : Nat) (s : State) : Host.Outcome State Fault Refusal :=
  .next (if pulseNs < 100 then s else systemReset s 1 b)

/-- The board as the device last saw it: a reset from inside finds the same straps and levels. -/
def boardSeen (s : State) : Board :=
  { xoDly := getF s Reg.CLK_STATUS 2 0, bootMode := getF s Reg.BOOT_STATUS 27 26, coolantOk := true, quiesceLow := s.boot.quiesceLow,
    brakeLow := s.power.brakeLow, flash := none }

/-! ### Start-up's registers -/

def bootState (s : State) (x : Nat) : State := setF s Reg.BOOT_STATUS 31 28 x

/-- Latch a reason (R509, R512, R515). -/
def latchReason (s : State) (reload : Bool) (code sect : Nat) : State :=
  setR s Reg.BOOT_REASON (BitVec.ofNat 32 (2 ^ 31 + (if reload then 2 ^ 30 else 0) + (sect % 256) * 2 ^ 16 + code))

/-- Enter Holding (R512). -/
def holding (s : State) (code sect : Nat) : State :=
  let s := latchReason s false code sect
  let s := bootState (setBitR s Reg.BOOT_STATUS 25 false) 5
  let s := setBitR (setBitR s Reg.BOOT_CTL 2 false) Reg.BOOT_RECOV_STATUS 31 false
  let s := setR (setR s Reg.CLK_GATE_EN0 (getR s Reg.CLK_GATE_EN0 &&& 3#32)) Reg.CLK_GATE_EN1 0#32
  let s := { s with boot := { s.boot with stage := .holding, fwAt := none, header := [] }, net := { s.net with egress := [], wire := [], pace := [] } }
  event s 3 1 (getN s Reg.BOOT_REASON)

/-- A reload that is refused or fails leaves the running plan untouched (R515). -/
def reloadFails (s : State) (code sect : Nat) : State :=
  let s := flag (latchReason s true code sect) Reg.BOOT_FLAGS 2
  let s := bootState (setBitR s Reg.BOOT_CTL 1 false) 4
  event { s with boot := { s.boot with reloading := false, swap := false, image := [] } } 3 2 (getN s Reg.BOOT_REASON)

/-- A write of BOOT_CTL.arm (Table 16.2 step 11): before Ready it is kept. -/
def bootArm (s : State) : State :=
  let s := flag s Reg.BOOT_CTL 0
  if s.boot.stage = .ready ∧ getF s Reg.BOOT_STATUS 27 26 = 2 ∧ s.plan.isSome ∧ 0 < groupSize s then
    armNow { s with sched := { s.sched with permitted := true } }
  else s

/-- BOOT_ARM. -/
def execBootArm (s : State) : Host.Outcome State Fault Refusal := .next (bootArm s)

/-- A write of BOOT_CTL.reload: taken while Ready and while no reload or removal is in progress; a flash-bridge write in the
same cycle refuses it (Table 16.10). -/
def bootReload (s : State) (sameCycleFlb : Bool) : State :=
  if s.boot.stage ≠ .ready ∨ s.boot.reloading ∨ s.boot.swap ∨ s.boot.quiesce ≠ .none then s
  else if sameCycleFlb then reloadFails s 1 0xFF
  else bootState (flag { s with boot := { s.boot with reloading := true } } Reg.BOOT_CTL 1) 8

/-- WARM_RELOAD. -/
def execWarmReload (sameCycleFlb : Bool) (s : State) : Host.Outcome State Fault Refusal := .next (bootReload s sameCycleFlb)

/-- A write of BOOT_CTL.recov_start: taken in Holding (R513). -/
def bootRecover (s : State) : State :=
  if s.boot.stage ≠ .holding then s
  else
    let s := setR (bootState (flag s Reg.BOOT_CTL 2) 6) Reg.BOOT_RECOV_STATUS (BitVec.ofNat 32 (2 ^ 31))
    { s with boot := { s.boot with stage := .recovery, recovAt := s.now, header := [] } }

/-- RECOVERY_START. -/
def execRecoveryStart (s : State) : Host.Outcome State Fault Refusal := .next (bootRecover s)

/-- A write of BOOT_CTL: its three requests in the order of their bits. -/
def bootCtlWrite (s : State) (v : Word) : State :=
  let s := flagIf s (decide (v &&& ~~~7#32 ≠ 0#32)) Reg.ERR_HOST_STATUS 0
  let s := if bitOf v 0 then bootArm s else s
  let s := if bitOf v 1 then bootReload s false else s
  if bitOf v 2 then bootRecover s else s

/-- A write of BOOT_RST_REQ. -/
def rstReqWrite (s : State) (v : Word) : State := if v = 0xC0DE7140#32 then systemReset s 2 (boardSeen s) else s

/-- BOOT_RST_REQ. -/
def execBootRstReq (v : Word) (s : State) : Host.Outcome State Fault Refusal := .next (rstReqWrite s v)

/-! ### The watchdog (R501) -/

def wdogEn (s : State) : Bool := getB s Reg.BOOT_WDOG_CFG 31

/-- A write of BOOT_WDOG_CFG; `lock`: a host write under R539. Enabling starts the count. -/
def wdogCfgWrite (s : State) (lock : Bool) (v : Word) : State :=
  let keep := wdogEn s && !bitOf v 31 && deployed s
  let w := if keep then setBit v 31 true else v
  let was := wdogEn s
  let s := putReg (if keep then reservedWrite s else s) Reg.BOOT_WDOG_CFG (lock && deployed s) w
  if wdogEn s && !was then { s with boot := { s.boot with wdogAt := s.now } } else s

/-- A write of BOOT_WDOG_KICK. -/
def wdogKick (s : State) (v : Word) : State :=
  if v = 0x5A5A#32 ∧ wdogEn s then { s with boot := { s.boot with wdogAt := s.now } } else s

/-- WATCHDOG_KICK. -/
def execWatchdogKick (v : Word) (s : State) : Host.Outcome State Fault Refusal := .next (wdogKick s v)

/-- WATCHDOG_EXPIRY: no kick has come for timeout_m1 + 1 seconds. -/
def execWatchdogExpiry (s : State) : Host.Outcome State Fault Refusal :=
  let due := s.boot.wdogAt + (getF s Reg.BOOT_WDOG_CFG 5 0 + 1) * 800000000
  .next (if wdogEn s && decide (due ≤ s.now) && decide (s.boot.stage ≠ .stopped) then systemReset s 3 (boardSeen s) else s)

/-! ### Life-cycle (R516, R519 to R521) -/

/-- The transitions that Table 16.9 permits. -/
def lcPermitted (src dst : Nat) : Bool := decide ((src = 0 ∧ dst = 1) ∨ (src = 1 ∧ dst = 2) ∨ ((src = 1 ∨ src = 2) ∧ dst = 3) ∨ (src = 0 ∧ dst = 3))

/-- The signature over device ID, nonce and target. -/
def lcSigned (s : State) (dst : Nat) : Bool :=
  ecdsaVerify (hdCustPub s.boot.header) (leBytes 16 s.otp.devId ++ regBytes s (Reg.SEC_LC_NONCE 0) 4 ++ [BitVec.ofNat 8 dst])
    (regBytes s (Reg.SEC_LC_SIG 0) 16)

/-- What a transition programs before its reset. -/
def lcProgram (s : State) (dst : Nat) : State :=
  match dst with
  | 1 =>
    let (i, s) := fresh s
    let d := Config.freeValue i % (ecN - 1) + 1
    { s with otp := { s.otp with lc := 1, custDigest := sha256 (hdCustPub s.boot.header), idKey := some d, idPub := ecPublic d } }
  | 2 => { s with otp := { s.otp with lc := 2 } }
  | _ => { s with otp := { s.otp with lc := 3, custDigest := List.replicate 32 0xFF#8, idKey := none, idPub := List.replicate 64 0xFF#8, destroyed := true } }

/-- The request as SEC_LC_REQ names it: refused with its reason, or performed. Every go draws a new nonce. -/
def lcGo (s : State) : State :=
  let dst := getF s Reg.SEC_LC_REQ 1 0
  let refuse := fun (r : Nat) => newNonce (flag (setR s Reg.SEC_LC_STATUS (BitVec.ofNat 32 (2 ^ 30 + r))) Reg.SEC_FLAGS 3)
  if s.boot.stage ≠ .ready then refuse 3
  else if !lcPermitted s.otp.lc dst then refuse 1
  else if s.otp.lc ≠ 0 ∧ lcSigned s dst = false then refuse 2
  else
    let s := lcProgram (haltContexts (newNonce (setR s Reg.SEC_LC_STATUS 0#32))) dst
    systemReset s 4 (boardSeen s)

/-- LC_TRANSITION. -/
def execLcTransition (s : State) : Host.Outcome State Fault Refusal := .next (lcGo s)

/-! ### Register writes -/

/-- A write of a register, those of BOOT and the life-cycle control included. -/
def performWrite (s : State) (a : Nat) (v : Word) : State :=
  if a = Reg.BOOT_CTL then bootCtlWrite s v
  else if a = Reg.BOOT_RST_REQ then rstReqWrite s v
  else if a = Reg.BOOT_WDOG_CFG then wdogCfgWrite s true v
  else if a = Reg.BOOT_WDOG_KICK then wdogKick s v
  else if a = Reg.SEC_LC_CTL then (if bitOf v 0 then lcGo s else s)
  else regEffect s a v

/-- REGISTER_WRITE (17 R537): a write of the register at an address. -/
def execRegisterWrite (addr : Nat) (v : Word) (s : State) : Host.Outcome State Fault Refusal := .next (performWrite s addr v)

end Sys2Proof.Machine
end

