-- ==== Sys2Proof/Machine/RegRead.lean ====
section
/-!
DEFINITION. RegRead.lean: what a read of a register gives (17 R537). Most registers hold what was last written; those here
are views of the state that the block shows: status words, counts, records.
-/
namespace Sys2Proof.Machine

open Sys2Proof

/-- A word of fields, each given by its lowest bit and its value. -/
def pack (l : List (Nat × Nat)) : Word := BitVec.ofNat 32 ((l.map (fun x => x.2 * 2 ^ x.1)).sum)

/-- The word whose bit i says whether f i holds, for i below n. -/
def bitsWhere (n : Nat) (f : Nat → Bool) : Nat := ((List.range n).map (fun i => if f i then 2 ^ i else 0)).sum

/-- Word k of a byte string, bytes 4k to 4k + 3 least significant first (01 R43). -/
def wordAt (bs : List Byte) (k : Nat) : Word := BitVec.ofNat 32 (leNat ((bs.drop (4 * k)).take 4))

/-! ### A tile's window -/

def SeqState.code : SeqState → Nat
  | .idle => 0 | .issuing => 1 | .waiting => 2 | .ending => 3 | .stopped => 4

/-- Whether a dispatch waits under 06 R209: of the Developer, of the Enlarger, of the Fixer, or of a DMA.GO whose chain has not
started. -/
def sbStalled (x : Tile) : Bool :=
  let held := fun (e : Option SbEntry) => (e.map (sbBlocks (sbAll x))).getD false
  (match x.dev.queue with
    | (pos, w) :: _ => held (devEntry x.dev pos w)
    | [] => false) ||
  (match x.enl.queue with
    | (pos, w) :: _ => enlReady x.enl (fieldOf w 63 56) && held (enlRange pos w)
    | [] => false) ||
  x.fix.any (fun j => j.waiting && (FixCmd.of j.cmd).legal && held (some (fixRange (FixCmd.of j.cmd) j.pos))) ||
  x.dma.any (fun ch => held ch.range)

/-- TILE_ENL_STATUS (04 Table 04.9): a barrier wave shows while it holds work. -/
def enlStatus (e : Enlarger) : Word :=
  let p := e.pass.map (fun q => PassCmd.of q.cmd)
  pack [(31, (!enlQuiet e).toNat), (28, if e.waveUntil.isSome && (e.pass.isSome || e.wakeHeld) then 1 else e.phase.code), (25, e.level), (24, e.active1.toNat), (23, e.shadowLoaded.toNat),
        (21, ((p.map (·.flow)).getD 0) % 4), (20, e.chain.isSome.toNat), (12, ((p.map (·.tag)).getD 0) % 256),
        (0, ((e.pass.map (·.next)).getD 0) % 4096)]

/-- TILE_ENL_FBQ (04 Table 04.11). -/
def enlFbq (x : Tile) : Word :=
  let n := x.enl.fbq.length
  pack [(12, fbqFinished x), (8, 8 - n), (4, (x.enl.fbq.filter (fun q => !q.finished)).length), (0, x.enl.fbqHead % 8)]

/-- TILE_DEV_STATUS (05 Table 05.9): an instruction that has dispatched has completed. -/
def devStatus (d : Developer) : Word :=
  let head := (d.queue.head?).map (fun q => fieldOf q.2 63 56)
  pack [(31, (!d.queue.isEmpty).toNat), (27, d.queue.length), (16, d.vlen), (15, (decide (head = some 0x42 ∨ head = some 0x43)).toNat), (0, d.lastOp)]

/-- TILE_DMA_STATUS (06 Table 06.13): a channel waits on a ring when its oldest fetched descriptor's wait is not satisfied. -/
def dmaStatus (s : State) (t : Nat) : Word :=
  let x := getT s t
  let on := fun (f : DmaChan → Bool) => bitsWhere 4 (fun c => f (nth DmaChan.idle x.dma c))
  let waits := fun (d : Desc) => x.run.any (fun c => !waitOk s t c.val d)
  pack [(8, on (fun c => c.fetched.head?.any waits)), (4, on (fun c => c.busy && !c.fetchDone)), (0, on (·.busy))]

/-- The views of a tile's window at an offset. -/
def tileView (s : State) (t o : Nat) : Option Word :=
  let x := getT s t
  match o with
  | 0x0000 => some (pack [(29, x.seq.code), (24, x.held.length), (16, x.waitOp), (8, (x.run.map (·.val)).getD 0), (0, x.stripNext % 16)])
  | 0x0004 => some (BitVec.ofNat 32 x.pc)
  | 0x0800 => some (pack [(31, (decide (x.power = .awake)).toNat), (30, (decide (x.power = .waking)).toNat)])
  | 0x1000 => some (enlStatus x.enl)
  | 0x1008 => some (enlFbq x)
  | 0x1028 => some (BitVec.ofNat 32 (t / 16 % 8))
  | 0x2000 => some (devStatus x.dev)
  | 0x3000 => some (BitVec.ofNat 32 ((x.fix.map fixStatus).getD 0))
  | 0x4000 => some (pack [(31, (!(scrubRows s t).isEmpty).toNat), (16, (scrubRows s t).length), (8, bitsWhere 6 (x.wakingG.contains ·)), (0, bitsWhere 6 (x.asleep.contains ·))])
  | 0x5000 => some (dmaStatus s t)
  | 0x6000 => some (pack [(31, (sbStalled x).toNat), (16, x.sbHigh), (0, min 32 (sbInUse x))])
  | _ => none

/-! ### Records -/

/-- The 32 bytes of an error record (09 Table 09.5). -/
def ErrRec.bytes (r : ErrRec) : List Byte :=
  leBytes 4 r.seq ++ leBytes 1 r.cls ++ leBytes 1 r.cause ++ leBytes 1 r.action ++ leBytes 1 r.source ++ leBytes 2 r.tile ++
  leBytes 1 r.ctx ++ leBytes 1 r.carrier ++ leBytes 2 r.sfn ++ leBytes 1 r.slot ++ leBytes 1 r.detail ++ leBytes 6 r.addr ++
  leBytes 2 0 ++ leBytes 4 r.sec ++ leBytes 4 r.ns

/-- The 32 bytes of a collective record (14 Table 14.4). -/
def CollRec.bytes (r : CollRec) : List Byte :=
  leBytes 1 r.barrier ++ leBytes 1 r.seat ++ leBytes 1 r.ctx ++ leBytes 1 r.status ++ leBytes 4 r.cycle ++ leBytes 4 r.waitUs ++
  leBytes 4 r.thrUs ++ leBytes 1 r.reasons ++ leBytes 3 0 ++ leBytes 4 r.relNs ++ leBytes 8 0

/-- The 16 bytes of an event record (17 Table 17.6). -/
def EvtRec.bytes (r : EvtRec) : List Byte :=
  leBytes 4 r.seq ++ leBytes 1 r.cls ++ leBytes 1 r.code ++ leBytes 1 r.carrier ++ leBytes 1 r.ctx ++ leBytes 4 r.arg ++ leBytes 4 r.uptime

/-! ### The schedule, memory, coding (06 to 11) -/

/-- SCH_CTX_STATEn (08 Table 08.11). -/
def CtxSt.code : CtxSt → Nat
  | .idle => 0 | .waiting => 1 | .running => 2 | .deferred => 3 | .stopped => 4 | .scrubbing => 5 | .held => 6

def ctxState (s : State) (c : Nat) : Word :=
  let x := getC s c
  let all := !x.negs.isEmpty && x.negs.all (fun kv => x.negHbm.contains kv.1)
  pack [(29, x.st.code), (28, all.toNat), (24, ctxPart s c % 16), (12, ((x.inst.map (·.entry)).getD x.lastEntry) % 4096)]

/-- SCH_STATUS. -/
def schStatus (s : State) : Word :=
  pack [(31, (schArmed s).toNat), (28, cycleCode s % 8), (0, bitsWhere 16 (fun p => (partPlan s p).isSome))]

/-- Occasions in search (11 Table 11.8). -/
def searching (s : State) : Nat :=
  (s.carriers.map (fun kv => (kv.2.ul.map (fun u => (u.2.occs.filter (·.searching)).length)).sum)).sum

/-- The views of the memory, schedule and coding blocks. -/
def hubView (s : State) (a : Nat) : Option Word :=
  let w := fun (x : Nat) => some (BitVec.ofNat 32 x)
  if a = Reg.MEM_WC_STATUS then some (pack [(31, s.wc.inv.toNat), (0, bitsWhere 4 (fun k => hubOn s (14 + k)))])
  else if a = Reg.MEM_SHADOW_FREE then w (s.alloc.clean.length + s.alloc.dirty.length)
  else if a = Reg.MEM_SCRUB_CLEAN then w s.alloc.clean.length
  else if a = Reg.MEM_SCRUB_PEND then w (s.alloc.dirty.length + s.foreignDirty.length)
  else if a = Reg.MEM_PAIR_USED then w (s.pairs.filter (fun kv => kv.2.shadow.isSome)).length
  else if a = Reg.SCH_STATUS then some (schStatus s)
  else if Reg.SCH_CTX_STATE 0 ≤ a ∧ a < Reg.SCH_CTX_STATE 128 then some (ctxState s ((a - Reg.SCH_CTX_STATE 0) / 4))
  else if a = Reg.ERR_LOG_STATUS then some (pack [(31, (fatal s).toNat), (16, s.errLog.length), (0, s.errSeq % 65536)])
  else if Reg.ERR_LOG_REC 0 ≤ a ∧ a < Reg.ERR_LOG_REC 8 then
    some (((s.errLog.head?).map (fun r => wordAt r.bytes ((a - Reg.ERR_LOG_REC 0) / 4))).getD 0#32)
  else if a = Reg.CTX_USED then w (ueUsed s).length
  else if a = Reg.CTX_RELEASE_STATUS then some (pack [(31, (!s.coding.relPend.isEmpty).toNat)])
  else if a = Reg.HARQ_USED then w (harqUsed s).length
  else if a = Reg.HARQ_PAGES_USED then w s.coding.harqLinks.length
  else if a = Reg.HARQ_PREFETCH then w (s.coding.prefetch.map (·.2)).sum
  else if a = Reg.HARQ_FLUSH_STATUS then some (pack [(31, (!s.coding.flushPend.isEmpty).toNat)])
  else if a = Reg.LDC_STATUS then
    some (pack [(31, (decide (((s.plan.map (·.wsets)).getD []) ≠ [])).toNat), (16, bitsWhere 4 (fun k => (nth none s.coding.slices k).isSome)),
                (0, min 65535 s.coding.release.length)])
  else if a = Reg.PLC_STATUS then some (pack [(31, (!s.coding.uciQ.isEmpty).toNat), (0, min 255 s.coding.uciQ.length)])
  else if a = Reg.RXM_STATUS then some (pack [(16, searching s % 256)])
  else if 0x00160000 ≤ a ∧ a < 0x00180000 then
    some (BitVec.ofNat 32 ((mapGet 0#128 s.net.eaxc ((a - 0x00160000) / 16)).toNat / 2 ^ (32 * ((a - 0x00160000) / 4 % 4))))
  else none

/-! ### Time (13) -/

/-- A signed quantity in 32 bits. -/
def sword (x : Int) : Word := BitVec.ofInt 32 x

/-- An integer divided by 2^k, rounded down. -/
def shrI (x : Int) (k : Nat) : Int := x / (2 ^ k : Nat)

/-- TIME_SFN: device SFN and subframe. -/
def timeSfn (s : State) : Word :=
  pack [(16, (nowGrid s - gpsGrid) % (10 * gridPerMs) / gridPerMs), (0, deviceSfn s)]

/-- TIME_P_CORR by the port's mode. -/
def timeCorr (s : State) (p : Nat) : Word :=
  match portMode s p with
  | 2 => pack [(16, 510), (0, 880)]
  | 3 => pack [(16, 710), (0, 1320)]
  | _ => pack [(16, 435), (0, 666)]

def servoView (s : State) (n o : Nat) : Option Word :=
  let x := servoOf s n
  match o with
  | 0x28 => some (pack [(30, x.st), (0, min 255 x.run)])
  | 0x2C => some (sword (shrI x.i 32))
  | 0x30 => if n = activeServo s then none else some (sword (shrI x.phi 8))
  | 0x34 => some (BitVec.ofNat 32 (holdSec s n))
  | _ => none

/-- The oldest capture of a pin. -/
def pinCap (s : State) (k : Nat) : Option Nat := (getPin s k).fifo.head?

def pinView (s : State) (k o : Nat) : Option Word :=
  let w := fun (f : Nat → Nat) => some (BitVec.ofNat 32 (((pinCap s k).map f).getD 0))
  match o with
  | 0x20 => w (fun t => t / unitsPerSec)
  | 0x24 => w (fun t => t / unitsPerSec / 2 ^ 32)
  | 0x28 => w (fun t => t % unitsPerSec / 65536)
  | 0x2C => w (fun t => t % 65536)
  | 0x34 => some (pack [(7, (pinLevel s k).toNat), (0, (getPin s k).fifo.length)])
  | _ => none

def timeView (s : State) (a : Nat) : Option Word :=
  let w := fun (x : Nat) => some (BitVec.ofNat 32 x)
  if a = Reg.TIME_STATUS then
    let st := fun n => (servoOf s n).st
    some (setField (setField (getR s a) 29 28 (st (activeServo s))) 27 26 (st (1 - activeServo s)))
  else if a = Reg.TIME_NOW_SEC_LO then w (devSec s)
  else if a = Reg.TIME_NOW_SEC_HI then w (devSec s / 2 ^ 32)
  else if a = Reg.TIME_NOW_NS then w (devNs s)
  else if a = Reg.TIME_NOW_FRAC then w (s.time.dev % 65536)
  else if a = Reg.TIME_SFN then some (timeSfn s)
  else if a = Reg.TIME_DPLL_STATUS then some (setBit (getR s a) 31 (decide (dpllMode s = 1) && !s.time.synceLost && macUp s (synceSrc s)))
  else if Reg.TIME_S_CFG 0 ≤ a ∧ a < Reg.TIME_S_CFG 2 then servoView s ((a - Reg.TIME_S_CFG 0) / 0x80) ((a - Reg.TIME_S_CFG 0) % 0x80)
  else if Reg.TIME_P_CORR 0 ≤ a ∧ a < Reg.TIME_P_CORR 8 ∧ (a - Reg.TIME_P_CORR 0) % 16 = 0 then some (timeCorr s ((a - Reg.TIME_P_CORR 0) / 16))
  else if a = Reg.TPIN_STATUS then w (bitsWhere 16 (pinArmed s))
  else if Reg.TPIN_I_CFG 0 ≤ a ∧ a < Reg.TPIN_I_CFG 16 then pinView s ((a - Reg.TPIN_I_CFG 0) / 0x40) ((a - Reg.TPIN_I_CFG 0) % 0x40)
  else none

/-! ### Peers, power, keys, the Safelight (14 to 17) -/

def opMhz : List Nat := [1100, 1250, 1400, 1550, 1700, 1850, 2000, 2200]

/-- A compute die's core clock in MHz. -/
def dieMhz (s : State) (d : Nat) : Nat :=
  if !(dieAwake s d && clocksRun s) then 0
  else nth 0 opMhz (clkOf s d).op / (if (clkOf s d).halved then 2 else 1)

/-- PWR_DIE_STATUSn. -/
def DieSt.code : DieSt → Nat
  | .awake => 0 | .entering => 1 | .dormant => 2 | .waking => 3 | .stopped => 4

/-- The physical column that holds a logical tile (01 R22). -/
def physCol (s : State) (t : Nat) : Nat :=
  let r := getR s (Reg.PHYS_ROW_MAP (8 * dieOf t + t / 16 % 8))
  let c := t % 16
  if bitOf r 6 && decide (fieldOf r 4 0 ≤ c) then c + 1 else c

/-- Whether power domain d is on (15 Table 15.3). -/
def domainOn (s : State) (d : Nat) : Bool :=
  let run := decide (s.boot.stage ≠ .stopped) && clocksRun s
  let die := fun (k i : Nat) =>
    let on := run && decide (dieSt s k ≠ .dormant ∧ dieSt s k ≠ .stopped)
    let cols := fun (f : Tile → Bool) (c : Nat) => ((List.range 128).map (· + 128 * k)).any (fun t => decide (physCol s t = c) && f (getT s t))
    if i < 17 then on && cols (fun x => decide (x.power ≠ .asleep)) i
    else if i < 34 then on && cols (fun x => decide (x.asleep.length < 6)) (i - 17)
    else on
  if d < 37 then die 0 d
  else if d < 74 then die 1 (d - 37)
  else if d < 92 then hubOn s (d - 74)
  else if d = 94 ∨ d = 95 then run && decide (dieSt s (d - 94) ≠ .dormant ∧ dieSt s (d - 94) ≠ .stopped)
  else d < 98 && run

/-- Whether ALERT_N is asserted (17 R541). -/
def alertOn (s : State) : Bool :=
  s.safe.events.any (fun r => !getB s Reg.SAFE_ALERT_MASK r.cls) || decide (s.boot.stage = .stopped) || fatal s || decide (s.boot.stage = .holding)

/-- SAFE_STATUS (17 Table 17.12). -/
def safeStatus (s : State) : Word :=
  pack [(31, (decide (s.boot.stage = .stopped)).toNat), (30, s.safe.coolant.toNat), (29, s.safe.trip.toNat), (28, (fatal s).toNat),
        (27, (decide (s.boot.stage = .holding)).toNat), (26, (alertOn s).toNat), (0, s.safe.events.length)]

def peerView (s : State) (a : Nat) : Option Word :=
  if Reg.PEER_COLL_REC 0 ≤ a ∧ a < Reg.PEER_COLL_REC 8 then
    some (((s.peer.coll.head?).map (fun r => wordAt r.bytes ((a - Reg.PEER_COLL_REC 0) / 4))).getD 0#32)
  else if Reg.PEER_P_POOL 0 0 ≤ a ∧ a < Reg.PEER_P_POOL 16 0 then
    let p := (a - Reg.PEER_P_POOL 0 0) / 16
    let v := (a - Reg.PEER_P_POOL 0 0) / 4 % 4
    let size := fieldOf (getR s a) 31 16
    some (pack [(16, size), (0, size - ((partCtxs s p).map (fun c => nth 0 (getC s c).credits v)).sum)])
  else none

def powerView (s : State) (a : Nat) : Option Word :=
  let op := fun d => if clocksRun s then effectiveOp s d else 0
  if a = Reg.CLK_COMP_FREQ then some (pack [(16, dieMhz s 1), (0, dieMhz s 0)])
  else if a = Reg.PWR_STATUS then
    some (pack [(31, (s.power.brakeLow || s.power.brakeUntil.isSome).toNat), (28, op 0), (24, op 1), (16, reasonsOf s 0), (8, reasonsOf s 1)])
  else if a = Reg.PWR_DIE_STATUS 0 ∨ a = Reg.PWR_DIE_STATUS 1 then
    let d := if a = Reg.PWR_DIE_STATUS 0 then 0 else 1
    some (pack [(29, (dieSt s d).code), (24, dutyOf s d), (21, lowestCeiling s d), (18, requestedOp s d)])
  else if Reg.PWR_DOM_STATUS 0 ≤ a ∧ a < Reg.PWR_DOM_STATUS 4 then
    some (BitVec.ofNat 32 (bitsWhere 32 (fun i => domainOn s (8 * (a - Reg.PWR_DOM_STATUS 0) + i))))
  else if Reg.PWR_OP_V 0 ≤ a ∧ a < Reg.PWR_OP_V 8 then some (BitVec.ofNat 32 (nth 0 s.otp.opMv ((a - Reg.PWR_OP_V 0) / 4)))
  else if a = Reg.THM_STATUS then
    some (pack [(2, (decide (800 ≤ signed 16 (getN s Reg.THM_TJ_HUB))).toNat), (1, (decide ((clkOf s 1).thCeil < 7)).toNat),
                (0, (decide ((clkOf s 0).thCeil < 7)).toNat)])
  else none

def secView (s : State) (a : Nat) : Option Word :=
  let arr := fun (base n : Nat) (bs : List Byte) => if base ≤ a ∧ a < base + 4 * n then some (wordAt bs ((a - base) / 4)) else none
  if a = Reg.SEC_STATUS then
    some (pack [(31, (!s.sec.queue.isEmpty).toNat), (30, (s.otp.idKey.isSome && !s.otp.destroyed).toNat), (29, s.otp.destroyed.toNat),
                (28, (decide (s.otp.lc = 0 ∨ s.otp.lc = 3)).toNat), (0, s.otp.lc)])
  else if a = Reg.SEC_SECVER then some (BitVec.ofNat 32 s.otp.secver)
  else (arr (Reg.SEC_DEV_ID 0) 4 (leBytes 16 s.otp.devId)).or
    ((arr (Reg.SEC_ROOT_DIGEST 0) 8 (beBytes 32 Config.rootDigest)).or
    ((arr (Reg.SEC_CUST_DIGEST 0) 8 s.otp.custDigest).or (arr (Reg.SEC_ID_PUB 0) 16 s.otp.idPub)))

def safeView (s : State) (a : Nat) : Option Word :=
  let w := fun (x : Nat) => some (BitVec.ofNat 32 x)
  if a = Reg.SAFE_STATUS then some (safeStatus s)
  else if a = Reg.SAFE_UPTIME_LO then w (uptime s)
  else if a = Reg.SAFE_UPTIME_HI then w (uptime s / 2 ^ 32)
  else if a = Reg.SAFE_TIME_SEC_LO then w (s.safe.devCopy / unitsPerSec)
  else if a = Reg.SAFE_TIME_SEC_HI then w (s.safe.devCopy / unitsPerSec / 2 ^ 32)
  else if a = Reg.SAFE_TIME_US then w (s.safe.devCopy % unitsPerSec / unitsPerUs)
  else if Reg.SAFE_EVT 0 ≤ a ∧ a < Reg.SAFE_EVT 4 then
    some (((s.safe.events.head?).map (fun r => wordAt r.bytes ((a - Reg.SAFE_EVT 0) / 4))).getD 0#32)
  else none

/-! ### A read -/

/-- Registers that a read gives as 0: those written only (00 Table 00.4). -/
def writeOnly (a : Nat) : Word := (regFields a).foldl (fun m f => if f.acc = .wo then m ||| maskOf 32 f.hi f.lo else m) 0#32

/-- The value a read of a register gives, by the block that holds it (01 Table 01.6). -/
def readReg (s : State) (a : Nat) : Word :=
  let view :=
    if 0x01000000 ≤ a ∧ a < 0x02000000 then tileView s ((a - 0x01000000) / 0x10000) (a % 0x10000)
    else if 0x00010000 ≤ a ∧ a < 0x00020000 then safeView s a
    else if 0x00020000 ≤ a ∧ a < 0x00050000 then powerView s a
    else if 0x00050000 ≤ a ∧ a < 0x00060000 then secView s a
    else if 0x00080000 ≤ a ∧ a < 0x000A0000 then timeView s a
    else if 0x00400000 ≤ a ∧ a < 0x00480000 then peerView s a
    else hubView s a
  view.getD (getR s a &&& ~~~writeOnly a)

/-- What a read changes: a read-clear register clears, except what the same µs has set (00 R15). -/
def readEffect (s : State) (a : Nat) : State :=
  let rc := (regFields a).foldl (fun m f => if f.acc = .rc then m ||| maskOf 32 f.hi f.lo else m) 0#32
  if rc = 0#32 then s else setR s a (getR s a &&& ~~~rc)

end Sys2Proof.Machine
end

