-- ==== Sys2Proof/Machine/Service.lean ====
section
/-!
DEFINITION. Service.lean: which host accesses are served, as status codes of 17 Table 17.3 (01 R33, R38 to R41; 17 R526, R533,
R536).
-/
namespace Sys2Proof.Machine

open Sys2Proof

/-! ### Register blocks (01 Table 01.6) -/

/-- The extents of the register blocks: first address and end. -/
def extents : List (Nat × Nat) :=
  (List.range 7).map (fun k => (0x10000 * k, 0x10000 * (k + 1))) ++
  [(0x00080000, 0x00090000), (0x00090000, 0x000A0000), (0x00100000, 0x00110000), (0x00140000, 0x00180000), (0x00180000, 0x00200000),
   (0x00200000, 0x00240000), (0x00240000, 0x00280000), (0x00280000, 0x00300000), (0x00300000, 0x00340000), (0x00340000, 0x00380000),
   (0x00380000, 0x00400000), (0x00400000, 0x00480000), (0x00480000, 0x00500000), (0x00500000, 0x00580000), (0x01000000, 0x02000000),
   (0x02000000, 0x02001000)]

/-- The extent that holds an address. -/
def extentOf (a : Nat) : Option (Nat × Nat) := extents.find? (fun e => decide (e.1 ≤ a) && decide (a < e.2))

/-- Step 3 of 16 Table 16.2 has come: the PLLs have locked. -/
def step3 (s : State) : Bool := getB s Reg.CLK_STATUS 31

/-- The start-up wipe has ended (16 Table 16.2 step 4). -/
def wiped (s : State) : Bool := decide (2 ≤ getF s Reg.BOOT_STATUS 31 28)

/-- The gate of the register at an address: register number and bit (17 Table 17.5). -/
def gateOf (a : Nat) : Option (Nat × Nat) :=
  let within := fun (lo hi : Nat) => decide (lo ≤ a) && decide (a < hi)
  if within 0x00050000 0x00060000 then some (0, 0)
  else if within 0x00060000 0x00070000 then some (0, 1)
  else if within 0x00140000 0x00180000 then some (0, 2)
  else if within 0x00180000 0x00200000 then some (0, 3)
  else if within 0x00200000 0x00240000 then some (0, 4)
  else if within 0x00240000 0x00280000 then some (0, 5)
  else if within 0x00280000 0x00300000 then some (0, 6)
  else if within 0x00300000 0x00340000 then some (0, 7)
  else if within 0x00340000 0x00380000 then some (0, 8)
  else if within 0x00380000 0x00400000 then some (0, 9)
  else if within 0x00480000 0x00500000 then some (0, 10)
  else if within 0x00100000 0x00110000 then some (1, (a - 0x00100000) / 0x2000)
  else if within 0x00400000 0x00480000 then 
    (if within (Reg.PEER_L_STATUS 0) (Reg.PEER_L_STATUS 4) then some (1, 8 + (a - Reg.PEER_L_STATUS 0) / 0x40) else none)
  else none

/-- A tile's domains are on. -/
def tileOn (s : State) (t : Nat) : Bool := decide ((getT s t).power = .awake) && dieAwake s (dieOf t)

/-- An access to a tile's window (01 R41); its sub-block from 0x7000 on is reserved (Table 01.7). -/
def tileCode (s : State) (a : Nat) (write : Bool) : Nat :=
  let t := (a - 0x01000000) / 0x10000
  if !tileAvail s t then 4
  else if tileOn s t then (if 0x7000 ≤ a % 0x10000 then 2 else 0)
  else if !write && decide (a % 0x10000 < 0x1000) then 0
  else 4

/-- The status code of an access to one register. -/
def regCode (s : State) (a : Nat) (write : Bool) : Nat :=
  if (extentOf a).isNone then 2
  else if s.boot.stage = .stopped then (if 0x00010000 ≤ a ∧ a < 0x00020000 then 0 else 3)
  else if a < 0x00020000 ∨ a = Reg.CLK_STATUS then 0
  else if !step3 s then 3
  else if 0x01000000 ≤ a ∧ a < 0x02000000 then tileCode s a write
  else match gateOf a with
    | some (k, i) => if getB s (gateReg k) i then 0 else 3
    | none => 0

/-! ### Device memory (01 Table 01.5, 17 Table 17.4) -/

inductive MemRow where
  | hbm (stack : Nat)
  | spad (tile : Nat)
  | wcache
  | ueCore
  | ueExt
  | harq
  | mirror
  | hole
  deriving DecidableEq, Repr

/-- The row of the physical map that holds an address. -/
def memRow (a : Nat) : MemRow :=
  if a < hbmStackBytes then .hbm 0
  else if a < hbmBytes then .hbm 1
  else if spBase 0 ≤ a ∧ a < spBase 256 then (if (a - spBase 0) % 0x200000 < spBytes then .spad ((a - spBase 0) / 0x200000) else .hole)
  else if wcBase ≤ a ∧ a < wcBase + 0x6000000 then .wcache
  else if ctxCoreBase ≤ a ∧ a < ctxCoreBase + 0x800000 then .ueCore
  else if ctxExtBase ≤ a ∧ a < ctxExtBase + 0x1800000 then .ueExt
  else if harqBase ≤ a ∧ a < harqBase + 0x400000 then .harq
  else if mirrorBase ≤ a ∧ a < mirrorBase + 0x100000000 then .mirror
  else .hole

/-- The die that holds an HBM stack is dormant (15 R477). -/
def stackDark (s : State) (k : Nat) : Bool := !dieAwake s k

/-- The status code of an access to one word of memory. -/
def memCode (s : State) (a : Nat) (write : Bool) : Nat :=
  if s.boot.stage = .stopped ∨ wiped s = false then 3
  else match memRow a with
    | .hbm k => if stackDark s k then 4 else 0
    | .spad t => if tileAvail s t && tileOn s t then 0 else 4
    | .wcache => if write then 5 else 0
    | .ueCore => if write then 5 else 0
    | .ueExt => if stackDark s (if getN64 s Reg.CTX_EXT_BASE_LO Reg.CTX_EXT_BASE_HI < hbmStackBytes then 0 else 1) then 4 else 0
    | .harq => if write then 5 else 0
    | .mirror => 5
    | .hole => 2

end Sys2Proof.Machine
end

