-- ==== Sys2Proof/Machine/PlanLoad.lean ====
section
/-!
DEFINITION. PlanLoad.lean: a Contact Sheet's sections as the device takes them over: checks 10 to 12 of 16 Table 16.4, and step 9 of
Table 16.2, which a warm reload repeats (16 R502, R511, R515, R575; 07 R252, R258; 14 R435 to R439, R447).
-/
namespace Sys2Proof.Machine

open Sys2Proof

/-- What a sheet says, read once. -/
structure Image where
  id : Nat                   -- the number under which Config names what the plan names
  header : List Byte
  bundle : Nat               -- section indexes of plan bundle, policy, P5
  policySect : Nat
  p5Sect : Nat
  all : List PlanRec         -- every record
  bad : Option Nat           -- the section that is no sequence of records of its kinds
  policy : List Byte
  p5 : List Byte
  deriving DecidableEq, Repr

def imageOf (s : State) (src : SheetAt) : Image :=
  let h := sheetHeader s src
  let l := sections s src h
  let (all, bad) := allRecords s src l
  let bytes := fun t => ((l.find? (fun (x : Sect) => decide (x.type = t))).map (sectBytes s src)).getD []
  { id := digestId h, header := h, bundle := sectIndex l 2, policySect := sectIndex l 5, p5Sect := sectIndex l 6, all := all, bad := bad,
    policy := bytes 5, p5 := bytes 6 }

/-- The group map's entry that names this device. -/
def Image.member (m : Image) (s : State) : Option (Nat × Member) :=
  let p := policyOf m.policy
  (memberHere s p).bind (fun i => (p.members[i]?).map (fun x => (i, x)))

/-- The records that stand here: those of the seats placed on this member; none on a device that the map does not list (R435). -/
def Image.own (m : Image) (s : State) : List PlanRec := ((m.member s).map (fun x => placedOn x.2 m.all)).getD []

/-! ### Registers that the plan loads -/

/-- The registers that the register tables mark "plan". -/
def planNames : List String :=
  ["SCH_CC_CFG", "CTX_EXT_BASE_LO", "CTX_EXT_BASE_HI", "CTX_CFG", "CTX_CC_Q", "HARQ_CFG", "HARQ_POOL_BASE_LO", "HARQ_POOL_BASE_HI",
   "HARQ_CC_DQ", "HARQ_CC_PQ", "LDC_CC_CFG", "PLC_CC_DTX", "RXM_CFG", "RXM_REF_BASE_LO", "RXM_REF_BASE_HI", "RXM_NF_BASE_LO",
   "RXM_NF_BASE_HI", "RXM_CC_THR", "RXM_CC_CAL", "RXM_CC_NF", "RXM_CC_NF_DEF", "FHX_CC_ULBUF_LO", "FHX_CC_ULBUF_HI", "FHX_CC_ULCFG",
   "FHX_CC_DLBUF_LO", "FHX_CC_DLBUF_HI", "FHX_CC_DLCFG", "FHX_CC_CAP_LO", "FHX_CC_CAP_HI", "FHX_CC_CAPSZ", "FHX_RU_MAC_LO",
   "FHX_RU_MAC_HI", "NB_CC_PHYID", "NB_CC_CTL", "NB_CC_P5_LO", "NB_CC_P5_HI", "TIME_CC_OFFSET", "PEER_GRP_CFG", "PEER_EPOCH",
   "PEER_P_POOL", "PEER_ROUTE", "TILE_PWR_CTL"]

def planReg (a : Nat) : Bool := ((regRow a).map (fun r => planNames.contains r.name)).getD false

/-- A register of Table 17.13. -/
def rwlReg (a : Nat) : Bool := (regFields a).any (fun f => decide (f.acc = .rwl))

/-- A register write of the policy section: a host write, but that RWL fields take it in every life-cycle state (17 R539). -/
def policyWrite (s : State) (a : Nat) (v : Word) : State :=
  if a = Reg.BOOT_WDOG_CFG then wdogCfgWrite s false v
  else if rwlReg a then afterWrite (putReg (dropCapture s a) a false v)
  else performWrite s a v

/-- The register writes in their order; none where one of them fails the policy section (R575). A write that resets the device
ends them. -/
def policyWrites (s : State) : List (Nat × Word) → Option State
  | [] => some s
  | (a, v) :: rest =>
    if a % 4 ≠ 0 ∨ regCode s a true ≠ 0 ∨ planReg a then none
    else
      let flagged := getB s Reg.ERR_HOST_STATUS 0
      let t := policyWrite (setBitR s Reg.ERR_HOST_STATUS 0 false) a v
      if t.boot.stage ≠ s.boot.stage then some t
      else if getB t Reg.ERR_HOST_STATUS 0 then none
      else policyWrites (setBitR t Reg.ERR_HOST_STATUS 0 flagged) rest

/-! ### Step 9 -/

/-- A parameter that the plan gives in a form the spec does not lay out (DESIGN CHOICE, log 16), within a range. -/
def planParam (id kind c n lo span : Nat) : Nat := lo + Config.planName id kind c n 0 % span

/-- Put a list of words into registers. -/
def putWords (s : State) (as : List Nat) (ws : List Word) : State := (as.zip ws).foldl (fun s x => setR s x.1 x.2) s

/-- Carrier contexts (kind 4) and their I/O setup (kind 11). -/
def loadCarriers (s : State) (l : List PlanRec) : State :=
  let s := forEach (ofKind l 4) s (fun r s =>
    let c := r.index
    putWords s [Reg.SCH_CC_CFG c 0, Reg.SCH_CC_CFG c 1, Reg.SCH_CC_CFG c 2, Reg.SCH_CC_CFG c 3, Reg.TIME_CC_OFFSET c] (wordsAt r.body 0 5))
  forEach (ofKind l 11) s (fun r s =>
    let c := r.index
    putWords s [Reg.FHX_CC_ULBUF_LO c, Reg.FHX_CC_ULBUF_HI c, Reg.FHX_CC_ULCFG c, Reg.FHX_CC_DLBUF_LO c, Reg.FHX_CC_DLBUF_HI c,
      Reg.FHX_CC_DLCFG c, Reg.FHX_CC_CAP_LO c, Reg.FHX_CC_CAP_HI c, Reg.FHX_CC_CAPSZ c, Reg.NB_CC_PHYID c, Reg.RXM_CC_THR c,
      Reg.RXM_CC_CAL c, Reg.RXM_CC_NF c, Reg.RXM_CC_NF_DEF c] (wordsAt r.body 0 14))

/-- The device setup (kind 12). -/
def loadDevice (s : State) (l : List PlanRec) : State :=
  forEach (ofKind l 12) s (fun r s =>
    let s := setR s Reg.RXM_CFG (nth 0#32 (wordsAt r.body 0 1) 0)
    let s := putWords s ((List.range 64).flatMap (fun k => [Reg.FHX_RU_MAC_LO k, Reg.FHX_RU_MAC_HI k])) (wordsAt r.body 8 128)
    putWords s ((List.range 256).map Reg.TILE_PWR_CTL) (wordsAt r.body 520 256))

/-- The device reservation (Table 16.6). -/
def loadResv (s : State) (b : List Byte) : State :=
  let w := fun (a n : Nat) => BitVec.ofNat 32 (subLe b a n)
  let s := setN64 (setR s Reg.HARQ_CFG (w 14 2)) Reg.HARQ_POOL_BASE_LO Reg.HARQ_POOL_BASE_HI (subLe b 8 6)
  let s := setN64 (setR s Reg.CTX_CFG (w 26 2)) Reg.CTX_EXT_BASE_LO Reg.CTX_EXT_BASE_HI (subLe b 20 6)
  let s := setN64 s Reg.RXM_REF_BASE_LO Reg.RXM_REF_BASE_HI (subLe b 40 6)
  let s := setN64 s Reg.RXM_NF_BASE_LO Reg.RXM_NF_BASE_HI (subLe b 46 6)
  forEach (List.range 32) s (fun c s =>
    putWords s [Reg.HARQ_CC_DQ c, Reg.HARQ_CC_PQ c, Reg.CTX_CC_Q c] (wordsAt b (56 + 12 * c) 3))

/-- A carrier's weight set, its maximum of iterations and its DTX threshold. -/
def loadCoding (s : State) (id : Nat) (l : List PlanRec) : State :=
  forEach (((ofKind l 4).filter ccUsed).map (·.index)) s (fun c s =>
    let w := ((wsetsOf l).find? (fun w => (subLe w 4 4).testBit c)).getD []
    let s := setR s (Reg.LDC_CC_CFG c) (BitVec.ofNat 32 (2 ^ 31 + subLe w 0 1 * 256 + subLe w 1 1))
    setR s (Reg.PLC_CC_DTX c) (BitVec.ofNat 32 (planParam id 21 c 0 0 65536)))

/-- The TLV block of a carrier in the P5 section: its bytes, at the place and of the length the plan names. -/
def p5Bytes (m : Image) (c : Nat) : List Byte := sub m.p5 (planParam m.id 18 c 0 0 (2 ^ 29)) (planParam m.id 15 c 0 0 (2 ^ 16))

/-- A TLV block as one number, as Carriers.p5Block reads it. -/
def p5Number (bs : List Byte) : Nat := leNat bs + 2 ^ (8 * bs.length)

/-- Put the P5 blocks in place; a carrier whose run bit the plan sets starts at its next frame boundary (12 R402). -/
def loadP5 (s : State) (m : Image) (l : List PlanRec) : State :=
  forEach (((ofKind l 4).filter ccUsed).map (·.index)) s (fun c s =>
    let bs := p5Bytes m c
    let pa := planParam m.id 19 c 0 0 hbmBytes
    let run := decide (planParam m.id 23 c 0 0 2 = 1)
    let s := setN64 (setBytes s pa bs) (Reg.NB_CC_P5_LO c) (Reg.NB_CC_P5_HI c) pa
    let s := setBitR s (Reg.NB_CC_CTL c) 31 run
    modCar s c (fun x => { x with p5 := p5Number bs, runReq := if run then some true else none }))

/-- The images of page tables, weights and initial tables. The UE table is left alone where a reload keeps it. -/
def loadImages (s : State) (id : Nat) (l : List PlanRec) (keepUe : Bool) : State :=
  let s := forEach (imagesOf l) s (fun i s => setBytes s i.1 i.2)
  let s := if keepUe then s else forEach (tableImages l 1) s (fun r s => setBytes s ctxCoreBase (image r))
  let s := forEach (tableImages l 2) s (fun r s => setBytes s harqBase (image r))
  let s := forEach (tableImages l 3) s (fun r s => setBytes s (Config.planName id 10 r.index 0 0 % 2 ^ 48) (image r))
  { s with net := { s.net with eaxc := eaxcOf l, eaxcPend := [] } }

/-- Tile programs go into instruction memory. -/
def loadImem (s : State) (l : List PlanRec) : State :=
  forEach ((ofKind l 1).map imemOf) s (fun i s =>
    modT s i.tile (fun x => { x with imem := i.words.zipIdx.foldl (fun m w => mapSet 0#64 m (i.first + w.2) w.1) x.imem }))

/-- The bundle as the device holds it. -/
def planOf (id : Nat) (l : List PlanRec) : Plan :=
  { parts := (ofKind l 3).map partOf, programs := programsOf l, decls := (ofKind l 9).map declRec, setups := (ofKind l 8).map setupOf,
    images := (ofKind l 1).map imemOf, streams := streamsOf l, bars := barsOf l, wsets := wsetsOf l, resv := resvOf l,
    placed := placedRegions id l ++ ((ofKind l 3).map partOf).map (storeOf l) }

/-- The pair table and the shadow pool (07 R252, R258). -/
def loadPages (s : State) (id : Nat) (b : List Byte) : State :=
  { s with
    pairs := build (pairCount id) (fun n => (n, { primary := pairPage' id n, shadow := none, discarded := false,
                                                  holder := none }))
    alloc := { clean := build (subLe b 28 4) (fun i => subLe b 32 6 + i * 0x10000), dirty := [] } }

/-- Group parameters of the plan: roll period, release margin, wait threshold, credit pools (14 Table 14.6). -/
def loadGroup (s : State) (id : Nat) (l : List PlanRec) : State :=
  let s := setR s Reg.PEER_GRP_CFG (BitVec.ofNat 32 (planParam id 24 2 0 1 63 * 2 ^ 24 + planParam id 24 1 0 1 100 * 2 ^ 16 + planParam id 24 0 0 10 59991))
  forEach ((ofKind l 3).map partOf) s (fun p s =>
    forEach (List.range 4) s (fun v s => setR s (Reg.PEER_P_POOL p.part v) (BitVec.ofNat 32 (planParam id 22 p.part v 0 65536 * 2 ^ 16))))

/-- The group map takes hold: epoch, routes, member number and size, cabled links train; a link no longer cabled powers down. -/
def loadMap (s : State) (p : Policy) (i : Nat) (m : Member) : State :=
  let s := setR s Reg.PEER_EPOCH (BitVec.ofNat 32 p.epoch)
  let s := forEach (List.range 64) s (fun j s =>
    let b := (nth 0#8 m.route j).toNat
    setR s (Reg.PEER_ROUTE j) (if j ≠ i ∧ j < p.members.length ∧ b.testBit 7 then BitVec.ofNat 32 (2 ^ 31 + b % 4) else 0#32))
  let s := setF (setF s Reg.PEER_GRP_STATUS 21 16 i) Reg.PEER_GRP_STATUS 6 0 p.members.length
  let s := { s with peer := { s.peer with members := p.members } }
  forEach (List.range 4) s (fun k s =>
    if m.cabled.testBit k then
      (if linkState s k = 0 then modL (setR s (Reg.PEER_L_STATUS k) (BitVec.ofNat 32 (2 ^ 29))) k (fun x => { x with since := s.now }) else s)
    else setR s (Reg.PEER_L_STATUS k) 0#32)

/-- Load a sheet that has passed its checks on a device whose old plan, if any, is gone. -/
def loadPlan (s : State) (m : Image) (keepUe : Bool) : State :=
  let l := m.own s
  let p := policyOf m.policy
  let s := putRegBytes { s with boot := { s.boot with header := m.header } } (Reg.BOOT_SHEET_DIGEST 0) (hdDigest m.header)
  let s := setR s Reg.BOOT_SECVER (BitVec.ofNat 32 (hdSecVer m.header))
  let s := loadGroup (loadCoding (loadResv (loadDevice (loadCarriers s l) l) (resvOf l)) m.id l) m.id l
  let s := loadImem (loadP5 (loadImages (loadPages s m.id (resvOf l)) m.id l keepUe) m l) l
  let s := wcClear { s with plan := if l = [] then none else some (planOf m.id l) }
  match m.member s with
  | some (i, x) => loadMap s p i x
  | none => setR (setF s Reg.PEER_GRP_STATUS 6 0 0) Reg.PEER_EPOCH (BitVec.ofNat 32 p.epoch)

/-! ### Checks 10 to 12 -/

/-- Check 11: the P5 block of every carrier in use, and their search load together. -/
def p5Ok (m : Image) (l : List PlanRec) : Bool :=
  let l := ((ofKind l 4).filter ccUsed).map (fun r => (p5Number (p5Bytes m r.index), fieldOf (nth 0#32 (ccWords r) 0) 30 29))
  l.all (fun x => p5Passes x.1 x.2) && prachLoadOk l

/-- The first failure of checks 10 to 12, as reason code and section; and the state after the load where there is none. -/
def checkLoad (s : State) (m : Image) (keepUe : Bool) : (Nat × Nat) ⊕ State :=
  let l := m.own s
  if m.bad.isSome then .inl (10, m.bad.getD 0xFF)
  else if m.all.all recordForm = false ∨ onceOk m.all = false ∨ (l ≠ [] ∧ bundleOk m.id m.all l = false) then .inl (10, m.bundle)
  else if p5Ok m l = false then .inl (11, m.p5Sect)
  else if policyForm m.policy = false ∨ mapOk m.all m.policy (policyOf m.policy) = false then .inl (12, m.policySect)
  else match policyWrites (loadPlan s m keepUe) (policyOf m.policy).writes with
    | none => .inl (12, m.policySect)
    | some t => .inr t

/-! ### A warm reload's swap (R515) -/

/-- Whether the new reservation keeps the UE context table and the RXM state: same bases, same capacity. -/
def keepsUe (s : State) (b : List Byte) : Bool :=
  match s.plan with
  | none => false
  | some p => decide (sub p.resv 16 10 = sub b 16 10) && decide (sub p.resv 40 12 = sub b 40 12)

/-- The registers that the plan loads read 0 until it has loaded. -/
def clearPlanRegs (s : State) : State := { s with regs := mapFilter (fun a => !planReg a) s.regs }

/-- The old plan goes: contexts stop without saving, carriers stop, its pages are zeroed, HARQ descriptors are released. -/
def dropPlan (s : State) (keepUe : Bool) : State :=
  let s := forEach (s.carriers.map (·.1)) (haltContexts s) (fun c s => stopCarrier s c)
  let b := (s.plan.map (·.resv)).getD []
  let spare := fun (g : Region) => keepUe && decide (g.base = subLe b 20 6 ∨ g.base = subLe b 40 6 ∨ g.base = subLe b 46 6)
  let s := forEach (((s.plan.map (·.placed)).getD []).filter (fun g => !spare g)) s (fun g s => zeroRange s g.base g.bytes)
  let s := zeroRange s harqBase 0x400000
  let s := if keepUe then s else zeroRange s ctxCoreBase 0x800000
  let old := s.carriers
  let s := setBitR (setR s Reg.SCH_CYCLE_CNT 0#32) Reg.SCH_SHUTTER_STATUS 31 false
  clearPlanRegs { s with
    plan := none, sched := { State.reset.sched with opReq := s.sched.opReq }, ctxs := [], parts := [], pairs := [],
    alloc := { clean := [], dirty := [] }, coding := Coding.init, foreignDirty := [], scrubWant := []
    carriers := if keepUe then old.map (fun kv => (kv.1, { Carrier.init with nf := kv.2.nf, nfNext := kv.2.nfNext })) else []
    net := { s.net with eaxc := [], eaxcPend := [] }
    peer := { s.peer with tx := [], partial' := [], recv := [], bars := [], rel := [], spans := [] } }

/-- The plan may arm: with BOOT_MODE 0b10 only after BOOT_CTL.arm, and only on a device that the map lists (R502; 14 R435). -/
def permit (s : State) : State :=
  let arm := decide (getF s Reg.BOOT_STATUS 27 26 ≠ 2) || getB s Reg.BOOT_CTL 0
  let s := { s with sched := { s.sched with permitted := arm && decide (0 < groupSize s) } }
  armNow (if groupSize s = 1 && !s.peer.formed then groupForms s else s)

/-- A device that the group map does not list says so. -/
def notListed (s : State) : State := if groupSize s = 0 then event s 9 6 0 else s

end Sys2Proof.Machine
end

