-- ==== Sys2Proof/Machine/Boot.lean ====
section
/-!
DEFINITION. Boot.lean: the start-up sequence after a reset (15 R464 to R466; 16 Table 16.2, R502 to R504, R509), recovery loads (16 R513;
17 R535) and warm reloads (16 R515).
-/
namespace Sys2Proof.Machine

open Sys2Proof

/-! ### Steps 2 to 4 -/

/-- The strap delay of Table 15.1 and the 256 µs of the judgement, in ticks. -/
def judgeTime (s : State) : Nat := 400000 * 2 ^ getF s Reg.CLK_STATUS 2 0 + 204800

/-- REF_JUDGEMENT (R464, R466): `toggles` is REFCLK_IN at the end of the delay, `count` the reference cycles in 256 µs of RC time.
The RC oscillator is trimmed to ±2 %. -/
def execRefJudgement (toggles : Bool) (count : Nat) (s : State) : Host.Outcome State Fault Refusal :=
  let due := s.boot.relAt + (s.boot.tries + 1) * judgeTime s * 98 / 100
  if s.boot.stage ≠ .judging ∨ s.now < due then .next s
  else if 10240 * 97 ≤ 100 * count ∧ 100 * count ≤ 10240 * 103 then
    .next { setBitR s Reg.CLK_STATUS 29 toggles with boot := { s.boot with stage := .locking, refOk := true } }
  else if s.boot.tries = 0 then .next { s with boot := { s.boot with tries := 1 } }
  else .next { setBitR s Reg.CLK_STATUS 30 true with boot := { s.boot with stage := .noReference } }

/-- PLL_LOCK: step 3. -/
def execPllLock (s : State) : Host.Outcome State Fault Refusal :=
  if s.boot.stage ≠ .locking then .next s
  else
    let s := bootState (setBitR s Reg.CLK_STATUS 31 true) 1
    let s := setR s Reg.CLK_GATE_EN0 (getR s Reg.CLK_GATE_EN0 ||| 3#32)
    let s := { s with boot := { s.boot with stage := .wiping }, time := { s.time with running := true } }
    .next (powerSettle (if s.power.brakeLow then brakeApply s else s))

/-- Step 6: the firmware starts from a section whose digest has matched. -/
def startFirmware (s : State) (src : SheetAt) : State :=
  let s := putRegBytes s (Reg.BOOT_FW_DIGEST 0) (firmwareDigest s src)
  { bootState s 3 with boot := { s.boot with stage := .loading, fwAt := some s.now } }

/-- MEMORY_WIPE_COMPLETE: step 4 ends; steps 5 and 6 read and check the header, the section table and the firmware section. -/
def execMemoryWipeComplete (s : State) : Host.Outcome State Fault Refusal :=
  if s.boot.stage ≠ .wiping then .next s
  else
    let s := bootState { s with mem := [], ecc := Ecc.init, foreignDirty := [], scrubWant := [], wc := WeightCache.init } 2
    let mode := getF s Reg.BOOT_STATUS 27 26
    if mode = 1 then .next (holding s 13 0xFF)
    else if mode = 3 then .next (holding s 14 0xFF)
    else match headerFails s .flash with
      | some code => .next (holding s code 0xFF)
      | none =>
        let l := sections s .flash (sheetHeader s .flash)
        match l.find? (fun x => decide (x.type = 1) && decide (sha256 (sectBytes s .flash x) ≠ x.digest)) with
        | some x => .next (holding s 9 x.index)
        | none => .next (startFirmware s .flash)

/-! ### Steps 7 to 11 -/

/-- The base of the staging area at the top of HBM stack A (R513). -/
def stagingBase (s : State) : Nat := hbmStackBytes - 4096 * getF s Reg.BOOT_RECOV_LEN 17 0

/-- Where the running start-up reads its sheet. -/
def sheetSource (s : State) : SheetAt := if getB s Reg.BOOT_STATUS 25 then .staged (stagingBase s) else .flash

/-- Ready (step 10), and what follows it; a manager's first roll call among it (14 R446). -/
def reachReady (s : State) : State :=
  let s := flag (bootState { s with boot := { s.boot with stage := .ready, fwAt := none } } 4) Reg.BOOT_FLAGS 0
  let s := setR s Reg.BOOT_READY_MS (BitVec.ofNat 32 ((s.now - s.boot.relAt) / 800000))
  startRoll (permit (notListed (event s 3 3 (getN s Reg.BOOT_REASON))))

/-- READY_REACHED: steps 7 to 9 end, in Ready or, where a check fails, in Holding. -/
def execReadyReached (s : State) : Host.Outcome State Fault Refusal :=
  if s.boot.stage ≠ .loading then .next s
  else
    let src := sheetSource s
    match digestFails s src with
    | some k => .next (holding s 9 k)
    | none =>
      match checkLoad s (imageOf s src) false with
      | .inl (code, k) => .next (holding s code k)
      | .inr t => .next (if t.boot.stage = .loading then reachReady t else t)

/-- READY_TIMEOUT (R503): 10 s since the firmware started. -/
def execReadyTimeout (s : State) : Host.Outcome State Fault Refusal :=
  match s.boot.fwAt with
  | some t => .next (if s.boot.stage = .loading ∧ t + 8000000000 ≤ s.now then holding s 16 0xFF else s)
  | none => .next s

/-- HOST_PORT_SERVED (R502): 5 ms after the release of the reset. -/
def execHostPortServed (s : State) : Host.Outcome State Fault Refusal :=
  .next (if s.boot.relAt + 4000000 ≤ s.now then { s with boot := { s.boot with served := true } } else s)

/-! ### Recovery load -/

/-- BOOT_RECOV_STATUS.received. -/
def received (s : State) : Nat := getF s Reg.BOOT_RECOV_STATUS 17 0

/-- The check that fails once chunk k has arrived, by the section it concerns: the header's with the first chunk, each section's
digest with its last byte. -/
def recovFails (s : State) (k : Nat) : Option Nat :=
  let src := SheetAt.staged (stagingBase s)
  let h := sheetHeader s src
  if k = 0 ∧ ((headerFails s src).isSome ∨ (hdLen h + 4095) / 4096 ≠ getF s Reg.BOOT_RECOV_LEN 17 0) then some 0xFF
  else
    let due := fun (x : Sect) => decide (4096 * k < x.offset + x.length) && decide (x.offset + x.length ≤ 4096 * (k + 1))
    (((sections s src h).find? (fun x => due x && decide (sha256 (sectBytes s src x) ≠ x.digest)))).map (·.index)

/-- A chunk of the sheet reaches the staging area; the last one hands over to step 6. -/
def takeChunk (s : State) (k : Nat) (data : List Word) : State :=
  let len := getF s Reg.BOOT_RECOV_LEN 17 0
  if s.boot.stage ≠ .recovery ∨ k ≠ received s then s
  else if len = 0 then holding s 15 0xFF
  else
    let s := setBytes s (stagingBase s + 4096 * k) (data.flatMap (fun w => leBytes 4 w.toNat))
    let s := setF s Reg.BOOT_RECOV_STATUS 17 0 (k + 1)
    match recovFails s k with
    | some x => holding s 15 x
    | none =>
      if k + 1 = len then
        let s := setBitR (setBitR s Reg.BOOT_CTL 2 false) Reg.BOOT_RECOV_STATUS 31 false
        startFirmware (setBitR s Reg.BOOT_STATUS 25 true) (.staged (stagingBase s))
      else s

/-- RECOVERY_TIMEOUT: more than 1 s since the last streaming command. -/
def execRecoveryTimeout (s : State) : Host.Outcome State Fault Refusal :=
  .next (if s.boot.stage = .recovery ∧ 0 < received s ∧ s.boot.recovAt + 800000000 < s.now then holding s 15 0xFF else s)

/-! ### Warm reload -/

/-- RELOAD_VERIFIED: the flash sheet has been read and checked. It is refused where firmware or security version differ; the
reason code of that refusal is not stated. -/
def execReloadVerified (s : State) : Host.Outcome State Fault Refusal :=
  if !s.boot.reloading then .next s
  else
    let m := imageOf s .flash
    let keep := keepsUe s (resvOf (m.own s))
    match headerFails s .flash, digestFails s .flash with
    | some code, _ => .next (reloadFails s code 0xFF)
    | none, some k => .next (reloadFails s 9 k)
    | none, none =>
      if firmwareDigest s .flash ≠ regBytes s (Reg.BOOT_FW_DIGEST 0) 8 ∨ hdSecVer m.header ≠ getN s Reg.BOOT_SECVER then
        let (i, s) := fresh s
        .next (reloadFails s (Config.freeValue i % 32) 0xFF)
      else match checkLoad (dropPlan s keep) m keep with
        | .inl (code, k) => .next (reloadFails s code k)
        | .inr _ => .next { s with boot := { s.boot with reloading := false, swap := true, image := s.flash.bytes } }

/-- The swap: the old plan goes, the new one loads, and a new epoch re-forms the group. -/
def swapPlan (s : State) : State :=
  let m := imageOf { s with flash := { s.flash with bytes := s.boot.image } } .flash
  let keep := keepsUe s (resvOf (m.own s))
  let old := getN s Reg.PEER_EPOCH
  match checkLoad (dropPlan s keep) m keep with
  | .inl (code, k) => reloadFails s code k
  | .inr t =>
    if t.boot.stage ≠ .ready then t
    else
      let t := flag (setBitR (bootState t 4) Reg.BOOT_CTL 1 false) Reg.BOOT_FLAGS 1
      let t := { t with boot := { t.boot with swap := false, image := [] } }
      let t := if getN t Reg.PEER_EPOCH = old then t
        else setBitR { t with peer := { t.peer with formed := false, armAt := none, roll := none } } Reg.PEER_GRP_STATUS 31 false
      startRoll (permit (notListed t))

/-- EXPOSURE_CYCLE_START (08 R264, R265): a reload that has passed swaps its plan in, or the next cycle starts. A plan that is not
armed has no cycles of its own: the reload then takes the first cycle start once device time is valid. -/
def execExposureCycleStart (s : State) : Host.Outcome State Fault Refusal :=
  if s.boot.swap ∧ running s ∧ (cycleDue s ∨ (schArmed s = false ∧ getB s Reg.TIME_STATUS 31)) then .next (swapPlan s)
  else .next (if cycleDue s then cycleStart s else s)

end Sys2Proof.Machine
end

