-- ==== Sys2Proof/Machine/Dma.lean ====
section
/-!
DEFINITION. Dma.lean: the DMA engine (06 R217 to R223), the weight cache (06 R228 to R231), the ring watchdog (09 R320), and
ring advances between tiles (06 R215).
-/
namespace Sys2Proof.Machine

open Sys2Proof

/-- What an attempt to read comes to. -/
inductive RRes where
  | ok (bs : List Byte) (s : State)
  | wait (s : State)
  | fault (s : State) (r : ErrRec)

/-- Continue a read that completed. -/
def RRes.andThen (r : RRes) (f : List Byte → State → TRes) : TRes :=
  match r with
  | .ok bs s => f bs s
  | .wait s => .wait s
  | .fault s r => .fault s r

/-! ### The weight cache -/

/-- Whether a set may hold lines now (R231): its bank is on and enabled, and no invalidation is in progress. -/
def wcOpen (s : State) (set : Nat) : Bool := hubOn s (14 + set % 4) && getB s Reg.MEM_WC_CTL (set % 4) && !s.wc.inv

/-- The way a new line of a full or filling set takes: the lowest free one, else the least recently used one's. -/
def wcWay (l : List (Nat × WcLine)) : Nat :=
  if l.length < 16 then firstFree (l.map (·.1)) else ((l.getLast?).map (·.1)).getD 0

/-- The line of an HBM address where the cache holds it. -/
def wcFind (s : State) (line : Nat) : Option (Nat × WcLine) :=
  (mapGet [] s.wc.sets (line % 12288)).find? (fun x => decide (x.2.line = line))

def wcPut (s : State) (set : Nat) (l : List (Nat × WcLine)) : State := { s with wc := { s.wc with sets := mapSet [] s.wc.sets set l } }

/-- Whether a line is being filled: a descriptor in flight of some tile has missed it. -/
def filling (s : State) (line : Nat) : Bool :=
  s.tiles.any (fun kv => kv.2.dma.any (fun ch => ch.inFlight.any (fun r => r.fills.contains line)))

/-- A tile whose descriptors no longer wait for a line. -/
def dropFill (line : Nat) (x : Tile) : Tile :=
  { x with dma := x.dma.map (fun ch => { ch with inFlight := ch.inFlight.map (fun r => { r with fills := r.fills.filter (fun f => decide (f ≠ line)) }) }) }

/-- A fill ends (R229): the line is in the cache, most recently used, unless its set may hold nothing any more or HBM has it
poisoned (DEDUCED, log 81). -/
def fillLine (s : State) (line : Nat) : State :=
  let s := { s with tiles := s.tiles.map (fun kv => (kv.1, dropFill line kv.2)) }
  let set := line % 12288
  let l := mapGet [] s.wc.sets set
  let clean := (wordsOf (line * 512) 512).all (fun w => !s.ecc.bad.contains w)
  if wcOpen s set && clean then
    let s := (checkRead s (line * 512) 512).1
    let s := wcPut s set ((wcWay l, { line := line, data := getBytes s (line * 512) 512 }) :: l.take 15)
    { s with wc := { s.wc with filled := mapSet false s.wc.filled (wcWay l * 12288 + set) true }
             ecc := { s.ecc with wcBad := s.ecc.wcBad.filter (fun b => decide (b ≠ line)) } }
  else s

/-- A read of one line is issued through the cache (R229): a hit, a merge with a fill in progress, or a miss, which starts a fill
where it allocates. -/
def wcLook (cache : Nat) (r : State × List Nat) (line : Nat) : State × List Nat :=
  let s := r.1
  let set := line % 12288
  let l := mapGet [] s.wc.sets set
  let miss := incR64 s Reg.MEM_WC_MISS_LO Reg.MEM_WC_MISS_HI 1
  if !wcOpen s set then (miss, r.2)
  else match wcFind s line with
    | some x => (wcPut (incR64 s Reg.MEM_WC_HIT_LO Reg.MEM_WC_HIT_HI 1) set (x :: l.erase x), r.2)
    | none =>
      if r.2.contains line || filling s line then (incR s Reg.MEM_WC_MERGE 1, r.2)
      else (miss, if cache = 1 then r.2 ++ [line] else r.2)

/-- A read of the line finds its cached copy uncorrectable (09 R307 class 0x08): the line goes, and HBM is read. -/
def lineLost (s : State) (line : Nat) : State :=
  if s.ecc.wcBad.contains line && (wcFind s line).isSome then
    let set := line % 12288
    let s := wcPut s set ((mapGet [] s.wc.sets set).filter (fun x => decide (x.2.line ≠ line)))
    logError { s with ecc := { s.ecc with wcBad := s.ecc.wcBad.filter (fun l => decide (l ≠ line)) } } { ErrRec.of 0x08 with addr := line * 512 }
  else s

/-- Bytes of one line arrive: from the cache, once a fill in progress has ended, or from HBM with its checks. -/
def lineRead (s : State) (a n : Nat) : State × List Byte × Option Nat :=
  let line := a / 512
  let s := lineLost (if filling s line then fillLine s line else s) line
  match wcFind s line with
  | some x => (s, (x.2.data.drop (a % 512)).take n, none)
  | none => let r := checkRead s a n; (r.1, getBytes s a n, r.2)

/-- Cut n bytes from an address into pieces that lie within one line: start and length. -/
def linePieces (a n : Nat) : List (Nat × Nat) :=
  if n = 0 then []
  else (List.range ((a + n - 1) / 512 - a / 512 + 1)).map (fun i =>
    let lo := max a ((a / 512 + i) * 512)
    (lo, min (a + n) ((a / 512 + i + 1) * 512) - lo))

/-- Bytes of HBM arrive, line by line where the descriptor names the cache, with the first uncorrectable word met. -/
def hbmRead (s : State) (cache a n : Nat) : State × List Byte × Option Nat :=
  if cache = 0 then let r := checkRead s a n; (r.1, getBytes s a n, r.2)
  else (linePieces a n).foldl (fun r p => let y := lineRead r.1 p.1 p.2; (y.1, r.2.1 ++ y.2.1, r.2.2.or y.2.2)) (s, [], none)

/-! ### Physical accesses of a context -/

/-- The HBM address that an address of the extension window is another name of (01 R35). -/
def unalias (s : State) (a : Nat) : Nat :=
  if ctxExtBase ≤ a ∧ a < ctxExtBase + 65536 * 0x180 then getN64 s Reg.CTX_EXT_BASE_LO Reg.CTX_EXT_BASE_HI + (a - ctxExtBase) else a

def inHarq (a : Nat) : Bool := decide (harqBase ≤ a) && decide (a < harqBase + 131072 * 32)
def inCore (a : Nat) : Bool := decide (ctxCoreBase ≤ a) && decide (a < ctxCoreBase + 65536 * 128)
def inMirror (a : Nat) : Bool := decide (mirrorBase ≤ a) && decide (a < mirrorBase + 2 ^ 32)

/-- Whether a register stands at a host-port address. -/
def isReg (a : Nat) : Bool := decide (a % 4 = 0) && ((regRow a).isSome || (decide (0x00160000 ≤ a) && decide (a < 0x00180000)))

/-- Read n bytes of the register mirror: each register touched is read once. -/
def mirrorRead (s : State) (t c a n : Nat) : RRes :=
  let h := a - mirrorBase
  let ws := (List.range ((h + n - 1) / 4 - h / 4 + 1)).map (fun i => 4 * (h / 4 + i))
  if n = 0 then .ok [] s
  else match ws.find? (fun w => !isReg w) with
    | some w => .fault s (faultRec 2 t c (mirrorBase + w))
    | none =>
      let r := ws.foldl (fun (r : List Byte × State) w => (r.1 ++ leBytes 4 (readReg r.2 w).toNat, readEffect r.2 w)) ([], s)
      .ok ((r.1.drop (h % 4)).take n) r.2

/-- An uncorrectable word met by a channel. -/
def dmaUe (s : State) (t c w : Nat) : RRes := .fault (flag s (Reg.TILE_DMA_FLAGS t) 5) (ueRec w t c)

/-- The pages of the LLR pool: soft buffers, which a speculative exposure never reads (02 R62; 10 R333). -/
def inLlrPool (s : State) (a : Nat) : Bool :=
  let base := getN64 s Reg.HARQ_POOL_BASE_LO Reg.HARQ_POOL_BASE_HI
  decide (base ≤ a) && decide (a < base + 65536 * leNat (((((s.plan.map (·.resv)).getD []).drop 4).take 4)))

/-- Read n bytes, within one 64 KiB page, at a physical address, for context c on tile t. -/
def physRead (s : State) (t c cache a n : Nat) : RRes :=
  let a := unalias s a
  if isDirty s a n then .wait (wantScrub s a n)
  else if a < hbmBytes then
    if !engineOpen s a then .fault s (faultRec 2 t c a)
    else if ctxSpec s c && inLlrPool s a then .fault s (faultRec 4 t c a)
    else match hbmRead s cache a n with
    | (s, _, some w) => dmaUe s t c w
    | (s, bs, none) => .ok (ueView s c a bs) (noteRead s c a n)
  else match spOf a with
    | some (u, off) =>
      match spAccess s u off n with
      | .waking => .wait (incR s (Reg.TILE_SP_WAKE_STALL u) 1)
      | .dirty => .wait (wantScrub s a n)
      | .asleep => .fault s (faultRec 2 t c a)
      | .ready =>
        match checkRead s a n with
        | (s, some w) => dmaUe s t c w
        | (s, none) => .ok (getBytes s a n) s
    | none =>
      if inCore a then let s := tableRead s a n; .ok (ueView s c a (getBytes s a n)) (noteRead s c a n)
      else if inHarq a then (if ctxSpec s c then .fault s (faultRec 4 t c a) else let s := tableRead s a n; .ok (getBytes s a n) s)
      else if inMirror a then mirrorRead s t c a n
      else .fault s (faultRec 2 t c a)

/-- A page that a speculative exposure may write: a shadow it holds, or a page it holds since the flip (02 R62, R69). -/
def specPage (s : State) (c a : Nat) : Bool :=
  let pg := a / 65536 * 65536
  s.pairs.any (fun kv => decide (kv.2.holder = some c) && (match kv.2.shadow with | some p => decide (p = pg) | none => decide (kv.2.primary = pg)))

/-- Write bytes, within one 64 KiB page, at a physical address. A speculative exposure's own scratch area is the scratchpads of its
tiles (DEDUCED, log 100). -/
def physWrite (s : State) (t c a : Nat) (bs : List Byte) : TRes :=
  let n := bs.length
  let a := unalias s a
  let spec := ctxSpec s c
  if isDirty s a n then .wait (wantScrub s a n)
  else if a < hbmBytes then
    if !engineOpen s a then addrFault s t c a
    else if spec && !specPage s c a then .fault s (faultRec 4 t c a) else .ok (noteWrite (setBytes s a bs) a n)
  else match spOf a with
    | some (u, off) =>
      if spec && !(instTiles s c).contains u then .fault s (faultRec 4 t c a)
      else if negHeld s u (some c) off n then .wait s
      else match spAccess s u off n with
        | .waking => .wait (incR s (Reg.TILE_SP_WAKE_STALL u) 1)
        | .dirty => .wait (wantScrub s a n)
        | .asleep => addrFault s t c a
        | .ready => .ok (setBytes s a bs)
    | none =>
      if spec then .fault s (faultRec 4 t c a)
      else if inCore a then .ok (setBytes s a bs)
      else addrFault s t c a

/-! ### Accesses by space -/

/-- The pair that a virtual address names. -/
def pairOf (s : State) (c va : Nat) : Nat :=
  nbits (walk s (((declOf s c).map (·.ptRoot)).getD 0) va) 15 0 + nbits va 20 16

/-- Read n bytes of the context's virtual space of 48 bits, beyond which it reaches nothing (R219; 07 R247). What its tables do
not grant is an address fault (07 R249). -/
def virtRead (s : State) (t c cache va n : Nat) : RRes :=
  if 2 ^ 48 < va + n then .fault s (faultRec 3 t c (va % 2 ^ 48))
  else (pieces va n).foldl (fun r p => match r with
    | .ok bs s =>
      match translate s t c p.1 false with
      | (.phys a, s) =>
        (match physRead s t c cache a p.2 with
          | .ok more s => .ok (bs ++ more) s
          | r => r)
      | (.dropped, s) => .ok (bs ++ List.replicate p.2 0#8) s
      | (.exhausted, s) => .ok (bs ++ List.replicate p.2 0#8) (shadowRefused s c (pairOf s c p.1))
      | (.waiting, s) => .wait s
      | (.fault, s) => .fault s (faultRec 2 t c (p.1 % 2 ^ 48))
    | r => r) (.ok [] s)

/-- Write bytes to the context's virtual space. -/
def virtWrite (s : State) (t c va : Nat) (bs : List Byte) : TRes :=
  if 2 ^ 48 < va + bs.length then dmaFault s t c (va % 2 ^ 48)
  else (pieces va bs.length).foldl (fun r p => r.andThen (fun s =>
    match translate s t c p.1 true with
    | (.phys a, s) => physWrite s t c a ((bs.drop (p.1 - va)).take p.2)
    | (.dropped, s) => .ok s
    | (.exhausted, s) => .ok (shadowRefused s c (pairOf s c p.1))
    | (.waiting, s) => .wait s
    | (.fault, s) => addrFault s t c (p.1 % 2 ^ 48))) (.ok s)

/-- Read n bytes of the tile's own scratchpad. -/
def localRead (s : State) (t c : Nat) (off : Int) (n : Nat) : RRes :=
  if off < 0 ∨ (spBytes : Int) < off + n then .fault s (faultRec 3 t c (wrapN 48 off))
  else
    (pieces off.toNat n).foldl (fun r p => match r with
      | .ok bs s =>
        (match physRead s t c 0 (spBase t + p.1) p.2 with
          | .ok more s => .ok (bs ++ more) s
          | r => r)
      | r => r) (.ok [] s)

/-- Write bytes to the tile's own scratchpad. -/
def localWrite (s : State) (t c : Nat) (off : Int) (bs : List Byte) : TRes :=
  if off < 0 ∨ (spBytes : Int) < off + bs.length then dmaFault s t c (wrapN 48 off)
  else (pieces off.toNat bs.length).foldl (fun r p => r.andThen (fun s =>
    physWrite s t c (spBase t + p.1) ((bs.drop (p.1 - off.toNat)).take p.2))) (.ok s)

/-! ### Descriptor rules (R219, R220, R222) -/

/-- Bytes of a transpose element. -/
def Desc.elem (d : Desc) : Nat := 2 ^ d.trWidth

/-- Whether a descriptor of a tile's context keeps the rules that do not depend on its rings. -/
def Desc.legal (d : Desc) : Bool :=
  decide (d.at 6 1 < 16) && decide (d.cache ≠ 3) && decide (d.at 7 1 = 0) && decide (d.at 14 1 < 4) && decide (d.at 15 1 = 0) &&
  decide (1 ≤ d.len0 ∧ d.len0 ≤ 1048576) && decide (d.count1 ≠ 0) && decide (d.count2 ≠ 0) &&
  decide (d.op ≤ 2) && decide (if d.op = 2 then d.trWidth ≤ 2 else d.trWidth = 0) &&
  decide (d.at 42 1 < 128) && decide (d.waitKind ≠ 3) && decide (d.advKind ≠ 3) &&
  decide (d.at 46 1 < 8) && decide (d.at 47 1 = 0) && decide (d.at 54 2 = 0) &&
  decide (d.srcSpace ≠ 2) && decide (d.dstSpace ≠ 2) &&
  !((decide (d.srcSpace = 3) || decide (d.dstSpace = 3)) && decide (d.waitKind = 0)) &&
  (decide (d.op ≠ 2) ||
    (decide (d.len0 = 64 * d.elem) && decide (d.count1 = 64) && decide (d.dstSpace = 1 ∨ d.dstSpace = 3) &&
     decide (d.stride 2 % (d.elem : Int) = 0) && decide (d.stride 3 % (d.elem : Int) = 0)))

/-- Whether the rings a descriptor names are enabled; a remote ring lies on a tile of the context. -/
def ringsOk (s : State) (t c : Nat) (d : Desc) : Bool :=
  (decide (d.waitKind = 0) || (ringAt s t d.waitRing).en) &&
  (decide (d.advKind = 0) ||
    (if d.advRemote then ((declOf s c).map (fun q => bitOf q.tiles d.advTile)).getD false && (ringAt s d.advTile d.advRing).en
     else (ringAt s t d.advRing).en))

/-- Read n bytes of a descriptor's source at a displacement. -/
def srcRead (s : State) (t c : Nat) (d : Desc) (base : Nat) (disp : Int) (n : Nat) : RRes :=
  if d.srcSpace = 0 then
    if (d.src : Int) + disp < 0 then .fault s (faultRec 3 t c (wrapN 48 ((d.src : Int) + disp)))
    else virtRead s t c d.cache ((d.src : Int) + disp).toNat n
  else localRead s t c ((base : Int) + (d.src : Int) + disp) n

/-- Write bytes to a descriptor's destination at a displacement. -/
def dstWrite (s : State) (t c : Nat) (d : Desc) (base : Nat) (disp : Int) (bs : List Byte) : TRes :=
  if d.dstSpace = 0 then
    if (d.dst : Int) + disp < 0 then dmaFault s t c (wrapN 48 ((d.dst : Int) + disp))
    else virtWrite s t c ((d.dst : Int) + disp).toNat bs
  else localWrite s t c ((base : Int) + (d.dst : Int) + disp) bs

/-- The bytes an inner run of a fill holds. -/
def fillBytes (d : Desc) : List Byte := (List.range d.len0).map (fun i => BitVec.ofNat 8 (d.fill / 2 ^ (8 * (i % 8))))

/-- The number of a descriptor's steps, and step i as (j, k): j runs faster (R220). -/
def Desc.steps (d : Desc) : Nat := d.count1 * d.count2
def Desc.step (d : Desc) (i : Nat) : Nat × Nat := (i % d.count1, i / d.count1)

/-- The displacement of step i at the source. -/
def Desc.srcDisp (d : Desc) (i : Nat) : Int := ((d.step i).1 : Int) * d.stride 0 + ((d.step i).2 : Int) * d.stride 1

/-! ### Channels -/

def chanOf (s : State) (t ch : Nat) : DmaChan := nth DmaChan.idle (getT s t).dma ch
def setChan (s : State) (t ch : Nat) (x : DmaChan) : State := modT s t (fun y => { y with dma := listSet y.dma ch x })

/-- The context whose chain a channel runs, while its exposure runs on the tile. -/
def dmaCtx (s : State) (t : Nat) : Option Nat :=
  match (getT s t).run with
  | some c => if isRunning (getC s c.val) && decide ((getT s t).seq ≠ .stopped) then some c.val else none
  | none => none

/-- Write bytes of a descriptor in flight at a displacement from its destination address. In space 3 the bytes of a spilled slot go to
its place in the overflow area, slot by slot (09 R321). -/
def runPut (s : State) (t c : Nat) (r : DescRun) (disp : Int) (bs : List Byte) : TRes :=
  let d := r.desc
  let n := d.waitRing
  let len := max 1 ((ringAt s t n).size * 64)
  if d.dstSpace = 3 && spilled s t c n && decide (0 ≤ (d.dst : Int) + disp) then
    let o := ((d.dst : Int) + disp).toNat
    (List.range ((o + bs.length + len - 1) / len - o / len)).foldl (fun res i => res.andThen (fun s =>
      let q := o / len + i
      let lo := max o (q * len)
      let part := (bs.drop (lo - o)).take ((q + 1) * len - lo)
      match spillVa s t c n (r.pos + q) with
      | some va => .ok (areaPut s c (va + lo % len) part)
      | none => localWrite s t c ((r.dst : Int) + (lo : Int)) part)) (.ok s)
  else dstWrite s t c d r.dst disp bs

/-- The bytes of the next step of a descriptor in flight are read and land (R220, R222). -/
def runStep (s : State) (t c : Nat) (r : DescRun) : TRes :=
  let d := r.desc
  let jk := d.step r.step
  match d.op with
  | 1 => runPut s t c r ((jk.1 : Int) * d.stride 2 + (jk.2 : Int) * d.stride 3) (fillBytes d)
  | 0 => (srcRead s t c d r.src (d.srcDisp r.step) d.len0).andThen (fun bs s =>
      runPut s t c r ((jk.1 : Int) * d.stride 2 + (jk.2 : Int) * d.stride 3) bs)
  | _ => (srcRead s t c d r.src (d.srcDisp r.step) d.len0).andThen (fun bs s =>
      (List.range 64).foldl (fun res (i : Nat) => res.andThen (fun s =>
        runPut s t c r (((jk.1 * d.elem : Nat) : Int) + (i : Int) * d.stride 2 + (jk.2 : Int) * d.stride 3) ((bs.drop (i * d.elem)).take d.elem))) (.ok s))

/-- A step of the oldest descriptor in flight has landed: its bytes count (R223), and the next step is the first not landed. -/
def stepLanded (s : State) (t ch : Nat) : State :=
  let x := chanOf s t ch
  match x.inFlight with
  | r :: rest =>
    incR64 (setChan s t ch { x with inFlight := { r with step := r.step + 1 } :: rest }) (Reg.TILE_DMA_BYTES_LO t) (Reg.TILE_DMA_BYTES_HI t) r.desc.len0
  | [] => s

/-- The next n steps of a channel's oldest descriptor in flight land, in order (R221). -/
def runSteps : Nat → State → Nat → Nat → Nat → TRes
  | 0, s, _, _, _ => .ok s
  | n + 1, s, t, ch, c =>
    match (chanOf s t ch).inFlight with
    | r :: _ =>
      if r.step < r.desc.steps then (runStep s t c r).andThen (fun s => runSteps n (stepLanded s t ch) t ch c) else .ok s
    | [] => .ok s

/-- The descriptors of a burst: up to the last of the chain, or the first link. -/
def takeDescs (ch : DmaChan) : Nat → List Byte → Nat → DmaChan
  | 0, _, va => { ch with nextFetch := va }
  | n + 1, bs, va =>
    let d : Desc := { va := va, raw := leNat (bs.take 64) }
    let ch := { ch with fetched := ch.fetched ++ [d] }
    if d.last then { ch with fetchDone := true }
    else if d.link then { ch with nextFetch := d.linkAddr }
    else takeDescs ch n (bs.drop 64) (va + 64)

/-- Whether a channel's DMA.GO range waits for an older access of its tile (R209). -/
def chanHeld (s : State) (t ch : Nat) : Bool := (chanOf s t ch).range.any (sbBlocks (sbAll (getT s t)))

/-- Fetch a burst of descriptors (R218). -/
def descFetch (s : State) (t ch c : Nat) : Step' :=
  let x := chanOf s t ch
  let n := (512 - x.nextFetch % 512) / 64
  if chanHeld s t ch then (incR s (Reg.TILE_SB_STALL t) 1, none)
  else match virtRead s t c 0 x.nextFetch (64 * n) with
  | .wait s => (s, none)
  | .fault s r => (s, some r)
  | .ok bs s =>
    let y := takeDescs x n bs x.nextFetch
    if !y.fetchDone && decide (y.nextFetch % 64 ≠ 0) then (s, some (faultRec 3 t c y.nextFetch))
    else (setChan s t ch y, none)

/-- DMA_DESC_FETCH (R218): with four or fewer fetched descriptors unstarted, the channel fetches on. -/
def execDmaDescFetch (t : TileId) (ch : Fin 4) (s : State) : Host.Outcome State Fault Refusal :=
  let x := chanOf s t.val ch.val
  match dmaCtx s t.val with
  | some c => .next (if x.busy && !x.fetchDone && decide (x.fetched.length ≤ 4) then tileStep t.val (descFetch s t.val ch.val c) else s)
  | none => .next s

/-- The HBM address that a virtual address of a context reads, where it is one. -/
def hbmAt (s : State) (c va : Nat) : Option Nat :=
  (declOf s c).bind (fun d => match (applyPte s c (walk s d.ptRoot va) va false).1 with
    | .phys a => if a < hbmBytes then some a else none
    | _ => none)

/-- The reads that a starting descriptor issues through the weight cache, line by line and step by step, and the lines it fills
(R229). -/
def cacheLooks (s : State) (c : Nat) (d : Desc) : State × List Nat :=
  if d.cache = 0 ∨ d.op = 1 ∨ d.srcSpace ≠ 0 then (s, [])
  else (List.range d.steps).foldl (fun r i =>
    (pieces ((d.src : Int) + d.srcDisp i).toNat d.len0).foldl (fun r p => match hbmAt r.1 c p.1 with
      | some a => (linePieces a p.2).foldl (fun r q => wcLook d.cache r (q.1 / 512)) r
      | none => r) r) (s, [])

/-- A descriptor that starts: where space 3 stands at its source and destination, and what it fills. -/
def DescRun.of (s : State) (t : Nat) (d : Desc) (fills : List Nat) : DescRun :=
  let r := ringAt s t d.waitRing
  let pos := (r.tail + dmaAhead (getT s t) d.waitRing true) % 65536
  { desc := d, src := if d.srcSpace = 3 then r.slotAt (r.head + dmaAhead (getT s t) d.waitRing false) else 0,
    dst := if d.dstSpace = 3 then r.slotAt pos else 0, pos := pos, step := 0, fills := fills }

/-- A descriptor that waits free on a spilled ring takes places for its slots (09 R321). -/
def takePlaces (s : State) (t c : Nat) (d : Desc) : State :=
  let n := d.waitRing
  if d.dstSpace = 3 && decide (d.waitKind = 2) && spilled s t c n then
    match takeSlots s t c n d.slots (((ringAt s t n).tail + dmaAhead (getT s t) n true) % 65536) (some (getC s c).spill) with
    | some l => setSpill s c l
    | none => s
  else s

/-- Start a channel's next descriptor once its range and its wait let it (R209, R219 to R221). -/
def descStart (s : State) (t ch c : Nat) : Step' :=
  let x := chanOf s t ch
  match x.fetched with
  | [] => (s, none)
  | d :: rest =>
    if chanHeld s t ch then (incR s (Reg.TILE_SB_STALL t) 1, none)
    else if !d.legal || !ringsOk s t c d then (s, some (faultRec 3 t c d.va))
    else if !waitOk s t c d then (s, none)
    else
      let l := cacheLooks (takePlaces s t c d) c d
      (setChan l.1 t ch { (chanOf l.1 t ch) with fetched := rest, inFlight := x.inFlight ++ [DescRun.of s t d l.2] }, none)

/-- DMA_DESC_START. -/
def execDmaDescStart (t : TileId) (ch : Fin 4) (s : State) : Host.Outcome State Fault Refusal :=
  match dmaCtx s t.val with
  | some c => .next (tileStep t.val (descStart s t.val ch.val c))
  | none => .next s

/-- The oldest descriptor in flight has landed its last write (R215, R223). -/
def descFinish (s : State) (t ch c : Nat) : Step' :=
  let x := chanOf s t ch
  match x.inFlight with
  | [] => (s, none)
  | r :: rest =>
    let d := r.desc
    let ended := x.fetchDone && x.fetched.isEmpty && rest.isEmpty
    let s := setChan s t ch { x with inFlight := rest, busy := !ended, range := if ended then none else x.range }
    let s := incR s (Reg.TILE_DMA_DESC_CNT t) 1
    let done := Reg.TILE_DMA_DONE t
    let s := if d.notify then flag (setF s done (8 * ch + 7) (8 * ch) ((getF s done (8 * ch + 7) (8 * ch) + 1) % 256)) (Reg.TILE_DMA_FLAGS t) ch else s
    if d.advKind = 0 then (s, none)
    else if d.advRemote then
      ({ s with advances := s.advances ++ [{ ctx := c, tile := d.advTile, ring := d.advRing, tail := decide (d.advKind = 2), count := d.advN }] }, none)
    else unitRes (ringAdvance s t c d.advRing (decide (d.advKind = 2)) d.advN)

/-- The oldest descriptor in flight lands its remaining steps; one that waits keeps those that have landed. -/
def descComplete (s : State) (t ch c : Nat) : Step' :=
  match (chanOf s t ch).inFlight with
  | [] => (s, none)
  | r :: _ =>
    match runSteps (r.desc.steps - r.step) s t ch c with
    | .ok s => descFinish s t ch c
    | .wait s => (s, none)
    | .fault s e => (s, some e)

/-- DMA_DESC_COMPLETE: a stopping tile's transfers complete too (R232). -/
def execDmaDescComplete (t : TileId) (ch : Fin 4) (s : State) : Host.Outcome State Fault Refusal :=
  match (getT s t.val).run with
  | some c => .next (tileStep t.val (descComplete s t.val ch.val c.val))
  | none => .next s

/-! ### The drain of a stop (R232; 08 R283, R284) -/

/-- A stopped channel's requests end: steps of its descriptors in flight land, oldest first, as far as the reads have come back within
the 1 µs bound, which is time the model does not count: each descriptor a free number of them (DESIGN CHOICE, log 101). A descriptor
whose last step lands completes. -/
def drainRuns : Nat → State → Nat → Nat → Nat → Step'
  | 0, s, _, _, _ => (s, none)
  | n + 1, s, t, ch, c =>
    match (chanOf s t ch).inFlight with
    | [] => (s, none)
    | r :: _ =>
      let left := r.desc.steps - r.step
      let k := fresh s
      let m := Config.freeValue k.1 % (left + 1)
      match runSteps m k.2 t ch c with
      | .ok s => if m = left then thenStep (descFinish s t ch c) (fun s => drainRuns n s t ch c) else (s, none)
      | .wait s => (s, none)
      | .fault s e => (s, some e)

/-- All four channels of a tile. -/
def drainDma (s : State) (t c : Nat) : Step' :=
  (List.range 4).foldl (fun r ch => thenStep r (fun s => drainRuns (chanOf s t ch).inFlight.length s t ch c)) (s, none)

/-- NEGATIVE_SAVED (08 R283, R284): the drains of a stopping tile have ended and its Negative is complete. -/
def execNegativeSaved (c : CtxId) (t : TileId) (s : State) : Host.Outcome State Fault Refusal :=
  .next (if (getC s c.val).st = .stopped ∧ (getC s c.val).stopping.contains t.val then
      match drainDma s t.val c.val with
      | (s, none) => negSaved s c.val t.val
      | (s, some e) => contextFault s c.val e
    else s)

/-! ### Advances from other tiles (R215) -/

/-- An advance arrives for a context: on the tile it runs on, or in its Negative of that tile. -/
def advanceArrives (s : State) (a : RingTransit) : Step' :=
  let x := getT s a.tile
  if x.run.map (·.val) = some a.ctx ∨ x.lastCtx = some a.ctx then
    unitRes (ringAdvance s a.tile a.ctx a.ring a.tail a.count)
  else match mapFind (getC s a.ctx).negs a.tile with
    | some g =>
      let p := Reg.TILE_RING_PTR a.tile a.ring
      let v := (mapFind g.regs p).getD 0#32
      let v := if a.tail then setField v 31 16 (fieldOf v 31 16 + a.count) else setField v 15 0 (fieldOf v 15 0 + a.count)
      (modC s a.ctx (fun y => { y with negs := mapPut y.negs a.tile { g with regs := mapPut g.regs p v } }), none)
    | none => (s, none)

/-- REMOTE_RING_ADVANCE (R215): the oldest advance on its way that the command describes arrives. -/
def execRemoteRingAdvance (r : RemoteAdv) (s : State) : Host.Outcome State Fault Refusal :=
  match s.advances.find? (fun a => decide (a.tile = r.tile.val ∧ a.ring = r.ring.val ∧ a.tail = r.tail ∧ a.count = r.count)) with
  | some a => .next (tileStep r.tile.val (advanceArrives { s with advances := s.advances.erase a } a))
  | none => .next s

/-! ### The watchdog (09 R320 to R322) -/

/-- RING_WATCHDOG: 20 µs of running time have passed with the tile's rings waiting on each other. -/
def execRingWatchdog (t : TileId) (s : State) : Host.Outcome State Fault Refusal :=
  let x := getT s t.val
  match x.run, x.wdSince with
  | some c, some since =>
    let rings := blockedRings s t.val c.val
    if inRingWait x && !rings.isEmpty && decide (since + 16000 ≤ runTime s c.val) then
      .next (modT (spillOrFault s c.val t.val rings) t.val (fun x => { x with wdSince := x.wdSince.map (fun _ => runTime s c.val) }))
    else .next s
  | _, _ => .next s

end Sys2Proof.Machine
end

