-- ==== Sys2Proof/Machine/Ends.lean ====
section
/-!
DEFINITION. Ends.lean: SEQ.END (07 R240, R244), and the results that a slot's control PDUs have when the exposure that wrote
them ends (12 R401).
-/
namespace Sys2Proof.Machine

open Sys2Proof

/-- Whether every unit of a tile has completed the context's work. -/
def tileQuiet (x : Tile) : Bool :=
  enlQuiet x.enl && x.enl.loading.isNone && x.fix.isNone && x.dev.queue.isEmpty && x.dma.all (fun d => !d.busy) && x.advQ.isEmpty

/-- Whether a control PDU's work runs in context x. -/
def ctlRuns (x : Nat) (r : CtlRes) : Bool :=
  !r.done && !r.taken && (match r.replayIn with
    | some y => decide (y = x)
    | none => decide (r.ctx = some x))

/-- Take the record of a control PDU whose result buffer is written: one that disagrees in length is reported with reason 2.
`kind` is 0 for PUCCH, 1 for SRS; `short` says that the record alone makes the result. -/
def ctlTake (s : State) (c n k kind : Nat) (short : Bool) (r : CtlRes) : CtlRes × Bool :=
  if !coversRange r.wrote 0 (resultLen s c n k) then (r, false)
  else
    let bytes := getBytes s (resultAt s c n k) (resultLen s c n k)
    if Config.recordAgrees kind bytes then ({ r with taken := true, bytes := bytes, done := short || r.uci.isSome }, false)
    else ({ r with done := true, reason := 2 }, true)

/-- The control PDUs of a slot whose work ran in context x. -/
def takeRecords (s : State) (x c n : Nat) : State :=
  let u := getUl s c n
  match u.req with
  | none => s
  | some q =>
    let pu := (q.pucch.zip u.pucch).zipIdx.map (fun p => if ctlRuns x p.1.2 then ctlTake s c n p.2 0 (decide (p.1.1.format < 2)) p.1.2 else (p.1.2, false))
    let sr := u.srs.zipIdx.map (fun p => if ctlRuns x p.1 then ctlTake s c n (128 + p.2) 1 true p.1 else (p.1, false))
    let bad := ((pu ++ sr).filter (·.2)).length
    let s := modUl s c n (fun u => { u with pucch := pu.map (·.1), srs := sr.map (·.1) })
    sendReady (if bad = 0 then s else incR s Reg.NB_MALFORMED bad) c n

/-- The results of context x's exposure. -/
def takeResults (s : State) (x : Nat) : State :=
  let l := s.carriers.flatMap (fun kv => (kv.2.ul.filter (fun u =>
    decide (u.2.cls = .onTime) && !u.2.expired && (u.2.pucch.any (ctlRuns x) || u.2.srs.any (ctlRuns x)))).map (fun u => (kv.1, u.1)))
  forEach l s (fun cn s => takeRecords s x cn.1 cn.2)

/-- The program ends on a tile; with its last tile the exposure ends. -/
def seqEnds (s : State) (c t : Nat) : State :=
  let last := (instTiles s c).all (fun u => decide (u = t) || (((getC s c).inst.map (·.ended)).getD []).contains u)
  let s := tileEnds s c t
  if last then takeResults s c else s

/-- SEQ.END. -/
def execSeqEnd (t : TileId) (w : Word64) (s : State) : Host.Outcome State Fault Refusal :=
  .next (seqCmd 0xCE (fun w t s c =>
    if !onlyFields w [] then illegalSeq s t c
    else if tileQuiet (getT s t) then .next (seqEnds s c t)
    else .wait s) t w s)

end Sys2Proof.Machine
end

