-- ==== Sys2Proof/Machine/HostPort.lean ====
section
/-!
DEFINITION. HostPort.lean: transactions of the host port (17 R524 to R535, R543, R544; 01 R38 to R41).
-/
namespace Sys2Proof.Machine

open Sys2Proof

/-! ### Bytes and CRC (R525 to R527) -/

/-- One bit of CRC-8 with polynomial 0x07. -/
def crc8Bit (c : Nat) : Nat := if c.testBit 7 then (2 * c) % 256 ^^^ 0x07 else 2 * c

def crc8Byte (c : Nat) (b : Byte) : Nat :=
  crc8Bit (crc8Bit (crc8Bit (crc8Bit (crc8Bit (crc8Bit (crc8Bit (crc8Bit (c ^^^ b.toNat))))))))

/-- CRC-8 of bytes, initial value 0. -/
def crc8 (bs : List Byte) : Nat := bs.foldl crc8Byte 0

/-- The command bytes of Table 17.2 and the number of address bytes. -/
inductive HpCmd where
  | regRd | regWr | memRd | memWr | recovWr | stat
  deriving DecidableEq, Repr

def HpCmd.byte : HpCmd → Nat
  | .regRd => 0x0B | .regWr => 0x1A | .memRd => 0x2B | .memWr => 0x3A | .recovWr => 0x4A | .stat => 0x05

def HpCmd.addrBytes : HpCmd → Nat
  | .memRd => 6 | .memWr => 6 | .stat => 0 | _ => 4

def HpCmd.isMem : HpCmd → Bool
  | .memRd => true | .memWr => true | _ => false

/-- The bytes of the command and address phases, and of the length phase where there is one. -/
def headBytes (c : HpCmd) (inverse addr : Nat) (len : Option Nat) : List Byte :=
  [BitVec.ofNat 8 c.byte, BitVec.ofNat 8 inverse] ++ beBytes c.addrBytes addr ++ (len.map (beBytes 2)).getD []

def wordBytes (ws : List Word) : List Byte := ws.flatMap (fun w => leBytes 4 w.toNat)

/-! ### Failures (R530, R532) -/

def setResp (s : State) (r : HpResp) : State := { s with host := { s.host with resp := r } }

/-- A transaction that fails before its status phase has no effect and receives no response. -/
def cmdFail (s : State) : State := setResp (incR (flag s Reg.ERR_HOST_STATUS 4) Reg.ERR_HOST_CMD_CNT 1) .none

/-- Whether the inverse byte matches. -/
def inverseOk (c : HpCmd) (inverse : Nat) : Bool := decide (c.byte + inverse = 0xFF)

/-- A bus error: its flag, its counter and, unless one is latched, its record. -/
def busError (s : State) (c : HpCmd) (addr code : Nat) : State :=
  if code = 0 then s
  else
    let s := if code = 1 then incR (flag s Reg.ERR_HOST_STATUS 3) Reg.ERR_HOST_CRC_CNT 1
      else incR (flag s Reg.ERR_HOST_STATUS 2) Reg.ERR_HOST_BUSERR_CNT 1
    if getB s Reg.ERR_HOST_LAST 31 then s
    else
      let s := setR s Reg.ERR_HOST_LAST (BitVec.ofNat 32 (2 ^ 31 + (if c.isMem then 2 ^ 30 else 0) + code * 256 + c.byte))
      setN64 s Reg.ERR_HOST_LAST_ADDR_LO Reg.ERR_HOST_LAST_ADDR_HI (addr % 2 ^ 48)

/-- The status byte (R529). -/
def statusByte (s : State) (code : Nat) (foreign : Bool) : Nat := code + 64 * foreign.toNat + 128 * (alertOn s).toNat

/-- The status of a write and its CRC, over what the host and the target have driven but for the host CRC phase. -/
def writeResp (s : State) (head : List Byte) (code : Nat) (foreign : Bool) : State :=
  let st := statusByte s code foreign
  setResp s (.write st (BitVec.ofNat 8 (crc8 (head ++ [BitVec.ofNat 8 st]))))

/-! ### Ranges (R526) -/

/-- The code of a register command's range: 0x05 for a misaligned address or a range beyond one block. -/
def regRange (a n : Nat) : Nat :=
  if a % 4 ≠ 0 then 5
  else match extentOf a with
    | none => 2
    | some e => if a + 4 * n ≤ e.2 then 0 else 5

/-- The end of the row of the physical map that holds an address. -/
def rowEnd (a : Nat) : Nat :=
  match memRow a with
  | .hbm k => (k + 1) * hbmStackBytes
  | .spad t => spBase t + spBytes
  | .wcache => wcBase + 0x6000000
  | .ueCore => ctxCoreBase + 0x800000
  | .ueExt => ctxExtBase + 0x1800000
  | .harq => harqBase + 0x400000
  | .mirror => mirrorBase + 0x100000000
  | .hole => a

/-- The code of a memory command's range. -/
def memCmdRange (s : State) (a n : Nat) : Nat :=
  if s.boot.stage = .stopped ∨ wiped s = false then 3
  else if a % 4 ≠ 0 then 5
  else if memRow a = .hole then 2
  else if a + 4 * n ≤ rowEnd a then 0 else 5

/-! ### Reading words -/

/-- A read of one register: a captured value if there is one, the captures it takes, and its clearing (R544, 00 R15). -/
def hostReadReg (s : State) (a : Nat) : Word × State :=
  let v := (mapFind s.host.captures a).getD (readReg s a)
  let put := (partnersOf a).foldl (fun m p => mapPut m p (readReg s p)) (mapErase s.host.captures a)
  (v, readEffect { s with host := { s.host with captures := put } } a)

/-- The foreign-dirty flag (08 R293). -/
def metForeign (s : State) : State := flag s Reg.ERR_HOST_STATUS 1

/-- A byte of HBM as the host sees it: a configured-grant entry that it has rewritten reads as written before its frame
boundary (R531; 02 R64). -/
def hostByte (s : State) (a : Nat) : Byte :=
  (((s.carriers.flatMap (fun kv => kv.2.cgPend)).reverse.find? (fun p => decide (p.1 = a))).map (·.2)).getD (getByte s a)

/-- A word of HBM or scratchpad with its check bits: an uncorrectable word is recorded and reads as a free value. -/
def hostData (s : State) (a : Nat) : Word × State :=
  match checkRead s a 4 with
  | (s, none) => (BitVec.ofNat 32 (leNat (build 4 (fun i => hostByte s (a + i)))), s)
  | (s, some w) =>
    let (i, s) := fresh s
    let r := match spOf (8 * w) with
      | some (t, off) => { ErrRec.of 0x02 with cause := 5, action := 5, source := dieOf t, tile := t, detail := w % 8, addr := off / 64 * 64 }
      | none => { ErrRec.of 0x07 with cause := 5, action := 5, source := 8 * w / hbmStackBytes, addr := 8 * w, detail := w % 8 }
    (BitVec.ofNat 32 (Config.freeValue i), logError s r)

/-- A word of the weight cache view (01 R36): a place that no line has filled since the array was last zeroed reads as zero (15 R472,
16 R504), and one whose line has since been invalidated is a free value (DESIGN CHOICE, log 110). -/
def wcView (s : State) (o : Nat) : Word × State :=
  let way := o / 512 / 12288
  let set := o / 512 % 12288
  match (mapGet [] s.wc.sets set).find? (fun x => decide (x.1 = way)) with
  | some x => (BitVec.ofNat 32 (leNat ((x.2.data.drop (o % 512)).take 4)), s)
  | none =>
    if mapGet false s.wc.filled (way * 12288 + set) then let (i, s) := fresh s; (BitVec.ofNat 32 (Config.freeValue i), s) else (0#32, s)

/-- Whether a scratchpad word lies in a bank group that sleeps or wakes. -/
def spDark (s : State) (t off : Nat) : Bool := (groupsOf off 4).any (fun g => (getT s t).asleep.contains g || (getT s t).wakingG.contains g)

/-- A read of one word of memory: its value, and whether it met a foreign-dirty page. -/
def hostReadMem (s : State) (a : Nat) : Word × Bool × State :=
  let plain := fun (b : Nat) => if isDirty s b 4 then (0#32, true, metForeign s) else let (v, s) := hostData s b; (v, false, s)
  match memRow a with
  | .hbm _ => plain a
  | .ueExt => plain (unalias s a)
  | .spad t => if spDark s t (a - spBase t) then (0#32, false, s) else plain a
  | .wcache => let (v, s) := wcView s (a - wcBase); (v, false, s)
  | .ueCore => let s := tableRead s a 4; (BitVec.ofNat 32 (getLe s a 4), false, s)
  | .harq => let s := tableRead s a 4; (BitVec.ofNat 32 (getLe s a 4), false, s)
  | .mirror => (0#32, false, s)
  | .hole => (0#32, false, s)

/-- What a read of several words has come to. -/
structure Reading where
  words : List Word
  code : Nat
  at' : Nat           -- the failing address
  foreign : Bool
  st : State
  deriving DecidableEq, Repr

/-- Read n words from an address on; a failing word and every later one read 0 (R530). -/
def readWords (mem : Bool) (a : Nat) : Nat → Reading → Reading
  | 0, r => r
  | n + 1, r =>
    if r.code ≠ 0 then readWords mem (a + 4) n { r with words := r.words ++ [0#32] }
    else
      let code := if mem then memCode r.st a false else regCode r.st a false
      if code ≠ 0 then readWords mem (a + 4) n { r with words := r.words ++ [0#32], code := code, at' := a }
      else if mem then
        let (v, f, s) := hostReadMem r.st a
        readWords mem (a + 4) n { r with words := r.words ++ [v], foreign := r.foreign || f, st := s }
      else
        let (v, s) := hostReadReg r.st a
        readWords mem (a + 4) n { r with words := r.words ++ [v], st := s }

/-! ### Posted writes (R531) -/

/-- The configured-grant table of a carrier that holds an address. -/
def cgOwner (s : State) (a : Nat) : Option Nat :=
  (List.range 32).find? (fun c => getB s (Reg.SCH_CC_CFG c 0) 31 && decide (cgBase s c ≤ a) && decide (a < cgBase s c + 5120))

/-- A write of one word of memory: discarded in a foreign-dirty page or a sleeping bank group; a configured-grant entry takes it at
its carrier's frame boundary. -/
def hostWriteMem (s : State) (a : Nat) (v : Word) : State :=
  let bs := leBytes 4 v.toNat
  let plain := fun (b : Nat) =>
    if isDirty s b 4 then metForeign s
    else match cgOwner s b with
      | some c => modCar s c (fun x => { x with cgPend := x.cgPend ++ bs.zipIdx.map (fun y => (b + y.2, y.1)) })
      | none => setBytes s b bs
  match memRow a with
  | .hbm _ => plain a
  | .ueExt => plain (unalias s a)
  | .spad t => if spDark s t (a - spBase t) then s else plain a
  | _ => s

/-- A posted write waits while its scratchpad bytes hold a Negative that has no copy in HBM (08 R285). -/
def postWaits (s : State) (p : Posted) : Bool :=
  match p with
  | .mem a _ => (match spOf a with | some (t, off) => negHeld s t none off 4 | none => false)
  | _ => false

def performPosted (s : State) (p : Posted) : State :=
  match p with
  | .reg a v => performWrite s a v
  | .mem a v => hostWriteMem s a v
  | .recov k data => takeChunk s k data

/-- Perform the oldest posted write, unless it waits. -/
def drainOne (s : State) : State :=
  match s.host.buffer with
  | [] => s
  | p :: rest => if postWaits s p then s else performPosted { s with host := { s.host with buffer := rest } } p

/-- Perform posted writes in their order, as far as they go. -/
def drain : Nat → State → State
  | 0, s => s
  | n + 1, s => drain n (drainOne s)

def drainAll (s : State) : State := drain s.host.buffer.length s

/-- HOST_WRITE_PERFORM. -/
def execHostWritePerform (s : State) : Host.Outcome State Fault Refusal := .next (drainOne s)

/-- Bytes of the 8 KiB buffer that a posted write takes: those of its data. -/
def Posted.bytes : Posted → Nat
  | .recov _ data => 4 * data.length
  | _ => 4

def bufferUsed (s : State) : Nat := (s.host.buffer.map Posted.bytes).sum

/-! ### Reads (R528) -/

/-- A read performed internally, after the writes accepted before it. -/
def internalRead (s : State) (c : HpCmd) (a n : Nat) : List Word × Nat × State :=
  let s := drainAll s
  let range := if c.isMem then memCmdRange s a n else regRange a n
  if range ≠ 0 then
    let s := busError s c a range
    (List.replicate n 0#32, statusByte s range false, s)
  else
    let r := readWords c.isMem a n { words := [], code := 0, at' := a, foreign := false, st := s }
    let s := busError r.st c r.at' r.code
    (r.words, statusByte s r.code r.foreign, s)

/-- The internal read of a held command completes. -/
def completeHeld (s : State) : State :=
  match s.host.held with
  | some h =>
    if h.result.isSome then s
    else
      let (ws, st, s) := internalRead s (if h.mem then .memRd else .regRd) h.addr h.len
      if s.host.buffer.isEmpty ∧ s.host.held.isSome then { s with host := { s.host with held := some { h with result := some (ws, st) } } } else s
  | none => s

/-- Whether writes accepted before hold a read back. -/
def readHeldBack (s : State) : Bool := !(drainAll s).host.buffer.isEmpty

/-- HOST_READ_COMPLETE. -/
def execHostReadComplete (s : State) : Host.Outcome State Fault Refusal := .next (if readHeldBack s then drainAll s else completeHeld s)

/-- Discard a held result; a read still in progress completes first, with its side effects. -/
def dropHeld (s : State) : State :=
  if s.host.held.isNone then s
  else
    let s := completeHeld s
    { s with host := { s.host with held := none } }

def readResp (s : State) (head : List Byte) (ws : List Word) (st : Nat) : State :=
  setResp s (.read ws st (BitVec.ofNat 8 (crc8 (head ++ [0xA5#8, 0xA5#8] ++ wordBytes ws ++ [BitVec.ofNat 8 st]))))

def notReady (s : State) : State := setResp (incR s Reg.ERR_HOST_NOTREADY_CNT 1) .notReady

/-- Registers that answer within 8 latency clocks: DEV, SAFE and ERR. -/
def fastReg (a : Nat) : Bool := decide (a < 0x00020000) || (decide (0x00500000 ≤ a) && decide (a < 0x00580000))

/-- A REG_RD or MEM_RD. -/
def hostRead (c : HpCmd) (f : HpRead) (s : State) : State :=
  let n := f.length + 1
  let head := headBytes c f.inverse f.addr (some f.length)
  if !s.boot.served then setResp s .none
  else if !inverseOk c f.inverse || decide (1023 < f.length) || f.cutHost then cmdFail s
  else
    let same := match s.host.held with
      | some h => decide (h.mem = c.isMem ∧ h.addr = f.addr ∧ h.len = n)
      | none => false
    let s := if same then s else dropHeld s
    match s.host.held with
    | some h =>
      match h.result with
      | some (ws, st) => if f.cutTarget then setResp s .none else readResp { s with host := { s.host with held := none } } head ws st
      | none => if f.cutTarget then setResp s .none else notReady s
    | none =>
      let hold := fun (s : State) (r : Option (List Word × Nat)) =>
        { s with host := { s.host with held := some { mem := c.isMem, addr := f.addr, len := n, result := r } } }
      if (f.slow && !(fastReg f.addr && !c.isMem)) || readHeldBack s then
        let s := hold s none
        if f.cutTarget then setResp s .none else notReady s
      else
        let (ws, st, s) := internalRead s c f.addr n
        if f.cutTarget then setResp (hold s (some (ws, st))) .none else readResp s head ws st

/-- REG_RD. -/
def execRegRd (f : HpRead) (s : State) : Host.Outcome State Fault Refusal := .next (hostRead .regRd f s)
/-- MEM_RD. -/
def execMemRd (f : HpRead) (s : State) : Host.Outcome State Fault Refusal := .next (hostRead .memRd f s)

/-- STAT: SAFE_STATUS in every state; a held result stays. -/
def execHpStat (f : HpStat) (s : State) : Host.Outcome State Fault Refusal :=
  if !s.boot.served then .next (setResp s .none)
  else if !inverseOk .stat f.inverse || f.cutHost then .next (cmdFail s)
  else
    let st := statusByte s 0 false
    let w := safeStatus s
    .next (setResp s (.read [w] st (BitVec.ofNat 8 (crc8 (headBytes .stat f.inverse 0 none ++ wordBytes [w] ++ [BitVec.ofNat 8 st])))))

/-! ### Writes -/

/-- What the check of a write at acceptance has come to. -/
structure Accepting where
  posts : List Posted
  code : Nat
  at' : Nat
  foreign : Bool
  deriving DecidableEq, Repr

/-- The acceptance of one word (R531). -/
def acceptWord (s : State) (c : HpCmd) (r : Accepting) (aw : Nat × Word) : Accepting :=
  let (a, v) := aw
  let code := if c.isMem then memCode s a true else regCode s a true
  if r.code ≠ 0 then r
  else if code ≠ 0 then { r with code := code, at' := a }
  else if c.isMem then
    (if isDirty s (unalias s a) 4 then { r with foreign := true } else { r with posts := r.posts ++ [.mem a v] })
  else { r with posts := r.posts ++ [.reg a v] }

/-- A write of go to the flash bridge before step 3 of start-up, or while start-up or a reload reads flash (R534; 16 R514). -/
def goRefused (s : State) (aws : List (Nat × Word)) : Bool :=
  (flashReads s || !step3 s) && aws.any (fun x => decide (x.1 = Reg.DEV_FLB_CMD) && bitOf x.2 31)

/-- A REG_WR or MEM_WR. -/
def hostWrite (c : HpCmd) (f : HpWrite) (s : State) : State :=
  let n := f.length + 1
  let head := headBytes c f.inverse f.addr (some f.length) ++ wordBytes f.data
  if !s.boot.served then setResp s .none
  else if !inverseOk c f.inverse || decide (1023 < f.length) || f.cutHost then cmdFail s
  else
    let s := dropHeld s
    let aws := f.data.zipIdx.map (fun x => (f.addr + 4 * x.2, x.1))
    let fail := fun (code : Nat) => writeResp (busError s c f.addr code) head code false
    let range := if c.isMem then memCmdRange s f.addr n else regRange f.addr n
    if crc8 head ≠ f.crc then fail 1
    else if range ≠ 0 then fail range
    else if !c.isMem && goRefused s aws then fail 6
    else if 8192 < bufferUsed s + 4 * n then fail 7
    else
      let r := aws.foldl (acceptWord s c) { posts := [], code := 0, at' := f.addr, foreign := false }
      let s := { s with host := { s.host with buffer := s.host.buffer ++ r.posts } }
      let s := if r.foreign then metForeign s else s
      writeResp (busError s c r.at' r.code) head r.code r.foreign

/-- REG_WR. -/
def execRegWr (f : HpWrite) (s : State) : Host.Outcome State Fault Refusal := .next (hostWrite .regWr f s)
/-- MEM_WR. -/
def execMemWr (f : HpWrite) (s : State) : Host.Outcome State Fault Refusal := .next (hostWrite .memWr f s)

/-- Chunks of the recovery stream accepted so far. -/
def chunksTaken (s : State) : Nat := received s + (s.host.buffer.filter (fun p => match p with | .recov _ _ => true | _ => false)).length

/-- RECOV_WR (R535): chunk k is taken, acknowledged a second time, or turned away. -/
def execRecovWr (f : HpWrite) (s : State) : Host.Outcome State Fault Refusal :=
  let c := HpCmd.recovWr
  let head := headBytes c f.inverse f.addr none ++ wordBytes f.data
  if !s.boot.served then .next (setResp s .none)
  else if !inverseOk c f.inverse || f.cutHost then .next (cmdFail s)
  else
    let s := dropHeld s
    let fail := fun (code : Nat) => writeResp (busError s c f.addr code) head code false
    let seen := { s with boot := { s.boot with recovAt := s.now } }
    if crc8 head ≠ f.crc then .next (fail 1)
    else if getB s Reg.BOOT_CTL 2 = false then .next (fail 6)
    else if f.addr = chunksTaken s then
      (if 8192 < bufferUsed s + 4096 then .next (fail 7)
       else .next (writeResp { seen with host := { s.host with buffer := s.host.buffer ++ [.recov f.addr f.data] } } head 0 false))
    else if f.addr + 1 = chunksTaken s then .next (writeResp seen head 0 false)
    else .next (fail 6)

end Sys2Proof.Machine
end

