-- ==== Sys2Proof/Machine/Prach.lean ====
section
/-!
DEFINITION. Prach.lean: the PRACH search (11 R359 to R364), in FP32, each operation rounded once, in the order of the rules and of the
configuration.
-/
namespace Sys2Proof.Machine

open Sys2Proof

/-! ### An occasion's configuration -/

def prachLong (s : State) (c o : Nat) : Bool := p5Long (getCar s c).p5 o
def prachLen (s : State) (c o : Nat) : Nat := p5Len (getCar s c).p5 o
def prachHz (s : State) (c o : Nat) : Nat := max 1 (prachOf s c 13 o)
def prachNcs (s : State) (c o : Nat) : Nat := p5Ncs (getCar s c).p5 o
def perRoot (s : State) (c o : Nat) : Nat := p5PerRoot (getCar s c).p5 o
def rootsOf (s : State) (c o : Nat) : Nat := p5Roots (getCar s c).p5 o

/-- Where the first preamble RE of an occasion lies in the REs of its sections, and the number of root r's sequence. -/
def prachRe0 (s : State) (c o : Nat) : Nat := prachOf s c 15 o
def prachRoot (s : State) (c o r : Nat) : Nat := prachOf s c (256 + r) o % prachLen s c o

/-- The L_RA preamble REs of repetition q on eAxC number a; a symbol that has not come is zeros. -/
def preambleRes (s : State) (c n o q a : Nat) : List (Int × Int) :=
  match (exOf s c 0 true)[a]? with
  | none => []
  | some kv =>
    let at' := repAt s c o q
    let xs := mapGet [] (getCar s c).rxStore (storeKey (n - at'.1) kv.1 at'.2)
    (List.range (prachLen s c o)).map (fun i => nth ((0 : Int), (0 : Int)) xs (12 * occPrb s c o + prachRe0 s c o + i))

def turnCw (k : Int) (d : Nat) : Cw := let r := cosSinTurns k d; (f32Of r.1, f32Of r.2)

/-- Element k of the Zadoff–Chu sequence of root number u in frequency, by its first element (TS 38.211 clause 6.3.3.1, PRESUMED, log 104): the
conjugate of element k/u, modulo the prime length, of the sequence in time. -/
def zcRef (len u k : Nat) : Cw :=
  let m := ((List.range len).find? (fun m => decide (u * m % len = k % len))).getD 0
  turnCw (((u * m * (m + 1) : Nat) : Int)) (2 * len)

/-- The preamble REs in the order in which the configuration sums them (R356; DESIGN CHOICE, log 83). -/
def sumOrder (p5 len : Nat) : List Nat := (((Config.prachOrder p5 len).filter (fun k => decide (k < len))) ++ List.range len).dedup

/-- The correlation of root r, repetition q, eAxC number a at delay bin d (R360): the preamble REs times the conjugate of the sequence, at a spacing
of an eighth of a sample. -/
def corrAt (s : State) (c n o r q a d : Nat) : Cw :=
  let len := prachLen s c o
  let p5 := (getCar s c).p5
  let res := (preambleRes s c n o q a).toArray
  let sum := (sumOrder p5 len).foldl (fun acc k =>
    let x := res.getD k (0, 0)
    let y : Cw := (f32Of (XVal.dyadic x.1 12), f32Of (XVal.dyadic x.2 12))
    cAdd acc (cMulConj (cMulConj y (zcRef len (prachRoot s c o r) k)) (turnCw (-((k * d : Nat) : Int)) (8 * len)))) ((0#32, 0#32) : Cw)
  (f32Mul (Config.prachScale p5 len) sum.1, f32Mul (Config.prachScale p5 len) sum.2)

def antsOf (s : State) (c : Nat) : Nat := (exOf s c 0 true).length

/-- The power profile of a root at bin d (R360). -/
def profileAt (s : State) (c n o r d : Nat) : Word :=
  (List.range (prachReps s c o)).foldl (fun acc q => (List.range (antsOf s c)).foldl (fun acc a => f32Add acc (cPower (corrAt s c n o r q a d))) acc) 0#32

def profile (s : State) (c n o r : Nat) : List Word := (List.range (8 * prachLen s c o)).map (profileAt s c n o r)

/-- The noise reference (R361): the mean of the bins without their largest eighth. -/
def occNoise (bins : List Word) : Word :=
  let order := (bins.zipIdx).insertionSort (fun a b => b.1.toNat < a.1.toNat ∨ (a.1 = b.1 ∧ a.2 ≤ b.2))
  let kept := ((order.drop (bins.length / 8)).map (·.2)).insertionSort (· ≤ ·)
  f32Div (kept.foldl (fun acc i => f32Add acc (nth 0#32 bins i)) 0#32) (f32Int kept.length)

/-- The largest bin of a window, the lower of equals. -/
def peakOf (w : List (Word × Nat)) : Word × Nat := w.foldl (fun b x => if b.1.toNat < x.1.toNat then x else b) (w.headD (0#32, 0))

/-- The metric of R362. -/
def prachMetric (peak noise : Word) : Nat := clampRne ((f32Val (f32Db (f32Div peak noise))).mul2 8) 65535

/-- The timing advance of a delay bin d of the window from 8 × C_v on (Table 11.2). -/
def prachTa (s : State) (c o d cv : Nat) : Nat :=
  min 3846 (rneDiv ((d - 8 * cv) * tcPerSec * 2 ^ ccMu s c) (8 * prachLen s c o * prachHz s c o * 1024))

/-- The power of a peak in 0.001 dB steps from −140 dBm (Table 11.2). -/
def prachPower (s : State) (c : Nat) (peak : Word) : Nat :=
  let cal := f32Of (XVal.dyadic (signed 32 (getN s (Reg.RXM_CC_CAL c))) 8)
  clampRne (f32Val (f32Mul (f32Int 1000) (f32Add (f32Add (f32Db peak) cal) (f32Int 140)))) 170000

/-- The frequency offset at a peak bin (R363), for two or more repetitions. -/
def prachFreq (s : State) (c n o r d : Nat) : Option Word :=
  let k := prachReps s c o
  if k < 2 then none
  else
    let q := (List.range (k - 1)).foldl (fun acc i => (List.range (antsOf s c)).foldl (fun acc a =>
      cAdd acc (cMulConj (corrAt s c n o r (i + 1) a d) (corrAt s c n o r i a d))) acc) ((0#32, 0#32) : Cw)
    some (f32Div (f32Mul (f32Arg q.1 q.2) (f32Int (prachHz s c o))) f32TwoPi)

/-- The report of preamble v, where its metric reaches the threshold. -/
def prachReport (s : State) (c n o : Nat) (profiles : List (List Word)) (noise : Word) (v : Nat) : Option Preamble :=
  let r := v / perRoot s c o
  let ncs := prachNcs s c o
  let cv := v % perRoot s c o * ncs
  let bins := (nth [] profiles r).zipIdx
  let win := if ncs = 0 then bins else (bins.drop (8 * cv)).take (8 * ncs)
  let p := peakOf win
  let m := prachMetric p.1 noise
  let thr := if prachLong s c o then getF s (Reg.RXM_CC_THR c) 31 16 else getF s (Reg.RXM_CC_THR c) 15 0
  if thr ≤ m then
    some { index := v, ta := prachTa s c o p.2 cv, power := prachPower s c p.1, metric := m, freq := prachFreq s c n o r p.2 }
  else none

/-- The search of an occasion: its reports in ascending preamble index. -/
def prachSearch (s : State) (c n o : Nat) : List Preamble :=
  let profiles := (List.range (rootsOf s c o)).map (profile s c n o)
  (List.range 64).filterMap (prachReport s c n o profiles (occNoise profiles.flatten))

/-- Whether an occasion's samples hold a RE filled with zeros. -/
def occMissing (s : State) (c n o : Nat) : Bool :=
  (occReps s c o).any (fun at' => (getUl s c (n - at'.1)).filled.any (fun kv => exPrach (exAt s (kv.1 / 16)) && decide (kv.1 % 16 = at'.2) &&
    decide (kv.2 &&& prbMask (occPrb s c o) (occPrbs s c o) ≠ 0)))

/-- The bound of a search (R359): 25 µs for a short format, 80 µs for a long one. -/
def prachBound (s : State) (c o : Nat) : Nat := us (if prachLong s c o then 80 else 25)

/-- PRACH_SEARCH_DONE (11 R359, R364, Table 11.8): the search of an occasion completes; what it found is reported with its slot, and
load_over is set where it took longer than the bound. -/
def execPrachSearchDone (r : PrachResult) (s : State) : Host.Outcome State Fault Refusal :=
  let c := r.carrier.val
  match findOcc (getUl s c r.slot) r.occ with
  | some o =>
    if o.searching && s.power.hubOn.testBit 13 then
      let found := prachSearch s c r.slot r.occ
      let x : PrachOcc := { o with searching := false, done := true, missing := occMissing s c r.slot r.occ, found := found }
      let s := modUl s c r.slot (fun u => { u with occs := u.occs.map (fun y => if y.occ = r.occ then x else y) })
      let s := flagIf (incR s Reg.RXM_PRACH_OCC 1) (decide (o.since + prachBound s c r.occ < nowGrid s)) Reg.RXM_FLAGS 3
      let s := if found.isEmpty then s else flag (incR s Reg.RXM_PRACH_DET found.length) Reg.RXM_FLAGS 0
      let u := getUl s c r.slot
      if u.expired && u.req.isNone then .next (flag (incR s Reg.RXM_PRACH_UNCLAIMED 1) Reg.RXM_FLAGS 2)
      else if u.expired then .next s
      else .next (sendReady s c r.slot)
    else .next s
  | none => .next s

end Sys2Proof.Machine
end

