-- ==== Sys2Proof/Machine/Dispatch.lean ====
section
/-!
DEFINITION. Dispatch.lean: one arm per command, each a direct call of its meaning.
-/
namespace Sys2Proof.Machine

open Sys2Proof

/-- The effect of a command on everything but the queue. -/
def exec (i : Instr) (s : State) : Host.Outcome State Fault Refusal :=
  match i with
  | .powerOnReset b => Sys2Proof.Machine.execPowerOnReset b s
  | .systemReset b pulseNs => Sys2Proof.Machine.execSystemReset b pulseNs s
  | .refJudgement toggles count => Sys2Proof.Machine.execRefJudgement toggles count s
  | .pllLock => Sys2Proof.Machine.execPllLock s
  | .memoryWipeComplete => Sys2Proof.Machine.execMemoryWipeComplete s
  | .readyTimeout => Sys2Proof.Machine.execReadyTimeout s
  | .bootArm => Sys2Proof.Machine.execBootArm s
  | .warmReload sameCycleFlb => Sys2Proof.Machine.execWarmReload sameCycleFlb s
  | .recoveryStart => Sys2Proof.Machine.execRecoveryStart s
  | .recoveryTimeout => Sys2Proof.Machine.execRecoveryTimeout s
  | .bootRstReq v => Sys2Proof.Machine.execBootRstReq v s
  | .watchdogKick v => Sys2Proof.Machine.execWatchdogKick v s
  | .watchdogExpiry => Sys2Proof.Machine.execWatchdogExpiry s
  | .secverCommit => Sys2Proof.Machine.execSecverCommit s
  | .proofRequest => Sys2Proof.Machine.execProofRequest s
  | .proofDone => Sys2Proof.Machine.execProofDone s
  | .lcTransition => Sys2Proof.Machine.execLcTransition s
  | .fieldRepairWrite v => Sys2Proof.Machine.execFieldRepairWrite v s
  | .regRd f => Sys2Proof.Machine.execRegRd f s
  | .regWr f => Sys2Proof.Machine.execRegWr f s
  | .memRd f => Sys2Proof.Machine.execMemRd f s
  | .memWr f => Sys2Proof.Machine.execMemWr f s
  | .recovWr f => Sys2Proof.Machine.execRecovWr f s
  | .hpStat f => Sys2Proof.Machine.execHpStat f s
  | .hostReadComplete => Sys2Proof.Machine.execHostReadComplete s
  | .hostWritePerform => Sys2Proof.Machine.execHostWritePerform s
  | .registerWrite addr v => Sys2Proof.Machine.execRegisterWrite addr v s
  | .flbRead => Sys2Proof.Machine.execFlbRead s
  | .flbProgram => Sys2Proof.Machine.execFlbProgram s
  | .flbEraseSector => Sys2Proof.Machine.execFlbEraseSector s
  | .flbEraseBlock => Sys2Proof.Machine.execFlbEraseBlock s
  | .flbReadSfdp => Sys2Proof.Machine.execFlbReadSfdp s
  | .flbDone failed => Sys2Proof.Machine.execFlbDone failed s
  | .flbTimeout => Sys2Proof.Machine.execFlbTimeout s
  | .safeEvtPop v => Sys2Proof.Machine.execSafeEvtPop v s
  | .wakeTimerArm w v => Sys2Proof.Machine.execWakeTimerArm w v s
  | .wakeTimerDisarm w v => Sys2Proof.Machine.execWakeTimerDisarm w v s
  | .wakeTimerFire w => Sys2Proof.Machine.execWakeTimerFire w s
  | .errLogPop v => Sys2Proof.Machine.execErrLogPop v s
  | .deviceFatalError e => Sys2Proof.Machine.execDeviceFatalError e s
  | .clkGateWrite k v => Sys2Proof.Machine.execClkGateWrite k v s
  | .refLost => Sys2Proof.Machine.execRefLost s
  | .pwrHubEnWrite v => Sys2Proof.Machine.execPwrHubEnWrite v s
  | .hubDomainOn d => Sys2Proof.Machine.execHubDomainOn d s
  | .capEval energyUj => Sys2Proof.Machine.execCapEval energyUj s
  | .ilimEval a b => Sys2Proof.Machine.execIlimEval a b s
  | .thermalEval temps => Sys2Proof.Machine.execThermalEval temps s
  | .coolantStop => Sys2Proof.Machine.execCoolantStop s
  | .coolantTempWrite v => Sys2Proof.Machine.execCoolantTempWrite v s
  | .brakeFall => Sys2Proof.Machine.execBrakeFall s
  | .brakeRise => Sys2Proof.Machine.execBrakeRise s
  | .brakeHoldEnd => Sys2Proof.Machine.execBrakeHoldEnd s
  | .droopDetect d => Sys2Proof.Machine.execDroopDetect d s
  | .droopEnd d => Sys2Proof.Machine.execDroopEnd d s
  | .opChange d => Sys2Proof.Machine.execOpChange d s
  | .avsVdone d => Sys2Proof.Machine.execAvsVdone d s
  | .avsTimeout d => Sys2Proof.Machine.execAvsTimeout d s
  | .tileSleep t => Sys2Proof.Machine.execTileSleep t s
  | .tileWake t => Sys2Proof.Machine.execTileWake t s
  | .tileAwake t => Sys2Proof.Machine.execTileAwake t s
  | .dieDormancyRequest d v => Sys2Proof.Machine.execDieDormancyRequest d v s
  | .dieDormancyEnter d => Sys2Proof.Machine.execDieDormancyEnter d s
  | .dieWakeRequest d v => Sys2Proof.Machine.execDieWakeRequest d v s
  | .dieAutoWake d => Sys2Proof.Machine.execDieAutoWake d s
  | .dieReady d => Sys2Proof.Machine.execDieReady d s
  | .quiesceRequest => Sys2Proof.Machine.execQuiesceRequest s
  | .quiesceStop => Sys2Proof.Machine.execQuiesceStop s
  | .timeSet setValid => Sys2Proof.Machine.execTimeSet setValid s
  | .timeAdj => Sys2Proof.Machine.execTimeAdj s
  | .timeSwitchRequest force => Sys2Proof.Machine.execTimeSwitchRequest force s
  | .servoSample n x => Sys2Proof.Machine.execServoSample n x s
  | .servoLossTimeout n => Sys2Proof.Machine.execServoLossTimeout n s
  | .holdLimitExpired => Sys2Proof.Machine.execHoldLimitExpired s
  | .synceClockLost => Sys2Proof.Machine.execSynceClockLost s
  | .ppsInEdge => Sys2Proof.Machine.execPpsInEdge s
  | .ppsInLost => Sys2Proof.Machine.execPpsInLost s
  | .ppsOutEdge => Sys2Proof.Machine.execPpsOutEdge s
  | .deviceFrameStart => Sys2Proof.Machine.execDeviceFrameStart s
  | .tpinArm k v => Sys2Proof.Machine.execTpinArm k v s
  | .tpinDisarm k v => Sys2Proof.Machine.execTpinDisarm k v s
  | .tpinFire k => Sys2Proof.Machine.execTpinFire k s
  | .tpinPulseEnd k => Sys2Proof.Machine.execTpinPulseEnd k s
  | .tpinCaptureEdge k rising => Sys2Proof.Machine.execTpinCaptureEdge k rising s
  | .tpinCapPop k v => Sys2Proof.Machine.execTpinCapPop k v s
  | .ethModeWrite p v => Sys2Proof.Machine.execEthModeWrite p v s
  | .ethLinkUp m => Sys2Proof.Machine.execEthLinkUp m s
  | .ethLinkDown m => Sys2Proof.Machine.execEthLinkDown m s
  | .ethFrameRx f => Sys2Proof.Machine.execEthFrameRx f s
  | .ecpriOwdRequest f => Sys2Proof.Machine.execEcpriOwdRequest f s
  | .owdStart v => Sys2Proof.Machine.execOwdStart v s
  | .owdResponseRx f => Sys2Proof.Machine.execOwdResponseRx f s
  | .owdTimeout => Sys2Proof.Machine.execOwdTimeout s
  | .uplaneRx f => Sys2Proof.Machine.execUplaneRx f s
  | .ulRxWindowEnd c n l => Sys2Proof.Machine.execUlRxWindowEnd c n l s
  | .nfSnapshot c n => Sys2Proof.Machine.execNfSnapshot c n s
  | .ulCplaneSend c n k => Sys2Proof.Machine.execUlCplaneSend c n k s
  | .prachCplaneSend c n k => Sys2Proof.Machine.execPrachCplaneSend c n k s
  | .prachSearchDone r => Sys2Proof.Machine.execPrachSearchDone r s
  | .ulTtiRequest r => Sys2Proof.Machine.execUlTtiRequest r s
  | .ulTtiCutoff c n => Sys2Proof.Machine.execUlTtiCutoff c n s
  | .dlTtiRequest r => Sys2Proof.Machine.execDlTtiRequest r s
  | .ulDciRequest r => Sys2Proof.Machine.execUlDciRequest r s
  | .txDataRequest r => Sys2Proof.Machine.execTxDataRequest r s
  | .nbSegTimeout p => Sys2Proof.Machine.execNbSegTimeout p s
  | .dlCutoff c n => Sys2Proof.Machine.execDlCutoff c n s
  | .dlCplaneSend c n k => Sys2Proof.Machine.execDlCplaneSend c n k s
  | .dlMarkPoll c n k => Sys2Proof.Machine.execDlMarkPoll c n k s
  | .dlUplaneDeadline c n k => Sys2Proof.Machine.execDlUplaneDeadline c n k s
  | .ldpcEncode r => Sys2Proof.Machine.execLdpcEncode r s
  | .ldpcCombine r => Sys2Proof.Machine.execLdpcCombine r s
  | .ldpcDecodeStart => Sys2Proof.Machine.execLdpcDecodeStart s
  | .ldpcCbDecoded k => Sys2Proof.Machine.execLdpcCbDecoded k s
  | .plcDecodeDone => Sys2Proof.Machine.execPlcDecodeDone s
  | .completionDeadline c n => Sys2Proof.Machine.execCompletionDeadline c n s
  | .harqExpire h => Sys2Proof.Machine.execHarqExpire h s
  | .ctxRelease v => Sys2Proof.Machine.execCtxRelease v s
  | .harqFlush v => Sys2Proof.Machine.execHarqFlush v s
  | .carrierSlotBoundary c => Sys2Proof.Machine.execCarrierSlotBoundary c s
  | .carrierFrameBoundary c => Sys2Proof.Machine.execCarrierFrameBoundary c s
  | .nbCcRun c v => Sys2Proof.Machine.execNbCcRun c v s
  | .nbCcLoad c => Sys2Proof.Machine.execNbCcLoad c s
  | .exposureCycleStart => Sys2Proof.Machine.execExposureCycleStart s
  | .exposureWakeLead p n => Sys2Proof.Machine.execExposureWakeLead p n s
  | .exposureDue p n => Sys2Proof.Machine.execExposureDue p n s
  | .exposureStart c => Sys2Proof.Machine.execExposureStart c s
  | .exposureDeadline c => Sys2Proof.Machine.execExposureDeadline c s
  | .shutterStop c => Sys2Proof.Machine.execShutterStop c s
  | .schShutterStop v => Sys2Proof.Machine.execSchShutterStop v s
  | .schShutterResume v => Sys2Proof.Machine.execSchShutterResume v s
  | .negativeSaved c t => Sys2Proof.Machine.execNegativeSaved c t s
  | .negativeInHbm c => Sys2Proof.Machine.execNegativeInHbm c s
  | .resume c => Sys2Proof.Machine.execResume c s
  | .contextFault c t cause => Sys2Proof.Machine.execContextFault c t cause s
  | .holdExpired c m => Sys2Proof.Machine.execHoldExpired c m s
  | .schRearm k v => Sys2Proof.Machine.execSchRearm k v s
  | .foreignDirtyScrub page => Sys2Proof.Machine.execForeignDirtyScrub page s
  | .ringWatchdog t => Sys2Proof.Machine.execRingWatchdog t s
  | .barrierRelease c b => Sys2Proof.Machine.execBarrierRelease c b s
  | .enlWaveRelease t => Sys2Proof.Machine.execEnlWaveRelease t s
  | .enlLoads t w => Sys2Proof.Machine.execEnlLoads t w s
  | .enlLoadsComplete t => Sys2Proof.Machine.execEnlLoadsComplete t s
  | .enlSwap t w => Sys2Proof.Machine.execEnlSwap t w s
  | .enlPass t w => Sys2Proof.Machine.execEnlPass t w s
  | .enlWake t w => Sys2Proof.Machine.execEnlWake t w s
  | .enlIdle t w => Sys2Proof.Machine.execEnlIdle t w s
  | .enlMode t w => Sys2Proof.Machine.execEnlMode t w s
  | .enlFence t w => Sys2Proof.Machine.execEnlFence t w s
  | .enlLevelStep t => Sys2Proof.Machine.execEnlLevelStep t s
  | .enlRampdownStart t => Sys2Proof.Machine.execEnlRampdownStart t s
  | .enlEntryFinished t => Sys2Proof.Machine.execEnlEntryFinished t s
  | .fixerCommand t w => Sys2Proof.Machine.execFixerCommand t w s
  | .fixerComplete t => Sys2Proof.Machine.execFixerComplete t s
  | .devNop t w => Sys2Proof.Machine.execDevNop t w s
  | .setvl t w => Sys2Proof.Machine.execSetvl t w s
  | .sli t w => Sys2Proof.Machine.execSli t w s
  | .sadd t w => Sys2Proof.Machine.execSadd t w s
  | .vext t w => Sys2Proof.Machine.execVext t w s
  | .devFence t w => Sys2Proof.Machine.execDevFence t w s
  | .getf t w => Sys2Proof.Machine.execGetf t w s
  | .clrf t w => Sys2Proof.Machine.execClrf t w s
  | .setcb t w => Sys2Proof.Machine.execSetcb t w s
  | .fadd t w => Sys2Proof.Machine.execFadd t w s
  | .fsub t w => Sys2Proof.Machine.execFsub t w s
  | .fmul t w => Sys2Proof.Machine.execFmul t w s
  | .fma t w => Sys2Proof.Machine.execFma t w s
  | .fmin t w => Sys2Proof.Machine.execFmin t w s
  | .fmax t w => Sys2Proof.Machine.execFmax t w s
  | .fabs t w => Sys2Proof.Machine.execFabs t w s
  | .fneg t w => Sys2Proof.Machine.execFneg t w s
  | .fcmp t w => Sys2Proof.Machine.execFcmp t w s
  | .iadd t w => Sys2Proof.Machine.execIadd t w s
  | .isub t w => Sys2Proof.Machine.execIsub t w s
  | .imul t w => Sys2Proof.Machine.execImul t w s
  | .imin t w => Sys2Proof.Machine.execImin t w s
  | .imax t w => Sys2Proof.Machine.execImax t w s
  | .vand t w => Sys2Proof.Machine.execVand t w s
  | .vor t w => Sys2Proof.Machine.execVor t w s
  | .vxor t w => Sys2Proof.Machine.execVxor t w s
  | .shl t w => Sys2Proof.Machine.execShl t w s
  | .shr t w => Sys2Proof.Machine.execShr t w s
  | .sra t w => Sys2Proof.Machine.execSra t w s
  | .icmp t w => Sys2Proof.Machine.execIcmp t w s
  | .sel t w => Sys2Proof.Machine.execSel t w s
  | .mand t w => Sys2Proof.Machine.execMand t w s
  | .mor t w => Sys2Proof.Machine.execMor t w s
  | .mxor t w => Sys2Proof.Machine.execMxor t w s
  | .mnot t w => Sys2Proof.Machine.execMnot t w s
  | .mpop t w => Sys2Proof.Machine.execMpop t w s
  | .cvt t w => Sys2Proof.Machine.execCvt t w s
  | .vld t w => Sys2Proof.Machine.execVld t w s
  | .vst t w => Sys2Proof.Machine.execVst t w s
  | .fbqRd t w => Sys2Proof.Machine.execFbqRd t w s
  | .fbqRel t w => Sys2Proof.Machine.execFbqRel t w s
  | .vperm t w => Sys2Proof.Machine.execVperm t w s
  | .vslideup t w => Sys2Proof.Machine.execVslideup t w s
  | .vslidedn t w => Sys2Proof.Machine.execVslidedn t w s
  | .vrev t w => Sys2Proof.Machine.execVrev t w s
  | .scan t w => Sys2Proof.Machine.execScan t w s
  | .red t w => Sys2Proof.Machine.execRed t w s
  | .smax t w => Sys2Proof.Machine.execSmax t w s
  | .exp2 t w => Sys2Proof.Machine.execExp2 t w s
  | .log2 t w => Sys2Proof.Machine.execLog2 t w s
  | .rcp t w => Sys2Proof.Machine.execRcp t w s
  | .rsqrt t w => Sys2Proof.Machine.execRsqrt t w s
  | .cadd t w => Sys2Proof.Machine.execCadd t w s
  | .cmul t w => Sys2Proof.Machine.execCmul t w s
  | .cmulc t w => Sys2Proof.Machine.execCmulc t w s
  | .cmag2 t w => Sys2Proof.Machine.execCmag2 t w s
  | .dspCmac t w => Sys2Proof.Machine.execDspCmac t w s
  | .dspAclr t w => Sys2Proof.Machine.execDspAclr t w s
  | .dspMovq t w => Sys2Proof.Machine.execDspMovq t w s
  | .dspLda t w => Sys2Proof.Machine.execDspLda t w s
  | .dspCmulq t w => Sys2Proof.Machine.execDspCmulq t w s
  | .dspCaddq t w => Sys2Proof.Machine.execDspCaddq t w s
  | .dspCsubq t w => Sys2Proof.Machine.execDspCsubq t w s
  | .dspLdc t w => Sys2Proof.Machine.execDspLdc t w s
  | .dspStc t w => Sys2Proof.Machine.execDspStc t w s
  | .seqNop t w => Sys2Proof.Machine.execSeqNop t w s
  | .seqLi t w => Sys2Proof.Machine.execSeqLi t w s
  | .seqLih t w => Sys2Proof.Machine.execSeqLih t w s
  | .seqAdd t w => Sys2Proof.Machine.execSeqAdd t w s
  | .seqBnz t w => Sys2Proof.Machine.execSeqBnz t w s
  | .seqJmp t w => Sys2Proof.Machine.execSeqJmp t w s
  | .seqPtos t w => Sys2Proof.Machine.execSeqPtos t w s
  | .ringWait t w => Sys2Proof.Machine.execRingWait t w s
  | .ringAdv t w => Sys2Proof.Machine.execRingAdv t w s
  | .seqStrip t w => Sys2Proof.Machine.execSeqStrip t w s
  | .seqSret t w => Sys2Proof.Machine.execSeqSret t w s
  | .seqBar t w => Sys2Proof.Machine.execSeqBar t w s
  | .semAcq t w => Sys2Proof.Machine.execSemAcq t w s
  | .semRel t w => Sys2Proof.Machine.execSemRel t w s
  | .seqEnd t w => Sys2Proof.Machine.execSeqEnd t w s
  | .dmaGo t w => Sys2Proof.Machine.execDmaGo t w s
  | .dmaDescFetch t ch => Sys2Proof.Machine.execDmaDescFetch t ch s
  | .dmaDescStart t ch => Sys2Proof.Machine.execDmaDescStart t ch s
  | .dmaDescComplete t ch => Sys2Proof.Machine.execDmaDescComplete t ch s
  | .remoteRingAdvance r => Sys2Proof.Machine.execRemoteRingAdvance r s
  | .tileRingCfgWrite t n v => Sys2Proof.Machine.execTileRingCfgWrite t n v s
  | .tileStripBaseWrite t n v => Sys2Proof.Machine.execTileStripBaseWrite t n v s
  | .tileSpSleepWrite t v => Sys2Proof.Machine.execTileSpSleepWrite t v s
  | .spGroupAwake t g => Sys2Proof.Machine.execSpGroupAwake t g s
  | .scrubPatrol t => Sys2Proof.Machine.execScrubPatrol t s
  | .scrubWriteback t => Sys2Proof.Machine.execScrubWriteback t s
  | .hbmPatrol k => Sys2Proof.Machine.execHbmPatrol k s
  | .wcInvalidate v => Sys2Proof.Machine.execWcInvalidate v s
  | .wcInvComplete => Sys2Proof.Machine.execWcInvComplete s
  | .peerFrameRx l f => Sys2Proof.Machine.execPeerFrameRx l f s
  | .peerAckTimeout l => Sys2Proof.Machine.execPeerAckTimeout l s
  | .peerRetrain l v => Sys2Proof.Machine.execPeerRetrain l v s
  | .peerLinkTrained l ok => Sys2Proof.Machine.execPeerLinkTrained l ok s
  | .rollCallStart => Sys2Proof.Machine.execRollCallStart s
  | .rollPeriodExpiry => Sys2Proof.Machine.execRollPeriodExpiry s
  | .rollCallTimeout => Sys2Proof.Machine.execRollCallTimeout s
  | .managerLost => Sys2Proof.Machine.execManagerLost s
  | .groupBarrierRelease b => Sys2Proof.Machine.execGroupBarrierRelease b s
  | .peerBurstSend st => Sys2Proof.Machine.execPeerBurstSend st s
  | .multicastDetach st => Sys2Proof.Machine.execMulticastDetach st s
  | .peerCollPop v => Sys2Proof.Machine.execPeerCollPop v s
  | .hostPortServed => Sys2Proof.Machine.execHostPortServed s
  | .readyReached => Sys2Proof.Machine.execReadyReached s
  | .reloadVerified => Sys2Proof.Machine.execReloadVerified s
  | .p5LoadChecked c => Sys2Proof.Machine.execP5LoadChecked c s
  | .removeOkRaised => Sys2Proof.Machine.execRemoveOkRaised s
  | .synceClockRestored => Sys2Proof.Machine.execSynceClockRestored s
  | .peerTimeExchange m => Sys2Proof.Machine.execPeerTimeExchange m s
  | .ptpEventMessageTx r => Sys2Proof.Machine.execPtpEventMessageTx r s

end Sys2Proof.Machine
end

