-- ==== Sys2Proof/Machine/Tick.lean ====
section
/-!
DEFINITION. Tick.lean: what 1.25 ns do while no command waits (DESIGN CHOICE, log 1): clocks count, device time advances by its rate, MACs send, and
a tile's Fixer and stationary loads go on, and once a µs the Safelight counts reasons and copies device time (03 R119; 04 R130; 13 R405,
R407; 15 R482; 17 R544).
-/
namespace Sys2Proof.Machine

open Sys2Proof

/-- The end of a µs: reasons are counted, and the Safelight takes its copy of device time unless the device is stopped. -/
def microEnd (s : State) : State :=
  let s := powerMicro s
  if s.boot.stage = .stopped then s else { s with safe := { s.safe with devCopy := s.time.dev } }

/-- Edge j of each group of 16 issues a cycle at a duty of d/16 (15 R484). -/
def edgeIssues (d j : Nat) : Bool := decide (j * d / 16 < (j + 1) * d / 16)

/-- Sixteenths of a cycle that a die's core clock gives in 800 ticks: halved by the brake, stretched by droop, and with the edges its duty
skips (15 R479, R484, R487, R488). -/
def coreRate (s : State) (d : Nat) : Nat :=
  dieMhz s d * ((List.range 16).filter (edgeIssues (dutyOf s d))).length / (if (clkOf s d).droop then 2 else 1)

/-- What a tick gives a tile's Fixer and stationary load: a 64-value group and a row in each core cycle (03 R119, 04 R130). -/
def unitTick (s : State) (t : Nat) : State :=
  match workingCtx s t with
  | none => s
  | some c =>
    let rate := coreRate s (dieOf t)
    let x := getT s t
    let fixAcc := ((x.fix.map (·.acc)).getD 0) + rate
    let loadAcc := ((x.enl.loading.map (·.acc)).getD 0) + rate
    let s := setT s t { x with fix := x.fix.map (fun j => if j.waiting then j else { j with acc := fixAcc % 12800 })
                               enl := { x.enl with loading := x.enl.loading.map (fun p => { p with acc := loadAcc % 12800 }) } }
    orFault (thenStep (unitRes (fixGroups (fixAcc / 12800) s t c)) (fun s => unitRes (loadRows (loadAcc / 12800) s t c)))

/-- The tiles whose Fixer or stationary load is at work. -/
def busyTiles (s : State) : List Nat := (s.tiles.filter (fun kv => kv.2.fix.any (fun j => !j.waiting) || kv.2.enl.loading.isSome)).map (·.1)

/-- What a cycle's end brings to the slots (09 R312, Table 09.4): state writes that wait for it, and the journal entries of slots whose last datagram has
left. -/
def slotsTick (s : State) : State :=
  forEach (s.carriers.flatMap (fun kv => (kv.2.ul.filter (fun u => u.2.jnl || u.2.pdus.any (·.commitDue))).map (fun u => (kv.1, u.1)))) s
    (fun cn s => slotEnds (commitsDue s cn.1 cn.2 true) cn.1 cn.2)

/-- One tick of 1.25 ns. -/
def tick (s : State) : State :=
  let s := { s with now := s.now + 1, safe := { s.safe with upTicks := s.safe.upTicks + 1 } }
  let s := spanTick (timeTick (forEach (busyTiles s) s (fun t s => unitTick s t)))
  let s := hubSettle (closeGates (slotsTick (egressEnds (netTick s))))
  if s.safe.upTicks % 800 = 0 then microEnd s else s

end Sys2Proof.Machine
end

