-- ==== Sys2Proof/Machine/Step.lean ====
section
/-!
DEFINITION. Step.lean: one step of the block.
-/
namespace Sys2Proof.Machine

open Sys2Proof

/-- Take the command at the front of the queue and run it on the rest; on an empty queue a tick passes (DESIGN CHOICE, log 1). -/
def step (s : State) : Host.Outcome State Fault Refusal :=
  match s.pending with
  | [] => .next (tick s)
  | c :: rest => exec c { s with pending := rest }

/-- Put the command that a word spells at the front of the queue. No row of the table gives bits, so no word spells one (DESIGN CHOICE, log 2). -/
def State.withFetchWord (s : State) (nbits w : Nat) : State :=
  match decodeTableWord nbits w with
  | some c => { s with pending := c :: s.pending }
  | none => s

end Sys2Proof.Machine
end

