-- ==== Sys2Proof/Safety.lean ====
section
/-!
DEFINITION. Safety.lean: what the statements about the whole machine are stated in: the device's trust state, and what every
step keeps.
-/
namespace Sys2Proof

open Sys2Proof.Machine

/-- The one-time-programmable trust state is a legal one: the life-cycle state is one of four (16 Table 16.8), the device holds an
identity key exactly while Provisioned or Deployed (16 R516, R521), its key is
destroyed exactly in Returned (16 R521), and the security version fits its 64-bit thermometer code (16 R510). -/
def trustOk (o : Otp) : Bool :=
  decide (o.lc ≤ 3) && (o.idKey.isSome == (o.lc == 1 || o.lc == 2)) && (o.destroyed == (o.lc == 3)) && decide (o.secver ≤ 64)

/-- What every reachable state is held to: a legal trust state, and memory in its canonical form. -/
def Inv (s : State) : Prop := trustOk s.otp = true ∧ Memory.wf s = true

/-- The life-cycle state only moves forward: Blank, Provisioned, Deployed, Returned (16 Tables 16.8 and 16.9). -/
def lcForward (a b : Nat) : Prop := a ≤ b

/-- What no command undoes: a legal trust state and canonical memory stay so, the security version never falls, the life cycle
never goes back, and the queue is the caller's. -/
structure Keeps (s t : State) : Prop where
  trust : trustOk s.otp = true → trustOk t.otp = true
  secver : s.otp.secver ≤ t.otp.secver
  life : lcForward s.otp.lc t.otp.lc
  mem : Memory.wf s = true → Memory.wf t = true
  queue : t.pending = s.pending

/-! ### Frames -/

/-- Every register but those named reads as before. -/
def regsBut (l : List Nat) (s t : State) : Prop := ∀ a, a ∉ l → getR t a = getR s a

/-- Every byte of memory reads as before. -/
def sameBytes (s t : State) : Prop := ∀ a, getByte t a = getByte s a

/-- What neither a register nor a byte of memory holds is as before, but for the fields of the units named. -/
structure SameUnits (s t : State) : Prop where
  tiles : t.tiles = s.tiles
  ctxs : t.ctxs = s.ctxs
  plan : t.plan = s.plan
  carriers : t.carriers = s.carriers
  peer : t.peer = s.peer
  otp : t.otp = s.otp

/-! ### A tile's program -/

/-- Tile t issues the program of context c, the next instruction's words lie in the context's range, hold no reserved opcode and are not in
error, and nothing of the tile is queued (07 R241, R242; 06 R208; 09 Table 09.1). VLEN is one that SETVL can leave (05 Table 05.5). -/
structure TileReady (s : State) (t : TileId) (c len : Nat) : Prop where
  issues : issuing s t.val = some c
  fetch : fetchOk s c (getT s t.val).pc len = true
  devQ : (getT s t.val).dev.queue = []
  enlQ : (getT s t.val).enl.queue = []
  pass : (getT s t.val).enl.pass = none
  fix : (getT s t.val).fix = none
  adv : (getT s t.val).advQ = []
  sb : (getT s t.val).sb = []
  vlen : (getT s t.val).dev.vlen ≤ 256
  opcode : opReserved (fetchedOp (getT s t.val)) = false
  imemSingle : s.ecc.imemSingle = []
  imemBad : s.ecc.imemBad = []

/-- Nothing holds an access of tile t's scratchpad: every sleep group is awake, no page waits for a scrub, no word is in error, and no
Negative waits for its copy. -/
structure SpFree (s : State) (t : TileId) : Prop where
  asleep : (getT s t.val).asleep = []
  waking : (getT s t.val).wakingG = []
  clean : s.foreignDirty = []
  single : s.ecc.single = []
  bad : s.ecc.bad = []
  negs : ∀ kv ∈ s.ctxs, kv.2.negs = []

/-- What an instruction of tile t leaves alone: the other tiles, the contexts, the plan, and every register but those named. -/
structure TileFrame (s u : State) (t : TileId) (regs : List Nat) : Prop where
  others : ∀ x, x ≠ t.val → getT u x = getT s x
  run : (getT u t.val).run = (getT s t.val).run
  imem : (getT u t.val).imem = (getT s t.val).imem
  power : (getT u t.val).power = (getT s t.val).power
  regs : regsBut regs s u
  ctxs : u.ctxs = s.ctxs
  plan : u.plan = s.plan
  carriers : u.carriers = s.carriers
  peer : u.peer = s.peer
  otp : u.otp = s.otp

/-- An instruction has passed in tile t's Developer: the program counter passes it, nothing is left queued, and nothing outside the
Developer has changed but the counters and the sticky flags. -/
structure DevPass (s u : State) (t : TileId) : Prop where
  pc : (getT u t.val).pc = (getT s t.val).pc + 1
  queue : (getT u t.val).dev.queue = []
  enl : (getT u t.val).enl = (getT s t.val).enl
  fix : (getT u t.val).fix = none
  dma : (getT u t.val).dma = (getT s t.val).dma
  p : (getT u t.val).p = (getT s t.val).p
  frame : TileFrame s u t [Reg.TILE_SEQ_ISSUE t.val, Reg.TILE_DEV_INSTR t.val, Reg.TILE_DEV_FLAGS t.val]

/-- It has added its flags to the sticky ones (05 Table 05.10). -/
def Flagged (s u : State) (t : TileId) (flags : Nat) : Prop :=
  getR u (Reg.TILE_DEV_FLAGS t.val) = getR s (Reg.TILE_DEV_FLAGS t.val) ||| BitVec.ofNat 32 flags

/-- The usual end of a Developer instruction: it passed, added its flags, and changed no byte of memory. -/
structure DevDone (s u : State) (t : TileId) (flags : Nat) : Prop where
  pass : DevPass s u t
  flags : Flagged s u t flags
  mem : sameBytes s u

/-- The flags of the active elements below VLEN. -/
def flagsOf (d : Developer) (vs3 : Nat) (f : Nat → Nat) : Nat :=
  (List.range d.vlen).foldl (fun m i => if active d vs3 i then m ||| f i else m) 0

/-- An element of a destination: the result where it is active, 0 where an inactive one is zeroed, else as it was (05 R163). -/
def elemAfter {α : Type} (d : Developer) (vs3 i : Nat) (new zero old : α) : α :=
  if i < d.vlen then (if active d vs3 i then new else if zeroing vs3 then zero else old) else old

/-- The Developer's registers but those named are as they were: V by number, S, M, and A by number; VLEN and the circular buffers too. -/
structure Kept (a b : Developer) (vs ss ms accs : List Nat) : Prop where
  v : ∀ n i, n ∉ vs → i < 256 → vGet b n i = vGet a n i
  sc : ∀ n, n ∉ ss → sGet b n = sGet a n
  m : ∀ n, n ∉ ms → mGet b n = mGet a n
  acc : ∀ n i, n ∉ accs → i < 256 → aGet b n i = aGet a n i
  vlen : b.vlen = a.vlen
  cbb : b.cbb = a.cbb
  cbl : b.cbl = a.cbl

/-- Only V[vd] has changed, element by element as f says. -/
structure WroteV (s u : State) (t : TileId) (vd vs3 : Nat) (f : Nat → Word × Nat) : Prop where
  done : DevDone s u t (flagsOf (getD s t.val) vs3 (fun i => (f i).2))
  elems : ∀ i, i < 256 → vGet (getD u t.val) vd i = elemAfter (getD s t.val) vs3 i (f i).1 0#32 (vGet (getD s t.val) vd i)
  kept : Kept (getD s t.val) (getD u t.val) [vd] [] [] []

/-- Only the pair V[vd], V[vd + 1] has changed, element by element as f says. -/
structure WrotePair (s u : State) (t : TileId) (vd vs3 : Nat) (f : Nat → Word × Word × Nat) : Prop where
  done : DevDone s u t (flagsOf (getD s t.val) vs3 (fun i => (f i).2.2))
  re : ∀ i, i < 256 → vGet (getD u t.val) vd i = elemAfter (getD s t.val) vs3 i (f i).1 0#32 (vGet (getD s t.val) vd i)
  im : ∀ i, i < 256 → vGet (getD u t.val) (vd + 1) i = elemAfter (getD s t.val) vs3 i (f i).2.1 0#32 (vGet (getD s t.val) (vd + 1) i)
  kept : Kept (getD s t.val) (getD u t.val) [vd, vd + 1] [] [] []

/-- Only the bits of M[vd] have changed, bit by bit as f says. -/
structure WroteM (s u : State) (t : TileId) (vd : Nat) (f : Nat → Bool → Bool) : Prop where
  done : DevDone s u t 0
  bits : ∀ i, i < 256 → bitOf (mGet (getD u t.val) vd) i = f i (bitOf (mGet (getD s t.val) vd) i)
  kept : Kept (getD s t.val) (getD u t.val) [] [] [vd] []

/-- Only the accumulators p and p + 1 have changed, element by element as f says. -/
structure WroteA (s u : State) (t : TileId) (p vs3 : Nat) (f : Nat → Int × Int × Nat) : Prop where
  done : DevDone s u t (flagsOf (getD s t.val) vs3 (fun i => (f i).2.2))
  re : ∀ i, i < 256 → aGet (getD u t.val) p i = elemAfter (getD s t.val) vs3 i (f i).1 0 (aGet (getD s t.val) p i)
  im : ∀ i, i < 256 → aGet (getD u t.val) (p + 1) i = elemAfter (getD s t.val) vs3 i (f i).2.1 0 (aGet (getD s t.val) (p + 1) i)
  kept : Kept (getD s t.val) (getD u t.val) [] [] [] [p, p + 1]

/-- Only S[k] has changed, to x. -/
structure WroteS (s u : State) (t : TileId) (k : Nat) (x : Word) (flags : Nat) : Prop where
  done : DevDone s u t flags
  val : sGet (getD u t.val) k = x
  kept : Kept (getD s t.val) (getD u t.val) [] [k] [] []

/-- An instruction of context c has faulted it with a cause: the context is held, or waits for its scrub (08 R292). -/
def Faulted (u : State) (c cause : Nat) : Prop :=
  ((getC u c).st = .held ∨ (getC u c).st = .scrubbing) ∧ (getC u c).cause = cause ∧ (getC u c).inst = none

/-- A command of a ready tile runs with the given effect wherever its operands are legal. -/
def Runs (mk : TileId → Word64 → Instr) (legal : DevWord → Prop) (effect : State → State → TileId → DevWord → Prop) : Prop :=
  ∀ (t : TileId) (w : Word64) (c : Nat) (s : State), TileReady s t c 1 → legal (DevWord.of w) →
    ∃ u, exec (mk t w) s = .next u ∧ effect s u t (DevWord.of w)

/-- A command of a ready tile faults its context, cause 1, where its operands are not legal (05 R175, 09 Table 09.2). -/
def Faults (mk : TileId → Word64 → Instr) (bad : DevWord → Prop) : Prop :=
  ∀ (t : TileId) (w : Word64) (c : Nat) (s : State), TileReady s t c 1 → bad (DevWord.of w) →
    ∃ u, exec (mk t w) s = .next u ∧ Faulted u c 1

/-- Two sources, the second broadcast from S when it names one; one V destination. -/
def RunsBin (mk : TileId → Word64 → Instr) (f : Word → Word → Word × Nat) : Prop :=
  Runs mk (fun w => isV w.vd = true ∧ isV w.vs1 = true) (fun s u t w =>
    WroteV s u t w.vd w.vs3 (fun i => f (srcGet (getD s t.val) w.vs1 i) (srcGet (getD s t.val) w.vs2 i)))

/-- One source, one V destination. -/
def RunsUn (mk : TileId → Word64 → Instr) (f : Word → Word × Nat) : Prop :=
  Runs mk (fun w => isV w.vd = true ∧ isV w.vs1 = true) (fun s u t w =>
    WroteV s u t w.vd w.vs3 (fun i => f (vGet (getD s t.val) w.vs1 i)))

/-- A comparison into a mask: inactive bits stand, or clear where they are zeroed. -/
def RunsCmp (mk : TileId → Word64 → Instr) (lim : Nat) (f : Nat → Word → Word → Bool) : Prop :=
  Runs mk (fun w => isM w.vd = true ∧ isV w.vs1 = true ∧ w.i 2 0 < lim) (fun s u t w =>
    WroteM s u t w.vd (fun i old => elemAfter (getD s t.val) w.vs3 i
      (f (w.i 2 0) (srcGet (getD s t.val) w.vs1 i) (srcGet (getD s t.val) w.vs2 i)) false old))

/-- Mask logic on the bits below VLEN. -/
def RunsMask (mk : TileId → Word64 → Instr) (two : Bool) (f : Bool → Bool → Bool) : Prop :=
  Runs mk (fun w => isM w.vd = true ∧ isM w.vs1 = true ∧ (two = true → isM w.vs2 = true)) (fun s u t w =>
    WroteM s u t w.vd (fun i old => if i < (getD s t.val).vlen then
      f (bitOf (mGet (getD s t.val) w.vs1) i) (bitOf (mGet (getD s t.val) (w.vs2 % 8)) i) else old))

/-- CF32 pairs. -/
def RunsPair (mk : TileId → Word64 → Instr) (f : Word → Word → Word → Word → Word × Word × Nat) : Prop :=
  Runs mk (fun w => isPair w.vd = true ∧ isPair w.vs1 = true ∧ isPair w.vs2 = true) (fun s u t w =>
    WrotePair s u t w.vd w.vs3 (fun i => f (vGet (getD s t.val) w.vs1 i) (vGet (getD s t.val) (w.vs1 + 1) i)
      (vGet (getD s t.val) w.vs2 i) (vGet (getD s t.val) (w.vs2 + 1) i)))

/-- A permutation: element i comes from position src i, and a position outside 0 to VLEN − 1 gives 0. -/
def RunsPerm (mk : TileId → Word64 → Instr) (legal : DevWord → Prop) (oor : Nat) (src : Developer → DevWord → Nat → Int) : Prop :=
  Runs mk (fun w => isV w.vd = true ∧ isV w.vs1 = true ∧ legal w) (fun s u t w =>
    WroteV s u t w.vd w.vs3 (fun i =>
      if 0 ≤ src (getD s t.val) w i ∧ src (getD s t.val) w i < ((getD s t.val).vlen : Int) then
        (vGet (getD s t.val) w.vs1 (src (getD s t.val) w i).toNat, 0) else (0#32, oor)))

/-- A sequencer instruction of tile t passes to a program counter, changing of the units nothing but what is said beside it. -/
structure SeqDone (s u : State) (t : TileId) (pc : Nat) : Prop where
  pc : (getT u t.val).pc = pc
  seq : (getT u t.val).seq = .issuing
  dev : (getT u t.val).dev = (getT s t.val).dev
  enl : (getT u t.val).enl = (getT s t.val).enl
  fix : (getT u t.val).fix = none
  others : ∀ x, x ≠ t.val → getT u x = getT s x
  plan : u.plan = s.plan
  mem : sameBytes s u

/-- An instruction that only waits has not issued, and the tile notes what it waits at and counts the attempt. -/
structure SeqWaits (s u : State) (t : TileId) (op : Nat) : Prop where
  pc : (getT u t.val).pc = (getT s t.val).pc
  seq : (getT u t.val).seq = if op = 0xCE then .ending else .waiting
  op : (getT u t.val).waitOp = op
  stall : getR u (Reg.TILE_SEQ_STALL t.val) = satAdd (getR s (Reg.TILE_SEQ_STALL t.val)) 1
  others : ∀ x, x ≠ t.val → getT u x = getT s x
  mem : sameBytes s u

end Sys2Proof
end

