-- ==== Sys2Proof/WellFormed.lean ====
section
/-!
DEFINITION. WellFormed.lean: which commands something outside the device can send: each operand within the range that its field, its
message or its pin has. A command outside these ranges names nothing that happens to the device, and nothing is claimed of it.
-/
namespace Sys2Proof

open Sys2Proof.Machine

/-- Every item of a list below a bound. -/
def allBelow (b : Nat) (l : List Nat) : Bool := l.all (fun x => decide (x < b))

/-- Whether a number lies in a range, ends included. -/
def inRange (lo hi x : Nat) : Bool := decide (lo ≤ x) && decide (x ≤ hi)

/-! ### Board, flash, host port -/

/-- A flash: bytes within the two devices, in canonical form. -/
def Flash.wf (f : Flash) : Bool :=
  mapWf 0xFF#8 f.bytes && f.bytes.all (fun kv => decide (kv.1 < f.size0 + f.size1)) && decide (f.size0 + f.size1 ≤ 2 ^ 29)

def Board.wf (b : Board) : Bool :=
  decide (b.xoDly < 8) && decide (b.bootMode < 4) && ((b.flash.map Flash.wf).getD true)

/-- A read as the host drives it; `bits` are those of the address phase. -/
def HpRead.wf (bits : Nat) (f : HpRead) : Bool := decide (f.inverse < 256) && decide (f.addr < 2 ^ bits) && decide (f.length < 2 ^ 16)

/-- A write as the host drives it: as many words as its length phase says. -/
def HpWrite.wf (bits : Nat) (f : HpWrite) : Bool :=
  decide (f.inverse < 256) && decide (f.addr < 2 ^ bits) && decide (f.length < 2 ^ 16) && decide (f.crc < 256) &&
  (decide (1023 < f.length) || f.cutHost || decide (f.data.length = f.length + 1))

/-- A streaming command: 1,024 words. -/
def HpWrite.wfChunk (f : HpWrite) : Bool :=
  decide (f.inverse < 256) && decide (f.addr < 2 ^ 32) && decide (f.crc < 256) && (f.cutHost || decide (f.data.length = 1024))

/-! ### Fronthaul and northbound messages -/

def NbHead.wf (h : NbHead) : Bool :=
  decide (h.phyId < 2 ^ 16) && decide (h.sfn < 2 ^ 16) && decide (h.slot < 2 ^ 16) && decide (h.srcIp < 2 ^ 128) && decide (h.srcPort < 2 ^ 16)

/-- A PUSCH PDU: its allocation record is 72 bytes (02 Table 02.5a). -/
def PuschPdu.wf (p : PuschPdu) : Bool :=
  decide (p.alloc.length = 72) && decide (p.harq < 2 ^ 8) && decide (p.rv < 4) && decide (p.uci.length ≤ 3) && decide (p.scrId < 2 ^ 16) &&
  decide (p.betas.length = p.uci.length) && allBelow 19 p.betas && decide (p.alpha < 4) && decide (p.rate < 2 ^ 16)

def PucchPdu.wf (p : PucchPdu) : Bool :=
  decide (p.rnti < 2 ^ 16) && decide (p.format < 5) && decide (p.prbStart + p.prbs ≤ 275) && decide (p.symStart + p.syms ≤ 14) &&
  decide (p.hop.getD 0 + p.prbs ≤ 275) && decide (p.mu < 5)

def SrsPdu.wf (p : SrsPdu) : Bool := decide (p.rnti < 2 ^ 16) && decide (p.prbStart + p.prbs ≤ 275) && decide (p.symStart + p.syms ≤ 14)

def PrachPdu.wf (p : PrachPdu) : Bool := decide (p.prbStart + p.prbs ≤ 275) && decide (p.symStart + p.syms ≤ 14)

/-- The order of the PDUs names each of them once. -/
def UlTti.wf (r : UlTti) : Bool :=
  r.hd.wf && r.pusch.all PuschPdu.wf && r.pucch.all PucchPdu.wf && r.srs.all SrsPdu.wf && r.prach.all PrachPdu.wf &&
  decide (r.order.count 0 = r.pusch.length ∧ r.order.count 1 = r.pucch.length ∧ r.order.count 2 = r.srs.length ∧ r.order.count 3 = r.prach.length) &&
  allBelow 4 r.order

def DlAlloc.wf (a : DlAlloc) : Bool := decide (a.prbs < 2 ^ 275) && decide (a.syms < 2 ^ 14) && decide (a.res < 2 ^ 12)

/-- A PDSCH PDU: one or two codewords, each with its fields. -/
def PdschPdu.wf (p : PdschPdu) : Bool :=
  decide (p.rnti < 2 ^ 16) && inRange 1 2 p.codewords && p.alloc.wf && decide (p.tbBytes.length = p.codewords) &&
  decide (p.rv.length = p.codewords) && allBelow 4 p.rv && decide (p.qm.length = p.codewords) && decide (p.codedBits.length = p.codewords)

def CtlPdu.wf (p : CtlPdu) : Bool := p.alloc.wf

def DlTti.wf (r : DlTti) : Bool := r.hd.wf && r.pdsch.all PdschPdu.wf && r.pdcch.all CtlPdu.wf && r.ssb.all CtlPdu.wf && r.csirs.all CtlPdu.wf

def UlDci.wf (r : UlDci) : Bool := r.hd.wf && r.pdcch.all CtlPdu.wf

def TxData.wf (r : TxData) : Bool := r.hd.wf && r.pdus.all (fun p => decide (p.cw < 2))

/-- A PRB: 12 samples and a BFP exponent of 4 bits. -/
def PrbIq.wf (p : PrbIq) : Bool :=
  decide (p.exp < 16) && decide (p.iq.length = 12) && p.iq.all (fun z => decide (-32768 ≤ z.1 ∧ z.1 ≤ 32767 ∧ -32768 ≤ z.2 ∧ z.2 ≤ 32767))

def USection.wf (x : USection) : Bool :=
  decide (x.rb < 2) && decide (x.symInc < 2) && decide (x.startPrb < 1024) && decide (x.numPrb < 256) && x.prbs.all PrbIq.wf

/-- The fields of an eCPRI U-plane frame in their bits (12 Table 12.3). -/
def UPlaneMsg.wf (f : UPlaneMsg) : Bool :=
  decide (f.vlan < 4096) && decide (f.revision < 16) && decide (f.msgType < 256) && decide (f.pcid < 2 ^ 16) && decide (f.seqId < 256) &&
  decide (f.subSeq < 128) && decide (f.dir < 2) && decide (f.version < 8) && decide (f.filter < 16) && decide (f.frame < 256) &&
  decide (f.subframe < 16) && decide (f.slot < 64) && decide (f.symbol < 64) && f.sections.all USection.wf

def OwdMsg.wf (f : OwdMsg) : Bool :=
  decide (f.src < 2 ^ 48) && decide (f.vlan < 4096) && decide (f.revision < 16) && decide (f.action < 256) && decide (f.measId < 256)

def EthFrame.wf (f : EthFrame) : Bool :=
  decide (f.dst < 2 ^ 48) && f.tags.all (fun t => decide (t.1 < 4096 ∧ t.2 < 8))

def PtpTx.wf (r : PtpTx) : Bool := decide (r.msgType < 16) && decide (r.seqId < 2 ^ 16) && decide (r.pcp < 8)

/-! ### Peer Links -/

/-- The fields of a frame's header in their bits (14 Table 14.1). -/
def PeerFrame.wf (f : PeerFrame) : Bool :=
  decide (f.kind < 256) && decide (f.vc < 4) && decide (f.hops < 8) && decide (f.epoch < 256) && decide (f.src < 64) && decide (f.dst < 64) &&
  decide (f.seq < 2 ^ 12) && decide (f.ack < 2 ^ 12) && decide (f.stream < 1024)

/-! ### Commands -/

/-- Whether a command's operands lie in their ranges. -/
def Instr.wf (c : Instr) : Bool :=
  match c with
  | .powerOnReset b => b.wf
  | .systemReset b _ => b.wf
  | .regRd f => f.wf 32
  | .regWr f => f.wf 32
  | .memRd f => f.wf 48
  | .memWr f => f.wf 48
  | .recovWr f => f.wfChunk
  | .hpStat f => decide (f.inverse < 256)
  | .registerWrite addr _ => decide (addr % 4 = 0) && decide (addr < 2 ^ 32)
  | .deviceFatalError e => decide (e.addr < 2 ^ 48)
  | .hubDomainOn d => inRange 74 91 d
  | .thermalEval temps => decide (temps.length = 40) && temps.all (fun t => decide (-32768 ≤ t ∧ t ≤ 32767))
  | .ethFrameRx f => f.wf
  | .ecpriOwdRequest f => f.wf
  | .owdResponseRx f => f.wf
  | .uplaneRx f => f.wf
  | .ulRxWindowEnd _ _ l => decide (l < 14)
  | .dlCplaneSend _ _ k => decide (k < 14)
  | .ulCplaneSend _ _ k => decide (k < 14)
  | .dlMarkPoll _ _ k => decide (k < 14)
  | .dlUplaneDeadline _ _ k => decide (k < 14)
  | .ulTtiRequest r => r.wf
  | .dlTtiRequest r => r.wf
  | .ulDciRequest r => r.wf
  | .txDataRequest r => r.wf
  | .harqExpire h => decide (h < 131072)
  | .contextFault _ _ cause => inRange 1 11 cause
  | .foreignDirtyScrub page => decide (page < 2 ^ 32)
  | .barrierRelease _ b => decide (b < 256)
  | .peerFrameRx _ f => f.wf
  | .groupBarrierRelease b => inRange 224 255 b
  | .peerBurstSend st => decide (st < 1024)
  | .multicastDetach st => decide (st < 1024)
  | .peerTimeExchange m => decide (m < 64)
  | .ptpEventMessageTx r => r.wf
  | .refJudgement .. | .pllLock .. | .memoryWipeComplete .. | .readyTimeout .. | .bootArm .. | .warmReload .. | .recoveryStart ..
  | .recoveryTimeout .. | .bootRstReq .. | .watchdogKick .. | .watchdogExpiry .. | .secverCommit .. | .proofRequest .. | .proofDone ..
  | .lcTransition .. | .fieldRepairWrite .. | .hostReadComplete .. | .hostWritePerform .. | .flbRead .. | .flbProgram .. | .flbEraseSector ..
  | .flbEraseBlock .. | .flbReadSfdp .. | .flbDone .. | .flbTimeout .. | .safeEvtPop .. | .wakeTimerArm .. | .wakeTimerDisarm ..
  | .wakeTimerFire .. | .errLogPop .. | .clkGateWrite .. | .refLost .. | .pwrHubEnWrite .. | .capEval .. | .ilimEval .. | .coolantStop ..
  | .coolantTempWrite .. | .brakeFall .. | .brakeRise .. | .brakeHoldEnd .. | .droopDetect .. | .droopEnd .. | .opChange .. | .avsVdone ..
  | .avsTimeout .. | .tileSleep .. | .tileWake .. | .tileAwake .. | .dieDormancyRequest .. | .dieDormancyEnter .. | .dieWakeRequest ..
  | .dieAutoWake .. | .dieReady .. | .quiesceRequest .. | .quiesceStop .. | .timeSet .. | .timeAdj .. | .timeSwitchRequest .. | .servoSample ..
  | .servoLossTimeout .. | .holdLimitExpired .. | .synceClockLost .. | .ppsInEdge .. | .ppsInLost .. | .ppsOutEdge .. | .deviceFrameStart ..
  | .tpinArm .. | .tpinDisarm .. | .tpinFire .. | .tpinPulseEnd .. | .tpinCaptureEdge .. | .tpinCapPop .. | .ethModeWrite .. | .ethLinkUp ..
  | .ethLinkDown .. | .owdStart .. | .owdTimeout .. | .nfSnapshot .. | .prachCplaneSend .. | .prachSearchDone .. | .ulTtiCutoff ..
  | .nbSegTimeout .. | .dlCutoff .. | .ldpcEncode .. | .ldpcCombine .. | .ldpcDecodeStart .. | .ldpcCbDecoded .. | .plcDecodeDone ..
  | .completionDeadline .. | .ctxRelease .. | .harqFlush .. | .carrierSlotBoundary .. | .carrierFrameBoundary .. | .nbCcRun .. | .nbCcLoad ..
  | .exposureCycleStart .. | .exposureWakeLead .. | .exposureDue .. | .exposureStart .. | .exposureDeadline .. | .shutterStop ..
  | .schShutterStop .. | .schShutterResume .. | .negativeSaved .. | .negativeInHbm .. | .resume .. | .holdExpired .. | .schRearm ..
  | .ringWatchdog .. | .enlWaveRelease .. | .enlLoads .. | .enlLoadsComplete .. | .enlSwap .. | .enlPass .. | .enlWake .. | .enlIdle ..
  | .enlMode .. | .enlFence .. | .enlLevelStep .. | .enlRampdownStart .. | .enlEntryFinished .. | .fixerCommand .. | .fixerComplete .. | .devNop ..
  | .setvl .. | .sli .. | .sadd .. | .vext .. | .devFence .. | .getf .. | .clrf .. | .setcb .. | .fadd .. | .fsub .. | .fmul .. | .fma ..
  | .fmin .. | .fmax .. | .fabs .. | .fneg .. | .fcmp .. | .iadd .. | .isub .. | .imul .. | .imin .. | .imax .. | .vand .. | .vor .. | .vxor ..
  | .shl .. | .shr .. | .sra .. | .icmp .. | .sel .. | .mand .. | .mor .. | .mxor .. | .mnot .. | .mpop .. | .cvt .. | .vld .. | .vst ..
  | .fbqRd .. | .fbqRel .. | .vperm .. | .vslideup .. | .vslidedn .. | .vrev .. | .scan .. | .red .. | .smax .. | .exp2 .. | .log2 .. | .rcp ..
  | .rsqrt .. | .cadd .. | .cmul .. | .cmulc .. | .cmag2 .. | .dspCmac .. | .dspAclr .. | .dspMovq .. | .dspLda .. | .dspCmulq .. | .dspCaddq ..
  | .dspCsubq .. | .dspLdc .. | .dspStc .. | .seqNop .. | .seqLi .. | .seqLih .. | .seqAdd .. | .seqBnz .. | .seqJmp .. | .seqPtos ..
  | .ringWait .. | .ringAdv .. | .seqStrip .. | .seqSret .. | .seqBar .. | .semAcq .. | .semRel .. | .seqEnd .. | .dmaGo .. | .dmaDescFetch ..
  | .dmaDescStart .. | .dmaDescComplete .. | .remoteRingAdvance .. | .tileRingCfgWrite .. | .tileStripBaseWrite .. | .tileSpSleepWrite ..
  | .spGroupAwake .. | .scrubPatrol .. | .scrubWriteback .. | .hbmPatrol .. | .wcInvalidate .. | .wcInvComplete .. | .peerAckTimeout ..
  | .peerRetrain .. | .peerLinkTrained .. | .rollCallStart .. | .rollPeriodExpiry .. | .rollCallTimeout .. | .managerLost .. | .peerCollPop ..
  | .hostPortServed .. | .readyReached .. | .reloadVerified .. | .p5LoadChecked .. | .removeOkRaised .. | .synceClockRestored .. => true

end Sys2Proof
end

