-- ==== Sys2Proof/Certificates/Slice0/Obligations.lean ====
section
/-!
DEFINITION. Obligations.lean: the statements about this block, each from the rules that its docstring names. A statement of what a
command does concludes that `exec` answers a next state, under hypotheses on the state and the operands alone.
-/

open Sys2Proof Sys2Proof.Machine

/-! ### The whole machine -/

/-- A step runs the command at the front of the queue on the state whose queue is the rest (the model's queue: log 1, log 2). -/
def Obligations.StepRunsTheFrontCommand : Prop :=
  ∀ (c : Instr) (rest : List Instr) (s : State), step { s with pending := c :: rest } = exec c { s with pending := rest }

/-- On an empty queue one tick of 1.25 ns passes (the model's choice, log 1): the free-running time counts one, SAFE_UPTIME counts one
µs in 800 ticks (17 R544), and device time stands where its domain does not run (13 R406). -/
def Obligations.EmptyQueueTicks : Prop :=
  ∀ s : State, s.pending = [] → ∃ t, step s = .next t ∧ t.now = s.now + 1 ∧ t.safe.upTicks = s.safe.upTicks + 1 ∧ t.pending = [] ∧
    (s.time.running = false → t.time.dev = s.time.dev)

/-- The machine right after reset: its trust state is Blank and legal, memory lists nothing and is canonical, device time is 0 and
invalid, no plan is loaded, and the cause of the reset is power-on (16 R499, R504, R519; 13 R406).
The model's own choices under these clauses: log 6. -/
def Obligations.ResetIsLegal : Prop :=
  Inv State.reset ∧ State.reset.otp.lc = 0 ∧ State.reset.mem = [] ∧ State.reset.time.dev = 0 ∧ getB State.reset Reg.TIME_STATUS 31 = false ∧
  State.reset.plan = none ∧ getR State.reset Reg.BOOT_RST_CAUSE = 1#32 ∧ State.reset.pending = []

/-- Every step keeps the invariant: a legal trust state (an identity key exactly while Provisioned or Deployed, keys destroyed exactly
in Returned, a security version within its 64-bit code) and memory in its canonical form (16 R510, R516, R519, R521).
The model's own choices under these clauses: log 28. -/
def Obligations.StepKeepsTheInvariant : Prop :=
  ∀ s t : State, Inv s → step s = .next t → Inv t

/-- What OTP holds only moves forward, whatever the command: the security version never falls (16 R510), the life cycle never goes
back (16 Table 16.9), and the identity key changes only with the life-cycle state (16 R516, R521). -/
def Obligations.TrustOnlyMovesForward : Prop :=
  ∀ s t : State, step s = .next t → s.otp.secver ≤ t.otp.secver ∧ s.otp.lc ≤ t.otp.lc ∧
    (t.otp.lc = s.otp.lc → t.otp.idKey = s.otp.idKey) ∧ t.otp.devId = s.otp.devId

/-- No command touches the queue of commands that wait (the model's queue, log 2). -/
def Obligations.CommandsLeaveTheQueue : Prop :=
  ∀ (c : Instr) (s t : State), exec c s = .next t → t.pending = s.pending

/-- Every command that something outside the device can send completes, in every state. A thermal evaluation that does not give one reading for each of the 40 sensors is no command of the block, and the step stops
(15 R491; WellFormed.lean).
The model's own choices under these clauses: log 7. -/
def Obligations.CommandsCompleteOrNameTheirFault : Prop :=
  (∀ (c : Instr) (s : State), c.wf = true → ∃ t : State, exec c s = .next t) ∧
(∀ (l : List Int) (s : State), l.length ≠ 40 → exec (.thermalEval l) s = .fault .illFormed)

/-! ### Resets and start-up (16) -/

/-- The two resets: device time is 0 and invalid after either, the plan is gone, OTP keeps its life cycle and its security version;
BOOT_RST_CAUSE records the cause and BOOT_MODE is sampled. A power-on reset clears the trip latch; a system reset is ignored while
it is set (16 R498, R499, R500). A write of 0xC0DE7140 to BOOT_RST_REQ and an expired watchdog reset the device, each under its own cause; another value, an
unexpired count and the trip latch do not. A kick restarts the count (16 R498, R499, R501).
The model's own choices under these clauses: logs 23 and 24. -/
def Obligations.ResetsRestartTheDevice : Prop :=
  ((∀ (b : Board) (s : State), ∃ t : State, exec (.powerOnReset b) s = .next t ∧ t.time.dev = 0 ∧ getB t Reg.TIME_STATUS 31 = false ∧
    t.safe.trip = false ∧ t.plan = none ∧ getR t Reg.BOOT_RST_CAUSE = 1#32 ∧ getF t Reg.BOOT_STATUS 27 26 = b.bootMode % 4 ∧
    t.otp.lc = s.otp.lc ∧ t.otp.secver = s.otp.secver) ∧
  (∀ (b : Board) (p : Nat) (s : State), 100 ≤ p → s.safe.trip = true → exec (.systemReset b p) s = .next s) ∧
  (∀ (b : Board) (p : Nat) (s : State), 100 ≤ p → s.safe.trip = false → ∃ t : State, exec (.systemReset b p) s = .next t ∧ t.time.dev = 0 ∧
    getB t Reg.TIME_STATUS 31 = false ∧ t.plan = none ∧ getR t Reg.BOOT_RST_CAUSE = 2#32 ∧ t.safe.upTicks = s.safe.upTicks ∧
    getF t Reg.BOOT_STATUS 27 26 = b.bootMode % 4 ∧ t.otp.lc = s.otp.lc ∧ t.otp.secver = s.otp.secver)) ∧
((∀ s : State, s.safe.trip = false → ∃ t : State, exec (.bootRstReq 0xC0DE7140#32) s = .next t ∧ getR t Reg.BOOT_RST_CAUSE = 4#32 ∧
    t.time.dev = 0 ∧ t.plan = none ∧ t.safe.upTicks = s.safe.upTicks) ∧
  (∀ (v : Word) (s : State), v ≠ 0xC0DE7140#32 ∨ s.safe.trip = true → exec (.bootRstReq v) s = .next s) ∧
  (∀ s : State, wdogEn s = true → s.boot.stage ≠ .stopped → s.safe.trip = false →
    s.boot.wdogAt + (getF s Reg.BOOT_WDOG_CFG 5 0 + 1) * 800000000 ≤ s.now →
    ∃ t : State, exec .watchdogExpiry s = .next t ∧ getR t Reg.BOOT_RST_CAUSE = 8#32 ∧ t.time.dev = 0 ∧ t.plan = none) ∧
  (∀ s : State, wdogEn s = false ∨ s.now < s.boot.wdogAt + (getF s Reg.BOOT_WDOG_CFG 5 0 + 1) * 800000000 →
    exec .watchdogExpiry s = .next s) ∧
  (∀ s : State, wdogEn s = true → exec (.watchdogKick 0x5A5A#32) s = .next { s with boot := { s.boot with wdogAt := s.now } }) ∧
  (∀ (v : Word) (s : State), v ≠ 0x5A5A#32 ∨ wdogEn s = false → exec (.watchdogKick v) s = .next s) ∧
  (∀ (b : Board) (s : State), ∃ t : State, exec (.powerOnReset b) s = .next t ∧ wdogEn t = false) ∧
  (∀ (b : Board) (p : Nat) (s : State), 100 ≤ p → s.safe.trip = false → ∃ t : State, exec (.systemReset b p) s = .next t ∧ wdogEn t = false) ∧
  (∀ (v : Word) (s : State), s.otp.lc = 2 ∨ s.otp.lc = 3 → wdogEn s = true → bitOf v 31 = false →
    ∃ t : State, exec (.registerWrite Reg.BOOT_WDOG_CFG v) s = .next t ∧ wdogEn t = true ∧ getB t Reg.ERR_HOST_STATUS 0 = true ∧
      t.boot.wdogAt = s.boot.wdogAt))

/-- Start-up from the strap delay to the wipe: the reference is judged twice at most, the PLLs lock and open SEC and BOOT, the
host port serves from 5 ms, and the wipe leaves every memory zero; BOOT_MODE 0b01 and 0b11 then hold with codes 13 and 14
(15 R464, R466; 16 R500, R502, R504). The firmware's 10 s, the end of the load in Ready or Holding, and the arm that BOOT_MODE 0b10 waits for (16 R500, R502, R503,
R509).
The model's own choices under these clauses: logs 3 and 38. -/
def Obligations.BootReachesReadyOrHolding : Prop :=
  ((∀ (b : Bool) (n : Nat) (s : State), s.boot.stage = .judging → s.boot.relAt + (s.boot.tries + 1) * judgeTime s * 98 / 100 ≤ s.now →
    10240 * 97 ≤ 100 * n → 100 * n ≤ 10240 * 103 →
    ∃ t : State, exec (.refJudgement b n) s = .next t ∧ t.boot.stage = .locking ∧ t.boot.refOk = true ∧ getB t Reg.CLK_STATUS 29 = b) ∧
  (∀ (b : Bool) (n : Nat) (s : State), s.boot.stage = .judging → s.boot.relAt + (s.boot.tries + 1) * judgeTime s * 98 / 100 ≤ s.now →
    (100 * n < 10240 * 97 ∨ 10240 * 103 < 100 * n) →
    ∃ t : State, exec (.refJudgement b n) s = .next t ∧
      (s.boot.tries = 0 → t.boot.stage = .judging ∧ t.boot.tries = 1) ∧
      (s.boot.tries ≠ 0 → t.boot.stage = .noReference ∧ getB t Reg.CLK_STATUS 30 = true)) ∧
  (∀ s : State, s.boot.stage = .locking → ∃ t : State, exec .pllLock s = .next t ∧ t.boot.stage = .wiping ∧ t.time.running = true ∧
    getB t Reg.CLK_STATUS 31 = true ∧ getB t Reg.CLK_GATE_EN0 0 = true ∧ getB t Reg.CLK_GATE_EN0 1 = true) ∧
  (∀ s : State, s.boot.relAt + 4000000 ≤ s.now →
    exec .hostPortServed s = .next { s with boot := { s.boot with served := true } }) ∧
  (∀ s : State, s.now < s.boot.relAt + 4000000 → exec .hostPortServed s = .next s) ∧
  (∀ s : State, s.boot.stage = .wiping → ∃ t : State, exec .memoryWipeComplete s = .next t ∧ t.mem = [] ∧ t.ecc.single = [] ∧ t.ecc.bad = [] ∧
    t.foreignDirty = [] ∧
    (getF s Reg.BOOT_STATUS 27 26 = 1 → t.boot.stage = .holding ∧ getF t Reg.BOOT_REASON 4 0 = 13) ∧
    (getF s Reg.BOOT_STATUS 27 26 = 3 → t.boot.stage = .holding ∧ getF t Reg.BOOT_REASON 4 0 = 14) ∧
    (t.boot.stage = .holding ∨ (t.boot.stage = .loading ∧ t.boot.fwAt = some s.now)))) ∧
((∀ (a : Nat) (s : State), s.boot.stage = .loading → s.boot.fwAt = some a → a + 8000000000 ≤ s.now →
    ∃ t : State, exec .readyTimeout s = .next t ∧ t.boot.stage = .holding ∧ getF t Reg.BOOT_REASON 4 0 = 16 ∧ getB t Reg.BOOT_REASON 31 = true) ∧
  (∀ (a : Nat) (s : State), s.boot.fwAt = some a → s.now < a + 8000000000 → exec .readyTimeout s = .next s) ∧
  (∀ s : State, s.boot.stage = .loading → digestFails s (sheetSource s) = none → ∃ t : State, exec .readyReached s = .next t ∧
    (∀ u, checkLoad s (imageOf s (sheetSource s)) false = .inr u → u.boot.stage = .loading →
      t.boot.stage = .ready ∧ t.boot.fwAt = none ∧ t.plan = u.plan) ∧
    (∀ code k, checkLoad s (imageOf s (sheetSource s)) false = .inl (code, k) →
      t.boot.stage = .holding ∧ getF t Reg.BOOT_REASON 4 0 = code % 32 ∧ getF t Reg.BOOT_REASON 23 16 = k % 256)) ∧
  (∀ (s : State) (k : Nat), s.boot.stage = .loading → digestFails s (sheetSource s) = some k →
    ∃ t : State, exec .readyReached s = .next t ∧ t.boot.stage = .holding ∧ getF t Reg.BOOT_REASON 4 0 = 9 ∧
      getF t Reg.BOOT_REASON 23 16 = k % 256) ∧
  (∀ s : State, s.boot.stage = .ready → getF s Reg.BOOT_STATUS 27 26 = 2 → s.plan.isSome = true → 0 < groupSize s →
    ∃ t : State, exec .bootArm s = .next t ∧ t.sched.permitted = true ∧ getB t Reg.BOOT_CTL 0 = true) ∧
  (∀ s : State, s.boot.stage ≠ .ready → exec .bootArm s = .next (flag s Reg.BOOT_CTL 0)))

/-- A warm reload begins while Ready, is refused beside a flash-bridge write and otherwise judged: it waits for the next cycle start
or fails, and the running plan stands either way (16 R515, Table 16.10). A recovery load opens in Holding, takes its chunks in order into the write buffer, and fails with code 15 when more than 1 s
passes between two of them (16 R513; 17 R535).
The model's own choices under these clauses: logs 3, 29 and 30. -/
def Obligations.ReloadsAndRecovery : Prop :=
  ((∀ s : State, s.boot.stage = .ready → s.boot.reloading = false → s.boot.swap = false → s.boot.quiesce = .none →
    ∃ t : State, exec (.warmReload false) s = .next t ∧ t.boot.reloading = true ∧ t.plan = s.plan ∧ getF t Reg.BOOT_STATUS 31 28 = 8) ∧
  (∀ s : State, s.boot.stage = .ready → s.boot.reloading = false → s.boot.swap = false → s.boot.quiesce = .none →
    ∃ t : State, exec (.warmReload true) s = .next t ∧ t.boot.reloading = false ∧ t.plan = s.plan ∧ getB t Reg.BOOT_FLAGS 2 = true ∧
      getB t Reg.BOOT_REASON 30 = true) ∧
  (∀ (b : Bool) (s : State), s.boot.stage ≠ .ready → exec (.warmReload b) s = .next s) ∧
  (∀ s : State, s.boot.reloading = true → ∃ t : State, exec .reloadVerified s = .next t ∧ t.boot.reloading = false ∧ t.plan = s.plan ∧
    (t.boot.swap = true ∨ (getB t Reg.BOOT_FLAGS 2 = true ∧ getB t Reg.BOOT_REASON 30 = true)) ∧
    (∀ code, headerFails s .flash = some code → t.boot.swap = false ∧ getF t Reg.BOOT_REASON 4 0 = code % 32))) ∧
((∀ s : State, s.boot.stage = .holding → ∃ t : State, exec .recoveryStart s = .next t ∧ t.boot.stage = .recovery ∧ received t = 0 ∧
    getB t Reg.BOOT_RECOV_STATUS 31 = true ∧ getF t Reg.BOOT_STATUS 31 28 = 6) ∧
  (∀ s : State, s.boot.stage ≠ .holding → exec .recoveryStart s = .next s) ∧
  (∀ s : State, s.boot.stage = .recovery → 0 < received s → s.boot.recovAt + 800000000 < s.now →
    ∃ t : State, exec .recoveryTimeout s = .next t ∧ t.boot.stage = .holding ∧ getF t Reg.BOOT_REASON 4 0 = 15) ∧
  (∀ s : State, s.now ≤ s.boot.recovAt + 800000000 → exec .recoveryTimeout s = .next s) ∧
  (∀ (f : HpWrite) (s : State), s.boot.served = true → inverseOk .recovWr f.inverse = true → f.cutHost = false → s.host.held = none →
    crc8 (headBytes .recovWr f.inverse f.addr none ++ wordBytes f.data) = f.crc → getB s Reg.BOOT_CTL 2 = true →
    f.addr = chunksTaken s → bufferUsed s + 4096 ≤ 8192 →
    ∃ t : State, exec (.recovWr f) s = .next t ∧ t.host.buffer = s.host.buffer ++ [.recov f.addr f.data] ∧ t.boot.recovAt = s.now ∧
      sameBytes s t ∧ regsBut [] s t))

/-! ### Identity and life cycle (16) -/

/-- A commit while Ready, in Provisioned or Deployed, raises the security version to that of the running sheet, and to 64 at most; it
changes nothing where the version is not below it, or before Ready. In Blank and Returned it is refused (16 R510). The security engine takes a driver's request into the queue behind those that wait, where the device holds an identity key in
Provisioned or Deployed, and else refuses it. It signs the oldest request: the driver's Proof over its nonce stands in SEC_PROOF and
valid is set, busy while another driver's request waits; a roll call's goes to the manager. Either counts one Proof (16 R517, R518).
The model's own choices under these clauses: logs 3 and 28. -/
def Obligations.SecurityVersionAndProofs : Prop :=
  ((∀ s : State, s.otp.lc = 1 ∨ s.otp.lc = 2 → s.boot.stage = .ready → s.otp.secver < min 64 (getN s Reg.BOOT_SECVER) →
    ∃ t : State, exec .secverCommit s = .next t ∧ t.otp = { s.otp with secver := min 64 (getN s Reg.BOOT_SECVER) } ∧
      getB t Reg.SEC_FLAGS 1 = true ∧ regsBut [Reg.SEC_FLAGS] s t ∧ sameBytes s t ∧ t.tiles = s.tiles ∧ t.ctxs = s.ctxs ∧ t.sec = s.sec) ∧
  (∀ s : State, s.otp.lc = 1 ∨ s.otp.lc = 2 → min 64 (getN s Reg.BOOT_SECVER) ≤ s.otp.secver ∨ s.boot.stage ≠ .ready →
    exec .secverCommit s = .next s) ∧
  (∀ s : State, s.otp.lc = 0 ∨ s.otp.lc = 3 → ∃ t : State, exec .secverCommit s = .next t ∧ t.otp = s.otp ∧ getB t Reg.SEC_FLAGS 2 = true ∧
    regsBut [Reg.SEC_FLAGS] s t ∧ sameBytes s t ∧ SameUnits s t ∧ t.sec = s.sec)) ∧
((∀ s : State, canSign s = true → ∃ t : State, exec .proofRequest s = .next t ∧
    t.sec.queue = s.sec.queue ++ [.driver (leNat (regBytes s (Reg.SEC_PROOF_NONCE 0) 4))] ∧ getB t Reg.SEC_PROOF_STATUS 31 = true ∧
    getB t Reg.SEC_PROOF_STATUS 30 = false ∧ getB t Reg.SEC_PROOF_STATUS 29 = false ∧ t.sec.count = s.sec.count ∧
    regsBut [Reg.SEC_PROOF_STATUS] s t ∧ sameBytes s t ∧ SameUnits s t) ∧
  (∀ s : State, canSign s = false → ∃ t : State, exec .proofRequest s = .next t ∧ t.sec = s.sec ∧ getB t Reg.SEC_PROOF_STATUS 29 = true ∧
    regsBut [Reg.SEC_PROOF_STATUS] s t ∧ sameBytes s t ∧ SameUnits s t) ∧
  (∀ (s : State) (n k : Nat) (rest : List ProofReq), s.sec.queue = .driver n :: rest → s.otp.idKey = some k →
    ∃ t : State, exec .proofDone s = .next t ∧ t.sec.queue = rest ∧ t.sec.count = s.sec.count + 1 ∧ getB t Reg.SEC_FLAGS 0 = true ∧
      regBytes t (Reg.SEC_PROOF 0) 64 = proofOf s k n ∧
      getB t Reg.SEC_PROOF_STATUS 30 = true ∧
      getB t Reg.SEC_PROOF_STATUS 31 = rest.any (fun r => match r with | .driver _ => true | .roll _ => false) ∧
      regsBut ([Reg.SEC_FLAGS, Reg.SEC_PROOF_STATUS] ++ (List.range 64).map Reg.SEC_PROOF) s t ∧ sameBytes s t ∧ SameUnits s t) ∧
  (∀ (s : State) (n k : Nat) (rest : List ProofReq), s.sec.queue = .roll n :: rest → s.otp.idKey = some k →
    ∃ u : State, u = flag { s with sec := { queue := rest, count := s.sec.count + 1 } } Reg.SEC_FLAGS 0 ∧
      exec .proofDone s = .next (sendTo u (ownFrame u 2 0 (.proof (proofOf s k n) s.otp.idPub)))) ∧
  (∀ s : State, s.sec.queue = [] ∨ s.otp.idKey = none → exec .proofDone s = .next s))

/-- A life-cycle transition: one that Table 16.9 does not list is refused with reason 1, a device that is not Ready refuses with
reason 3; Blank to Provisioned generates the identity key, Blank to Returned leaves the key area all ones, and both reset the device
with cause life-cycle (16 R516, R520, R521). A write of PHYS_FIELD_REPAIR arms its record for the next reset; a column above 16 leaves arm at 0 and sets reserved_write
(01 R29).
The model's own choices under these clauses: logs 23, 26, 27, 104 and 108. -/
def Obligations.LifeCycleAndFieldRepair : Prop :=
  ((∀ s : State, s.boot.stage ≠ .ready → ∃ t : State, exec .lcTransition s = .next t ∧ t.otp = s.otp ∧ getF t Reg.SEC_LC_STATUS 1 0 = 3 ∧
    getB t Reg.SEC_LC_STATUS 30 = true ∧ getB t Reg.SEC_FLAGS 3 = true) ∧
  (∀ s : State, s.boot.stage = .ready → lcPermitted s.otp.lc (getF s Reg.SEC_LC_REQ 1 0) = false →
    ∃ t : State, exec .lcTransition s = .next t ∧ t.otp = s.otp ∧ getF t Reg.SEC_LC_STATUS 1 0 = 1 ∧ getB t Reg.SEC_LC_STATUS 30 = true) ∧
  (∀ s : State, s.boot.stage = .ready → lcPermitted s.otp.lc (getF s Reg.SEC_LC_REQ 1 0) = true → s.otp.lc ≠ 0 →
    lcSigned s (getF s Reg.SEC_LC_REQ 1 0) = false →
    ∃ t : State, exec .lcTransition s = .next t ∧ t.otp = s.otp ∧ getF t Reg.SEC_LC_STATUS 1 0 = 2 ∧ getB t Reg.SEC_LC_STATUS 30 = true) ∧
  (∀ s : State, s.boot.stage = .ready → s.otp.lc = 0 → getF s Reg.SEC_LC_REQ 1 0 = 1 → s.safe.trip = false →
    ∃ t : State, exec .lcTransition s = .next t ∧ t.otp.lc = 1 ∧ t.otp.idKey.isSome = true ∧ t.otp.custDigest = sha256 (hdCustPub s.boot.header) ∧
      getR t Reg.BOOT_RST_CAUSE = 16#32 ∧ t.plan = none ∧ t.ctxs = []) ∧
  (∀ s : State, s.boot.stage = .ready → s.otp.lc = 0 → getF s Reg.SEC_LC_REQ 1 0 = 3 → s.safe.trip = false →
    ∃ t : State, exec .lcTransition s = .next t ∧ t.otp.lc = 3 ∧ t.otp.idKey = none ∧ t.otp.destroyed = true ∧
      t.otp.custDigest = List.replicate 32 0xFF#8 ∧ getR t Reg.BOOT_RST_CAUSE = 16#32 ∧ t.plan = none)) ∧
((∀ (v : Word) (s : State), fieldOf v 4 0 ≤ 16 → ∃ t : State, exec (.fieldRepairWrite v) s = .next t ∧
    getB t Reg.PHYS_FIELD_REPAIR 31 = bitOf v 31 ∧ getB t Reg.PHYS_STATUS 1 = bitOf v 31 ∧ getF t Reg.PHYS_FIELD_REPAIR 4 0 = fieldOf v 4 0 ∧
    regsBut [Reg.PHYS_FIELD_REPAIR, Reg.PHYS_STATUS, Reg.ERR_HOST_STATUS] s t ∧ sameBytes s t ∧ SameUnits s t) ∧
  (∀ (v : Word) (s : State), 16 < fieldOf v 4 0 → ∃ t : State, exec (.fieldRepairWrite v) s = .next t ∧
    getB t Reg.PHYS_FIELD_REPAIR 31 = false ∧ getB t Reg.PHYS_STATUS 1 = false ∧ getB t Reg.ERR_HOST_STATUS 0 = true))

/-! ### The host port (17) -/

/-- A register read of words that are served answers at once with the first register's value (a captured one where there is one) and
as many words as it asks for, and holds nothing; STAT answers SAFE_STATUS in every state and leaves a held result
(17 R526, R528, R529, R544). A memory read of a populated HBM word answers its four bytes, least significant first; one that the ready phase could not meet is
completed internally and held for the repeat (17 R528, R533).
The model's own choices under these clauses: logs 40 and 41. -/
def Obligations.HostReads : Prop :=
  ((∀ (f : HpRead) (s : State), s.boot.served = true → inverseOk .regRd f.inverse = true → f.length ≤ 1023 → f.cutHost = false →
    f.cutTarget = false → f.slow = false → s.host.held = none → s.host.buffer = [] → regRange f.addr (f.length + 1) = 0 →
    regCode s f.addr false = 0 →
    ∃ t ws st crc, exec (.regRd f) s = .next t ∧ t.host.resp = .read ws st crc ∧ ws.length = f.length + 1 ∧
      ws.head? = some ((mapFind s.host.captures f.addr).getD (readReg s f.addr)) ∧ t.host.held = none ∧ sameBytes s t ∧ SameUnits s t) ∧
  (∀ (f : HpStat) (s : State), s.boot.served = true → inverseOk .stat f.inverse = true → f.cutHost = false →
    ∃ t st crc, exec (.hpStat f) s = .next t ∧ t.host.resp = .read [safeStatus s] st crc ∧ t.host.held = s.host.held ∧
      regsBut [] s t ∧ sameBytes s t ∧ SameUnits s t) ∧
  (∀ (f : HpRead) (s : State), s.boot.served = true → inverseOk .regRd f.inverse = false →
    ∃ t : State, exec (.regRd f) s = .next t ∧ t.host.resp = .none ∧ getB t Reg.ERR_HOST_STATUS 4 = true ∧
      regsBut [Reg.ERR_HOST_STATUS, Reg.ERR_HOST_CMD_CNT] s t ∧ sameBytes s t)) ∧
((∀ (f : HpRead) (s : State) (k : Nat), s.boot.served = true → inverseOk .memRd f.inverse = true → f.length = 0 → f.cutHost = false →
    f.cutTarget = false → f.slow = false → s.host.held = none → s.host.buffer = [] → memCmdRange s f.addr 1 = 0 →
    memCode s f.addr false = 0 → memRow f.addr = .hbm k → s.foreignDirty = [] → s.ecc.single = [] → s.ecc.bad = [] → s.carriers = [] →
    ∃ t st crc, exec (.memRd f) s = .next t ∧ t.host.resp = .read [BitVec.ofNat 32 (getLe s f.addr 4)] st crc ∧ sameBytes s t ∧
      regsBut [] s t) ∧
  (∀ (f : HpRead) (s : State), s.boot.served = true → inverseOk .memRd f.inverse = true → f.length ≤ 1023 → f.cutHost = false →
    f.cutTarget = false → f.slow = true → s.host.held = none → s.host.buffer = [] →
    ∃ t : State, exec (.memRd f) s = .next t ∧ t.host.resp = .notReady ∧
      t.host.held = some { mem := true, addr := f.addr, len := f.length + 1, result := none } ∧ sameBytes s t) ∧
  (∀ (h : HeldRead) (s : State), s.host.held = some h → h.result = none → s.host.buffer = [] →
    ∃ t ws st, exec .hostReadComplete s = .next t ∧ t.host.held = some { h with result := some (ws, st) } ∧ ws.length = h.len ∧
      sameBytes s t))

/-- A posted write is checked at acceptance and takes effect only when it leaves the buffer: until then every register and every
byte stands (17 R531, R533).
The model's own choices under these clauses: log 39. -/
def Obligations.HostWritesArePosted : Prop :=
  (∀ (f : HpWrite) (v : Word) (s : State), s.boot.served = true → inverseOk .regWr f.inverse = true → f.length = 0 → f.data = [v] →
    f.cutHost = false → s.host.held = none → crc8 (headBytes .regWr f.inverse f.addr (some 0) ++ wordBytes [v]) = f.crc →
    regRange f.addr 1 = 0 → goRefused s [(f.addr, v)] = false → bufferUsed s + 4 ≤ 8192 → regCode s f.addr true = 0 →
    ∃ t st crc, exec (.regWr f) s = .next t ∧ t.host.buffer = s.host.buffer ++ [.reg f.addr v] ∧ t.host.resp = .write st crc ∧
      st % 64 = 0 ∧ regsBut [] s t ∧ sameBytes s t ∧ SameUnits s t) ∧
  (∀ (f : HpWrite) (v : Word) (s : State), s.boot.served = true → inverseOk .memWr f.inverse = true → f.length = 0 → f.data = [v] →
    f.cutHost = false → s.host.held = none → crc8 (headBytes .memWr f.inverse f.addr (some 0) ++ wordBytes [v]) = f.crc →
    memCmdRange s f.addr 1 = 0 → bufferUsed s + 4 ≤ 8192 → memCode s f.addr true = 0 → s.foreignDirty = [] →
    ∃ t st crc, exec (.memWr f) s = .next t ∧ t.host.buffer = s.host.buffer ++ [.mem f.addr v] ∧ t.host.resp = .write st crc ∧
      st % 64 = 0 ∧ regsBut [] s t ∧ sameBytes s t ∧ SameUnits s t) ∧
  (∀ (a k : Nat) (v : Word) (rest : List Posted) (s : State), s.host.buffer = .mem a v :: rest → memRow a = .hbm k → s.foreignDirty = [] →
    cgOwner s a = none → ∃ t : State, exec .hostWritePerform s = .next t ∧ t.host.buffer = rest ∧
      (∀ i, i < 4 → getByte t (a + i) = BitVec.ofNat 8 (v.toNat / 256 ^ i)) ∧
      (∀ x, x < a ∨ a + 4 ≤ x → getByte t x = getByte s x) ∧ regsBut [] s t ∧ SameUnits s t) ∧
  (∀ (a : Nat) (v : Word) (rest : List Posted) (s : State), s.host.buffer = .reg a v :: rest →
    exec .hostWritePerform s = exec (.registerWrite a v) { s with host := { s.host with buffer := rest } }) ∧
  (∀ s : State, s.host.buffer = [] → exec .hostWritePerform s = .next s)

/-- A write of a register with no behaviour of its own leaves the value that its fields' access codes give, raises at most
reserved_write and locked_write, and touches no other register (17 R537, R539; 00 R15). One field of a register write by its access code: read-only and read-clear fields stand, a writable field in range takes the
value, one out of range stands and is flagged, a locked field stands, write-1-to-clear bits clear, write-1-to-set bits set, and
the bits outside the field stand (00 R15; 17 R537, R539). -/
def Obligations.RegisterWrites : Prop :=
  ((∀ (a : Nat) (v : Word) (s : State), (regRow a).isSome = true → a ≠ Reg.ERR_HOST_STATUS →
    a ∉ [Reg.BOOT_CTL, Reg.BOOT_RST_REQ, Reg.BOOT_WDOG_CFG, Reg.BOOT_WDOG_KICK, Reg.SEC_LC_CTL] →
    (∀ s' : State, tileEffect s' a v = none ∧ oneEffect s' a v = none ∧ arrayEffect s' a v = none) →
    ∃ t : State, exec (.registerWrite a v) s = .next t ∧ getR t a = (writeValue a (deployed s) (getR s a) v).value ∧
      ((writeValue a (deployed s) (getR s a) v).reserved = true → getB t Reg.ERR_HOST_STATUS 0 = true) ∧
      ((writeValue a (deployed s) (getR s a) v).locked = true → getB t Reg.ERR_HOST_STATUS 5 = true) ∧
      regsBut [a, Reg.ERR_HOST_STATUS] s t ∧ sameBytes s t ∧ SameUnits s t)) ∧
(∀ (a : Nat) (lock : Bool) (v : Word) (r : Written) (f : RegField), f.lo ≤ f.hi → f.hi < 32 →
    ((f.acc = .ro ∨ f.acc = .rc ∨ f.acc = .wo) → writeField a lock v r f = r) ∧
    ((f.acc = .rw ∨ (f.acc = .rwl ∧ lock = false)) → fieldInRange a f (fieldOf v f.hi f.lo) = true →
      fieldOf (writeField a lock v r f).value f.hi f.lo = fieldOf v f.hi f.lo) ∧
    ((f.acc = .rw ∨ (f.acc = .rwl ∧ lock = false)) → fieldInRange a f (fieldOf v f.hi f.lo) = false →
      (writeField a lock v r f).value = r.value ∧ (writeField a lock v r f).reserved = true) ∧
    (f.acc = .rwl → lock = true → (writeField a lock v r f).value = r.value ∧
      (fieldOf v f.hi f.lo ≠ fieldOf r.value f.hi f.lo → (writeField a lock v r f).locked = true)) ∧
    (∀ i, f.lo ≤ i → i ≤ f.hi → f.acc = .w1c →
      (writeField a lock v r f).value.getLsbD i = (r.value.getLsbD i && !v.getLsbD i)) ∧
    (∀ i, f.lo ≤ i → i ≤ f.hi → f.acc = .w1s →
      (writeField a lock v r f).value.getLsbD i = (r.value.getLsbD i || v.getLsbD i)) ∧
    (∀ i, i < f.lo ∨ f.hi < i → (writeField a lock v r f).value.getLsbD i = r.value.getLsbD i))

/-! ### The flash bridge (17 R534) -/

/-- A go of each operation starts it on an idle bridge while start-up does not read flash: go reads 1, an operation that ends past the
flash space is bound to fail with result 2, and the flash stands (17 R534). A bridge operation ends: an erase of a sector leaves it 0xFF and every other byte as it was, a program clears the bits that the
buffer's bytes hold as 0, a fixed result leaves the flash alone, and 5 s without an answer end it with result 4
(17 R534; that programming clears and erasing sets bits is the NOR flash family's, PRESUMED in log 34).
The model's own choices under these clauses: logs 3, 34 and 35. -/
def Obligations.FlashBridgeRuns : Prop :=
  (∀ s : State, flbBusy s = false → flashReads s = false →
    ∀ x ∈ [(Instr.flbRead, 1), (Instr.flbProgram, 2), (Instr.flbEraseSector, 3), (Instr.flbEraseBlock, 4), (Instr.flbReadSfdp, 5)],
      ∃ t : State, exec x.1 s = .next t ∧ t.host.flb = some s.now ∧ getF t Reg.DEV_FLB_CMD 3 0 = x.2 ∧ getB t Reg.DEV_FLB_CMD 31 = true ∧
        t.host.flbFail = (if flashSpace s.flash < (flbSpan t).1 + (flbSpan t).2 then some 2 else none) ∧ t.flash = s.flash ∧
        sameBytes s t ∧ SameUnits s t) ∧
((∀ s : State, flbBusy s = true → s.host.flbFail = none → getF s Reg.DEV_FLB_CMD 3 0 = 3 →
    ∃ t : State, exec (.flbDone false) s = .next t ∧ t.host.flb = none ∧ getF t Reg.DEV_FLB_STATUS 7 0 = 0 ∧ getB t Reg.DEV_FLB_CMD 31 = false ∧
      (∀ x, (flbSpan s).1 ≤ x → x < (flbSpan s).1 + 0x1000 → flashByte t.flash x = 0xFF#8) ∧
      (∀ x, x < (flbSpan s).1 ∨ (flbSpan s).1 + 0x1000 ≤ x → flashByte t.flash x = flashByte s.flash x) ∧ sameBytes s t ∧ SameUnits s t) ∧
  (∀ s : State, flbBusy s = true → s.host.flbFail = none → getF s Reg.DEV_FLB_CMD 3 0 = 2 → (flbSpan s).2 ≤ 4096 →
    (flbSpan s).1 + (flbSpan s).2 ≤ flashSpace s.flash →
    ∃ t : State, exec (.flbDone false) s = .next t ∧ t.host.flb = none ∧
      (∀ i, i < (flbSpan s).2 → flashByte t.flash ((flbSpan s).1 + i) =
        flashByte s.flash ((flbSpan s).1 + i) &&& nth 0#8 (flbBuffer s (flbSpan s).2) i) ∧
      (∀ x, x < (flbSpan s).1 ∨ (flbSpan s).1 + (flbSpan s).2 ≤ x → flashByte t.flash x = flashByte s.flash x)) ∧
  (∀ (b : Bool) (r : Nat) (s : State), flbBusy s = true → s.host.flbFail = some r → 0 < r → r < 256 →
    ∃ t : State, exec (.flbDone b) s = .next t ∧ t.host.flb = none ∧ getF t Reg.DEV_FLB_STATUS 7 0 = r ∧ getB t Reg.DEV_FLB_STATUS 30 = true ∧
      t.flash = s.flash) ∧
  (∀ (x : Nat) (s : State), s.host.flb = some x → x + 4000000000 ≤ s.now →
    ∃ t : State, exec .flbTimeout s = .next t ∧ t.host.flb = none ∧ getF t Reg.DEV_FLB_STATUS 7 0 = 4 ∧ getB t Reg.DEV_FLB_STATUS 30 = true ∧
      t.flash = s.flash) ∧
  (∀ (x : Nat) (s : State), s.host.flb = some x → s.now < x + 4000000000 → exec .flbTimeout s = .next s))

/-! ### Records, wake timers, stopping all work (09, 17, 18) -/

/-- A pop removes the oldest record and nothing else; a write whose bit 0 is 0 removes none (09 R325; 17 R540). A device-fatal error is logged as the newest record, stops every context and sets the fatal state (09 R310). -/
def Obligations.PopsAndFatalErrors : Prop :=
  ((∀ (v : Word) (s : State), ∃ t : State, exec (.safeEvtPop v) s = .next t ∧
    t.safe.events = (if bitOf v 0 then s.safe.events.tail else s.safe.events) ∧ t.safe.evtSeq = s.safe.evtSeq ∧
    regsBut [Reg.SAFE_EVT_POP, Reg.ERR_HOST_STATUS] s t ∧ sameBytes s t ∧ SameUnits s t) ∧
  (∀ (v : Word) (s : State), ∃ t : State, exec (.errLogPop v) s = .next t ∧
    t.errLog = (if bitOf v 0 then s.errLog.tail else s.errLog) ∧ t.errSeq = s.errSeq ∧
    regsBut [Reg.ERR_LOG_POP, Reg.ERR_HOST_STATUS] s t ∧ sameBytes s t ∧ SameUnits s t)) ∧
(∀ (e : FatalError) (s : State), ∃ t : State, exec (.deviceFatalError e) s = .next t ∧ getB t Reg.ERR_LOG_STATUS 31 = true ∧ t.ctxs = [] ∧
    t.errLog.getLast?.map (·.cls) = some 0x1F ∧ t.errSeq = (s.errSeq + 1) % 2 ^ 32 ∧ t.plan = s.plan ∧ sameBytes s t ∧ t.otp = s.otp)

/-- A removal: the request waits for the next device frame while Ready and halts start-up otherwise; then the carriers and contexts
stop, and REMOVE_OK rises once the flash bridge is idle (18 R556 to R558). A wake timer arms with its action, disarms without firing, and fires once its target has come: it disarms, posts an event and
wakes the dies of its action (17 R542).
The model's own choices under these clauses: log 3. -/
def Obligations.RemovalAndWakeTimers : Prop :=
  ((∀ s : State, s.boot.quiesce = .none → s.boot.stage = .ready → ∃ t : State, exec .quiesceRequest s = .next t ∧ t.boot.quiesce = .requested ∧
    t.boot.quiesceAt = s.time.frame ∧ t.boot.stage = .ready ∧ regsBut [] s t ∧ sameBytes s t ∧ SameUnits s t) ∧
  (∀ s : State, s.boot.quiesce = .none → s.boot.stage = .loading ∨ s.boot.stage = .holding ∨ s.boot.stage = .recovery →
    ∃ t : State, exec .quiesceRequest s = .next t ∧ t.boot.quiesce = .stopping ∧ t.boot.stage = .halted) ∧
  (∀ s : State, s.boot.quiesce ≠ .none → exec .quiesceRequest s = .next s) ∧
  (∀ s : State, s.boot.quiesce = .requested → s.boot.quiesceAt < s.time.frame → ∃ t : State, exec .quiesceStop s = .next t ∧
    t.boot.quiesce = .stopping ∧ t.boot.reloading = false ∧ t.ctxs = [] ∧ (∀ c ∈ s.carriers.map (·.1), (getCar t c).running = false)) ∧
  (∀ s : State, s.boot.quiesce = .requested → s.time.frame ≤ s.boot.quiesceAt → exec .quiesceStop s = .next s) ∧
  (∀ s : State, s.boot.quiesce = .stopping → flbBusy s = false → ∃ t : State, exec .removeOkRaised s = .next t ∧ t.boot.quiesce = .removed ∧
    t.net.egress = [] ∧ t.net.wire = [] ∧ t.net.pace = [] ∧ (∀ l : Nat, (getL t l).waiting = [] ∧ (getL t l).replay = []) ∧
    regsBut [] s t ∧ sameBytes s t) ∧
  (∀ s : State, s.boot.quiesce = .stopping → flbBusy s = true → s.boot.stage ≠ .stopped → exec .removeOkRaised s = .next s)) ∧
((∀ (w : Fin 4) (v : Word) (s : State), bitOf v 31 = true → ∃ t : State, exec (.wakeTimerArm w v) s = .next t ∧ wakeArmed t w.val = true ∧
    getF t (Reg.SAFE_WAKE_CTL w.val) 1 0 = fieldOf v 1 0 ∧ regsBut [Reg.SAFE_WAKE_CTL w.val, Reg.ERR_HOST_STATUS] s t ∧ t.safe = s.safe) ∧
  (∀ (w : Fin 4) (v : Word) (s : State), bitOf v 30 = true → bitOf v 31 = false → ∃ t : State, exec (.wakeTimerDisarm w v) s = .next t ∧
    wakeArmed t w.val = false ∧ t.safe = s.safe ∧ t.power = s.power) ∧
  (∀ (w : Fin 4) (s : State), wakeArmed s w.val = true → wakeTarget s w.val ≤ uptime s → ∃ t : State, exec (.wakeTimerFire w) s = .next t ∧
    wakeArmed t w.val = false ∧ t.safe.evtSeq = (s.safe.evtSeq + 1) % 2 ^ 32 ∧
    (s.safe.events.length < 256 → t.safe.events.getLast?.map (fun e => (e.cls, e.code)) = some (1, w.val)) ∧
    (∀ d : DieId, (getF s (Reg.SAFE_WAKE_CTL w.val) 1 0).testBit d.val = true → dieSt s d.val = .dormant → s.power.dies.length = 2 →
      dieSt t d.val = .waking) ∧
    (∀ d : DieId, (getF s (Reg.SAFE_WAKE_CTL w.val) 1 0).testBit d.val = true → getB t (dieCtl d.val) 31 = false) ∧
    (getF s (Reg.SAFE_WAKE_CTL w.val) 1 0 = 0 → t.power = s.power)) ∧
  (∀ (w : Fin 4) (s : State), wakeArmed s w.val = false ∨ uptime s < wakeTarget s w.val → exec (.wakeTimerFire w) s = .next s) ∧
  (∀ (w : Fin 4) (v : Word) (s : State), bitOf v 31 = true → wakeTarget s w.val ≤ uptime s →
    ∃ t : State, exec (.wakeTimerArm w v) s = .next t ∧ ∃ u : State, exec (.wakeTimerFire w) t = .next u ∧ wakeArmed u w.val = false ∧
      u.safe.evtSeq = (s.safe.evtSeq + 1) % 2 ^ 32) ∧
  (∀ (w : Fin 4) (v : Word) (a : Nat) (s : State), a = Reg.SAFE_WAKE_AT_LO w.val ∨ a = Reg.SAFE_WAKE_AT_HI w.val → wakeArmed s w.val = true →
    ∃ t : State, exec (.registerWrite a v) s = .next t ∧ wakeTarget t w.val = wakeTarget s w.val ∧ getB t Reg.ERR_HOST_STATUS 0 = true ∧
      regsBut [Reg.ERR_HOST_STATUS] s t))

/-! ### Clocks, power and temperature (15) -/

/-- A lost reference holds the PLLs, sets ref_lost and posts one event; before the clocks run, and once lost, nothing more happens
(15 R467). Clock gates and hub domains take the bits written, except that closing SEC, BOOT or a block the armed plan uses, or turning off a
domain in use, changes nothing and sets reserved_write; a domain that has powered up is on. In Holding a closed gate other than SEC's and
BOOT's stays closed (15 R470, R472; 16 R512, R523).
The model's own choices under these clauses: logs 3 and 48. -/
def Obligations.ReferenceGatesAndDomains : Prop :=
  ((∀ s : State, clocksRun s = true → getB s Reg.TIME_DPLL_STATUS 30 = false → ∃ t : State, exec .refLost s = .next t ∧ t.boot.refOk = false ∧
    getB t Reg.TIME_DPLL_STATUS 30 = true ∧ getB t Reg.CLK_FLAGS 0 = true ∧ t.safe.evtSeq = (s.safe.evtSeq + 1) % 2 ^ 32 ∧
    t.time.dev = s.time.dev ∧ regsBut [Reg.TIME_DPLL_STATUS, Reg.CLK_FLAGS, Reg.SAFE_FLAGS, Reg.SAFE_EVT_LOST] s t ∧ sameBytes s t ∧
    SameUnits s t) ∧
  (∀ s : State, clocksRun s = false ∨ getB s Reg.TIME_DPLL_STATUS 30 = true → exec .refLost s = .next s)) ∧
((∀ (k : Fin 2) (v : Word) (s : State), (∀ i, i < (if k.val = 0 then 11 else 12) → getB s (gateReg k.val) i = true → bitOf v i = false →
      gateUsed s k.val i = false ∧ gateBusy s k.val i = false ∧ ¬(k.val = 0 ∧ i < 2)) → s.boot.stage ≠ .holding → s.boot.stage ≠ .recovery →
    ∃ t : State, exec (.clkGateWrite k v) s = .next t ∧ (∀ i, i < (if k.val = 0 then 11 else 12) → getB t (gateReg k.val) i = bitOf v i) ∧
      regsBut [gateReg k.val, Reg.ERR_HOST_STATUS] s t ∧ sameBytes s t ∧ SameUnits s t) ∧
  (∀ (k : Fin 2) (v : Word) (i : Nat) (s : State), i < (if k.val = 0 then 11 else 12) → getB s (gateReg k.val) i = true → bitOf v i = false →
    (gateUsed s k.val i = true ∨ (k.val = 0 ∧ i < 2)) → exec (.clkGateWrite k v) s = .next (reservedWrite s)) ∧
  (∀ (v : Word) (s : State), (∀ i, i < 18 → getB s Reg.PWR_HUB_EN i = true → bitOf v i = false → hubRefused s i = false) →
    ∃ t : State, exec (.pwrHubEnWrite v) s = .next t ∧ (∀ i, i < 18 → getB t Reg.PWR_HUB_EN i = bitOf v i) ∧
      regsBut [Reg.PWR_HUB_EN, Reg.ERR_HOST_STATUS] s t ∧ sameBytes s t ∧ SameUnits s t) ∧
  (∀ (v : Word) (i : Nat) (s : State), i < 18 → getB s Reg.PWR_HUB_EN i = true → bitOf v i = false → hubRefused s i = true →
    exec (.pwrHubEnWrite v) s = .next (reservedWrite s)) ∧
  (∀ (d : Nat) (s : State), 74 ≤ d → d ≤ 91 → hubOn s (d - 74) = false → getB s Reg.PWR_HUB_EN (d - 74) = true → s.boot.stage ≠ .stopped →
    ∃ t : State, exec (.hubDomainOn d) s = .next t ∧ hubOn t (d - 74) = true ∧ (∀ j, j ≠ d - 74 → hubOn t j = hubOn s j) ∧ regsBut [] s t ∧
      sameBytes s t) ∧
  (∀ (k : Fin 2) (v : Word) (i : Nat) (s : State), s.boot.stage = .holding ∨ s.boot.stage = .recovery → i < (if k.val = 0 then 11 else 12) →
    ¬(k.val = 0 ∧ i < 2) → getB s (gateReg k.val) i = false → ∃ t : State, exec (.clkGateWrite k v) s = .next t ∧ getB t (gateReg k.val) i = false))

/-- A cap evaluation adds the energy of its 100 µs, which stops at its maximum, keeps the window's newest win_ms, and shows the average.
Above the cap the ceiling falls one point and, at OP0, the duty one step down to 8; below 95 % of it for as long as the window is long
the duty and then the ceiling rise one step; else both stand. A reading of a rail above PWR_ILIM lowers its die's ceiling one point; one
below 95 % of it for 1 ms raises it one point (15 R483, R484, R486). A thermal evaluation shows its 40 readings and each die's highest. A compute die that is, or whose hub die is, at or above 100 °C
steps its ceiling down, and at OP0 its duty, once per 1 ms; with both at or below 97 °C the ceiling and then the duty rise once per
10 ms; between the two they stand. A reading of 115 °C trips the device and stops it; none leaves the trip latch, the boot state and
memory as they were. COOLANT_OK stops the device without a trip: memory, tiles, contexts and the frames to be sent are empty, and device
time stands still; where it is stopped already only the coolant latch is set. The coolant inlet above warn_c puts THM_COOLANT_CFG.ceil in force on both compute
dies, 2 °C below it or with valid = 0 it no longer does, and between the two it is as it was (15 R489, R491 to R494).
The model's own choices under these clauses: logs 3, 45 and 46. -/
def Obligations.CapsAndHeat : Prop :=
  ((∀ (e : Nat) (s : State), ∃ t : State, exec (.capEval e) s = .next t ∧
    getN64 t Reg.PWR_ENERGY_LO Reg.PWR_ENERGY_HI = min (getN64 s Reg.PWR_ENERGY_LO Reg.PWR_ENERGY_HI + e) (2 ^ 64 - 1) ∧
    t.power.window = (e :: s.power.window).take (10 * getF s Reg.PWR_CAP_CFG 9 0) ∧
    getN t Reg.PWR_MEAS = min 65535 (10 * t.power.window.sum / (100 * t.power.window.length)) ∧
    (getF s Reg.PWR_CAP 9 0 * (100 * t.power.window.length) < t.power.window.sum → getB t Reg.PWR_FLAGS 0 = true ∧
      (0 < s.power.capCeil → t.power.capCeil = s.power.capCeil - 1 ∧ t.power.capDuty = s.power.capDuty) ∧
      (s.power.capCeil = 0 → t.power.capCeil = 0 ∧ t.power.capDuty = max 8 (s.power.capDuty - 1))) ∧
    (100 * t.power.window.sum < 95 * getF s Reg.PWR_CAP 9 0 * (100 * t.power.window.length) →
      (s.power.capLow + 1 < 10 * getF s Reg.PWR_CAP_CFG 9 0 →
        t.power.capCeil = s.power.capCeil ∧ t.power.capDuty = s.power.capDuty ∧ t.power.capLow = s.power.capLow + 1) ∧
      (10 * getF s Reg.PWR_CAP_CFG 9 0 ≤ s.power.capLow + 1 → t.power.capLow = 0 ∧
        (s.power.capDuty < 16 → t.power.capDuty = s.power.capDuty + 1 ∧ t.power.capCeil = s.power.capCeil) ∧
        (16 ≤ s.power.capDuty → t.power.capDuty = s.power.capDuty ∧ t.power.capCeil = min 7 (s.power.capCeil + 1)))) ∧
    (t.power.window.sum ≤ getF s Reg.PWR_CAP 9 0 * (100 * t.power.window.length) →
      95 * getF s Reg.PWR_CAP 9 0 * (100 * t.power.window.length) ≤ 100 * t.power.window.sum →
      t.power.capCeil = s.power.capCeil ∧ t.power.capDuty = s.power.capDuty ∧ t.power.capLow = 0) ∧
    regsBut [Reg.PWR_ENERGY_LO, Reg.PWR_ENERGY_HI, Reg.PWR_MEAS, Reg.PWR_FLAGS] s t ∧ sameBytes s t ∧ SameUnits s t) ∧
  (∀ (a b : Nat) (s : State), s.power.clk.length = 2 → ∃ t : State, exec (.ilimEval a b) s = .next t ∧
    (∀ (d : DieId) (amps lim : Nat), amps = (if d.val = 0 then a else b) →
      lim = (if d.val = 0 then getF s Reg.PWR_ILIM 8 0 else getF s Reg.PWR_ILIM 24 16) →
      (lim < amps → getB t Reg.PWR_FLAGS 1 = true ∧ (clkOf t d.val).ilCeil = (clkOf s d.val).ilCeil - 1 ∧ (clkOf t d.val).ilLow = none) ∧
      (amps ≤ lim → 95 * lim ≤ 100 * amps → (clkOf t d.val).ilCeil = (clkOf s d.val).ilCeil ∧ (clkOf t d.val).ilLow = none) ∧
      (100 * amps < 95 * lim → (clkOf s d.val).ilLow = none →
        (clkOf t d.val).ilCeil = (clkOf s d.val).ilCeil ∧ (clkOf t d.val).ilLow = some s.now) ∧
      (∀ x, 100 * amps < 95 * lim → (clkOf s d.val).ilLow = some x → s.now < x + 800000 →
        (clkOf t d.val).ilCeil = (clkOf s d.val).ilCeil ∧ (clkOf t d.val).ilLow = some x) ∧
      (∀ x, 100 * amps < 95 * lim → (clkOf s d.val).ilLow = some x → x + 800000 ≤ s.now →
        (clkOf t d.val).ilCeil = min 7 ((clkOf s d.val).ilCeil + 1) ∧ (clkOf t d.val).ilLow = some s.now)) ∧
    regsBut [Reg.PWR_FLAGS] s t ∧ sameBytes s t ∧ SameUnits s t)) ∧
((∀ (l : List Int) (s : State), l.length = 40 → ∃ t : State, exec (.thermalEval l) s = .next t ∧
    (∀ i, i < 40 → getR t (Reg.THM_SENSOR i) = temp16 (nth 0 l i)) ∧ getR t Reg.THM_TJ_A = temp16 (hottest l 0 16) ∧
    getR t Reg.THM_TJ_B = temp16 (hottest l 16 16) ∧ getR t Reg.THM_TJ_HUB = temp16 (hottest l 32 8) ∧
    (∀ d : DieId, s.power.clk.length = 2 → 800 ≤ hottest l (16 * d.val) 16 ∨ 800 ≤ hottest l 32 8 → (clkOf s d.val).thMoved + 800000 ≤ s.now →
      getB t Reg.THM_FLAGS 1 = true ∧ (clkOf t d.val).thMoved = s.now ∧ (clkOf t d.val).thCeil = (clkOf s d.val).thCeil - 1 ∧
      (clkOf t d.val).thDuty = (if (clkOf s d.val).thCeil = 0 then max 8 ((clkOf s d.val).thDuty - 1) else (clkOf s d.val).thDuty)) ∧
    (∀ d : DieId, s.power.clk.length = 2 → hottest l (16 * d.val) 16 ≤ 776 → hottest l 32 8 ≤ 776 → (clkOf s d.val).thMoved + 8000000 ≤ s.now →
      ((clkOf s d.val).thCeil < 7 → (clkOf t d.val).thCeil = (clkOf s d.val).thCeil + 1 ∧ (clkOf t d.val).thDuty = (clkOf s d.val).thDuty) ∧
      (7 ≤ (clkOf s d.val).thCeil → (clkOf t d.val).thCeil = (clkOf s d.val).thCeil ∧
        (clkOf t d.val).thDuty = (if (clkOf s d.val).thDuty < 16 then (clkOf s d.val).thDuty + 1 else (clkOf s d.val).thDuty))) ∧
    (∀ d : DieId, s.power.clk.length = 2 → hottest l (16 * d.val) 16 < 800 → hottest l 32 8 < 800 →
      776 < hottest l (16 * d.val) 16 ∨ 776 < hottest l 32 8 →
      (clkOf t d.val).thCeil = (clkOf s d.val).thCeil ∧ (clkOf t d.val).thDuty = (clkOf s d.val).thDuty) ∧
    ((∃ x ∈ l, (920 : Int) ≤ x) → t.safe.trip = true ∧ t.safe.coolant = s.safe.coolant ∧ t.boot.stage = .stopped) ∧
    ((∀ x ∈ l, x < (920 : Int)) → t.safe.trip = s.safe.trip ∧ t.boot.stage = s.boot.stage ∧ sameBytes s t ∧ SameUnits s t) ∧
    regsBut ([Reg.THM_TJ_A, Reg.THM_TJ_B, Reg.THM_TJ_HUB, Reg.THM_FLAGS, Reg.SAFE_FLAGS, Reg.SAFE_EVT_LOST, Reg.BOOT_STATUS] ++
      (List.range 40).map Reg.THM_SENSOR) s t ∧ t.otp = s.otp) ∧
  (∀ s : State, s.boot.stage ≠ .stopped → ∃ t : State, exec .coolantStop s = .next t ∧ t.safe.coolant = true ∧ t.safe.trip = s.safe.trip ∧
    t.boot.stage = .stopped ∧ t.mem = [] ∧ t.tiles = [] ∧ t.ctxs = [] ∧ t.time.running = false ∧ t.net.egress = [] ∧ t.net.wire = [] ∧
    t.power.dies = [.stopped, .stopped] ∧ getF t Reg.BOOT_STATUS 31 28 = 7 ∧ t.otp = s.otp ∧ t.time.dev = s.time.dev ∧
    regsBut [Reg.BOOT_STATUS] s t) ∧
  (∀ s : State, s.boot.stage = .stopped → exec .coolantStop s = .next { s with safe := { s.safe with coolant := true } }) ∧
  (∀ (v : Word) (s : State), bitOf v 31 = true → (getF s Reg.THM_COOLANT_CFG 23 16 : Int) * 8 < signed 16 (fieldOf v 15 0) →
    ∃ t : State, exec (.coolantTempWrite v) s = .next t ∧ t.power.coolHot = true ∧ (s.power.coolHot = false → getB t Reg.THM_FLAGS 2 = true) ∧
      getF t Reg.THM_COOLANT 15 0 = fieldOf v 15 0 ∧ (∀ d : DieId, ceilingOf t d.val 4 = getF s Reg.THM_COOLANT_CFG 2 0) ∧
      regsBut [Reg.THM_COOLANT, Reg.THM_FLAGS, Reg.ERR_HOST_STATUS, Reg.SAFE_FLAGS, Reg.SAFE_EVT_LOST] s t ∧ sameBytes s t ∧ SameUnits s t) ∧
  (∀ (v : Word) (s : State), bitOf v 31 = false ∨ signed 16 (fieldOf v 15 0) ≤ (getF s Reg.THM_COOLANT_CFG 23 16 : Int) * 8 - 16 →
    ∃ t : State, exec (.coolantTempWrite v) s = .next t ∧ t.power.coolHot = false ∧ (∀ d : DieId, ceilingOf t d.val 4 = 7) ∧
      regsBut [Reg.THM_COOLANT, Reg.ERR_HOST_STATUS] s t ∧ sameBytes s t ∧ SameUnits s t) ∧
  (∀ (v : Word) (s : State), bitOf v 31 = true → (getF s Reg.THM_COOLANT_CFG 23 16 : Int) * 8 - 16 < signed 16 (fieldOf v 15 0) →
    signed 16 (fieldOf v 15 0) ≤ (getF s Reg.THM_COOLANT_CFG 23 16 : Int) * 8 →
    ∃ t : State, exec (.coolantTempWrite v) s = .next t ∧ t.power.coolHot = s.power.coolHot ∧ getF t Reg.THM_COOLANT 15 0 = fieldOf v 15 0 ∧
      regsBut [Reg.THM_COOLANT, Reg.ERR_HOST_STATUS] s t ∧ sameBytes s t ∧ SameUnits s t))

/-- The brake halves the clocks of the dies that run until its hold ends, and a droop stretches a die's clock until its detectors have
recovered (15 R487, R488). A die moves one operating point at a time: down with the clock, up with the voltage first, and the clock switches when the
regulator reports; a raise not reported in 50 µs is abandoned (15 R480, R481).
The model's own choices under these clauses: log 3. -/
def Obligations.BrakesAndOperatingPoints : Prop :=
  ((∀ s : State, clocksRun s = true → s.power.clk.length = 2 → ∃ t : State, exec .brakeFall s = .next t ∧ t.power.brakeLow = true ∧
    t.power.brakeUntil = none ∧ (∀ d, d < 2 → dieAwake s d = true → (clkOf t d).halved = true ∧ getB t Reg.PWR_FLAGS 3 = true) ∧
    regsBut [Reg.PWR_FLAGS] s t ∧ sameBytes s t ∧ SameUnits s t) ∧
  (∀ s : State, s.power.brakeLow = true → ∃ t : State, exec .brakeRise s = .next t ∧ t.power.brakeLow = false ∧
    (s.power.clk.any (·.halved) = true → t.power.brakeUntil = some (s.now + 800 * getF s Reg.PWR_BRAKE_CFG 9 0)) ∧ regsBut [] s t) ∧
  (∀ (x : Nat) (s : State), s.power.brakeUntil = some x → x ≤ s.now → ∃ t : State, exec .brakeHoldEnd s = .next t ∧
    t.power.clk.all (fun d => !d.halved) = true ∧ t.power.brakeUntil = none ∧ regsBut [] s t) ∧
  (∀ (x : Nat) (s : State), s.power.brakeUntil = some x → s.now < x → exec .brakeHoldEnd s = .next s) ∧
  (∀ (d : DieId) (s : State), dieAwake s d.val = true → clocksRun s = true → s.power.clk.length = 2 →
    ∃ t : State, exec (.droopDetect d) s = .next t ∧ (clkOf t d.val).droop = true ∧ getB t Reg.PWR_FLAGS 2 = true ∧ regsBut [Reg.PWR_FLAGS] s t) ∧
  (∀ (d : DieId) (s : State), s.power.clk.length = 2 → ∃ t : State, exec (.droopEnd d) s = .next t ∧ (clkOf t d.val).droop = false ∧
    regsBut [] s t ∧ sameBytes s t ∧ SameUnits s t)) ∧
((∀ (d : DieId) (s : State), s.power.clk.length = 2 → dieAwake s d.val = true → (clkOf s d.val).raise' = none →
    effectiveOp s d.val < (clkOf s d.val).op →
    ∃ t : State, exec (.opChange d) s = .next t ∧ (clkOf t d.val).op = (clkOf s d.val).op - 1 ∧ (clkOf t d.val).volt = (clkOf s d.val).op - 1 ∧
      regsBut [] s t) ∧
  (∀ (d : DieId) (s : State), s.power.clk.length = 2 → dieAwake s d.val = true → (clkOf s d.val).raise' = none →
    (clkOf s d.val).blocked = none → (clkOf s d.val).op < effectiveOp s d.val →
    ∃ t : State, exec (.opChange d) s = .next t ∧ (clkOf t d.val).op = (clkOf s d.val).op ∧ (clkOf t d.val).volt = (clkOf s d.val).op + 1 ∧
      (clkOf t d.val).raise' = some { to' := (clkOf s d.val).op + 1, at' := s.now } ∧ regsBut [] s t) ∧
  (∀ (d : DieId) (r : Raise) (s : State), s.power.clk.length = 2 → (clkOf s d.val).raise' = some r → r.to' ≤ effectiveOp s d.val →
    ∃ t : State, exec (.avsVdone d) s = .next t ∧ (clkOf t d.val).op = r.to' ∧ (clkOf t d.val).raise' = none ∧ regsBut [] s t) ∧
  (∀ (d : DieId) (r : Raise) (s : State), s.power.clk.length = 2 → (clkOf s d.val).raise' = some r → r.to' ≤ effectiveOp s d.val →
    r.at' + 40000 ≤ s.now →
    ∃ t : State, exec (.avsTimeout d) s = .next t ∧ (clkOf t d.val).raise' = none ∧ (clkOf t d.val).volt = (clkOf s d.val).op ∧
      (clkOf t d.val).op = (clkOf s d.val).op ∧ getB t Reg.PWR_FLAGS 4 = true ∧ t.safe.evtSeq = (s.safe.evtSeq + 1) % 2 ^ 32))

/-- A tile sleeps when it may, wakes when an exposure wants it, and is awake 2 µs later with its Enlarger at activity level 0
(15 R473 to R475; 04 R146). A compute die enters dormancy when its conditions hold, begins to wake on a request or ahead of an entry that touches it, and is
ready 50 µs later at OP0 with its scratchpads zero (15 R476 to R478).
The model's own choices under these clauses: logs 3 and 49. -/
def Obligations.TilesAndDiesSleep : Prop :=
  ((∀ (t : TileId) (s : State), maySleep s t.val = true → ∃ u : State, exec (.tileSleep t) s = .next u ∧ (getT u t.val).power = .asleep ∧
    (∀ j, j ≠ t.val → getT u j = getT s j) ∧ regsBut [] s u ∧ sameBytes s u) ∧
  (∀ (t : TileId) (s : State), maySleep s t.val = false → exec (.tileSleep t) s = .next s) ∧
  (∀ (t : TileId) (s : State), tileWanted s t.val = true → dieAwake s (dieOf t.val) = true → (getT s t.val).power = .asleep →
    ∃ u : State, exec (.tileWake t) s = .next u ∧ (getT u t.val).power = .waking ∧ (getT u t.val).wakeAt = s.now ∧
      (∀ j, j ≠ t.val → getT u j = getT s j)) ∧
  (∀ (t : TileId) (s : State), (getT s t.val).power = .waking → (getT s t.val).wakeAt + 1600 ≤ s.now →
    ∃ u : State, exec (.tileAwake t) s = .next u ∧ (getT u t.val).power = .awake ∧ (getT u t.val).enl.level = 0 ∧
      (∀ j, j ≠ t.val → getT u j = getT s j) ∧ regsBut [] s u) ∧
  (∀ (t : TileId) (s : State), (getT s t.val).power = .waking → s.now < (getT s t.val).wakeAt + 1600 → exec (.tileAwake t) s = .next s)) ∧
((∀ (d : DieId) (v : Word) (s : State), s.power.dies.length = 2 → bitOf v 31 = true → dieSt s d.val = .awake →
    ∃ t : State, exec (.dieDormancyRequest d v) s = .next t ∧ dieSt t d.val = .entering ∧ getB t (dieCtl d.val) 31 = true ∧
      regsBut [dieCtl d.val, Reg.ERR_HOST_STATUS] s t ∧ sameBytes s t) ∧
  (∀ (d : DieId) (s : State), s.power.dies.length = 2 → dieSt s d.val = .entering → mayDormant s d.val = true → getB s (dieCtl d.val) 31 = true →
    ∃ t : State, exec (.dieDormancyEnter d) s = .next t ∧ dieSt t d.val = .dormant ∧
      (∀ i, i < 128 → (getT t (128 * d.val + i)).power = .asleep) ∧ t.ctxs = s.ctxs) ∧
  (∀ (d : DieId) (v : Word) (s : State), s.power.dies.length = 2 → s.power.clk.length = 2 → bitOf v 31 = false → dieSt s d.val = .dormant →
    ∃ t : State, exec (.dieWakeRequest d v) s = .next t ∧ dieSt t d.val = .waking ∧ (clkOf t d.val).wakeAt = s.now) ∧
  (∀ (d : DieId) (s : State), s.power.dies.length = 2 → s.power.clk.length = 2 → autoWakeDue s d.val = true → dieSt s d.val = .dormant →
    ∃ t : State, exec (.dieAutoWake d) s = .next t ∧ dieSt t d.val = .waking ∧ (clkOf t d.val).wakeAt = s.now ∧ regsBut [] s t) ∧
  (∀ (d : DieId) (s : State), s.power.dies.length = 2 → s.power.clk.length = 2 → dieSt s d.val = .waking →
    (clkOf s d.val).wakeAt + 40000 ≤ s.now → getB s (dieCtl d.val) 31 = false →
    ∃ t : State, exec (.dieReady d) s = .next t ∧ dieSt t d.val = .awake ∧ (clkOf t d.val).op = 0 ∧
      (∀ i x, i < 128 → x < spBytes → getByte t (spBase (128 * d.val + i) + x) = 0#8)))

/-! ### Time (13) -/

/-- Device time is set and adjusted exactly, as a time step that is flagged; set_valid makes it valid (13 R411, R412). A switch request moves to a locked shadow: without a time step within 50 ns, and beyond that by a step of the shadow's phase when it
is forced or switch_policy is 1; it is refused otherwise, and always where the shadow is not locked; in the cycle of an automatic switch
it has no effect (13 R424, Tables 13.5 and 13.7).
The model's own choices under these clauses: logs 3 and 51. -/
def Obligations.TimeStepsAndServoSwitches : Prop :=
  ((∀ (b : Bool) (s : State), s.time.running = true → ∃ t : State, exec (.timeSet b) s = .next t ∧ t.time.dev = setTime s ∧
    getB t Reg.TIME_FLAGS 2 = true ∧ (b = true → getB t Reg.TIME_STATUS 31 = true) ∧
    (b = false → getB t Reg.TIME_STATUS 31 = getB s Reg.TIME_STATUS 31) ∧ sameBytes s t ∧ t.otp = s.otp) ∧
  (∀ s : State, s.time.running = true → ∃ t : State, exec .timeAdj s = .next t ∧
    t.time.dev = wrapTime ((s.time.dev : Int) + signed 48 (getF s Reg.TIME_ADJ_HI 15 0 * 2 ^ 32 + getN s Reg.TIME_ADJ_LO)) ∧
    getB t Reg.TIME_FLAGS 2 = true ∧ sameBytes s t) ∧
  (∀ (b : Bool) (s : State), s.time.running = false → exec (.timeSet b) s = .next s ∧ exec .timeAdj s = .next s)) ∧
((∀ (b : Bool) (s : State), s.time.running = true → s.time.switchAt ≠ some s.now → shadowLocked s = true →
    (servoOf s (1 - activeServo s)).phi.natAbs ≤ 50 * 65536 →
    ∃ t : State, exec (.timeSwitchRequest b) s = .next t ∧ activeServo t = 1 - activeServo s ∧ t.time.dev = s.time.dev ∧ getB t Reg.TIME_FLAGS 3 = true) ∧
  (∀ (b : Bool) (s : State), s.time.running = true → s.time.switchAt ≠ some s.now → shadowLocked s = true → 50 * 65536 < (servoOf s (1 - activeServo s)).phi.natAbs →
    b = true ∨ getB s Reg.TIME_SWITCH_CFG 0 = true →
    ∃ t : State, exec (.timeSwitchRequest b) s = .next t ∧ activeServo t = 1 - activeServo s ∧
      t.time.dev = wrapTime ((s.time.dev : Int) + (servoOf s (1 - activeServo s)).phi)) ∧
  (∀ s : State, s.time.running = true → s.time.switchAt ≠ some s.now → shadowLocked s = true → 50 * 65536 < (servoOf s (1 - activeServo s)).phi.natAbs →
    getB s Reg.TIME_SWITCH_CFG 0 = false →
    ∃ t : State, exec (.timeSwitchRequest false) s = .next t ∧ activeServo t = activeServo s ∧ getB t Reg.TIME_FLAGS 4 = true ∧ t.time.dev = s.time.dev) ∧
  (∀ (b : Bool) (s : State), s.time.running = true → s.time.switchAt ≠ some s.now → shadowLocked s = false →
    ∃ t : State, exec (.timeSwitchRequest b) s = .next t ∧ activeServo t = activeServo s ∧ getB t Reg.TIME_FLAGS 4 = true ∧ t.time.dev = s.time.dev) ∧
  (∀ (b : Bool) (s : State), s.time.switchAt = some s.now → exec (.timeSwitchRequest b) s = .next s))

/-- A sample that reaches the acquiring active servo, below the step threshold and outside the lock threshold, moves I and y by the PI law
exactly, each clamped to fmax; one at the step threshold steps device time back by its size where a step is permitted; a disabled servo
takes none (13 R420). A locked servo that loses its source holds the rate of its integrator; a holdover of the active servo that reaches its limit sets
hold_expired; a lost SyncE clock holds the rate of device time until it returns (13 R421, R425).
The model's own choices under these clauses: logs 3 and 51. -/
def Obligations.ServoLawsAndHoldover : Prop :=
  ((∀ (n : Fin 2) (x : BitVec 48) (s : State), s.time.running = true → servoEn s n.val = true → activeServo s = n.val →
    s.time.servos.length = 2 → (servoOf s n.val).st = 1 → x.toInt.natAbs < getN s (Reg.TIME_S_STEP_THR n.val) * 65536 →
    getF s (Reg.TIME_S_LOCK n.val) 15 0 * 65536 < x.toInt.natAbs →
    ∃ t : State, exec (.servoSample n x) s = .next t ∧
      (servoOf t n.val).i = clampInt ((servoOf s n.val).i + (getN s (Reg.TIME_S_KI n.val) : Int) * x.toInt)
        ((getN s (Reg.TIME_S_FMAX n.val) : Int) * 2 ^ 40) ∧
      (servoOf t n.val).y = clampInt ((getN s (Reg.TIME_S_KP n.val) : Int) * x.toInt + (servoOf t n.val).i)
        ((getN s (Reg.TIME_S_FMAX n.val) : Int) * 2 ^ 40) ∧
      (servoOf t n.val).st = 1 ∧ t.time.dev = s.time.dev ∧ getR t (Reg.TIME_S_SAMPLES n.val) = satAdd (getR s (Reg.TIME_S_SAMPLES n.val)) 1) ∧
  (∀ (n : Fin 2) (x : BitVec 48) (s : State), s.time.running = true → servoEn s n.val = true → activeServo s = n.val →
    getN s (Reg.TIME_S_STEP_THR n.val) * 65536 ≤ x.toInt.natAbs → getB s (Reg.TIME_S_CFG n.val) 27 = true →
    (schArmed s = false ∨ getB s (Reg.TIME_S_CFG n.val) 26 = true) → s.time.setAt ≠ some s.now →
    ∃ t : State, exec (.servoSample n x) s = .next t ∧ t.time.dev = wrapTime ((s.time.dev : Int) - x.toInt) ∧
      getR t (Reg.TIME_S_STEPS n.val) = satAdd (getR s (Reg.TIME_S_STEPS n.val)) 1 ∧ getB t Reg.TIME_FLAGS 2 = true) ∧
  (∀ (n : Fin 2) (x : BitVec 48) (s : State), servoEn s n.val = false ∨ s.time.running = false → exec (.servoSample n x) s = .next s)) ∧
((∀ (n : Fin 2) (s : State), s.time.running = true → lossDue s n.val = true → (servoOf s n.val).st = 2 → s.time.servos.length = 2 →
    ∃ t : State, exec (.servoLossTimeout n) s = .next t ∧ (servoOf t n.val).st = 3 ∧ (servoOf t n.val).y = (servoOf s n.val).i ∧
      (servoOf t n.val).holdAt = s.now ∧ getB t Reg.TIME_FLAGS 1 = true) ∧
  (∀ (n : Fin 2) (s : State), lossDue s n.val = false → exec (.servoLossTimeout n) s = .next s) ∧
  (∀ s : State, (servoOf s (activeServo s)).st = 3 → getN s Reg.TIME_HOLD_LIMIT ≤ holdSec s (activeServo s) →
    getB s Reg.TIME_STATUS 25 = false → ∃ t : State, exec .holdLimitExpired s = .next t ∧ getB t Reg.TIME_STATUS 25 = true ∧
      getB t Reg.TIME_FLAGS 5 = true ∧ t.time = s.time) ∧
  (∀ s : State, dpllMode s = 1 → s.time.synceLost = false → ∃ t : State, exec .synceClockLost s = .next t ∧ t.time.synceLost = true ∧
    t.time.rateHeld = some (timeRate s) ∧ timeRate t = timeRate s ∧ getB t Reg.TIME_FLAGS 7 = true) ∧
  (∀ s : State, s.time.synceLost = true → macUp s (synceSrc s) = true → ∃ t : State, exec .synceClockRestored s = .next t ∧
    t.time.synceLost = false ∧ t.time.rateHeld = none ∧ regsBut [] s t))

/-- PPS: an input edge is stamped against the nearest device second, its loss is seen after 1.5 s, and the output rises at each second
plus its offset while device time is valid; a device frame start counts the frame that device time is in. A SYNCE_CLK_OUTn that is
enabled carries the clock of the MAC chosen, divided to 25 or 156.25 MHz, while that MAC's link is up, and is low otherwise
(13 R408, R426 to R428). Timed pins: a one-shot arms for the instant that its registers name and a period under 10 ns is refused; a disarmed pin stands at the
inactive level; a one-shot fires once at its instant and a periodic pin again a period later; a pulse ends, a rising edge is stamped
while fewer than four stamps wait and else flagged, and a pop gives the oldest up (13 R429 to R431).
The model's own choices under these clauses: logs 3 and 52. -/
def Obligations.PulsesFramesAndPins : Prop :=
  ((∀ s : State, getB s Reg.TIME_PPS_IN_CFG 31 = true → s.time.running = true → ∃ t : State, exec .ppsInEdge s = .next t ∧ t.time.ppsIn = some s.now ∧
    getB t Reg.TIME_STATUS 24 = true ∧
    (2 * (s.time.dev % unitsPerSec) < unitsPerSec → getR t Reg.TIME_PPS_IN_ERR = BitVec.ofNat 32 (s.time.dev % unitsPerSec / 256)) ∧
    (unitsPerSec ≤ 2 * (s.time.dev % unitsPerSec) → getR t Reg.TIME_PPS_IN_ERR =
      BitVec.ofNat 32 (wrapN 32 (((s.time.dev % unitsPerSec : Nat) - (unitsPerSec : Int)) / 256)))) ∧
  (∀ (x : Nat) (s : State), s.time.ppsIn = some x → x + 1200000000 ≤ s.now → ∃ t : State, exec .ppsInLost s = .next t ∧ t.time.ppsIn = none ∧
    getB t Reg.TIME_STATUS 24 = false ∧ getB t Reg.TIME_FLAGS 6 = true) ∧
  (∀ (x : Nat) (s : State), s.time.ppsIn = some x → s.now < x + 1200000000 → exec .ppsInLost s = .next s) ∧
  (∀ s : State, ppsAllowed s = true → s.time.ppsUntil = none → s.time.ppsDone < (ppsInstant s).toNat →
    ∃ t : State, exec .ppsOutEdge s = .next t ∧ t.time.ppsDone = (ppsInstant s).toNat ∧
      t.time.ppsUntil = some ((ppsInstant s).toNat + getF s Reg.TIME_PPS_OUT 8 0 * 1000 * unitsPerUs) ∧ regsBut [] s t) ∧
  (∀ (u : Nat) (s : State), ppsAllowed s = true → s.time.ppsUntil = some u → u ≤ s.time.dev →
    ∃ t : State, exec .ppsOutEdge s = .next t ∧ t.time.ppsUntil = none ∧ regsBut [] s t) ∧
  (∀ s : State, ppsAllowed s = false → ∃ t : State, exec .ppsOutEdge s = .next t ∧ t.time.ppsUntil = none ∧ regsBut [] s t) ∧
  (∀ s : State, s.time.running = true → exec .deviceFrameStart s = .next { s with time := { s.time with frame := frameNow s } }) ∧
  (∀ (n : Fin 2) (v : Word) (s : State), ∃ t : State, exec (.registerWrite (Reg.TIME_SYNCE_OUT n.val) v) s = .next t ∧
    synceClk t n.val = (if bitOf v 31 = true ∧ linkUp s (fieldOf v 4 0) = true then
      some (fieldOf v 4 0, if bitOf v 30 then 156250000 else 25000000) else none) ∧
    regsBut [Reg.TIME_SYNCE_OUT n.val, Reg.ERR_HOST_STATUS] s t ∧ sameBytes s t ∧ SameUnits s t) ∧
  (∀ (m : MacId) (n : Fin 2) (s : State), getF s (Reg.TIME_SYNCE_OUT n.val) 4 0 = m.val →
    ∃ t : State, exec (.ethLinkDown m) s = .next t ∧ synceClk t n.val = none)) ∧
((∀ (k : Fin 16) (v : Word) (s : State), bitOf v 31 = true → fieldOf v 2 0 = 2 → ∃ t : State, exec (.tpinArm k v) s = .next t ∧
    pinArmed t k.val = true ∧ (getPin t k.val).mode = 2 ∧
    (getPin t k.val).next = ((getF s (Reg.TPIN_I_T_SEC_HI k.val) 15 0 * 2 ^ 32 + getN s (Reg.TPIN_I_T_SEC_LO k.val)) * 1000000000 +
      getN s (Reg.TPIN_I_T_NS k.val)) * 65536 + getF s (Reg.TPIN_I_T_FRAC k.val) 15 0 ∧ sameBytes s t) ∧
  (∀ (k : Fin 16) (v : Word) (s : State), bitOf v 31 = true → fieldOf v 2 0 = 3 → getN s (Reg.TPIN_I_PERIOD_NS k.val) < 10 →
    ∃ t : State, exec (.tpinArm k v) s = .next t ∧ pinArmed t k.val = false ∧ getB t (Reg.TPIN_I_FLAGS k.val) 3 = true) ∧
  (∀ (k : Fin 16) (v : Word) (s : State), bitOf v 30 = true → bitOf v 31 = false → ∃ t : State, exec (.tpinDisarm k v) s = .next t ∧
    pinArmed t k.val = false ∧ (getPin t k.val).active = false ∧ (getPin t k.val).until' = none ∧ sameBytes s t) ∧
  (∀ (k : Fin 16) (s : State), pinArmed s k.val = true → s.time.running = true → (getPin s k.val).next ≤ s.time.dev → (getPin s k.val).mode = 2 →
    ∃ t : State, exec (.tpinFire k) s = .next t ∧ (getPin t k.val).active = true ∧ pinArmed t k.val = false ∧
      getB t (Reg.TPIN_I_FLAGS k.val) 0 = true ∧ (∀ j, j ≠ k.val → getPin t j = getPin s j)) ∧
  (∀ (k : Fin 16) (s : State), pinArmed s k.val = true → s.time.running = true → (getPin s k.val).next ≤ s.time.dev → (getPin s k.val).mode = 3 →
    ∃ t : State, exec (.tpinFire k) s = .next t ∧ (getPin t k.val).active = true ∧ pinArmed t k.val = true ∧
      (getPin t k.val).next = (getPin s k.val).next + (getPin s k.val).period ∧ getB t (Reg.TPIN_I_FLAGS k.val) 0 = true ∧
      (∀ j, j ≠ k.val → getPin t j = getPin s j)) ∧
  (∀ (k : Fin 16) (s : State), s.time.dev < (getPin s k.val).next → exec (.tpinFire k) s = .next s) ∧
  (∀ (k : Fin 16) (u : Nat) (s : State), (getPin s k.val).active = true → (getPin s k.val).until' = some u → u ≤ s.time.dev →
    ∃ t : State, exec (.tpinPulseEnd k) s = .next t ∧ (getPin t k.val).active = false ∧ (getPin t k.val).until' = none ∧ regsBut [] s t) ∧
  (∀ (k : Fin 16) (s : State), getF s (Reg.TPIN_I_CFG k.val) 2 0 = 1 → getF s (Reg.TPIN_I_CFG k.val) 5 4 = 0 → (getPin s k.val).fifo.length < 4 →
    ∃ t : State, exec (.tpinCaptureEdge k true) s = .next t ∧ (getPin t k.val).fifo = (getPin s k.val).fifo ++ [s.time.dev] ∧
      (getPin t k.val).level = true ∧ regsBut [] s t) ∧
  (∀ (k : Fin 16) (s : State), getF s (Reg.TPIN_I_CFG k.val) 2 0 = 1 → getF s (Reg.TPIN_I_CFG k.val) 5 4 = 0 → 4 ≤ (getPin s k.val).fifo.length →
    ∃ t : State, exec (.tpinCaptureEdge k true) s = .next t ∧ (getPin t k.val).fifo = (getPin s k.val).fifo ∧
      getB t (Reg.TPIN_I_FLAGS k.val) 2 = true) ∧
  (∀ (k : Fin 16) (v : Word) (s : State), bitOf v 0 = true → ∃ t : State, exec (.tpinCapPop k v) s = .next t ∧
    (getPin t k.val).fifo = (getPin s k.val).fifo.tail ∧ regsBut [Reg.TPIN_I_CAP_POP k.val, Reg.ERR_HOST_STATUS] s t))

/-! ### Ethernet (12) -/

/-- A change of a port's mode drops its links and sets its timing correction; a link that comes up shows in the status and one that goes
down is flagged and loses its frames (12 R380; 13 Table 13.2). One-way delay: a request of the form listed is answered with its ingress stamp and another is counted; a measurement is started and
ends with the stamps' difference in ns or after 10 ms; a PTP message handed over waits in its queue (12 R383, R384, R386; 13 R417). The
answer is queued where its frame, whose length is not stated (log 15), fits an empty queue.
The model's own choices under these clauses: logs 3 and 62. -/
def Obligations.PortsLinksAndDelays : Prop :=
  ((∀ (p : Fin 8) (v : Word) (s : State), fieldOf v 1 0 ≠ portMode s p.val → ∃ t : State, exec (.ethModeWrite p v) s = .next t ∧
    portMode t p.val = fieldOf v 1 0 ∧ (∀ q, q < 4 → getB t (Reg.ETH_P_STATUS p.val) q = false) ∧
    getR t (Reg.TIME_P_CORR p.val) = corrOf (fieldOf v 1 0)) ∧
  (∀ (m : MacId) (s : State), modeHas (portMode s (m.val / 4)) (m.val % 4) = true → ∃ t : State, exec (.ethLinkUp m) s = .next t ∧
    linkUp t m.val = true ∧ regsBut [Reg.ETH_P_STATUS (m.val / 4)] s t ∧ sameBytes s t ∧ SameUnits s t) ∧
  (∀ (m : MacId) (s : State), modeHas (portMode s (m.val / 4)) (m.val % 4) = false → exec (.ethLinkUp m) s = .next s) ∧
  (∀ (m : MacId) (s : State), getB s (Reg.ETH_P_STATUS (m.val / 4)) (m.val % 4) = true → ∃ t : State, exec (.ethLinkDown m) s = .next t ∧
    linkUp t m.val = false ∧ getB t (Reg.ETH_P_FLAGS (m.val / 4)) (m.val % 4) = true ∧ (∀ f ∈ t.net.egress, f.mac ≠ m.val) ∧
    mapFind t.net.wire m.val = none ∧ (∀ p ∈ t.net.pace, p.frame.mac ≠ m.val) ∧ sameBytes s t ∧
    t.tiles = s.tiles ∧ t.otp = s.otp) ∧
  (∀ (m : MacId) (s : State), getB s (Reg.ETH_P_STATUS (m.val / 4)) (m.val % 4) = false → exec (.ethLinkDown m) s = .next s)) ∧
((∀ (f : OwdMsg) (s : State), linkUp s f.mac.val = true → owdForm f = true → f.action = 0 ∨ f.action = 1 → s.net.egress = [] →
    ∃ t : State, exec (.ecpriOwdRequest f) s = .next t ∧ sameBytes s t ∧ SameUnits s t ∧
      (Config.frameBytes 3 24 ≤ 262144 → regsBut [] s t ∧ ∃ g, t.net.egress = [g] ∧ g.mac = f.mac.val ∧ g.dst = f.src ∧
        g.msg = .owd 2 f.measId (stampIn s f.mac.val f.ago) 0)) ∧
  (∀ (f : OwdMsg) (s : State), linkUp s f.mac.val = true → owdForm f = false ∨ ¬(f.action = 0 ∨ f.action = 1 ∨ f.action = 5) →
    exec (.ecpriOwdRequest f) s = .next (incR s Reg.FHX_RX_BADHDR 1)) ∧
  (∀ (v : Word) (s : State), bitOf v 31 = true → s.net.owd = none → ∃ t o, exec (.owdStart v) s = .next t ∧ t.net.owd = some o ∧
    o.ru = fieldOf v 5 0 ∧ o.start = s.now ∧ getB t Reg.FHX_OWD_CTL 31 = true ∧ getR t Reg.FHX_OWD_RESULT = 0#32 ∧ sameBytes s t) ∧
  (∀ (f : OwdMsg) (o : Owd) (s : State), linkUp s f.mac.val = true → owdForm f = true → f.action = 2 → s.net.owd = some o →
    f.measId = o.measId → o.stamp ≠ 0 →
    ∃ t : State, exec (.owdResponseRx f) s = .next t ∧ t.net.owd = none ∧ getB t Reg.FHX_OWD_CTL 31 = false ∧
      getR t Reg.FHX_OWD_RESULT = BitVec.ofNat 32 (2 ^ 31 + wrapN 30 ((((f.stamp : Nat) : Int) - f.comp - ((o.stamp : Nat) : Int)) / 65536)) ∧
      regsBut [Reg.FHX_OWD_CTL, Reg.FHX_OWD_RESULT] s t ∧ sameBytes s t) ∧
  (∀ (o : Owd) (s : State), s.net.owd = some o → o.start + 8000000 ≤ s.now → ∃ t : State, exec .owdTimeout s = .next t ∧ t.net.owd = none ∧
    getR t Reg.FHX_OWD_RESULT = BitVec.ofNat 32 (2 ^ 30) ∧ getB t Reg.FHX_OWD_CTL 31 = false) ∧
  (∀ (o : Owd) (s : State), s.net.owd = some o → s.now < o.start + 8000000 → exec .owdTimeout s = .next s) ∧
  (∀ (r : PtpTx) (s : State), linkUp s r.mac.val = true → s.net.egress = [] → r.length ≤ 262144 →
    ∃ (t : State) (g : TxFrame), exec (.ptpEventMessageTx r) s = .next t ∧ t.net.egress = [g] ∧ g.mac = r.mac.val ∧ g.queue = r.pcp % 8 ∧ g.bytes = r.length ∧
      regsBut [] s t ∧ sameBytes s t ∧ SameUnits s t))

/-- Received frames: a PTP message addressed to the MAC or to a PTP multicast address is counted, stamped and handed on; one of no class of
Table 12.2 is counted and dropped; one with a bad FCS is counted as an error and has no other effect, and a MAC whose link is down hears
nothing. A northbound message whose segments are still missing after seg_timeout is given up (12 R381, R382, R398; 13 R414).
The model's own choices under these clauses: logs 3 and 64. -/
def Obligations.FramesAreClassified : Prop :=
  (∀ (f : EthFrame) (ty sq : Nat) (e : Bool) (s : State), linkUp s f.mac.val = true → f.fcsOk = true → 64 ≤ f.length →
    f.length ≤ maxFrame s f.mac.val → f.tags.length = 1 → f.body = .ptp ty sq e → (f.dst = macAddr s f.mac.val ∨ ptpDst f.dst = true) →
    ∃ t : State, exec (.ethFrameRx f) s = .next t ∧ t.net.ingress = s.net.ingress ++ [(f.mac.val, ty, sq, stampIn s f.mac.val f.ago)] ∧
      getR t (Reg.ETH_PQ_RX_FRAMES (f.mac.val / 4) (f.mac.val % 4)) = satAdd (getR s (Reg.ETH_PQ_RX_FRAMES (f.mac.val / 4) (f.mac.val % 4))) 1 ∧
      regsBut [Reg.ETH_PQ_RX_FRAMES (f.mac.val / 4) (f.mac.val % 4)] s t ∧ sameBytes s t ∧ SameUnits s t) ∧
  (∀ (f : EthFrame) (s : State), linkUp s f.mac.val = true → f.fcsOk = true → 64 ≤ f.length → f.length ≤ maxFrame s f.mac.val →
    f.tags.length = 1 → f.body = .other →
    exec (.ethFrameRx f) s = .next (incR (incR s (Reg.ETH_PQ_RX_FRAMES (f.mac.val / 4) (f.mac.val % 4)) 1)
      (Reg.ETH_PQ_RX_UNCLASS (f.mac.val / 4) (f.mac.val % 4)) 1)) ∧
  (∀ (f : EthFrame) (s : State), linkUp s f.mac.val = true → f.fcsOk = false →
    exec (.ethFrameRx f) s = .next (incR s (Reg.ETH_PQ_RX_ERR (f.mac.val / 4) (f.mac.val % 4)) 1)) ∧
  (∀ (f : EthFrame) (s : State), linkUp s f.mac.val = false → exec (.ethFrameRx f) s = .next s) ∧
  (∀ (p : Fin 16) (r : Reasm) (s : State), s.net.reasm[p.val]? = some r → r.whole = false →
    r.first + 800 * getF s Reg.NB_TIMING 31 16 ≤ s.now →
    ∃ t : State, exec (.nbSegTimeout p) s = .next t ∧ t.net.reasm = s.net.reasm.erase r ∧ sameBytes s t ∧ SameUnits s t) ∧
  (∀ (p : Fin 16) (r : Reasm) (s : State), s.net.reasm[p.val]? = some r → s.now < r.first + 800 * getF s Reg.NB_TIMING 31 16 →
    exec (.nbSegTimeout p) s = .next s)

/-! ### Fronthaul and the receiver measurements (02, 11, 12) -/

/-- A received U-plane frame is judged in the order of Table 12.5: on a link that is down it is not received, a bad header, an unknown
eAxC and a frame before its symbol's window or after the cycle in which that ends are counted and dropped (12 R389; 02 R52, R86). A PRB that passes is written to the
slot buffer at RE i of its symbol and port (12 R390), a PRACH PRB goes to the RXM's store and never to memory, and a DMRS PRB also goes to its
ring's slot on the target tile (12 R391).
The model's own choices under these clauses: logs 65 and 66. -/
def Obligations.UplinkFramesAreJudged : Prop :=
  (∀ (f : UPlaneMsg) (s : State), linkUp s f.mac.val = false → exec (.uplaneRx f) s = .next s) ∧
  (∀ (f : UPlaneMsg) (s : State), linkUp s f.mac.val = true → headerOk f = false →
    exec (.uplaneRx f) s = .next (incR s Reg.FHX_RX_BADHDR 1)) ∧
  (∀ (f : UPlaneMsg) (s : State), linkUp s f.mac.val = true → headerOk f = true → exFind s (f.mac.val, f.vlan, f.pcid, 0) = none →
    exec (.uplaneRx f) s = .next (incR s Reg.FHX_RX_UNKNOWN 1)) ∧
  (∀ (f : UPlaneMsg) (i : Nat) (e : BitVec 128) (s : State), linkUp s f.mac.val = true → headerOk f = true →
    exFind s (f.mac.val, f.vlan, f.pcid, 0) = some (i, e) → f.dir = 0 → f.version = 1 → f.filter = 0 → exPrach e = false →
    namesSymbol s (exCarrier e) f = true → nowGrid s < symStart s (exCarrier e) (frameSlot s (exCarrier e) f) f.symbol →
    ∃ t : State, exec (.uplaneRx f) s = .next t ∧ getR t Reg.FHX_RX_EARLY = satAdd (getR s Reg.FHX_RX_EARLY) 1 ∧
      regsBut [Reg.FHX_RX_EARLY, Reg.FHX_RX_SEQ_GAP] s t ∧ sameBytes s t ∧ SameUnits s t) ∧
  (∀ (f : UPlaneMsg) (i : Nat) (e : BitVec 128) (s : State), linkUp s f.mac.val = true → headerOk f = true →
    exFind s (f.mac.val, f.vlan, f.pcid, 0) = some (i, e) → f.dir = 0 → f.version = 1 → f.filter = 0 → exPrach e = false →
    namesSymbol s (exCarrier e) f = true → symStart s (exCarrier e) (frameSlot s (exCarrier e) f) f.symbol ≤ nowGrid s →
    rxWindowEnd s (exCarrier e) (frameSlot s (exCarrier e) f) f.symbol + gridPerTick ≤ nowGrid s →
    ∃ t : State, exec (.uplaneRx f) s = .next t ∧ getR t Reg.FHX_RX_LATE = satAdd (getR s Reg.FHX_RX_LATE) 1 ∧ getB t Reg.FHX_FLAGS 0 = true ∧
      regsBut [Reg.FHX_RX_LATE, Reg.FHX_FLAGS, Reg.FHX_RX_SEQ_GAP] s t ∧ sameBytes s t ∧ SameUnits s t) ∧
  (∀ (f : UPlaneMsg) (i n : Nat) (e : BitVec 128) (x : USection) (p : PrbIq) (s : State), linkUp s f.mac.val = true → headerOk f = true →
    exFind s (f.mac.val, f.vlan, f.pcid, 0) = some (i, e) → exAt s i = e → i < 8192 → f.dir = 0 → f.version = 1 → f.filter = 0 → exPrach e = false →
    exDmrs e = false → namesSymbol s (exCarrier e) f = true → frameSlot s (exCarrier e) f = n →
    symStart s (exCarrier e) n f.symbol ≤ nowGrid s → nowGrid s < rxWindowEnd s (exCarrier e) n f.symbol + gridPerTick →
    f.sections = [x] → sectionOk s (exCarrier e) i x = true → x.prbs = [p] →
    (rxBits (getUl s (exCarrier e) n) i f.symbol).testBit x.startPrb = false → getN s (Reg.FHX_CC_CAPSZ (exCarrier e)) = 0 →
    (getUl s (exCarrier e) n).dmrs = [] → engineOpen s (reAt s (exCarrier e) n f.symbol (exPort e) (12 * x.startPrb)) = true →
    (∃ y ∈ expected s (exCarrier e) n f.symbol, y.1 ≠ i ∧ lackBits (getUl s (exCarrier e) n) y.1 f.symbol y.2 ≠ 0) →
    ∃ t : State, exec (.uplaneRx f) s = .next t ∧ (rxBits (getUl t (exCarrier e) n) i f.symbol).testBit x.startPrb = true ∧
      getBytes t (reAt s (exCarrier e) n f.symbol (exPort e) (12 * x.startPrb)) (prbBytes (exK e) (exComp e) p).length =
        prbBytes (exK e) (exComp e) p ∧
      (∀ a, a < reAt s (exCarrier e) n f.symbol (exPort e) (12 * x.startPrb) ∨
        reAt s (exCarrier e) n f.symbol (exPort e) (12 * x.startPrb) + (prbBytes (exK e) (exComp e) p).length ≤ a → getByte t a = getByte s a) ∧
      regsBut [Reg.FHX_CLIP i, Reg.FHX_RX_SEQ_GAP, Reg.ERR_CAPTURE_LOST] s t ∧ t.tiles = s.tiles ∧ t.ctxs = s.ctxs) ∧
  (∀ (f : UPlaneMsg) (i n : Nat) (e : BitVec 128) (x : USection) (p : PrbIq) (s : State), linkUp s f.mac.val = true → headerOk f = true →
    exFind s (f.mac.val, f.vlan, f.pcid, 0) = some (i, e) → exAt s i = e → i < 8192 → f.dir = 0 → f.version = 1 → f.filter ≠ 0 → exPrach e = true →
    namesSymbol s (exCarrier e) f = true → frameSlot s (exCarrier e) f = n →
    symStart s (exCarrier e) n f.symbol ≤ nowGrid s → nowGrid s < rxWindowEnd s (exCarrier e) n f.symbol + gridPerTick →
    f.sections = [x] → sectionOk s (exCarrier e) i x = true → x.prbs = [p] →
    (rxBits (getUl s (exCarrier e) n) i f.symbol).testBit x.startPrb = false → getN s (Reg.FHX_CC_CAPSZ (exCarrier e)) = 0 →
    (∃ y ∈ expected s (exCarrier e) n f.symbol, y.1 ≠ i ∧ lackBits (getUl s (exCarrier e) n) y.1 f.symbol y.2 ≠ 0) →
    ∃ t : State, exec (.uplaneRx f) s = .next t ∧ (rxBits (getUl t (exCarrier e) n) i f.symbol).testBit x.startPrb = true ∧
      (mapFind (getCar t (exCarrier e)).rxStore (storeKey n i f.symbol)).isSome = true ∧ sameBytes s t) ∧
  (∀ (f : UPlaneMsg) (i n tl : Nat) (e : BitVec 128) (x : USection) (p : PrbIq) (r : UlTti) (s : State), linkUp s f.mac.val = true →
    headerOk f = true → exFind s (f.mac.val, f.vlan, f.pcid, 0) = some (i, e) → exAt s i = e → i < 8192 → f.dir = 0 → f.version = 1 → f.filter = 0 →
    exPrach e = false → exDmrs e = true → exTiles e = [tl] → namesSymbol s (exCarrier e) f = true → frameSlot s (exCarrier e) f = n →
    (getUl s (exCarrier e) n).cls = .onTime → (getUl s (exCarrier e) n).req = some r → isDmrs s (exCarrier e) n f.symbol = true →
    symStart s (exCarrier e) n f.symbol ≤ nowGrid s → nowGrid s < rxWindowEnd s (exCarrier e) n f.symbol + gridPerTick →
    f.sections = [x] → sectionOk s (exCarrier e) i x = true → x.prbs = [p] → s.carriers.flatMap (fun kv => kv.2.ul.flatMap (fun u => u.2.dmrs)) = [] →
    rxBits (getUl s (exCarrier e) n) i f.symbol = 0 → filledBits (getUl s (exCarrier e) n) i f.symbol = 0 → 1 < ccPrb s (exCarrier e) →
    getN s (Reg.FHX_CC_CAPSZ (exCarrier e)) = 0 → runsOn s (exCtx e) tl = true → (ctxRing s (exCtx e) tl (exRing e)).en = true →
    (ctxRing s (exCtx e) tl (exRing e)).occ < (ctxRing s (exCtx e) tl (exRing e)).slots → recvAdvances s (exCtx e) tl (exRing e) = 0 →
    (getT s tl).asleep = [] → (getT s tl).wakingG = [] → s.foreignDirty = [] →
    (∃ y ∈ expected s (exCarrier e) n f.symbol, y.1 ≠ i ∧ lackBits (getUl s (exCarrier e) n) y.1 f.symbol y.2 ≠ 0) →
    ∃ t : State, exec (.uplaneRx f) s = .next t ∧
      getBytes t (spBase tl + (ctxRing s (exCtx e) tl (exRing e)).slotAt ((ctxRing s (exCtx e) tl (exRing e)).tail % 65536) + 24 * x.startPrb)
        (prbBytes (exK e) (exComp e) p).length = prbBytes (exK e) (exComp e) p)

/-- The C-plane of an uplink symbol is queued from its lead before the symbol on, one section of every PRB for each data eAxC, and that of a
PRACH occasion likewise (02 R51; 12 R393). When the cycle in which a symbol's window ends is over, what has not arrived is filled, in a
symbol that goes to no DMRS ring with the canonical zero byte by byte, then the missing flags are set and the symbol is ingested
(02 R52, R53, R86). A frame whose length is not stated is queued where it fits.
The model's own choices under these clauses: logs 3, 15 and 104. -/
def Obligations.UplinkSymbolsAreRequestedAndClosed : Prop :=
  (∀ (c : CarrierId) (n k i : Nat) (e : BitVec 128) (s : State), (getCar s c.val).running = true → fatal s = false → k < 14 →
    ccTdd s c.val = false → (getUl s c.val n).cpSent.contains k = false → symStart s c.val n k ≤ nowGrid s + cpLead s c.val →
    exOf s c.val 0 false = [(i, e)] → exAt s i = e → linkUp s (exMac e) = true → s.net.egress = [] →
    ∃ t : State, exec (.ulCplaneSend c n k) s = .next t ∧ (getUl t c.val n).cpSent = (getUl s c.val n).cpSent ++ [k] ∧ sameBytes s t ∧
      (Config.frameBytes 1 16 ≤ 262144 → regsBut [] s t ∧ ∃ g, t.net.egress = [g] ∧ g.mac = exMac e ∧ g.dst = ruMac s (exRu e) ∧
        g.msg = .cplane i (mapGet 0 s.net.seqTx (2 * i)) 0 (sfnOf s c.val n) (slotOf s c.val n) k 0
          (if 255 < ccPrb s c.val then 0 else ccPrb s c.val) (exComp e) none)) ∧
  (∀ (c : CarrierId) (n k : Nat) (s : State), nowGrid s + cpLead s c.val < symStart s c.val n k ∨ (getUl s c.val n).cpSent.contains k = true →
    exec (.ulCplaneSend c n k) s = .next s) ∧
  (∀ (c : CarrierId) (n k : Nat) (s : State), (getCar s c.val).running = true → fatal s = false →
    (getUl s c.val n).prachSent.contains k = false →
    ∃ t : State, exec (.prachCplaneSend c n k) s = .next t ∧ sameBytes s t ∧
      ((prachOccs s c.val n).contains k = true → symStart s c.val (n - (occFirst s c.val k).1) (occFirst s c.val k).2 ≤ nowGrid s + cpLead s c.val →
        (getUl t c.val n).prachSent = (getUl s c.val n).prachSent ++ [k] ∧
        (∀ (i : Nat) (e : BitVec 128), exOf s c.val 0 true = [(i, e)] → exAt s i = e → linkUp s (exMac e) = true → s.net.egress = [] →
          Config.frameBytes 1 24 ≤ 262144 → ∃ g, t.net.egress = [g] ∧ g.mac = exMac e ∧
            g.msg = .prach i (mapGet 0 s.net.seqTx (2 * i)) (sfnOf s c.val (n - (occFirst s c.val k).1))
              (slotOf s c.val (n - (occFirst s c.val k).1)) (occFirst s c.val k).2 k
              (prachOf s c.val 9 k) (prachOf s c.val 10 k) (prachOf s c.val 11 k) (signed 24 (prachOf s c.val 12 k)))) ∧
      ((prachOccs s c.val n).contains k = false → t = s)) ∧
  (∀ (c : CarrierId) (n l : Nat) (s : State), (getCar s c.val).running = true → l < 14 → ccTdd s c.val = false →
    (getUl s c.val n).closed.contains l = false → rxWindowEnd s c.val n l + gridPerTick ≤ nowGrid s → (getUl s c.val n).pdus = [] →
    (getUl s c.val n).preds = [] → (getUl s c.val n).dmrs = [] → isDmrs s c.val n l = false → dieAwake s 0 = true → dieAwake s 1 = true →
    ∃ t : State, exec (.ulRxWindowEnd c n l) s = .next t ∧ (getUl t c.val n).closed.contains l = true ∧
      (∀ kv ∈ exOf s c.val 0 false, lackBits (getUl t c.val n) kv.1 l (prbMask 0 (ccPrb s c.val)) = 0) ∧
      (∀ kv ∈ exOf s c.val 0 false, exAt s kv.1 = kv.2 → ∀ b, b < ccPrb s c.val → b < 275 →
        (lackBits (getUl s c.val n) kv.1 l (prbMask 0 (ccPrb s c.val))).testBit b = true →
        ∀ j, j < 24 → getByte t (reAt s c.val n l (exPort kv.2) (12 * b) + j) = 0#8) ∧
      (∀ i, rxBits (getUl t c.val n) i l = rxBits (getUl s c.val n) i l)) ∧
  (∀ (c : CarrierId) (n l : Nat) (s : State), (getCar s c.val).running = true → l < 14 → ulSym s c.val n l = true →
    (getUl s c.val n).closed.contains l = false → rxWindowEnd s c.val n l + gridPerTick ≤ nowGrid s →
    exec (.ulRxWindowEnd c n l) s = .next (ingest (markMissing
      (forEach (expected s c.val n l) s (fun x s => fillSym s c.val n l x.1 x.2)) c.val n) c.val n l)) ∧
  (∀ (c : CarrierId) (n l : Nat) (s : State), nowGrid s < rxWindowEnd s c.val n l + gridPerTick ∨ (getUl s c.val n).closed.contains l = true →
    exec (.ulRxWindowEnd c n l) s = .next s)

/-- The noise-floor snapshot of slot n is written while slot n − 1 is on the air, once the slots that it covers are settled: its slot number,
its cell count, and each cell with its power, its count and whether it is valid, a cell of fewer than 8 samples reading the default
(11 R374). A PRACH search ends with what it found, counted, and sets load_over past its bound; it is unclaimed where the slot has no
request by its deadline (11 R359, R364).
The model's own choices under these clauses: logs 3, 15, 67 and 104. -/
def Obligations.TheReceiverMeasures : Prop :=
  (∀ (c : CarrierId) (n : Nat) (s : State), ccValid s c.val = true → 8 ≤ n → slotStart s c.val (n - 1) ≤ nowGrid s →
    nowGrid s < slotStart s c.val n →
    (∀ m ∈ (getCar s c.val).ul.map (·.1), (getCar s c.val).nfNext ≤ m → m ≤ n - (if ccMu s c.val = 3 then 8 else 2) → nfReady s c.val m = true) →
    ∃ t a, exec (.nfSnapshot c n) s = .next t ∧
      a = getN64 s Reg.RXM_NF_BASE_LO Reg.RXM_NF_BASE_HI + (8 * c.val + slotNum s c.val n % 8) * 8192 ∧
      getLe t a 4 = slotNum s c.val n ∧ getLe t (a + 4) 2 = nfGroups s c.val * nfAnts s c.val ∧
      (∀ i, i < nfGroups s c.val * nfAnts s c.val → ∀ x, x = mapGet ⟨0#32, 0, 0⟩ (getCar t c.val).nf i →
        getLe t (a + 64 + 8 * i) 4 = (if 8 ≤ x.count then x.p.toNat else getN s (Reg.RXM_CC_NF_DEF c.val)) ∧
        getLe t (a + 68 + 8 * i) 2 = x.count % 65536 ∧ getLe t (a + 70 + 8 * i) 1 = (decide (8 ≤ x.count)).toNat) ∧
      (∀ y, y < a ∨ (a + 8192 ≤ y ∧ a + 64 + 8 * (nfGroups s c.val * nfAnts s c.val) ≤ y) → getByte t y = getByte s y) ∧
      regsBut [Reg.RXM_NF_SAMPLES, Reg.RXM_NF_RESET] s t ∧ t.tiles = s.tiles ∧ t.ctxs = s.ctxs) ∧
  (∀ (c : CarrierId) (n : Nat) (s : State), ccValid s c.val = false ∨ nowGrid s < slotStart s c.val (n - 1) ∨ slotStart s c.val n ≤ nowGrid s →
    exec (.nfSnapshot c n) s = .next s) ∧
  (∀ (c : CarrierId) (n m : Nat) (s : State), m ∈ (getCar s c.val).ul.map (·.1) → (getCar s c.val).nfNext ≤ m →
    m ≤ n - (if ccMu s c.val = 3 then 8 else 2) → nfReady s c.val m = false → exec (.nfSnapshot c n) s = .next s) ∧
  (∀ (r : PrachResult) (o : PrachOcc) (s : State), findOcc (getUl s r.carrier.val r.slot) r.occ = some o → o.searching = true →
    s.power.hubOn.testBit 13 = true → (getUl s r.carrier.val r.slot).expired = false →
    ∃ t o', exec (.prachSearchDone r) s = .next t ∧ findOcc (getUl t r.carrier.val r.slot) r.occ = some o' ∧ o'.done = true ∧
      o'.searching = false ∧ o'.found = prachSearch s r.carrier.val r.slot r.occ ∧ o'.missing = occMissing s r.carrier.val r.slot r.occ ∧
      (o.since + prachBound s r.carrier.val r.occ < nowGrid s → getB t Reg.RXM_FLAGS 3 = true) ∧
      getR t Reg.RXM_PRACH_OCC = satAdd (getR s Reg.RXM_PRACH_OCC) 1) ∧
  (∀ (r : PrachResult) (o : PrachOcc) (s : State), findOcc (getUl s r.carrier.val r.slot) r.occ = some o → o.searching = true →
    s.power.hubOn.testBit 13 = true → (getUl s r.carrier.val r.slot).expired = true → (getUl s r.carrier.val r.slot).req = none →
    ∃ t : State, exec (.prachSearchDone r) s = .next t ∧ getR t Reg.RXM_PRACH_UNCLAIMED = satAdd (getR s Reg.RXM_PRACH_UNCLAIMED) 1 ∧
      getB t Reg.RXM_FLAGS 2 = true ∧ sameBytes s t) ∧
  (∀ (r : PrachResult) (s : State), findOcc (getUl s r.carrier.val r.slot) r.occ = none → exec (.prachSearchDone r) s = .next s)

/-! ### Northbound requests and the slot's deadlines (02, 12) -/

/-- An UL_TTI.request that the engine does not hear, or that is not from the one L2 peer, is not received; one of an unknown PHY, or one to
which a reason of Table 12.7 applies, is rejected with that reason, counted and latched; an accepted one is held while an earlier slot
waits, and otherwise is on time before the slot's cutoff (stated where no memory word is in error), late from then on, and discarded
after the completion deadline (12 R397, R399; 02 R73 to R76).
The model's own choices under these clauses: logs 55 and 56. -/
def Obligations.UplinkRequestsAreJudged : Prop :=
  (∀ (r : UlTti) (s : State), nbHears s r.hd.mac.val = false ∨ fromPeer s r.hd.srcIp r.hd.srcPort = false →
    exec (.ulTtiRequest r) s = .next s) ∧
  (∀ (r : UlTti) (s : State), nbHears s r.hd.mac.val = true → fromPeer s r.hd.srcIp r.hd.srcPort = true → nbCarrier s r.hd.phyId = none →
    ∃ t : State, exec (.ulTtiRequest r) s = .next t ∧ getN t Reg.NB_REJECT = 2 ^ 31 + 0x81 * 2 ^ 16 + 1 ∧
      getR t Reg.NB_UNKNOWN = satAdd (getR s Reg.NB_UNKNOWN) 1 ∧ t.carriers = s.carriers ∧ sameBytes s t) ∧
  (∀ (r : UlTti) (c code : Nat) (s : State), nbHears s r.hd.mac.val = true → fromPeer s r.hd.srcIp r.hd.srcPort = true → nbCarrier s r.hd.phyId = some c →
    rejectCode s r.hd c (slotNamed s c r.hd.sfn r.hd.slot) (ulChecks s r c (slotNamed s c r.hd.sfn r.hd.slot)) = some code →
    ∃ t : State, exec (.ulTtiRequest r) s = .next t ∧ getN t Reg.NB_REJECT = 2 ^ 31 + c * 2 ^ 24 + 0x81 * 2 ^ 16 + code ∧
      getR t (rejectCounter code) = satAdd (getR s (rejectCounter code)) 1 ∧ t.safe.evtSeq = (s.safe.evtSeq + 1) % 2 ^ 32 ∧
      t.carriers = s.carriers ∧ sameBytes s t) ∧
  (∀ (r : UlTti) (c n : Nat) (s : State), nbHears s r.hd.mac.val = true → fromPeer s r.hd.srcIp r.hd.srcPort = true → nbCarrier s r.hd.phyId = some c →
    n = slotNamed s c r.hd.sfn r.hd.slot → rejectCode s r.hd c n (ulChecks s r c n) = none → earlierOpen s c n = false →
    (getUl s c n).expired = false → nowGrid s < completionDeadline s c n → nowGrid s < ulCutoff s c n → (getUl s c n).pdus = [] →
    s.ecc.single = [] → s.ecc.bad = [] →
    ∃ t : State, exec (.ulTtiRequest r) s = .next t ∧ (getUl t c n).cls = .onTime ∧ (getUl t c n).req = some r ∧
      (getUl t c n).pdus.map (·.pdu) = r.pusch) ∧
  (∀ (r : UlTti) (c n : Nat) (s : State), nbHears s r.hd.mac.val = true → fromPeer s r.hd.srcIp r.hd.srcPort = true → nbCarrier s r.hd.phyId = some c →
    n = slotNamed s c r.hd.sfn r.hd.slot → rejectCode s r.hd c n (ulChecks s r c n) = none → earlierOpen s c n = true →
    ∃ t : State, exec (.ulTtiRequest r) s = .next t ∧ (getUl t c n).held = some r ∧ (getUl t c n).heldAt = nowGrid s ∧
      (getUl t c n).cls = (getUl s c n).cls ∧ regsBut [Reg.NB_RX_MSG] s t ∧ sameBytes s t) ∧
  (∀ (r : UlTti) (c n : Nat) (s : State), nbHears s r.hd.mac.val = true → fromPeer s r.hd.srcIp r.hd.srcPort = true → nbCarrier s r.hd.phyId = some c →
    n = slotNamed s c r.hd.sfn r.hd.slot → rejectCode s r.hd c n (ulChecks s r c n) = none → earlierOpen s c n = false →
    (getUl s c n).expired = false → nowGrid s < completionDeadline s c n → ulCutoff s c n ≤ nowGrid s →
    (∀ kv ∈ (getCar s c).ul, kv.2.held = none) →
    ∃ t : State, exec (.ulTtiRequest r) s = .next t ∧ (getUl t c n).cls = .late ∧ (getUl t c n).req = some r ∧
      (∀ p ∈ (getUl t c n).pdus, p.decided = some (false, 1)) ∧ getR t (Reg.SCH_CC_UL_LATE c) = satAdd (getR s (Reg.SCH_CC_UL_LATE c)) 1) ∧
  (∀ (r : UlTti) (c n : Nat) (s : State), nbHears s r.hd.mac.val = true → fromPeer s r.hd.srcIp r.hd.srcPort = true → nbCarrier s r.hd.phyId = some c →
    n = slotNamed s c r.hd.sfn r.hd.slot → rejectCode s r.hd c n (ulChecks s r c n) = none → earlierOpen s c n = false →
    completionDeadline s c n ≤ nowGrid s → (∀ kv ∈ (getCar s c).ul, kv.2.held = none) →
    ∃ t : State, exec (.ulTtiRequest r) s = .next t ∧ getR t (Reg.SCH_CC_UL_DISCARD c) = satAdd (getR s (Reg.SCH_CC_UL_DISCARD c)) 1 ∧
      t.carriers = s.carriers ∧ regsBut [Reg.NB_RX_MSG, Reg.SCH_CC_UL_DISCARD c] s t ∧ sameBytes s t)

/-- At an uplink slot's cutoff without a request its predictions are discarded (02 R75); at its completion deadline the slot is closed:
every TB is decided and every part of UCI has a result, and its journal entry is free unless a message of it has still to leave
(02 R60, R61; 09 R312).
The model's own choices under these clauses: logs 3 and 58. -/
def Obligations.UplinkSlotsEnd : Prop :=
  (∀ (c : CarrierId) (n : Nat) (s : State), (getCar s c.val).running = true → (getUl s c.val n).cls = .open → (getUl s c.val n).held = none →
    ccTdd s c.val = false → ulCutoff s c.val n ≤ nowGrid s →
    ∃ t : State, exec (.ulTtiCutoff c n) s = .next t ∧ (getUl t c.val n).cls = .noRequest ∧ (getUl t c.val n).req = (getUl s c.val n).req ∧
      ∀ q ∈ (getUl t c.val n).preds, q.matched = true ∨ q.dropped = true) ∧
  (∀ (c : CarrierId) (n : Nat) (s : State), (getUl s c.val n).cls ≠ .open ∨ nowGrid s < ulCutoff s c.val n →
    exec (.ulTtiCutoff c n) s = .next s) ∧
  (∀ (c : CarrierId) (n : Nat) (s : State), (getCar s c.val).running = true → (getUl s c.val n).expired = false → (getUl s c.val n).held = none →
    ccTdd s c.val = false → completionDeadline s c.val n ≤ nowGrid s → (getUl s c.val n).req = none →
    ∃ t : State, exec (.completionDeadline c n) s = .next t ∧ (getUl t c.val n).expired = true ∧
      regsBut [Reg.RXM_PRACH_UNCLAIMED, Reg.RXM_FLAGS] s t ∧ sameBytes s t ∧ t.tiles = s.tiles ∧ t.ctxs = s.ctxs) ∧
  (∀ (c : CarrierId) (n : Nat) (r : UlTti) (s : State), (getCar s c.val).running = true → (getUl s c.val n).expired = false →
    (getUl s c.val n).held = none → ccTdd s c.val = false → completionDeadline s c.val n ≤ nowGrid s → (getUl s c.val n).req = some r →
    ∃ t : State, exec (.completionDeadline c n) s = .next t ∧ (getUl t c.val n).expired = true ∧
      (slotLeaving t c.val n = false → (getUl t c.val n).jnl = false) ∧
      (∀ p ∈ (getUl t c.val n).pdus, p.live = false ∧ ∀ x ∈ p.uciOut, x.isSome = true) ∧ t.tiles = s.tiles ∧ t.ctxs = s.ctxs) ∧
  (∀ (c : CarrierId) (n : Nat) (s : State), (getUl s c.val n).expired = true ∨ nowGrid s < completionDeadline s c.val n →
    exec (.completionDeadline c n) s = .next s)

/-- The downlink requests: not heard or not from the L2 peer, they are not received; a DL_TTI.request is rejected with the reason of Table
12.7; each is taken for its slot before the downlink cutoff and noted as late from then on; at the cutoff what is missing is counted
(02 R80; 12 R397, R399).
The model's own choices under these clauses: logs 3, 55 and 59. -/
def Obligations.DownlinkRequestsAreJudged : Prop :=
  (∀ (r : DlTti) (s : State), nbHears s r.hd.mac.val = false ∨ fromPeer s r.hd.srcIp r.hd.srcPort = false →
    exec (.dlTtiRequest r) s = .next s) ∧
  (∀ (r : UlDci) (s : State), nbHears s r.hd.mac.val = false ∨ fromPeer s r.hd.srcIp r.hd.srcPort = false →
    exec (.ulDciRequest r) s = .next s) ∧
  (∀ (r : TxData) (s : State), nbHears s r.hd.mac.val = false ∨ fromPeer s r.hd.srcIp r.hd.srcPort = false →
    exec (.txDataRequest r) s = .next s) ∧
  (∀ (r : DlTti) (c n code : Nat) (s : State), nbHears s r.hd.mac.val = true → fromPeer s r.hd.srcIp r.hd.srcPort = true → nbCarrier s r.hd.phyId = some c →
    n = slotNamed s c r.hd.sfn r.hd.slot → rejectCode s r.hd c n (dlTtiChecks s r c n) = some code →
    ∃ t : State, exec (.dlTtiRequest r) s = .next t ∧ getN t Reg.NB_REJECT = 2 ^ 31 + c * 2 ^ 24 + 0x80 * 2 ^ 16 + code ∧
      t.carriers = s.carriers ∧ sameBytes s t) ∧
  (∀ (r : DlTti) (c n : Nat) (s : State), nbHears s r.hd.mac.val = true → fromPeer s r.hd.srcIp r.hd.srcPort = true → nbCarrier s r.hd.phyId = some c →
    n = slotNamed s c r.hd.sfn r.hd.slot → rejectCode s r.hd c n (dlTtiChecks s r c n) = none → nowGrid s < dlCutoff s c n →
    ∃ t : State, exec (.dlTtiRequest r) s = .next t ∧ (getDl t c n).tti = some r ∧ (getDl t c n).accAt = nowGrid s ∧
      (getDl t c n).works.length = r.pdsch.length ∧ getR t Reg.NB_RX_MSG = satAdd (getR s Reg.NB_RX_MSG) 1 ∧
      regsBut [Reg.NB_RX_MSG, Reg.ERR_JNL_FULL] s t ∧ sameBytes s t ∧ t.tiles = s.tiles ∧ t.ctxs = s.ctxs) ∧
  (∀ (r : DlTti) (c n : Nat) (s : State), nbHears s r.hd.mac.val = true → fromPeer s r.hd.srcIp r.hd.srcPort = true → nbCarrier s r.hd.phyId = some c →
    n = slotNamed s c r.hd.sfn r.hd.slot → rejectCode s r.hd c n (dlTtiChecks s r c n) = none → dlCutoff s c n ≤ nowGrid s →
    ∃ t : State, exec (.dlTtiRequest r) s = .next t ∧ (getDl t c n).lateTti = true ∧ (getDl t c n).tti = (getDl s c n).tti ∧
      regsBut [Reg.NB_RX_MSG] s t ∧ sameBytes s t) ∧
  (∀ (r : UlDci) (c n : Nat) (s : State), nbHears s r.hd.mac.val = true → fromPeer s r.hd.srcIp r.hd.srcPort = true → nbCarrier s r.hd.phyId = some c →
    n = slotNamed s c r.hd.sfn r.hd.slot → rejectCode s r.hd c n (ulDciChecks s r c n) = none → nowGrid s < dlCutoff s c n →
    ∃ t : State, exec (.ulDciRequest r) s = .next t ∧ (getDl t c n).dci = some r ∧ regsBut [Reg.NB_RX_MSG] s t ∧ sameBytes s t) ∧
  (∀ (r : UlDci) (c n : Nat) (s : State), nbHears s r.hd.mac.val = true → fromPeer s r.hd.srcIp r.hd.srcPort = true → nbCarrier s r.hd.phyId = some c →
    n = slotNamed s c r.hd.sfn r.hd.slot → rejectCode s r.hd c n (ulDciChecks s r c n) = none → dlCutoff s c n ≤ nowGrid s →
    ∃ t : State, exec (.ulDciRequest r) s = .next t ∧ (getDl t c n).dci = (getDl s c n).dci ∧
      getR t (Reg.SCH_CC_UL_DCI_LATE c) = satAdd (getR s (Reg.SCH_CC_UL_DCI_LATE c)) 1 ∧
      t.safe.evtSeq = (s.safe.evtSeq + 1) % 2 ^ 32 ∧ sameBytes s t) ∧
  (∀ (r : TxData) (c n : Nat) (s : State), nbHears s r.hd.mac.val = true → fromPeer s r.hd.srcIp r.hd.srcPort = true → nbCarrier s r.hd.phyId = some c →
    n = slotNamed s c r.hd.sfn r.hd.slot → rejectCode s r.hd c n (txDataChecks s r c n) = none → nowGrid s < dlCutoff s c n →
    ∃ t : State, exec (.txDataRequest r) s = .next t ∧ (getDl t c n).data = some r ∧ regsBut [Reg.NB_RX_MSG] s t ∧ sameBytes s t) ∧
  (∀ (r : TxData) (c n : Nat) (s : State), nbHears s r.hd.mac.val = true → fromPeer s r.hd.srcIp r.hd.srcPort = true → nbCarrier s r.hd.phyId = some c →
    n = slotNamed s c r.hd.sfn r.hd.slot → rejectCode s r.hd c n (txDataChecks s r c n) = none → dlCutoff s c n ≤ nowGrid s →
    ∃ t : State, exec (.txDataRequest r) s = .next t ∧ (getDl t c n).data = (getDl s c n).data ∧ (getDl t c n).lateData = true ∧
      regsBut [Reg.NB_RX_MSG] s t ∧ sameBytes s t) ∧
  (∀ (c : CarrierId) (n : Nat) (s : State), (getCar s c.val).running = true → (getDl s c.val n).cut = false → ccTdd s c.val = false →
    dlCutoff s c.val n ≤ nowGrid s → (getDl s c.val n).tti = none →
    ∃ t : State, exec (.dlCutoff c n) s = .next t ∧ (getDl t c.val n).cut = true ∧
      getR t (Reg.SCH_CC_DL_TTI_MISS c.val) = satAdd (getR s (Reg.SCH_CC_DL_TTI_MISS c.val)) 1 ∧
      t.safe.evtSeq = (s.safe.evtSeq + 1) % 2 ^ 32 ∧ sameBytes s t) ∧
  (∀ (c : CarrierId) (n : Nat) (r : DlTti) (s : State), (getCar s c.val).running = true → (getDl s c.val n).cut = false → ccTdd s c.val = false →
    dlCutoff s c.val n ≤ nowGrid s → (getDl s c.val n).tti = some r →
    ∃ t : State, exec (.dlCutoff c n) s = .next t ∧ (getDl t c.val n).cut = true ∧
      getR t (Reg.SCH_CC_TX_DATA_MISS c.val) =
        satAdd (getR s (Reg.SCH_CC_TX_DATA_MISS c.val)) (r.pdsch.filter (fun p => !hasData (getDl s c.val n) p)).length ∧ sameBytes s t) ∧
  (∀ (c : CarrierId) (n : Nat) (s : State), (getDl s c.val n).cut = true ∨ nowGrid s < dlCutoff s c.val n →
    exec (.dlCutoff c n) s = .next s)

/-! ### The downlink on the air (12) -/

/-- A downlink symbol: its C-plane is queued from its moment on, over every PRB or over the allocated groups, and a sparse symbol with none
has neither plane (12 R394); a read of its mark, at its start less dl_up_lead_max and every 1 µs from there, that finds the symbol's tag
starts its egress, each frame paced from 25 µs after the C-plane on, unless the latest start has passed; a symbol not begun by then and
frames that have not left by the bound are dropped and counted, and the mark is zeroed (12 R395, R396). A C-plane frame, whose length is
not stated, is queued where it fits.
The model's own choices under these clauses: logs 3, 59, 60, 104 and 109. -/
def Obligations.DownlinkSymbolsAreSent : Prop :=
  (∀ (c : CarrierId) (n k i : Nat) (e : BitVec 128) (r : DlTti) (s : State), (getDl s c.val n).tti = some r → (getCar s c.val).running = true →
    fatal s = false → k < 14 → ccTdd s c.val = false → symState (getDl s c.val n) k = .waiting → dlCpAt s c.val n k ≤ nowGrid s →
    dlSparse s c.val = false → exOf s c.val 1 false = [(i, e)] → exAt s i = e → linkUp s (exMac e) = true → s.net.egress = [] →
    ∃ t : State, exec (.dlCplaneSend c n k) s = .next t ∧ symState (getDl t c.val n) k = .cplane ∧ mapFind (getDl t c.val n).cpAt k = some (nowGrid s) ∧
      sameBytes s t ∧ (Config.frameBytes 1 16 ≤ 262144 → regsBut [] s t ∧ ∃ g, t.net.egress = [g] ∧ g.mac = exMac e ∧
        g.msg = .cplane i (mapGet 0 s.net.seqTx (2 * i)) 1 (sfnOf s c.val n) (slotOf s c.val n) k 0
          (if 255 < ccPrb s c.val then 0 else ccPrb s c.val) (exComp e) none)) ∧
  (∀ (c : CarrierId) (n k i : Nat) (e : BitVec 128) (r : DlTti) (s : State), (getDl s c.val n).tti = some r → (getCar s c.val).running = true →
    fatal s = false → k < 14 → ccTdd s c.val = false → symState (getDl s c.val n) k = .waiting → dlCpAt s c.val n k ≤ nowGrid s →
    dlSparse s c.val = true → rbgMask s c.val r k ≠ 0 → exOf s c.val 1 false = [(i, e)] → exAt s i = e → linkUp s (exMac e) = true →
    s.net.egress = [] →
    ∃ t : State, exec (.dlCplaneSend c n k) s = .next t ∧ symState (getDl t c.val n) k = .cplane ∧ sameBytes s t ∧
      (Config.frameBytes 1 24 ≤ 262144 → regsBut [] s t ∧ ∃ g, t.net.egress = [g] ∧ g.mac = exMac e ∧
        g.msg = .cplane i (mapGet 0 s.net.seqTx (2 * i)) 1 (sfnOf s c.val n) (slotOf s c.val n) k 0
          (if 255 < ccPrb s c.val then 0 else ccPrb s c.val) (exComp e) (some (rbgSize s c.val, rbgMask s c.val r k, 2 ^ k)))) ∧
  (∀ (c : CarrierId) (n k : Nat) (r : DlTti) (s : State), (getDl s c.val n).tti = some r → (getCar s c.val).running = true →
    fatal s = false → k < 14 → ccTdd s c.val = false → symState (getDl s c.val n) k = .waiting → dlCpAt s c.val n k ≤ nowGrid s →
    dlSparse s c.val = true → rbgMask s c.val r k = 0 →
    ∃ t : State, exec (.dlCplaneSend c n k) s = .next t ∧ symState (getDl t c.val n) k = .silent ∧ t.net = s.net ∧ regsBut [] s t ∧ sameBytes s t) ∧
  (∀ (c : CarrierId) (n k : Nat) (s : State), (getDl s c.val n).tti = none ∨ nowGrid s < dlCpAt s c.val n k →
    exec (.dlCplaneSend c n k) s = .next s) ∧
  (∀ (c : CarrierId) (n k : Nat) (r : DlTti) (s : State), (getDl s c.val n).tti = some r → (getCar s c.val).running = true →
    fatal s = false → symState (getDl s c.val n) k = .cplane → markRead s c.val n k = true →
    getLe s (dlMark s c.val n k) 8 = readyTag s c.val n k →
    ∃ t : State, exec (.dlMarkPoll c n k) s = .next t ∧
      (dlLatest s c.val n k r < nowGrid s → symState (getDl t c.val n) k = .missed ∧ getLe t (dlMark s c.val n k) 8 = 0 ∧ t.net = s.net) ∧
      (nowGrid s ≤ dlLatest s c.val n k r → symState (getDl t c.val n) k = .sending ∧ sameBytes s t ∧
        (∀ (i : Nat) (e : BitVec 128), exOf s c.val 1 false = [(i, e)] → exAt s i = e → i < 8192 → linkUp s (exMac e) = true → s.net.pace = [] →
          dlSparse s c.val = false → 0 < ccPrb s c.val → ccPrb s c.val ≤ prbsPerFrame s e →
          ∃ g, t.net.pace = [g] ∧ g.after = mapGet 0 (getDl s c.val n).cpAt k + us 25 ∧ g.frame.mac = exMac e ∧
            g.frame.msg = .uplane i (mapGet 0 s.net.seqTx (2 * i + 1)) (sfnOf s c.val n) (slotOf s c.val n) k
              (exComp e) [(0, (List.range (ccPrb s c.val)).map (fun b =>
                (compressPrb (exK e) (exComp e) ((List.range 12).map (fun j => if reZero (getDl s c.val n) r k b j then (XVal.zero, XVal.zero)
                  else dlRe s c.val n k (exPort e) (12 * b + j)))).1))]))) ∧
  (∀ (c : CarrierId) (n k : Nat) (s : State), symState (getDl s c.val n) k ≠ .cplane ∨ markRead s c.val n k = false ∨
    getLe s (dlMark s c.val n k) 8 ≠ readyTag s c.val n k →
    exec (.dlMarkPoll c n k) s = .next s) ∧
  (∀ (c : CarrierId) (n k : Nat) (r : DlTti) (s : State), (getDl s c.val n).tti = some r → (getCar s c.val).running = true → k < 14 →
    ccTdd s c.val = false → symState (getDl s c.val n) k = .cplane ∨ symState (getDl s c.val n) k = .waiting →
    (getDl s c.val n).lost.contains k = false →
    ∃ t : State, exec (.dlUplaneDeadline c n k) s = .next t ∧
      (dlLatest s c.val n k r < nowGrid s → symState (getDl t c.val n) k = .missed ∧ getLe t (dlMark s c.val n k) 8 = 0 ∧
        getR t Reg.FHX_DL_MISS = satAdd (getR s Reg.FHX_DL_MISS) 1 ∧ getB t Reg.FHX_FLAGS 2 = true) ∧
      (nowGrid s ≤ dlLatest s c.val n k r → t = s)) ∧
  (∀ (c : CarrierId) (n k : Nat) (r : DlTti) (s : State), (getDl s c.val n).tti = some r → (getCar s c.val).running = true → k < 14 →
    ccTdd s c.val = false → symState (getDl s c.val n) k = .sending → dlBound s c.val n k < nowGrid s → symLeaving s c.val n k = true →
    ∃ t : State, exec (.dlUplaneDeadline c n k) s = .next t ∧ symState (getDl t c.val n) k = .missed ∧ symLeaving t c.val n k = false ∧
      ((getDl s c.val n).lost.contains k = false → getR t Reg.FHX_DL_MISS = satAdd (getR s Reg.FHX_DL_MISS) 1) ∧
      getLe t (dlMark s c.val n k) 8 = 0 ∧ regsBut [Reg.FHX_DL_MISS, Reg.FHX_FLAGS] s t)

/-! ### Coding and HARQ (10) -/

/-- A code block is combined once all its LLRs are written (stated where no memory word is in error) and then waits in the plan's order; the
first of that order whose TB's earlier code blocks have gone to a slice goes to the lowest-numbered idle slice; a slice that is done
leaves its bits, counts its iterations, and the last code block decides the TB by its CRC (02 R57; 10 R330, R342 to R344).
The model's own choices under these clauses: logs 3, 15, 16, 68 and 104. -/
def Obligations.CodeBlocksAreDecoded : Prop :=
  (∀ (r : CbRef) (p : UlPdu) (s : State), pduAt s r.carrier.val r.slot r.pdu = some p → p.live = true → p.pdu.ulsch = true →
    p.cbs[r.cb]?.map (·.stage) = some .waiting → s.ecc.single = [] → s.ecc.bad = [] →
    ∃ t : State, exec (.ldpcCombine r) s = .next t ∧
      (cbWritten p r.cb = true → r ∈ t.coding.release ∧
        ((pduAt t r.carrier.val r.slot r.pdu).bind (fun q => q.cbs[r.cb]?)).map (·.stage) = some .released ∧
        (p.desc = none → sameBytes s t) ∧ regsBut [Reg.LDC_COMB_CLIP, Reg.LDC_FLAGS, Reg.HARQ_EVICT_AGE] s t ∧ t.tiles = s.tiles ∧ t.ctxs = s.ctxs) ∧
      (cbWritten p r.cb = false → t = s)) ∧
  (∀ (r : CbRef) (k : Nat) (s : State), s.coding.release.find? (cbTurn s) = some r → s.coding.slices.length = 4 →
    (List.range 4).find? (fun k => (nth none s.coding.slices k).isNone && s.power.hubOn.testBit (8 + k)) = some k →
    ∃ t : State, exec .ldpcDecodeStart s = .next t ∧ t.coding.release = s.coding.release.erase r ∧ nth none t.coding.slices k = some r ∧
      (∀ j, j ≠ k → nth none t.coding.slices j = nth none s.coding.slices j) ∧ regsBut [] s t ∧ sameBytes s t ∧ t.tiles = s.tiles) ∧
  (∀ s : State, (∀ r ∈ s.coding.release, cbTurn s r = false) ∨ (∀ k, k < 4 → (nth none s.coding.slices k).isSome = true) →
    exec .ldpcDecodeStart s = .next s) ∧
  (∀ (k : Fin 4) (r : CbRef) (p : UlPdu) (b : CbState) (s : State), nth none s.coding.slices k.val = some r →
    pduAt s r.carrier.val r.slot r.pdu = some p → p.cbs[r.cb]? = some b →
    ∃ t d, exec (.ldpcCbDecoded k) s = .next t ∧
      d = ldpcDecode (puschSeg p.pdu) p.pdu.bg2 (cbSoft s p r.cb).2 (weightSet s r.carrier.val) (cbSoft s p r.cb).1 ∧
      nth none t.coding.slices k.val = none ∧ getR t Reg.LDC_CB_CNT = satAdd (getR s Reg.LDC_CB_CNT) 1 ∧
      getR t Reg.LDC_ITER_SUM = satAdd (getR s Reg.LDC_ITER_SUM) d.2.1 ∧
      ((pduAt t r.carrier.val r.slot r.pdu).bind (fun q => q.cbs[r.cb]?)).map (fun b => (b.stage, b.bits)) = some (.decoded, d.1) ∧
      (p.live = true → (∀ j b', p.cbs[j]? = some b' → j ≠ r.cb → b'.stage = .decoded) →
        ∃ pass, (pduAt t r.carrier.val r.slot r.pdu).map (·.decided) = some (some (pass, 0)) ∧
          getR t (if pass then Reg.LDC_TB_PASS else Reg.LDC_TB_FAIL) = satAdd (getR s (if pass then Reg.LDC_TB_PASS else Reg.LDC_TB_FAIL)) 1)) ∧
  (∀ (k : Fin 4) (s : State), nth none s.coding.slices k.val = none → exec (.ldpcCbDecoded k) s = .next s)

/-- The codeword at the head of the UCI queue is decoded and counted, and its result goes to its PDU (10 R346 to R348); the next codeword
of the plan's order is encoded, rate-matched and written, most significant bit first, to the buffer the plan names (10 R345).
The model's own choices under these clauses: logs 3, 15, 16 and 104. -/
def Obligations.ControlIsDecodedAndDataEncoded : Prop :=
  (∀ (r : UciRef) (rest : List UciRef) (a : Nat) (l : List Int) (x : CtlRes) (s : State), s.coding.uciQ = r :: rest →
    s.power.hubOn.testBit 12 = true → r.kind = 0 → uciInput s r = some (a, l) → (getUl s r.carrier.val r.slot).pucch[r.pdu]? = some x →
    x.done = false →
    ∃ t : State, exec .plcDecodeDone s = .next t ∧ t.coding.uciQ = rest ∧
      (((getUl t r.carrier.val r.slot).pucch[r.pdu]?).map (·.uci)) = some (some (uciDecode s r.carrier.val a l)) ∧
      getR t (if a ≤ 11 then Reg.PLC_RM_CNT else Reg.PLC_POLAR_CNT) =
        satAdd (getR s (if a ≤ 11 then Reg.PLC_RM_CNT else Reg.PLC_POLAR_CNT)) 1 ∧ getB t Reg.PLC_FLAGS 0 = true) ∧
  (∀ (r : UciRef) (rest : List UciRef) (a : Nat) (l : List Int) (p : UlPdu) (s : State), s.coding.uciQ = r :: rest →
    s.power.hubOn.testBit 12 = true → r.kind = 1 → uciInput s r = some (a, l) → pduAt s r.carrier.val r.slot r.pdu = some p →
    p.uciOut[r.part]? = some none →
    ∃ t : State, exec .plcDecodeDone s = .next t ∧ t.coding.uciQ = rest ∧
      (pduAt t r.carrier.val r.slot r.pdu).bind (fun q => q.uciOut[r.part]?) = some (some (uciDecode s r.carrier.val a l))) ∧
  (∀ s : State, s.coding.uciQ = [] ∨ s.power.hubOn.testBit 12 = false → exec .plcDecodeDone s = .next s) ∧
  (∀ (r : CwRef) (p : PdschPdu) (x : TxPdu) (s : State), cwWaiting s r.carrier.val r.slot r.pdu r.cw = some (p, x) →
    ∃ t bits a, exec (.ldpcEncode r) s = .next t ∧ a = cwBuf s r.carrier.val r.slot r.pdu r.cw ∧
      bits = encodeTb x.payload p.bg2 p.lbrm (nth 0 p.rv r.cw) (nth 0 p.codedBits r.cw) (cwLayers p r.cw) (nth 0 p.qm r.cw) ∧
      (encodeNext s r.carrier.val r.slot r.pdu r.cw = true → getBytes t a (packBits bits).length = packBits bits ∧
        (∀ y, y < a ∨ a + (packBits bits).length ≤ y → getByte t y = getByte s y) ∧
        (getDl t r.carrier.val r.slot).encoded = (getDl s r.carrier.val r.slot).encoded ++ [(r.pdu, r.cw)] ∧
        getR t Reg.LDC_ENC_TB = satAdd (getR s Reg.LDC_ENC_TB) 1 ∧ regsBut [Reg.LDC_ENC_TB] s t) ∧
      (encodeNext s r.carrier.val r.slot r.pdu r.cw = false → t = s)) ∧
  (∀ (r : CwRef) (s : State), cwWaiting s r.carrier.val r.slot r.pdu r.cw = none → exec (.ldpcEncode r) s = .next s)

/-- An expired descriptor that no PDU in flight uses is freed, counted and zeroed (10 R335, R336); a release or a flush of a UE waits for its
carrier's slot boundary and takes place there once no PDU of it is in flight (10 R353).
The model's own choices under these clauses: logs 3 and 68. -/
def Obligations.BuffersAreReleased : Prop :=
  (∀ (h n : Nat) (s : State), harqValid s h = true → harqBusy s h = false → lastAccepted s (hGet s h 3 1 % 32) = some n →
    harqExpired s (hGet s h 3 1 % 32) n h = true →
    ∃ t : State, exec (.harqExpire h) s = .next t ∧ harqValid t h = false ∧ (∀ i, i < 32 → getByte t (harqAt h + i) = 0#8) ∧
      (∀ a, a < harqAt h ∨ harqAt h + 32 ≤ a → a < ueAt (hGet s h 0 2) + 20 + 3 * (hGet s h 2 1 % 16) ∨
        ueAt (hGet s h 0 2) + 23 + 3 * (hGet s h 2 1 % 16) ≤ a → getByte t a = getByte s a) ∧
      getR t Reg.HARQ_EVICT_AGE = satAdd (getR s Reg.HARQ_EVICT_AGE) 1 ∧ regsBut [Reg.HARQ_EVICT_AGE] s t ∧ SameUnits s t) ∧
  (∀ (h : Nat) (s : State), harqValid s h = false ∨ harqBusy s h = true → exec (.harqExpire h) s = .next s) ∧
  (∀ (v : Word) (s : State), ∃ t : State, exec (.ctxRelease v) s = .next t ∧
    t.coding.relPend = s.coding.relPend ++ [(fieldOf v 28 24, fieldOf v 15 0)] ∧
    regsBut [Reg.CTX_RELEASE, Reg.ERR_HOST_STATUS] s t ∧ sameBytes s t ∧ SameUnits s t) ∧
  (∀ (v : Word) (s : State), ∃ t : State, exec (.harqFlush v) s = .next t ∧
    t.coding.flushPend = s.coding.flushPend ++ [(fieldOf v 15 0, if bitOf v 31 then none else some (fieldOf v 19 16))] ∧
    regsBut [Reg.HARQ_FLUSH, Reg.ERR_HOST_STATUS] s t ∧ sameBytes s t ∧ SameUnits s t) ∧
  (∀ (c : CarrierId) (rnti u : Nat) (s : State), s.coding.relPend = [(c.val, rnti)] → s.coding.flushPend = [] → s.net.eaxcPend = [] →
    ueFind s c.val rnti = some u → ueBusy s u = false →
    ∃ t : State, exec (.carrierSlotBoundary c) s = .next t ∧ ueFlag t u 0 = false ∧ t.coding.relPend = [] ∧ regsBut [] s t) ∧
  (∀ (c : CarrierId) (rnti u : Nat) (s : State), s.coding.relPend = [(c.val, rnti)] → s.coding.flushPend = [] → s.net.eaxcPend = [] →
    ueFind s c.val rnti = some u → ueBusy s u = true →
    ∃ t : State, exec (.carrierSlotBoundary c) s = .next t ∧ t.coding.relPend = s.coding.relPend ∧ sameBytes s t ∧ regsBut [] s t) ∧
  (∀ (c : CarrierId) (u : Nat) (s : State), s.coding.relPend = [] → s.coding.flushPend = [(u, none)] → s.net.eaxcPend = [] → u < 65536 →
    ueFlag s u 0 = true → uGet s u 2 1 % 32 = c.val → ueBusy s u = false →
    ∃ t : State, exec (.carrierSlotBoundary c) s = .next t ∧ t.coding.flushPend = [] ∧ regsBut [] s t ∧
      ∀ j, j < 16 → (harqMap s u j).testBit 23 = true → harqValid t (harqMap s u j % 2 ^ 17) = false) ∧
  (∀ (c : CarrierId) (u j h : Nat) (s : State), s.coding.relPend = [] → s.coding.flushPend = [(u, some j)] → s.net.eaxcPend = [] → u < 65536 →
    j < 16 → ueFlag s u 0 = true → uGet s u 2 1 % 32 = c.val → ueBusy s u = false →
    (harqMap s u j).testBit 23 = true → h = harqMap s u j % 2 ^ 17 →
    ∃ t : State, exec (.carrierSlotBoundary c) s = .next t ∧ t.coding.flushPend = [] ∧ harqValid t h = false ∧ regsBut [] s t ∧
      ∀ a, a < harqAt h ∨ harqAt h + 32 ≤ a → a < ueAt (hGet s h 0 2) + 20 + 3 * (hGet s h 2 1 % 16) ∨
        ueAt (hGet s h 0 2) + 23 + 3 * (hGet s h 2 1 % 16) ≤ a → getByte t a = getByte s a) ∧
  (∀ (c : CarrierId) (u : Nat) (i : Option Nat) (s : State), s.coding.relPend = [] → s.coding.flushPend = [(u, i)] → s.net.eaxcPend = [] →
    ueFlag s u 0 = true → ueBusy s u = true →
    ∃ t : State, exec (.carrierSlotBoundary c) s = .next t ∧ t.coding.flushPend = s.coding.flushPend ∧ sameBytes s t ∧ regsBut [] s t) ∧
  (∀ (c : CarrierId) (rnti : Nat) (s : State), s.coding.relPend = [(c.val, rnti)] → s.coding.flushPend = [] → s.net.eaxcPend = [] →
    ueFind s c.val rnti = none →
    ∃ t : State, exec (.carrierSlotBoundary c) s = .next t ∧ t.coding.relPend = [] ∧ regsBut [] s t ∧ sameBytes s t) ∧
  (∀ (c : CarrierId) (u : Nat) (i : Option Nat) (s : State), s.coding.relPend = [] → s.coding.flushPend = [(u, i)] → s.net.eaxcPend = [] →
    ueFlag s u 0 = false →
    ∃ t : State, exec (.carrierSlotBoundary c) s = .next t ∧ t.coding.flushPend = [] ∧ regsBut [] s t ∧ sameBytes s t)

/-! ### Carriers (12 R388, R402; 02 R64) -/

/-- A carrier's slot boundary lets a rewrite of its eAxC entries take effect and predicts the slot that begins; its frame boundary lets a
rewrite of its configured-grant table and a change of run take effect; a P5 load is taken only while it is stopped, and its check decides
whether the new block is in force. A write into the eAxC window waits for that slot boundary, a rewrite that makes two valid entries share a
key sets FHX_FLAGS.dup_key, and a lookup finds the lowest-numbered valid entry of its key (12 R388, R402; 02 R63, R64).
The model's own choices under these clauses: logs 3, 16 and 63. -/
def Obligations.CarriersRunAndLoad : Prop :=
  (∀ (c : CarrierId) (s : State), mapRising s.net.eaxcPend = true → ∃ t : State, exec (.carrierSlotBoundary c) s = .next t ∧
    ∀ i, match mapFind s.net.eaxcPend i with
      | some e => if rewriteCarrier s i e = c.val then exAt t i = e ∧ mapFind t.net.eaxcPend i = none
          else exAt t i = exAt s i ∧ mapFind t.net.eaxcPend i = some e
      | none => exAt t i = exAt s i ∧ mapFind t.net.eaxcPend i = none) ∧
  (∀ (c : CarrierId) (n : Nat) (s : State), s.coding.relPend = [] → s.coding.flushPend = [] → s.net.eaxcPend = [] → n = slotNow s c.val →
    (getCar s c.val).running = true → ccTdd s c.val = false → (getUl s c.val n).cls = .open → (getUl s c.val n).held = none →
    (getUl s c.val n).predicted = false →
    ∃ t : State, exec (.carrierSlotBoundary c) s = .next t ∧ (getUl t c.val n).predicted = true ∧
      (getUl t c.val n).preds.map (·.alloc) = prediction s c.val n ∧ regsBut [] s t ∧ sameBytes s t ∧ t.tiles = s.tiles ∧ t.ctxs = s.ctxs) ∧
  (∀ (c : CarrierId) (s : State), (getCar s c.val).runReq = some false → (getCar s c.val).running = true →
    ∃ t : State, exec (.carrierFrameBoundary c) s = .next t ∧ (getCar t c.val).running = false ∧ (getCar t c.val).runReq = none ∧
      (getCar t c.val).ul = [] ∧ (getCar t c.val).dl = [] ∧ (∀ r ∈ t.coding.release, r.carrier ≠ c) ∧ t.tiles = s.tiles ∧ t.ctxs = s.ctxs) ∧
  (∀ (c : CarrierId) (s : State), (getCar s c.val).runReq = some true → quiesced s = false → getB s (Reg.NB_CC_CTL c.val) 30 = false →
    getB s (Reg.NB_CC_CTL c.val) 29 = false →
    ∃ t : State, exec (.carrierFrameBoundary c) s = .next t ∧ (getCar t c.val).running = true ∧ (getCar t c.val).runReq = none ∧ regsBut [] s t) ∧
  (∀ (c : CarrierId) (s : State), (getCar s c.val).runReq = some true → getB s (Reg.NB_CC_CTL c.val) 30 = true ∨ quiesced s = true →
    ∃ t : State, exec (.carrierFrameBoundary c) s = .next t ∧ (getCar t c.val).running = (getCar s c.val).running ∧
      (getCar t c.val).runReq = some true) ∧
  (∀ (c : CarrierId) (a : Nat) (b : Byte) (s : State), (getCar s c.val).runReq = none → (getCar s c.val).cgPend = [(a, b)] →
    ∃ t : State, exec (.carrierFrameBoundary c) s = .next t ∧ getByte t a = b ∧ (∀ x, x ≠ a → getByte t x = getByte s x) ∧
      (getCar t c.val).cgPend = [] ∧ regsBut [] s t) ∧
  (∀ (c : CarrierId) (v : Word) (s : State), ∃ t : State, exec (.nbCcRun c v) s = .next t ∧
    (getCar t c.val).runReq = (if bitOf v 31 = (getCar s c.val).running then none else some (bitOf v 31)) ∧
    (getCar t c.val).running = (getCar s c.val).running ∧
    getB t (Reg.NB_CC_CTL c.val) 30 = (getB s (Reg.NB_CC_CTL c.val) 30 || (bitOf v 30 && !(getCar s c.val).running)) ∧
    regsBut [Reg.NB_CC_CTL c.val, Reg.ERR_HOST_STATUS] s t ∧ sameBytes s t) ∧
  (∀ (c : CarrierId) (s : State), (getCar s c.val).running = false → ∃ t : State, exec (.nbCcLoad c) s = .next t ∧
    getB t (Reg.NB_CC_CTL c.val) 30 = true ∧ regsBut [Reg.NB_CC_CTL c.val, Reg.ERR_HOST_STATUS] s t ∧ sameBytes s t) ∧
  (∀ (c : CarrierId) (s : State), getB s (Reg.NB_CC_CTL c.val) 30 = true → ∃ t : State, exec (.p5LoadChecked c) s = .next t ∧
    getB t (Reg.NB_CC_CTL c.val) 30 = false ∧ sameBytes s t ∧
    (p5Fits s c.val (p5Block s c.val) = true → (getCar t c.val).p5 = p5Block s c.val ∧ getB t (Reg.NB_CC_CTL c.val) 29 = false) ∧
    (p5Fits s c.val (p5Block s c.val) = false → t.carriers = s.carriers ∧ getB t (Reg.NB_CC_CTL c.val) 29 = true)) ∧
  (∀ (c : CarrierId) (s : State), getB s (Reg.NB_CC_CTL c.val) 30 = false → exec (.p5LoadChecked c) s = .next s) ∧
  (∀ (a : Nat) (v : Word) (s : State), 0x00160000 ≤ a → a < 0x00180000 → a % 4 = 0 →
    ∃ t : State, exec (.registerWrite a v) s = .next t ∧ t.net.eaxc = s.net.eaxc ∧
      mapGet 0#128 t.net.eaxcPend ((a - 0x00160000) / 16) =
        setField (mapGet (exAt s ((a - 0x00160000) / 16)) s.net.eaxcPend ((a - 0x00160000) / 16))
          (32 * ((a - 0x00160000) / 4 % 4) + 31) (32 * ((a - 0x00160000) / 4 % 4)) v.toNat) ∧
  (∀ (c : CarrierId) (i j : Nat) (e : BitVec 128) (s : State), mapRising s.net.eaxcPend = true → mapFind s.net.eaxcPend i = some e →
    rewriteCarrier s i e = c.val → i ≠ j →
    ∃ t : State, exec (.carrierSlotBoundary c) s = .next t ∧
      (exValid (exAt t i) = true → exValid (exAt t j) = true → exKey (exAt t i) = exKey (exAt t j) → getB t Reg.FHX_FLAGS 1 = true)) ∧
  (∀ (i j : Nat) (e f : BitVec 128) (key : Nat × Nat × Nat × Nat) (s : State), mapWf 0#128 s.net.eaxc = true → exFind s key = some (i, e) →
    (j, f) ∈ s.net.eaxc → exValid f = true → exKey f = key → exValid e = true ∧ exKey e = key ∧ i ≤ j)

/-! ### The Exposure Plan (08) -/

/-- A cycle starts where the last one said it would, opens every partition's entries again and is counted (08 R264, R265). The next entry of
a partition becomes due at its start: it takes an instance of its context, is skipped where a die it needs is dark, and is counted as an overrun
where its earlier instance has not ended (08 R270 to R272; 15 R477), and reported where a tile of its set is unavailable (01 R30). From 2 µs before its start its sleeping tiles wake (08 R274).
The model's own choices under these clauses: logs 3 and 98. -/
def Obligations.CyclesAndEntriesFallDue : Prop :=
  (∀ s : State, s.boot.swap = false → cycleDue s = true → ∃ t : State, exec .exposureCycleStart s = .next t ∧
    t.sched.cycleStart = s.sched.nextCycle ∧ t.sched.nextCycle = s.sched.nextCycle + cycleUnits (cycleCode s) ∧
    getR t Reg.SCH_CYCLE_CNT = satAdd (getR s Reg.SCH_CYCLE_CNT) 1 ∧
    (∀ q ∈ (s.plan.map (·.parts)).getD [], (getP t q.part).nextDue = 0) ∧ regsBut [Reg.SCH_CYCLE_CNT] s t ∧ sameBytes s t ∧ t.tiles = s.tiles) ∧
  (∀ s : State, cycleDue s = false → s.boot.swap = false → exec .exposureCycleStart s = .next s) ∧
  (∀ (p : PartId) (n : Nat) (e : PlanEntry) (s : State), entryAt s p.val n = some e → running s = true → schArmed s = true →
    plannedStart s p.val n e ≤ s.time.dev + 2 * unitsPerUs → (getP s p.val).woken.contains n = false →
    ∃ t : State, exec (.exposureWakeLead p n) s = .next t ∧ (getP t p.val).woken = (getP s p.val).woken ++ [n] ∧
      (∀ tl ∈ tilesOf e.tiles, dieAwake s (dieOf tl) = true → (getT s tl).power = .asleep → (getT t tl).power = .waking ∧ (getT t tl).wakeAt = s.now) ∧
      (∀ tl, (getT s tl).power ≠ .asleep → getT t tl = getT s tl) ∧ sameBytes s t ∧ t.ctxs = s.ctxs) ∧
  (∀ (p : PartId) (n : Nat) (e : PlanEntry) (s : State), entryAt s p.val n = some e → s.time.dev + 2 * unitsPerUs < plannedStart s p.val n e →
    exec (.exposureWakeLead p n) s = .next s) ∧
  (∀ (p : PartId) (n : Nat) (e : PlanEntry) (s : State), entryAt s p.val n = some e → running s = true → schArmed s = true →
    (getP s p.val).nextDue = n → s.sched.cycleStart + e.start * 65536 ≤ s.time.dev → e.ctx < 128 → fatal s = false →
    (∀ tl ∈ tilesOf e.tiles, dieAwake s (dieOf tl) = true ∧ tileAvail s tl = true) → (getC s e.ctx).st = .idle → (getC s e.ctx).inst = none →
    (getC s e.ctx).queued = [] → (getC s e.ctx).recvLost = [] → (getC s e.ctx).recv = [] →
    ∃ (t : State) (i : ExpInst), exec (.exposureDue p n) s = .next t ∧ (getP t p.val).nextDue = n + 1 ∧ (getC t e.ctx).inst = some i ∧ i.entry = n ∧
      i.planned = s.sched.cycleStart + e.start * 65536 ∧ i.cycle = getN s Reg.SCH_CYCLE_CNT ∧ i.spec = e.spec ∧ i.missed = false ∧
      i.deadline = (if e.deadline = 0 then none else some (s.sched.cycleStart + e.start * 65536 + e.deadline * 65536)) ∧
      ((getC t e.ctx).st = .waiting ∨ (getC t e.ctx).st = .running)) ∧
  (∀ (p : PartId) (n : Nat) (e : PlanEntry) (s : State), entryAt s p.val n = some e → running s = true → schArmed s = true →
    (getP s p.val).nextDue = n → s.sched.cycleStart + e.start * 65536 ≤ s.time.dev → e.ctx < 128 → fatal s = false →
    (∀ tl ∈ tilesOf e.tiles, dieAwake s (dieOf tl) = true ∧ tileAvail s tl = true) → (getC s e.ctx).st = .running →
    ((getC s e.ctx).inst.toList ++ (getC s e.ctx).queued).any (fun j => decide (j.entry = n)) = true →
    ∃ t : State, exec (.exposureDue p n) s = .next t ∧ getR t (Reg.SCH_P_OVERRUN p.val) = satAdd (getR s (Reg.SCH_P_OVERRUN p.val)) 1 ∧
      t.safe.evtSeq = (s.safe.evtSeq + 1) % 2 ^ 32 ∧ t.ctxs = s.ctxs ∧ t.tiles = s.tiles ∧ sameBytes s t) ∧
  (∀ (p : PartId) (n : Nat) (e : PlanEntry) (s : State), entryAt s p.val n = some e → running s = true → schArmed s = true →
    (getP s p.val).nextDue = n → s.sched.cycleStart + e.start * 65536 ≤ s.time.dev → e.ctx < 128 → fatal s = false →
    (∀ tl ∈ tilesOf e.tiles, dieAwake s (dieOf tl) = true) → (getC s e.ctx).st = .idle → (∃ tl ∈ tilesOf e.tiles, tileAvail s tl = false) →
    ∃ t : State, exec (.exposureDue p n) s = .next t ∧ (getP t p.val).nextDue = n + 1 ∧ t.safe.evtSeq = (s.safe.evtSeq + 1) % 2 ^ 32 ∧
      t.ctxs = s.ctxs ∧ t.tiles = s.tiles ∧ sameBytes s t) ∧
  (∀ (p : PartId) (n : Nat) (e : PlanEntry) (s : State), entryAt s p.val n = some e → running s = true → schArmed s = true →
    (getP s p.val).nextDue = n → s.sched.cycleStart + e.start * 65536 ≤ s.time.dev → e.ctx < 128 → fatal s = false →
    (∃ tl ∈ tilesOf e.tiles, dieAwake s (dieOf tl) = false) →
    ∃ t : State, exec (.exposureDue p n) s = .next t ∧ (getP t p.val).nextDue = n + 1 ∧ t.ctxs = s.ctxs ∧ t.tiles = s.tiles ∧
      regsBut [Reg.PWR_DIE_SKIP 0, Reg.PWR_DIE_SKIP 1] s t ∧ sameBytes s t) ∧
  (∀ (p : PartId) (n : Nat) (e : PlanEntry) (s : State), entryAt s p.val n = some e →
    (getP s p.val).nextDue ≠ n ∨ s.time.dev < s.sched.cycleStart + e.start * 65536 → exec (.exposureDue p n) s = .next s)

/-- A waiting exposure starts on the tiles that are free for it: each runs its program from its entry point, and the context runs
(08 R270, R271; 07 R240); a deadline that passes is counted once (08 R276); a fully arrived barrier releases every tile that waits at it
(08 R277); a held context whose bit is written re-arms (08 R294, R296).
The model's own choices under these clauses: logs 3 and 19. -/
def Obligations.ExposuresStart : Prop :=
  (∀ (c : CtxId) (e : PlanEntry) (i : ExpInst) (d : Decl) (pr : Program) (s : State), running s = true → fatal s = false →
    (getC s c.val).st = .waiting → instEntry s c.val = some e → (getC s c.val).inst = some i → declOf s c.val = some d →
    programOf s c.val = some pr → goesFirst s c.val = false → (∀ tl ∈ tilesOf e.tiles, (getT s tl).power = .awake) →
    startableTiles s c.val ≠ [] → (getC s c.val).recvLost = [] → (getC s c.val).recv = [] →
    ∃ t : State, exec (.exposureStart c) s = .next t ∧ (getC t c.val).st = .running ∧
      (getC t c.val).inst.map (·.started) = some (i.started ++ startableTiles s c.val) ∧
      (i.started = [] → (getC t c.val).inst.map (·.startAt) = some s.now) ∧
      (∀ tl ∈ startableTiles s c.val, (getT t tl).run = some c ∧ (getT t tl).seq = .issuing ∧ (getT t tl).pc = pr.entry) ∧
      (∀ tl, tl ∉ startableTiles s c.val → getT t tl = getT s tl)) ∧
  (∀ (c : CtxId) (s : State), running s = false → exec (.exposureStart c) s = .next s) ∧
  (∀ (c : CtxId) (i : ExpInst) (dl : Nat) (s : State), (getC s c.val).inst = some i → i.missed = false → i.deadline = some dl → dl < s.time.dev →
    ctxPart s c.val < 16 →
    ∃ t : State, exec (.exposureDeadline c) s = .next t ∧ (getC t c.val).inst = some { i with missed := true } ∧
      (getC t c.val).st = (getC s c.val).st ∧ (s.safe.events.length < 256 → t.safe.events.length = s.safe.events.length + 1) ∧
      getR t (Reg.SCH_P_DEADLINE (ctxPart s c.val)) = satAdd (getR s (Reg.SCH_P_DEADLINE (ctxPart s c.val))) 1 ∧
      t.safe.evtSeq = (s.safe.evtSeq + 1) % 2 ^ 32 ∧ t.tiles = s.tiles ∧ sameBytes s t) ∧
  (∀ (c : CtxId) (i : ExpInst) (s : State), (getC s c.val).inst = some i → i.missed = true ∨ i.deadline = none →
    exec (.exposureDeadline c) s = .next s) ∧
  (∀ (c : CtxId) (b rel : Nat) (s : State), (getC s c.val).barRel.find? (fun x => decide (x.1 = b)) = some (b, rel) →
    isRunning (getC s c.val) = true → rel ≤ s.now → (((getC s c.val).barArr.filter (fun x => decide (x.1 = b))).map (·.2)).Nodup →
    ∃ t : State, exec (.barrierRelease c b) s = .next t ∧
      (∀ tl, (b, tl) ∈ (getC s c.val).barArr → (getT t tl).pc = (getT s tl).pc + 1 ∧ (getT t tl).barWait = none) ∧
      (∀ tl, (b, tl) ∉ (getC s c.val).barArr → getT t tl = getT s tl) ∧ (∀ x ∈ (getC t c.val).barArr, x.1 ≠ b) ∧
      (∀ x ∈ (getC t c.val).barRel, x.1 ≠ b) ∧ sameBytes s t) ∧
  (∀ (c : CtxId) (b : Nat) (s : State), (getC s c.val).barRel = [] → exec (.barrierRelease c b) s = .next s) ∧
  (∀ (k : Fin 4) (v : Word) (s : State), ∃ t : State, exec (.schRearm k v) s = .next t ∧
    (∀ j, j < 32 → bitOf v j = true → planCtx s (32 * k.val + j) = true → (getC s (32 * k.val + j)).st = .held →
      getC t (32 * k.val + j) = { Ctx.init with lastEntry := (getC s (32 * k.val + j)).lastEntry }) ∧
    (∀ c, (∀ j, j < 32 → bitOf v j = true → planCtx s (32 * k.val + j) = true → c = 32 * k.val + j → (getC s c).st ≠ .held) →
      getC t c = getC s c) ∧
    ((∃ j, j < 32 ∧ bitOf v j = true ∧ planCtx s (32 * k.val + j) = false) → getB t Reg.ERR_HOST_STATUS 0 = true) ∧
    regsBut [Reg.ERR_HOST_STATUS] s t ∧ t.tiles = s.tiles ∧ sameBytes s t)

/-! ### The Shutter (08) -/

/-- A driver's stop is taken at once, or deferred while its context holds a shared semaphore; when it takes effect every live tile stops and
drains; the Negative of a tile with no descriptor in flight is then saved in its region and the tile is free; the copy in HBM follows, but for
the records of waiting arrivals, which stay true there (08 R280, R282 to R286, R288). A context the driver stopped waits until the driver lets it resume; a stopped exposure whose tiles are all free then takes its units back as
they were saved and runs (08 R273, R282, R290).
The model's own choices under these clauses: logs 3, 74 and 101. -/
def Obligations.TheShutterStopsAndResumes : Prop :=
  ((∀ (v : Word) (c : Nat) (s : State), fieldOf v 31 30 = 1 → fieldOf v 29 7 = 0 → fieldOf v 6 0 = c →
    getB s Reg.SCH_SHUTTER_STATUS 31 = false → planCtx s c = true → (getC s c).st = .running → (getC s c).stopReq = none → ctxPart s c < 16 →
    ∃ t : State, exec (.schShutterStop v) s = .next t ∧ (getC t c).stopReq = some 1 ∧
      (getC t c).st = (if holdsShared s c then .deferred else .running) ∧ getB t Reg.SCH_SHUTTER_STATUS 31 = true ∧
      getF t Reg.SCH_SHUTTER_STATUS 6 0 = c ∧ (∀ x, x ≠ c → getC t x = getC s x) ∧ t.tiles = s.tiles ∧ sameBytes s t) ∧
  (∀ (v : Word) (s : State), fieldOf v 31 30 ≠ 1 → exec (.schShutterStop v) s = .next s) ∧
  (∀ (v : Word) (s : State), fieldOf v 31 30 = 1 → fieldOf v 29 7 = 0 → getB s Reg.SCH_SHUTTER_STATUS 31 = true →
    exec (.schShutterStop v) s = .next s) ∧
  (∀ (c : CtxId) (k : Nat) (s : State), (getC s c.val).stopReq = some k → isRunning (getC s c.val) = true → holdsShared s c.val = false →
    (getC s c.val).barArr = [] → (getC s c.val).barRel = [] →
    ∃ t : State, exec (.shutterStop c) s = .next t ∧ (getC t c.val).st = .stopped ∧ (getC t c.val).stopReq = none ∧
      (getC t c.val).stopTime = s.time.dev ∧ (getC t c.val).stopCause = min k 1 ∧ (getC t c.val).driverStop = decide (1 ≤ k) ∧
      (getC t c.val).stopping = liveTiles (getC s c.val) ∧ (∀ tl ∈ liveTiles (getC s c.val), (getT t tl).seq = .stopped) ∧
      (∀ tl, tl ∉ liveTiles (getC s c.val) → getT t tl = getT s tl)) ∧
  (∀ (c : CtxId) (s : State), (getC s c.val).stopReq = none ∨ holdsShared s c.val = true → exec (.shutterStop c) s = .next s) ∧
  (∀ (c : CtxId) (tl : TileId) (s : State), (getT s tl.val).dma.all (fun ch => ch.inFlight.isEmpty) = true → (getC s c.val).st = .stopped →
    (getC s c.val).stopping.contains tl.val = true →
    ∃ (t : State) (g : Negative), exec (.negativeSaved c tl) s = .next t ∧ g.unit = unitOf (getT s tl.val) ∧ g.regs = ctxRegs s tl.val ∧
      g.cause = (getC s c.val).stopCause ∧ g.stopTime = (getC s c.val).stopTime ∧ mapFind (getC t c.val).negs tl.val = some g ∧
      (getC t c.val).stopping = (getC s c.val).stopping.erase tl.val ∧ (getT t tl.val).run = none ∧ (getT t tl.val).seq = .idle ∧
      unitOf (getT t tl.val) = Tile.init ∧ (∀ x, x ≠ tl.val → getT t x = getT s x) ∧
      (∀ a, getByte t a = getByte (putArrivals (negWrite s (negRegion s c.val tl.val) c.val (ctxPart s c.val) tl.val g) c.val tl.val
        (negRegion s c.val tl.val)) a)) ∧
  (∀ (c : CtxId) (tl : TileId) (s : State), (getC s c.val).st ≠ .stopped ∨ (getC s c.val).stopping.contains tl.val = false →
    exec (.negativeSaved c tl) s = .next s) ∧
  (∀ (c : CtxId) (tl : Nat) (g : Negative) (s : State), (getC s c.val).stopping = [] → (getC s c.val).negs = [(tl, g)] →
    (getC s c.val).negHbm = [] → Memory.wf s = true →
    (negRegion s c.val tl + g.bytes ≤ negSlot s c.val tl ∨ negSlot s c.val tl + g.bytes ≤ negRegion s c.val tl) →
    (∀ k, k < 6 → getB s (Reg.TILE_SP_SLEEP tl) k = false) →
    ∃ t : State, exec (.negativeInHbm c) s = .next t ∧ (getC t c.val).negHbm = [tl] ∧
      (∀ i, i < g.bytes → i ≠ 0xC28 → i < 0xC40 ∨ 0xC40 + 32 * (pendRings s c.val tl).length ≤ i →
        getByte t (negSlot s c.val tl + i) = getByte s (negRegion s c.val tl + i)) ∧
      (∀ a, a < negSlot s c.val tl ∨ negSlot s c.val tl + max g.bytes (0xC40 + 32 * (pendRings s c.val tl).length) ≤ a →
        getByte t a = getByte s a) ∧ regsBut [] s t ∧ (∀ x, x ≠ tl → getT t x = getT s x)) ∧
  (∀ (c : CtxId) (s : State), (getC s c.val).stopping ≠ [] → exec (.negativeInHbm c) s = .next s)) ∧
((∀ (v : Word) (c : Nat) (s : State), fieldOf v 31 30 = 2 → fieldOf v 29 7 = 0 → fieldOf v 6 0 = c →
    getB s Reg.SCH_SHUTTER_STATUS 31 = false → planCtx s c = true →
    ∃ t : State, exec (.schShutterResume v) s = .next t ∧ getC t c = { getC s c with driverStop := false } ∧
      (∀ x, x ≠ c → getC t x = getC s x) ∧ regsBut [Reg.SCH_SHUTTER_STATUS] s t ∧ t.tiles = s.tiles ∧ sameBytes s t) ∧
  (∀ (v : Word) (s : State), fieldOf v 31 30 ≠ 2 → exec (.schShutterResume v) s = .next s) ∧
  (∀ (c : CtxId) (tl : Nat) (g : Negative) (pr : Program) (s : State), running s = true → fatal s = false → (getC s c.val).st = .stopped →
    (getC s c.val).driverStop = false → (getC s c.val).stopping = [] → setFree s c.val = true → goesFirst s c.val = false →
    (getC s c.val).negs = [(tl, g)] → (getT s tl).power = .awake → dieAwake s (dieOf tl) = true → programOf s c.val = some pr →
    s.ecc.bad = [] → (getC s c.val).recvLost = [] → (getC s c.val).recv = [] → (getC s c.val).spill = [] →
    ∃ t : State, exec (.resume c) s = .next t ∧ (getC t c.val).st = .running ∧ (getC t c.val).negs = [] ∧ (getT t tl).run = some c ∧
      (getT t tl).seq = .issuing ∧ (getT t tl).pc = g.unit.pc ∧ (getT t tl).p = g.unit.p ∧ (getT t tl).dev = g.unit.dev ∧
      (getT t tl).dma = g.unit.dma ∧ (getT t tl).enl.fbq = g.unit.enl.fbq ∧ (∀ x, x ≠ tl → getT t x = getT s x)) ∧
  (∀ (c : CtxId) (s : State), running s = false ∨ (getC s c.val).st ≠ .stopped ∨ (getC s c.val).driverStop = true →
    exec (.resume c) s = .next s))

/-! ### Context faults (08, 09) -/

/-- A context fault stops the context everywhere and saves nothing: its tiles are handed on, it holds no semaphore, and it waits held or
for its scrub (08 R292, R293); a hold past its maximum is such a fault (08 R281). A ring that waits too long spills into its overflow area, and
faults without one (09 R320 to R322). A scrubbed page reads as zero, one that an access waits for goes first, and the context it was scrubbed for
may re-arm (08 R293, R294). The model's own choices under these clauses: logs 3, 73, 95 and 102. -/
def Obligations.ContextFaultsAreContained : Prop :=
  (∀ (c : CtxId) (tl : TileId) (k : Nat) (d : Decl) (s : State), (getT s tl.val).run = some c → 1 ≤ k → k ≤ 11 → declOf s c.val = some d →
    d.part < 16 →
    ∃ t : State, exec (.contextFault c tl k) s = .next t ∧ ((getC t c.val).st = .held ∨ (getC t c.val).st = .scrubbing) ∧ (getC t c.val).inst = none ∧
      (getC t c.val).sems = [] ∧ (getC t c.val).negs = [] ∧ (getC t c.val).cause = k ∧
      (∀ x ∈ tilesOf d.tiles, (getT s x).run = some c → (getT t x).run = none ∧ (getT t x).seq = .idle) ∧
      getR t (Reg.SCH_P_FAULT d.part) = satAdd (getR s (Reg.SCH_P_FAULT d.part)) 1 ∧
      (∀ pg ∈ s.foreignDirty, pg ∈ t.foreignDirty) ∧ (∀ pg ∈ (getC t c.val).scrub, pg ∈ t.foreignDirty)) ∧
  (∀ (c : CtxId) (tl : TileId) (k : Nat) (s : State), (getT s tl.val).run ≠ some c → exec (.contextFault c tl k) s = .next s) ∧
  (∀ (c : CtxId) (m : Fin 256) (since most : Nat) (s : State), (getC s c.val).sems.find? (fun x => decide (x.1 = m.val)) = some (m.val, since) →
    holdMax s c.val m.val = some most → most < runTime s c.val - since →
    ∃ t : State, exec (.holdExpired c m) s = .next t ∧ ((getC t c.val).st = .held ∨ (getC t c.val).st = .scrubbing) ∧ (getC t c.val).sems = [] ∧
      (getC t c.val).cause = 7) ∧
  (∀ (c : CtxId) (m : Fin 256) (since most : Nat) (s : State), (getC s c.val).sems.find? (fun x => decide (x.1 = m.val)) = some (m.val, since) →
    holdMax s c.val m.val = some most → runTime s c.val - since ≤ most → exec (.holdExpired c m) s = .next s) ∧
  (∀ (tl : TileId) (c : CtxId) (since n : Nat) (rest : List Nat) (d : Decl) (s : State), (getT s tl.val).run = some c →
    (getT s tl.val).wdSince = some since → blockedRings s tl.val c.val = n :: rest → inRingWait (getT s tl.val) = true →
    since + 16000 ≤ runTime s c.val → declOf s c.val = some d → (getC s c.val).spill = [] →
    64 + (ringAt s tl.val n).size ≤ d.ovfPages * 1024 → areaMapped s c.val d.ovfVa (d.ovfPages * 65536) = true →
    ∃ t : State, exec (.ringWatchdog tl) s = .next t ∧ spilled t tl.val c.val n = true ∧ (getC t c.val).st = (getC s c.val).st ∧
      getR t Reg.ERR_SPILL_CNT = satAdd (getR s Reg.ERR_SPILL_CNT) 1 ∧ (∀ x, x ≠ tl.val → getT t x = getT s x)) ∧
  (∀ (tl : TileId) (c : CtxId) (since n : Nat) (rest : List Nat) (d : Decl) (s : State), (getT s tl.val).run = some c →
    (getT s tl.val).wdSince = some since → blockedRings s tl.val c.val = n :: rest → inRingWait (getT s tl.val) = true →
    since + 16000 ≤ runTime s c.val → declOf s c.val = some d → d.ovfPages = 0 →
    ∃ t : State, exec (.ringWatchdog tl) s = .next t ∧ ((getC t c.val).st = .held ∨ (getC t c.val).st = .scrubbing) ∧ (getC t c.val).cause = 10) ∧
  (∀ (tl : TileId) (s : State), (getT s tl.val).wdSince = none ∨ inRingWait (getT s tl.val) = false → exec (.ringWatchdog tl) s = .next s) ∧
  (∀ (page : Nat) (s : State), s.foreignDirty.contains page = true → s.scrubWant = [] ∨ s.scrubWant.head? = some page →
    pageReady s page = true → s.carriers = [] → s.peer.recv = [] →
    ∃ t : State, exec (.foreignDirtyScrub page) s = .next t ∧ t.foreignDirty.contains page = false ∧
      (∀ a, page * 0x10000 ≤ a → a < page * 0x10000 + 0x10000 → getByte t a = 0#8) ∧
      (∀ a, a < page * 0x10000 ∨ page * 0x10000 + 0x10000 ≤ a → getByte t a = getByte s a) ∧ regsBut [] s t ∧ t.tiles = s.tiles) ∧
  (∀ (page : Nat) (c : CtxId) (s : State), s.foreignDirty.contains page = true → s.scrubWant = [] → pageReady s page = true → s.peer.recv = [] →
    s.ctxs = [(c.val, getC s c.val)] →
    (getC s c.val).st = .scrubbing → (getC s c.val).scrub = [page] →
    ∃ t : State, exec (.foreignDirtyScrub page) s = .next t ∧ (getC t c.val).st = .held ∧ (getC t c.val).scrub = []) ∧
  (∀ (page other : Nat) (s : State), s.scrubWant.head? = some other → page ≠ other → exec (.foreignDirtyScrub page) s = .next s) ∧
  (∀ (page : Nat) (s : State), (s.foreignDirty.contains page = false ∧ s.alloc.dirty.contains (page * 0x10000) = false) ∨ pageReady s page = false →
    exec (.foreignDirtyScrub page) s = .next s)

/-! ### The Developer (05) -/

/-- Element-wise arithmetic of FP32, INT32, bits and Q15 pairs: each active element of the destination takes the operation's result on the two
sources, the second broadcast where it names a scalar; inactive elements are kept, or cleared where the word says so; flags are sticky; nothing
else of the tile or the machine changes (05 R162, R163, R170, R171; Table 05.5).
The model's own choices under these clauses: logs 12 and 72. -/
def Obligations.VectorArithmetic : Prop :=
  RunsBin .fadd (fp2 f32Add) ∧ RunsBin .fsub (fp2 f32Sub) ∧ RunsBin .fmul (fp2 f32Mul) ∧
  RunsBin .fmin (fun a b => (fpMin a b, 0)) ∧ RunsBin .fmax (fun a b => (fpMax a b, 0)) ∧
  RunsUn .fabs (fun a => (fpAbs a, 0)) ∧ RunsUn .fneg (fun a => (fpNeg a, 0)) ∧
  RunsBin .iadd (fun a b => (a + b, 0)) ∧ RunsBin .isub (fun a b => (a - b, 0)) ∧ RunsBin .imul (fun a b => (a * b, 0)) ∧
  RunsBin .imin (fun a b => (if b.toInt < a.toInt then b else a, 0)) ∧ RunsBin .imax (fun a b => (if a.toInt < b.toInt then b else a, 0)) ∧
  RunsBin .vand (fun a b => (a &&& b, 0)) ∧ RunsBin .vor (fun a b => (a ||| b, 0)) ∧ RunsBin .vxor (fun a b => (a ^^^ b, 0)) ∧
  RunsBin .shl (fun a b => (a <<< (b.toNat % 32), 0)) ∧ RunsBin .shr (fun a b => (a >>> (b.toNat % 32), 0)) ∧
  RunsBin .sra (fun a b => (a.sshiftRight (b.toNat % 32), 0)) ∧
  RunsBin .dspCmulq q15Mul ∧ RunsBin .dspCaddq q15Add ∧ RunsBin .dspCsubq q15Sub

/-- The transcendental functions, and the instructions with their own operand forms: FMA and SEL take a third operand and run unmasked, and CVT
converts between the pairs of Table 05.4 with a scaling exponent from −64 to 63 (05 R163, R173, R188; Table 05.5). Comparisons write mask bits by their condition code, mask logic works on the bits below VLEN, and MPOP counts them; a condition code that
Table 05.5 leaves reserved faults (05 R162, R172, R175; Table 05.5).
The model's own choices under these clauses: logs 11, 12 and 91. -/
def Obligations.FunctionsConversionsAndMasks : Prop :=
  (RunsUn .exp2 (transEval .exp2) ∧ RunsUn .log2 (transEval .log2) ∧ RunsUn .rcp (transEval .rcp) ∧ RunsUn .rsqrt (transEval .rsqrt) ∧
  Runs .fma (fun w => isV w.vd = true ∧ isV w.vs1 = true) (fun s u t w => WroteV s u t w.vd 0 (fun i =>
    (f32Fma (srcGet (getD s t.val) w.vs1 i) (srcGet (getD s t.val) w.vs2 i) (srcGet (getD s t.val) w.vs3 i),
     invalidOf (f32Fma (srcGet (getD s t.val) w.vs1 i) (srcGet (getD s t.val) w.vs2 i) (srcGet (getD s t.val) w.vs3 i))
       [srcGet (getD s t.val) w.vs1 i, srcGet (getD s t.val) w.vs2 i, srcGet (getD s t.val) w.vs3 i]))) ∧
  Runs .sel (fun w => isV w.vd = true ∧ isV w.vs1 = true ∧ w.vs3 < 8) (fun s u t w => WroteV s u t w.vd 0 (fun i =>
    (if bitOf (mGet (getD s t.val) w.vs3) i then srcGet (getD s t.val) w.vs1 i else srcGet (getD s t.val) w.vs2 i, 0))) ∧
  (∀ p ∈ [(6, 9, Fmt.int32, Fmt.fp32), (9, 6, Fmt.fp32, Fmt.int32), (6, 6, Fmt.fp32, Fmt.fp32)],
    Runs .cvt (fun w => isV w.vd = true ∧ isV w.vs1 = true ∧ w.i 31 28 = p.1 ∧ w.i 27 24 = p.2.1 ∧ -64 ≤ signed 8 (w.i 23 16) ∧
        signed 8 (w.i 23 16) ≤ 63)
      (fun s u t w => WroteV s u t w.vd w.vs3 (fun i => cvtReal p.2.2.1 p.2.2.2 (signed 8 (w.i 23 16)) (vGet (getD s t.val) w.vs1 i)))) ∧
  Runs .cvt (fun w => isV w.vd = true ∧ isPair w.vs1 = true ∧ w.i 31 28 = 8 ∧ w.i 27 24 = 10 ∧ -64 ≤ signed 8 (w.i 23 16) ∧
      signed 8 (w.i 23 16) ≤ 63)
    (fun s u t w => WroteV s u t w.vd w.vs3 (fun i => cvtToQ15 (signed 8 (w.i 23 16)) (vGet (getD s t.val) w.vs1 i)
      (vGet (getD s t.val) (w.vs1 + 1) i))) ∧
  Runs .cvt (fun w => isPair w.vd = true ∧ isV w.vs1 = true ∧ w.i 31 28 = 10 ∧ w.i 27 24 = 8 ∧ -64 ≤ signed 8 (w.i 23 16) ∧
      signed 8 (w.i 23 16) ≤ 63)
    (fun s u t w => WrotePair s u t w.vd w.vs3 (fun i => ((cvtFromQ15 (signed 8 (w.i 23 16)) (vGet (getD s t.val) w.vs1 i)).1,
      (cvtFromQ15 (signed 8 (w.i 23 16)) (vGet (getD s t.val) w.vs1 i)).2, 0))) ∧
  Faults .cvt (fun w => signed 8 (w.i 23 16) < -64 ∨ 63 < signed 8 (w.i 23 16))) ∧
(RunsCmp .fcmp 7 fpCmp ∧ RunsCmp .icmp 6 intCmp ∧
  RunsMask .mand true (fun a b => a && b) ∧ RunsMask .mor true (fun a b => a || b) ∧ RunsMask .mxor true (fun a b => a != b) ∧
  RunsMask .mnot false (fun a _ => !a) ∧
  Runs .mpop (fun w => isS w.vd = true ∧ isM w.vs1 = true) (fun s u t w => WroteS s u t (w.vd - 32)
    (BitVec.ofNat 32 ((List.range (getD s t.val).vlen).filter (fun i => bitOf (mGet (getD s t.val) w.vs1) i)).length) 0) ∧
  Faults .fcmp (fun w => w.i 2 0 = 7) ∧ Faults .icmp (fun w => 6 ≤ w.i 2 0))

/-- Complex work: CF32 pairs add, multiply and multiply by a conjugate, and give their squared magnitude; Q15 products accumulate with
saturation, accumulators clear, move out with a scaling shift or an automatic one, and load (05 R160, R170, R189, R190; Table 05.5).
The model's own choices under these clauses: log 12. -/
def Obligations.ComplexAndAccumulators : Prop :=
  RunsPair .cadd cfAdd ∧ RunsPair .cmul (cfMul false) ∧ RunsPair .cmulc (cfMul true) ∧
  Runs .cmag2 (fun w => isV w.vd = true ∧ isPair w.vs1 = true) (fun s u t w => WroteV s u t w.vd w.vs3 (fun i =>
    cfMag2 (vGet (getD s t.val) w.vs1 i) (vGet (getD s t.val) (w.vs1 + 1) i))) ∧
  Runs .dspCmac (fun w => isAcc w.vd = true ∧ isV w.vs1 = true) (fun s u t w => WroteA s u t w.vd w.vs3 (fun i =>
    let x := srcGet (getD s t.val) w.vs1 i
    let y := srcGet (getD s t.val) w.vs2 i
    let yi : Int := if w.i 0 0 = 1 then -q15Im y else q15Im y
    let k : Int := if w.i 1 1 = 1 then -1 else 1
    let re : Int := aGet (getD s t.val) w.vd i + k * (q15Re x * q15Re y - q15Im x * yi)
    let im : Int := aGet (getD s t.val) (w.vd + 1) i + k * (q15Re x * yi + q15Im x * q15Re y)
    (max (-2 ^ 47) (min (2 ^ 47 - 1) re), max (-2 ^ 47) (min (2 ^ 47 - 1) im),
     if re < -2 ^ 47 ∨ 2 ^ 47 - 1 < re ∨ im < -2 ^ 47 ∨ 2 ^ 47 - 1 < im then fAccSat else 0))) ∧
  Runs .dspAclr (fun _ => True) (fun s u t w => DevDone s u t 0 ∧
    (∀ n i, n < 4 → i < 256 → aGet (getD u t.val) n i =
      if w.imm.testBit n = true ∧ i < (getD s t.val).vlen then 0 else aGet (getD s t.val) n i) ∧
    Kept (getD s t.val) (getD u t.val) [] [] [] [0, 1, 2, 3]) ∧
  Runs .dspMovq (fun w => isV w.vd = true ∧ isAcc w.vs1 = true ∧ -16 ≤ signed 6 (w.i 5 0)) (fun s u t w =>
    ∃ sh : Int, (w.i 7 7 = 0 → sh = signed 6 (w.i 5 0)) ∧
      (w.i 7 7 = 1 → signed 6 (w.i 5 0) ≤ sh ∧ sh ≤ 31 ∧ accFits (getD s t.val) w.vs1 sh = true ∧
        (∀ j, signed 6 (w.i 5 0) ≤ j → j < sh → accFits (getD s t.val) w.vs1 j = false)) ∧
      DevDone s u t (flagsOf (getD s t.val) w.vs3 (fun i =>
        (q15Pack (q15OfAcc (aGet (getD s t.val) w.vs1 i) sh) (q15OfAcc (aGet (getD s t.val) (w.vs1 + 1) i) sh)).2)) ∧
      (∀ i, i < 256 → vGet (getD u t.val) w.vd i = elemAfter (getD s t.val) w.vs3 i
        (q15Pack (q15OfAcc (aGet (getD s t.val) w.vs1 i) sh) (q15OfAcc (aGet (getD s t.val) (w.vs1 + 1) i) sh)).1 0#32
        (vGet (getD s t.val) w.vd i)) ∧
      (w.i 13 13 = 1 → (getD s t.val).vlen ≠ 0 → sGet (getD u t.val) (w.i 12 8) = BitVec.ofInt 32 sh) ∧
      (w.i 13 13 = 0 ∨ (getD s t.val).vlen = 0 → sGet (getD u t.val) (w.i 12 8) = sGet (getD s t.val) (w.i 12 8)) ∧
      Kept (getD s t.val) (getD u t.val) [w.vd] [w.i 12 8] [] []) ∧
  Faults .dspMovq (fun w => signed 6 (w.i 5 0) < -16) ∧
  Runs .dspLda (fun w => isAcc w.vd = true ∧ isV w.vs1 = true) (fun s u t w => WroteA s u t w.vd w.vs3 (fun i =>
    (q15Re (vGet (getD s t.val) w.vs1 i) * 32768, q15Im (vGet (getD s t.val) w.vs1 i) * 32768, 0)))

/-- Permutations take each element from the position they name, a position outside 0 to VLEN − 1 giving 0; scans combine in the fixed tree
order and keep segments apart, reductions give the last value of the unsegmented scan, and SMAX gives a row of Table 05.6's cases
(05 R180 to R187; Table 05.5).
The model's own choices under these clauses: logs 12, 91 and 92. -/
def Obligations.PermutationsAndScans : Prop :=
  RunsPerm .vperm (fun w => isV w.vs2 = true) fPermOor (fun d w i => ((vGet d w.vs2 i).toNat : Int)) ∧
  RunsPerm .vslideup (fun _ => True) 0 (fun _ w i => (i : Int) - (w.i 8 0 : Int)) ∧
  RunsPerm .vslidedn (fun _ => True) 0 (fun _ w i => (i : Int) + (w.i 8 0 : Int)) ∧
  RunsPerm .vrev (fun _ => True) 0 (fun d _ i => (d.vlen : Int) - 1 - (i : Int)) ∧
  (∀ ty : ScanType, ty ≠ .cf32 →
    Runs .scan (fun w => ScanType.ofCode (w.i 5 3) = some ty ∧ scanLegal ty (w.i 1 0) = true ∧ isV w.vd = true ∧ isV w.vs1 = true)
      (fun s u t w =>
        let start := fun i => decide (i = 0) || (w.vs3.testBit 5 && bitOf (mGet (getD s t.val) (w.vs3 % 8)) i)
        let y := scanAll ty (w.i 1 0) ((List.range (getD s t.val).vlen).map (fun i => ((vGet (getD s t.val) w.vs1 i, 0#32), start i)))
        DevDone s u t y.2 ∧ Kept (getD s t.val) (getD u t.val) [w.vd] [] [] [] ∧
        (∀ i, i < 256 → vGet (getD u t.val) w.vd i =
          if i < (getD s t.val).vlen then
            (if w.i 2 2 = 1 then (if start i then scanId ty (w.i 1 0) else (nth (scanId ty (w.i 1 0), true) y.1 (i - 1)).1).1
             else (nth (scanId ty (w.i 1 0), true) y.1 i).1.1)
          else vGet (getD s t.val) w.vd i))) ∧
  Runs .scan (fun w => w.i 5 3 = 2 ∧ w.i 1 0 = 0 ∧ isPair w.vd = true ∧ isPair w.vs1 = true) (fun s u t w =>
    let start := fun i => decide (i = 0) || (w.vs3.testBit 5 && bitOf (mGet (getD s t.val) (w.vs3 % 8)) i)
    let y := scanAll .cf32 0 ((List.range (getD s t.val).vlen).map (fun i =>
      ((vGet (getD s t.val) w.vs1 i, vGet (getD s t.val) (w.vs1 + 1) i), start i)))
    let out := fun i => if w.i 2 2 = 1 then (if start i then (0#32, 0#32) else (nth ((0#32, 0#32), true) y.1 (i - 1)).1)
      else (nth ((0#32, 0#32), true) y.1 i).1
    DevDone s u t y.2 ∧ Kept (getD s t.val) (getD u t.val) [w.vd, w.vd + 1] [] [] [] ∧
    (∀ i, i < 256 → vGet (getD u t.val) w.vd i = if i < (getD s t.val).vlen then (out i).1 else vGet (getD s t.val) w.vd i) ∧
    (∀ i, i < 256 → vGet (getD u t.val) (w.vd + 1) i = if i < (getD s t.val).vlen then (out i).2 else vGet (getD s t.val) (w.vd + 1) i)) ∧
  (∀ ty : ScanType, ty ≠ .cf32 →
    Runs .red (fun w => ScanType.ofCode (w.i 5 3) = some ty ∧ scanLegal ty (w.i 1 0) = true ∧ isS w.vd = true ∧ isV w.vs1 = true)
      (fun s u t w =>
        let x := (List.range (getD s t.val).vlen).map (fun i =>
          if active (getD s t.val) w.vs3 i then (vGet (getD s t.val) w.vs1 i, 0#32) else scanId ty (w.i 1 0))
        WroteS s u t (w.vd - 32) (redValue ty (w.i 1 0) x).1.1 (redValue ty (w.i 1 0) x).2)) ∧
  Runs .red (fun w => w.i 5 3 = 2 ∧ w.i 1 0 = 0 ∧ isS w.vd = true ∧ w.vd % 2 = 0 ∧ isPair w.vs1 = true) (fun s u t w =>
    let x := (List.range (getD s t.val).vlen).map (fun i => if active (getD s t.val) w.vs3 i then
      (vGet (getD s t.val) w.vs1 i, vGet (getD s t.val) (w.vs1 + 1) i) else (0#32, 0#32))
    DevDone s u t (redValue .cf32 0 x).2 ∧ Kept (getD s t.val) (getD u t.val) [] [w.vd - 32, w.vd - 31] [] [] ∧
    sGet (getD u t.val) (w.vd - 32) = (redValue .cf32 0 x).1.1 ∧ sGet (getD u t.val) (w.vd - 31) = (redValue .cf32 0 x).1.2) ∧
  (∀ (t : TileId) (w : Word64) (c : Nat) (s : State), TileReady s t c 1 → isV (DevWord.of w).vd = true → isV (DevWord.of w).vs1 = true →
    (getD s t.val).vlen ≠ 0 → ∃ u : State, exec (.smax t w) s = .next u ∧
      (let x := (List.range (getD s t.val).vlen).map (fun i => (vGet (getD s t.val) (DevWord.of w).vs1 i, active (getD s t.val) (DevWord.of w).vs3 i))
       DevDone s u t (smaxOut x).2 ∧ Kept (getD s t.val) (getD u t.val) [(DevWord.of w).vd] [] [] [] ∧
       (∀ i, i < 256 → vGet (getD u t.val) (DevWord.of w).vd i =
         if i < (getD s t.val).vlen then nth 0#32 (smaxOut x).1 i else vGet (getD s t.val) (DevWord.of w).vd i))) ∧
  (∀ (t : TileId) (w : Word64) (c : Nat) (s : State), TileReady s t c 1 → isV (DevWord.of w).vd = true → isV (DevWord.of w).vs1 = true →
    (getD s t.val).vlen = 0 → ∃ u : State, exec (.smax t w) s = .next u ∧ DevDone s u t 0 ∧ Kept (getD s t.val) (getD u t.val) [] [] [] [])

/-- The Developer's control instructions: SETVL bounds VLEN by 256, SLI and SADD write scalars, VEXT reads one element, GETF and CLRF read and
clear the sticky flags, SETCB takes a legal circular buffer and faults on any other, NOP and FENCE only pass (05 R164, R168, R175, R191;
Tables 05.5, 05.10).
The model's own choices under these clauses: log 12. -/
def Obligations.DeveloperControl : Prop :=
  (∀ mk ∈ [Instr.devNop, Instr.devFence], Runs mk (fun _ => True) (fun s u t _ => DevDone s u t 0 ∧
    Kept (getD s t.val) (getD u t.val) [] [] [] [])) ∧
  Runs .setvl (fun w => isS w.vd = true ∧ (w.i 31 31 = 1 ∨ isS w.vs1 = true)) (fun s u t w =>
    let n := min (if w.i 31 31 = 1 then w.i 8 0 else (sGet (getD s t.val) (w.vs1 - 32)).toNat) 256
    DevDone s u t 0 ∧ (getD u t.val).vlen = n ∧ sGet (getD u t.val) (w.vd - 32) = BitVec.ofNat 32 n ∧
    Kept { getD s t.val with vlen := n } (getD u t.val) [] [w.vd - 32] [] []) ∧
  Runs .sli (fun w => isS w.vd = true) (fun s u t w => WroteS s u t (w.vd - 32) (BitVec.ofNat 32 w.imm) 0) ∧
  Runs .sadd (fun w => isS w.vd = true ∧ isS w.vs1 = true ∧ isS w.vs2 = true) (fun s u t w => WroteS s u t (w.vd - 32)
    (sGet (getD s t.val) (w.vs1 - 32) + sGet (getD s t.val) (w.vs2 - 32)) 0) ∧
  Runs .vext (fun w => isS w.vd = true ∧ isV w.vs1 = true ∧ isS w.vs2 = true) (fun s u t w =>
    let i := (sGet (getD s t.val) (w.vs2 - 32)).toNat
    WroteS s u t (w.vd - 32) (if i < (getD s t.val).vlen then vGet (getD s t.val) w.vs1 i else 0#32)
      (if i < (getD s t.val).vlen then 0 else fPermOor)) ∧
  Runs .getf (fun w => isS w.vd = true) (fun s u t w => WroteS s u t (w.vd - 32) (getR s (Reg.TILE_DEV_FLAGS t.val) &&& 0x1FF#32) 0) ∧
  Runs .clrf (fun _ => True) (fun s u t w => DevPass s u t ∧ sameBytes s u ∧ Kept (getD s t.val) (getD u t.val) [] [] [] [] ∧
    getR u (Reg.TILE_DEV_FLAGS t.val) = getR s (Reg.TILE_DEV_FLAGS t.val) &&& ~~~ BitVec.ofNat 32 (w.i 8 0)) ∧
  (∀ (t : TileId) (w : Word64) (c : Nat) (s : State), TileReady s t c 1 → isS (DevWord.of w).vs1 = true → isS (DevWord.of w).vs2 = true →
    (sGet (getD s t.val) ((DevWord.of w).vs1 - 32)).toNat % 4 = 0 → (sGet (getD s t.val) ((DevWord.of w).vs2 - 32)).toNat % 4 = 0 →
    (sGet (getD s t.val) ((DevWord.of w).vs2 - 32)).toNat ≠ 0 →
    (sGet (getD s t.val) ((DevWord.of w).vs1 - 32)).toNat + (sGet (getD s t.val) ((DevWord.of w).vs2 - 32)).toNat ≤ spBytes →
    ∃ u : State, exec (.setcb t w) s = .next u ∧ DevDone s u t 0 ∧
      Kept { getD s t.val with cbb := (getD u t.val).cbb, cbl := (getD u t.val).cbl } (getD u t.val) [] [] [] [] ∧
      (∀ n, mapGet 0#32 (getD u t.val).cbb n = if n = (DevWord.of w).i 2 0 then sGet (getD s t.val) ((DevWord.of w).vs1 - 32)
        else mapGet 0#32 (getD s t.val).cbb n) ∧
      (∀ n, mapGet 0#32 (getD u t.val).cbl n = if n = (DevWord.of w).i 2 0 then sGet (getD s t.val) ((DevWord.of w).vs2 - 32)
        else mapGet 0#32 (getD s t.val).cbl n)) ∧
  (∀ (t : TileId) (w : Word64) (c : Nat) (s : State), TileReady s t c 1 →
    (sGet (getD s t.val) ((DevWord.of w).vs1 - 32)).toNat % 4 ≠ 0 ∨ (sGet (getD s t.val) ((DevWord.of w).vs2 - 32)).toNat % 4 ≠ 0 ∨
      sGet (getD s t.val) ((DevWord.of w).vs2 - 32) = 0#32 ∨
      spBytes < (sGet (getD s t.val) ((DevWord.of w).vs1 - 32)).toNat + (sGet (getD s t.val) ((DevWord.of w).vs2 - 32)).toNat →
    ∃ u : State, exec (.setcb t w) s = .next u ∧ Faulted u c 1)

/-- Malformed operand codes fault the context with cause 1: a vector, scalar, mask, pair or accumulator field that names a register of
another kind (05 R162, R175; 09 Table 09.2).
The model's own choices under these clauses: logs 12, 21 and 91. -/
def Obligations.MalformedDeveloperWordsFault : Prop :=
  (∀ mk ∈ [Instr.fadd, Instr.fsub, Instr.fmul, Instr.fma, Instr.fmin, Instr.fmax, Instr.fabs, Instr.fneg, Instr.iadd, Instr.isub, Instr.imul,
      Instr.imin, Instr.imax, Instr.vand, Instr.vor, Instr.vxor, Instr.shl, Instr.shr, Instr.sra, Instr.exp2, Instr.log2, Instr.rcp, Instr.rsqrt,
      Instr.dspCmulq, Instr.dspCaddq, Instr.dspCsubq, Instr.vperm, Instr.vslideup, Instr.vslidedn, Instr.vrev, Instr.smax],
    Faults mk (fun w => isV w.vd = false ∨ isV w.vs1 = false)) ∧
  (∀ mk ∈ [Instr.setvl, Instr.sli, Instr.sadd, Instr.vext, Instr.getf, Instr.mpop, Instr.red], Faults mk (fun w => isS w.vd = false)) ∧
  (∀ mk ∈ [Instr.fcmp, Instr.icmp, Instr.mand, Instr.mor, Instr.mxor, Instr.mnot], Faults mk (fun w => isM w.vd = false)) ∧
  (∀ mk ∈ [Instr.cadd, Instr.cmul, Instr.cmulc], Faults mk (fun w => isPair w.vd = false ∨ isPair w.vs1 = false ∨ isPair w.vs2 = false)) ∧
  (∀ mk ∈ [Instr.dspCmac, Instr.dspLda], Faults mk (fun w => isAcc w.vd = false)) ∧
  Faults .dspMovq (fun w => isAcc w.vs1 = false ∨ signed 6 (w.i 5 0) < -16) ∧ Faults .sel (fun w => 8 ≤ w.vs3) ∧
  Faults .scan (fun w => ScanType.ofCode (w.i 5 3) = none ∨ w.i 1 0 = 3) ∧ Faults .cmag2 (fun w => isPair w.vs1 = false)

/-- The Developer reads and writes its tile's scratchpad and the finished blocks: VLD widens and VST narrows each active element at its place
in the tensor, an element outside the scratchpad faults with cause 2, FBQ.RD reads a finished block and FBQ.REL drops the oldest ones, and DSP.LDC and
DSP.STC walk a circular buffer (05 R163, R174, R176, R178, R179, R191; 06 R206). Between elements that share bytes the later one lasts.
The model's own choices under these clauses: logs 12, 21 and 93. -/
def Obligations.DeveloperMemory : Prop :=
  (∀ (t : TileId) (w : Word64) (c : Nat) (p : MemPlan) (s : State), TileReady s t c 1 → SpFree s t → vldPlan (getD s t.val) (DevWord.of w) = some p →
    isS (DevWord.of w).vs1 = true → memOk p (getD s t.val).vlen = true → regType p.fmt ≠ .cf32 → isV (DevWord.of w).vd = true →
    ∃ u : State, exec (.vld t w) s = .next u ∧
      WroteV s u t (DevWord.of w).vd (DevWord.of w).vs3 (fun i => ((widen p.fmt (elemAt s p.fmt (spBase t.val + p.start) (i * p.stride))).1, 0))) ∧
  (∀ (t : TileId) (w : Word64) (c : Nat) (p : MemPlan) (s : State), TileReady s t c 1 → SpFree s t → vldPlan (getD s t.val) (DevWord.of w) = some p →
    isS (DevWord.of w).vs1 = true → memOk p (getD s t.val).vlen = true → regType p.fmt = .cf32 → isPair (DevWord.of w).vd = true →
    ∃ u : State, exec (.vld t w) s = .next u ∧
      WrotePair s u t (DevWord.of w).vd (DevWord.of w).vs3 (fun i =>
        ((widen p.fmt (elemAt s p.fmt (spBase t.val + p.start) (i * p.stride))).1,
         (widen p.fmt (elemAt s p.fmt (spBase t.val + p.start) (i * p.stride))).2, 0))) ∧
  (∀ (t : TileId) (w : Word64) (c : Nat) (p : MemPlan) (s : State), TileReady s t c 1 → vldPlan (getD s t.val) (DevWord.of w) = some p →
    isS (DevWord.of w).vs1 = true → isPair (DevWord.of w).vd = true → memOk p (getD s t.val).vlen = false →
    ∃ u : State, exec (.vld t w) s = .next u ∧ Faulted u c 2) ∧
  (∀ (t : TileId) (w : Word64) (c : Nat) (p : MemPlan) (s : State), TileReady s t c 1 → SpFree s t → vstPlan (getD s t.val) (DevWord.of w) = some p →
    Fmt.ofCode ((DevWord.of w).i 27 24) = some (regType p.fmt) → p.stride ≠ 0 → isS (DevWord.of w).vs2 = true →
    (if regType p.fmt = .cf32 then isPair (DevWord.of w).vs1 = true else isV (DevWord.of w).vs1 = true) → memOk p (getD s t.val).vlen = true →
    ∃ u : State, exec (.vst t w) s = .next u ∧ DevPass s u t ∧ Kept (getD s t.val) (getD u t.val) [] [] [] [] ∧
      Flagged s u t (flagsOf (getD s t.val) (DevWord.of w).vs3 (fun i => (narrow p.fmt (vGet (getD s t.val) (DevWord.of w).vs1 i)
        (if regType p.fmt = .cf32 then vGet (getD s t.val) ((DevWord.of w).vs1 + 1) i else 0#32)).2)) ∧
      (∀ i, i < (getD s t.val).vlen → elemAt u p.fmt (spBase t.val + p.start) (i * p.stride) =
        if active (getD s t.val) (DevWord.of w).vs3 i then
          (narrow p.fmt (vGet (getD s t.val) (DevWord.of w).vs1 i)
            (if regType p.fmt = .cf32 then vGet (getD s t.val) ((DevWord.of w).vs1 + 1) i else 0#32)).1 % 2 ^ p.fmt.width
        else elemAt s p.fmt (spBase t.val + p.start) (i * p.stride)) ∧
      (∀ a, (∀ x ∈ memSpans (getD s t.val) (DevWord.of w).vs3 p, a < spBase t.val + x.1 ∨ spBase t.val + x.1 + x.2 ≤ a) →
        getByte u a = getByte s a)) ∧
  (∀ (t : TileId) (w : Word64) (c : Nat) (s : State), TileReady s t c 1 → isPair (DevWord.of w).vd = true →
    (DevWord.of w).i 11 0 + (if (DevWord.of w).i 31 31 = 1 then 64 else 1) * ((getD s t.val).vlen - 1) ≤ 4095 →
    (DevWord.of w).i 18 16 + 2 ≤ fbqFinished (getT s t.val) →
    let at' := fun (q i : Nat) => mapGet 0#32 (((getT s t.val).enl.fbq[q]?.map (·.data)).getD [])
      ((DevWord.of w).i 11 0 + (if (DevWord.of w).i 31 31 = 1 then 64 else 1) * i)
    let wr := fun (q i : Nat) => if mapGet false (((getT s t.val).enl.fbq[q]?.map (·.wrap)).getD [])
      ((DevWord.of w).i 11 0 + (if (DevWord.of w).i 31 31 = 1 then 64 else 1) * i) then fWrapIn else 0
    ∃ u : State, exec (.fbqRd t w) s = .next u ∧
      ((DevWord.of w).i 30 30 = 1 → WrotePair s u t (DevWord.of w).vd 0 (fun i =>
        (at' ((DevWord.of w).i 18 16) i, at' ((DevWord.of w).i 18 16 + 1) i, wr ((DevWord.of w).i 18 16) i ||| wr ((DevWord.of w).i 18 16 + 1) i))) ∧
      ((DevWord.of w).i 30 30 = 0 → WroteV s u t (DevWord.of w).vd 0 (fun i => (at' ((DevWord.of w).i 18 16) i, wr ((DevWord.of w).i 18 16) i)))) ∧
  (∀ (t : TileId) (w : Word64) (c : Nat) (s : State), TileReady s t c 1 → (DevWord.of w).i 2 0 + 1 ≤ fbqFinished (getT s t.val) →
    ∃ u : State, exec (.fbqRel t w) s = .next u ∧ (getT u t.val).enl.fbq = (getT s t.val).enl.fbq.drop ((DevWord.of w).i 2 0 + 1) ∧
      (getT u t.val).pc = (getT s t.val).pc + 1 ∧ Kept (getD s t.val) (getD u t.val) [] [] [] [] ∧ sameBytes s u ∧
      TileFrame s u t [Reg.TILE_SEQ_ISSUE t.val, Reg.TILE_DEV_INSTR t.val]) ∧
  (∀ (t : TileId) (w : Word64) (c : Nat) (s : State), TileReady s t c 1 → SpFree s t → isV (DevWord.of w).vd = true →
    isS (DevWord.of w).vs2 = true → circOk (getD s t.val) ((DevWord.of w).i 2 0) ((DevWord.of w).vs2 - 32) = true →
    let k := (DevWord.of w).vs2 - 32
    ∃ u : State, exec (.dspLdc t w) s = .next u ∧ DevDone s u t 0 ∧ Kept (getD s t.val) (getD u t.val) [(DevWord.of w).vd] [k] [] [] ∧
      (∀ i, i < 256 → vGet (getD u t.val) (DevWord.of w).vd i = elemAfter (getD s t.val) (DevWord.of w).vs3 i
        (BitVec.ofNat 32 (getLe s (spBase t.val + circAddr (getD s t.val) ((DevWord.of w).i 2 0) k ((DevWord.of w).i 15 8) i) 4)) 0#32
        (vGet (getD s t.val) (DevWord.of w).vd i)) ∧
      sGet (getD u t.val) k = (if (DevWord.of w).i 16 16 = 1 then
        BitVec.ofNat 32 (((sGet (getD s t.val) k).toNat + 4 * (getD s t.val).vlen * (DevWord.of w).i 15 8) %
          (mapGet 0#32 (getD s t.val).cbl ((DevWord.of w).i 2 0)).toNat) else sGet (getD s t.val) k)) ∧
  (∀ (t : TileId) (w : Word64) (c : Nat) (s : State), TileReady s t c 1 → SpFree s t → isV (DevWord.of w).vs1 = true →
    isS (DevWord.of w).vs2 = true → circOk (getD s t.val) ((DevWord.of w).i 2 0) ((DevWord.of w).vs2 - 32) = true →
    let k := (DevWord.of w).vs2 - 32
    let place := fun i => spBase t.val + circAddr (getD s t.val) ((DevWord.of w).i 2 0) k ((DevWord.of w).i 15 8) i
    let on := fun i => i < (getD s t.val).vlen ∧ active (getD s t.val) (DevWord.of w).vs3 i = true
    ∃ u : State, exec (.dspStc t w) s = .next u ∧ DevPass s u t ∧ Flagged s u t 0 ∧ Kept (getD s t.val) (getD u t.val) [] [k] [] [] ∧
      (∀ i, on i → (∀ j, on j → i < j → place j + 4 ≤ place i ∨ place i + 4 ≤ place j) →
        getLe u (place i) 4 = (vGet (getD s t.val) (DevWord.of w).vs1 i).toNat) ∧
      (∀ a, (∀ i, on i → a < place i ∨ place i + 4 ≤ a) → getByte u a = getByte s a) ∧
      sGet (getD u t.val) k = (if (DevWord.of w).i 16 16 = 1 then
        BitVec.ofNat 32 (((sGet (getD s t.val) k).toNat + 4 * (getD s t.val).vlen * (DevWord.of w).i 15 8) %
          (mapGet 0#32 (getD s t.val).cbl ((DevWord.of w).i 2 0)).toNat) else sGet (getD s t.val) k))

/-! ### The sequencer (07, 06 rings, 08 semaphores and barriers) -/

/-- The sequencer's pointer and branch instructions: LI, LIH, ADD, BNZ, JMP and PTOS do to the pointers and the program counter what Table 07.2
says. A branch outside the context's range, a fetch outside it and a reserved bit that is not 0 fault the context with cause 1; a tile that runs no program
issues nothing (07 R241, R244).
The model's own choices under these clauses: log 12. -/
def Obligations.ProgramsSequence : Prop :=
  (∀ (t : TileId) (w : Word64) (c : Nat) (s : State), TileReady s t c 1 → onlyFields w [] = true →
    ∃ u : State, exec (.seqNop t w) s = .next u ∧ SeqDone s u t ((getT s t.val).pc + 1) ∧ (getT u t.val).p = (getT s t.val).p ∧
      regsBut [Reg.TILE_SEQ_ISSUE t.val] s u) ∧
  (∀ (t : TileId) (w : Word64) (c : Nat) (s : State), TileReady s t c 1 → onlyFields w [(55, 52), (31, 0)] = true →
    ∃ u : State, exec (.seqLi t w) s = .next u ∧ SeqDone s u t ((getT s t.val).pc + 1) ∧
      (∀ n, pGet u t.val n = if n = fieldOf w 55 52 then BitVec.ofNat 48 (fieldOf w 31 0) else pGet s t.val n) ∧
      regsBut [Reg.TILE_SEQ_ISSUE t.val] s u) ∧
  (∀ (t : TileId) (w : Word64) (c : Nat) (s : State), TileReady s t c 1 → onlyFields w [(55, 52), (15, 0)] = true →
    ∃ u : State, exec (.seqLih t w) s = .next u ∧ SeqDone s u t ((getT s t.val).pc + 1) ∧
      (∀ n, (pGet u t.val n).toNat = if n = fieldOf w 55 52 then fieldOf w 15 0 * 2 ^ 32 + (pGet s t.val n).toNat % 2 ^ 32 else (pGet s t.val n).toNat) ∧
      regsBut [Reg.TILE_SEQ_ISSUE t.val] s u) ∧
  (∀ (t : TileId) (w : Word64) (c : Nat) (s : State), TileReady s t c 1 → onlyFields w [(55, 52), (51, 48), (31, 0)] = true →
    ∃ u : State, exec (.seqAdd t w) s = .next u ∧ SeqDone s u t ((getT s t.val).pc + 1) ∧
      (∀ n, pGet u t.val n = if n = fieldOf w 55 52 then pGet s t.val (fieldOf w 51 48) + BitVec.ofInt 48 (signed 32 (fieldOf w 31 0))
        else pGet s t.val n) ∧ regsBut [Reg.TILE_SEQ_ISSUE t.val] s u) ∧
  (∀ (t : TileId) (w : Word64) (c : Nat) (s : State), TileReady s t c 1 → onlyFields w [(55, 52), (23, 0)] = true →
    0 ≤ ((getT s t.val).pc : Int) + signed 24 (fieldOf w 23 0) →
    fetchOk s c (((getT s t.val).pc : Int) + signed 24 (fieldOf w 23 0)).toNat 1 = true →
    ∃ u : State, exec (.seqBnz t w) s = .next u ∧
      SeqDone s u t (if pGet s t.val (fieldOf w 55 52) = 1#48 then (getT s t.val).pc + 1
        else (((getT s t.val).pc : Int) + signed 24 (fieldOf w 23 0)).toNat) ∧
      (∀ n, pGet u t.val n = if n = fieldOf w 55 52 then pGet s t.val n - 1#48 else pGet s t.val n) ∧
      regsBut [Reg.TILE_SEQ_ISSUE t.val] s u) ∧
  (∀ (t : TileId) (w : Word64) (c : Nat) (s : State), TileReady s t c 1 → onlyFields w [(23, 0)] = true →
    0 ≤ ((getT s t.val).pc : Int) + signed 24 (fieldOf w 23 0) →
    fetchOk s c (((getT s t.val).pc : Int) + signed 24 (fieldOf w 23 0)).toNat 1 = true →
    ∃ u : State, exec (.seqJmp t w) s = .next u ∧ SeqDone s u t (((getT s t.val).pc : Int) + signed 24 (fieldOf w 23 0)).toNat ∧
      (getT u t.val).p = (getT s t.val).p ∧ regsBut [Reg.TILE_SEQ_ISSUE t.val] s u) ∧
  (∀ (t : TileId) (w : Word64) (c : Nat) (s : State), TileReady s t c 1 → onlyFields w [(23, 0)] = true →
    ((getT s t.val).pc : Int) + signed 24 (fieldOf w 23 0) < 0 ∨
      fetchOk s c (((getT s t.val).pc : Int) + signed 24 (fieldOf w 23 0)).toNat 1 = false →
    ∃ u : State, exec (.seqJmp t w) s = .next u ∧ Faulted u c 1) ∧
  (∀ (t : TileId) (w : Word64) (c : Nat) (s : State), TileReady s t c 1 → onlyFields w [(51, 48), (4, 0)] = true →
    ∃ u : State, exec (.seqPtos t w) s = .next u ∧
      WroteS s u t (fieldOf w 4 0) (BitVec.ofNat 32 (pGet s t.val (fieldOf w 51 48)).toNat) 0) ∧
  (∀ p ∈ [(Instr.seqNop, []), (Instr.seqLi, [(55, 52), (31, 0)]), (Instr.seqLih, [(55, 52), (15, 0)]),
      (Instr.seqAdd, [(55, 52), (51, 48), (31, 0)]), (Instr.seqBnz, [(55, 52), (23, 0)]), (Instr.seqJmp, [(23, 0)]),
      (Instr.seqPtos, [(51, 48), (4, 0)]), (Instr.ringWait, [(55, 55), (52, 48), (47, 44)]), (Instr.ringAdv, [(55, 55), (52, 48), (47, 44)]),
      (Instr.seqStrip, [(55, 52), (23, 0)]), (Instr.seqSret, []), (Instr.seqBar, [(7, 0)]), (Instr.semAcq, [(7, 0)]), (Instr.semRel, [(7, 0)]),
      (Instr.seqEnd, [])],
    (∀ (t : TileId) (w : Word64) (c : Nat) (s : State), TileReady s t c 1 → onlyFields w p.2 = false →
      ∃ u : State, exec (p.1 t w) s = .next u ∧ Faulted u c 1) ∧
    (∀ (t : TileId) (w : Word64) (c : Nat) (s : State), issuing s t.val = some c → fetchOk s c (getT s t.val).pc 1 = false →
      ∃ u : State, exec (p.1 t w) s = .next u ∧ Faulted u c 1) ∧
    (∀ (t : TileId) (w : Word64) (s : State), (getT s t.val).run = none → exec (p.1 t w) s = .next s))

/-- Rings: WAIT passes when the ring holds, or has free, as many slots as it names and waits otherwise; ADV moves the tail or the head by its
count; an operation on a disabled ring and an advance beyond the ring's slots are ring overruns, cause 6 (06 R212, R214). A configuration beyond its limits
leaves the ring disabled (06 R213). An advance from another tile lands on the ring of the context's tile, or in its Negative (06 R215). Strips are handed out
in the order of the sheet, and retire in order (07 R238, R239, R262).
The model's own choices under these clauses: logs 3, 12, 73 and 95. -/
def Obligations.RingsAndStrips : Prop :=
  (∀ (t : TileId) (w : Word64) (c : Nat) (s : State), TileReady s t c 1 → onlyFields w [(55, 55), (52, 48), (47, 44)] = true →
    (ringAt s t.val (fieldOf w 52 48)).en = true →
    (if bitOf w 55 then fieldOf w 47 44 + 1 + (ringAt s t.val (fieldOf w 52 48)).occ ≤ (ringAt s t.val (fieldOf w 52 48)).slots
     else fieldOf w 47 44 + 1 ≤ (ringAt s t.val (fieldOf w 52 48)).occ) →
    ∃ u : State, exec (.ringWait t w) s = .next u ∧ SeqDone s u t ((getT s t.val).pc + 1) ∧ (getT u t.val).p = (getT s t.val).p ∧
      regsBut [Reg.TILE_SEQ_ISSUE t.val] s u) ∧
  (∀ (t : TileId) (w : Word64) (c : Nat) (s : State), TileReady s t c 1 → onlyFields w [(55, 55), (52, 48), (47, 44)] = true →
    (ringAt s t.val (fieldOf w 52 48)).en = true →
    (if bitOf w 55 then (ringAt s t.val (fieldOf w 52 48)).slots < fieldOf w 47 44 + 1 + (ringAt s t.val (fieldOf w 52 48)).occ
     else (ringAt s t.val (fieldOf w 52 48)).occ < fieldOf w 47 44 + 1) →
    ∃ u : State, exec (.ringWait t w) s = .next u ∧ SeqWaits s u t 0xC7 ∧ regsBut [Reg.TILE_SEQ_STALL t.val] s u) ∧
  (∀ mk ∈ [Instr.ringWait, Instr.ringAdv], ∀ (t : TileId) (w : Word64) (c : Nat) (s : State), TileReady s t c 1 →
    onlyFields w [(55, 55), (52, 48), (47, 44)] = true → (ringAt s t.val (fieldOf w 52 48)).en = false →
    ∃ u : State, exec (mk t w) s = .next u ∧ Faulted u c 6) ∧
  (∀ (t : TileId) (w : Word64) (c : Nat) (s : State), TileReady s t c 1 → onlyFields w [(55, 55), (52, 48), (47, 44)] = true →
    (ringAt s t.val (fieldOf w 52 48)).en = true → (getC s c).spill = [] →
    (if bitOf w 55 then (ringAt s t.val (fieldOf w 52 48)).occ + fieldOf w 47 44 + 1 ≤ (ringAt s t.val (fieldOf w 52 48)).slots
     else fieldOf w 47 44 + 1 ≤ (ringAt s t.val (fieldOf w 52 48)).occ) →
    ∃ u : State, exec (.ringAdv t w) s = .next u ∧ SeqDone s u t ((getT s t.val).pc + 1) ∧
      (ringAt u t.val (fieldOf w 52 48)).tail =
        (if bitOf w 55 then ((ringAt s t.val (fieldOf w 52 48)).tail + fieldOf w 47 44 + 1) % 65536 else (ringAt s t.val (fieldOf w 52 48)).tail) ∧
      (ringAt u t.val (fieldOf w 52 48)).head =
        (if bitOf w 55 then (ringAt s t.val (fieldOf w 52 48)).head else ((ringAt s t.val (fieldOf w 52 48)).head + fieldOf w 47 44 + 1) % 65536) ∧
      regsBut [Reg.TILE_SEQ_ISSUE t.val, Reg.TILE_RING_PTR t.val (fieldOf w 52 48)] s u) ∧
  (∀ (t : TileId) (w : Word64) (c : Nat) (s : State), TileReady s t c 1 → onlyFields w [(55, 55), (52, 48), (47, 44)] = true →
    (ringAt s t.val (fieldOf w 52 48)).en = true → (getC s c).spill = [] →
    (if bitOf w 55 then (ringAt s t.val (fieldOf w 52 48)).slots < (ringAt s t.val (fieldOf w 52 48)).occ + fieldOf w 47 44 + 1
     else (ringAt s t.val (fieldOf w 52 48)).occ < fieldOf w 47 44 + 1) →
    ∃ u : State, exec (.ringAdv t w) s = .next u ∧ Faulted u c 6) ∧
  (∀ (t : TileId) (n : Fin 32) (v : Word) (s : State), ∃ u : State, exec (.tileRingCfgWrite t n v) s = .next u ∧
    (ringCfgOk v = true → ∀ p, Ring.of (getR u (Reg.TILE_RING_CFG t.val n.val)) p = Ring.of v p) ∧
    (ringCfgOk v = false → (ringAt u t.val n.val).en = false ∧ getB u Reg.ERR_HOST_STATUS 0 = true) ∧
    regsBut [Reg.TILE_RING_CFG t.val n.val, Reg.ERR_HOST_STATUS] s u ∧ sameBytes s u ∧ SameUnits s u) ∧
  (∀ (t : TileId) (n : Fin 16) (v : Word) (s : State), ∃ u : State, exec (.tileStripBaseWrite t n v) s = .next u ∧
    (fieldOf v 20 6 * 64 ≤ 0x17FFC0 → getF u (Reg.TILE_STRIP_BASE t.val n.val) 20 6 = fieldOf v 20 6) ∧
    (0x17FFC0 < fieldOf v 20 6 * 64 → getR u (Reg.TILE_STRIP_BASE t.val n.val) = getR s (Reg.TILE_STRIP_BASE t.val n.val) ∧
      getB u Reg.ERR_HOST_STATUS 0 = true) ∧
    regsBut [Reg.TILE_STRIP_BASE t.val n.val, Reg.ERR_HOST_STATUS] s u ∧ sameBytes s u ∧ SameUnits s u) ∧
  (∀ (r : RemoteAdv) (a : RingTransit) (c : CtxId) (s : State),
    s.advances.find? (fun a => decide (a.tile = r.tile.val ∧ a.ring = r.ring.val ∧ a.tail = r.tail ∧ a.count = r.count)) = some a →
    (getT s r.tile.val).run = some c → c.val = a.ctx → (ringAt s r.tile.val r.ring.val).en = true → (getC s c.val).spill = [] →
    hasQueued (getT s r.tile.val) = false →
    (if r.tail then (ringAt s r.tile.val r.ring.val).occ + r.count ≤ (ringAt s r.tile.val r.ring.val).slots
     else r.count ≤ (ringAt s r.tile.val r.ring.val).occ) →
    ∃ u : State, exec (.remoteRingAdvance r) s = .next u ∧ u.advances = s.advances.erase a ∧
      (ringAt u r.tile.val r.ring.val).tail =
        (if r.tail then ((ringAt s r.tile.val r.ring.val).tail + r.count) % 65536 else (ringAt s r.tile.val r.ring.val).tail) ∧
      (ringAt u r.tile.val r.ring.val).head =
        (if r.tail then (ringAt s r.tile.val r.ring.val).head else ((ringAt s r.tile.val r.ring.val).head + r.count) % 65536) ∧
      regsBut [Reg.TILE_RING_PTR r.tile.val r.ring.val] s u ∧ sameBytes s u) ∧
  (∀ (r : RemoteAdv) (s : State), s.advances = [] → exec (.remoteRingAdvance r) s = .next s) ∧
  (∀ (t : TileId) (w : Word64) (c : Nat) (p : Program) (s : State), TileReady s t c 1 → onlyFields w [(55, 52), (23, 0)] = true →
    fieldOf w 55 52 ≤ 13 → (getT s t.val).held.length < 16 → programOf s c = some p →
    let strip := (getT s t.val).stripNext * (tilesOf p.tiles).length + ((tilesOf p.tiles).filter (fun x => decide (x < t.val))).length
    256 * strip < p.threads →
    ∃ u : State, exec (.seqStrip t w) s = .next u ∧ SeqDone s u t ((getT s t.val).pc + 1) ∧
      (getT u t.val).held = (getT s t.val).held ++ [strip] ∧ (getT u t.val).stripNext = (getT s t.val).stripNext + 1 ∧
      pGet u t.val (fieldOf w 55 52) = BitVec.ofNat 48 strip ∧
      pGet u t.val (fieldOf w 55 52 + 1) = BitVec.ofNat 48 (min 256 (p.threads - 256 * strip)) ∧
      pGet u t.val (fieldOf w 55 52 + 2) = BitVec.ofNat 48 (getN s (Reg.TILE_STRIP_BASE t.val ((getT s t.val).stripNext % 16))) ∧
      (∀ n, n < fieldOf w 55 52 ∨ fieldOf w 55 52 + 2 < n → pGet u t.val n = pGet s t.val n) ∧ regsBut [Reg.TILE_SEQ_ISSUE t.val] s u) ∧
  (∀ (t : TileId) (w : Word64) (c : Nat) (p : Program) (s : State), TileReady s t c 1 → onlyFields w [(55, 52), (23, 0)] = true →
    fieldOf w 55 52 ≤ 13 → (getT s t.val).held.length < 16 → programOf s c = some p →
    p.threads ≤ 256 * ((getT s t.val).stripNext * (tilesOf p.tiles).length + ((tilesOf p.tiles).filter (fun x => decide (x < t.val))).length) →
    0 ≤ ((getT s t.val).pc : Int) + signed 24 (fieldOf w 23 0) →
    fetchOk s c (((getT s t.val).pc : Int) + signed 24 (fieldOf w 23 0)).toNat 1 = true →
    ∃ u : State, exec (.seqStrip t w) s = .next u ∧ SeqDone s u t (((getT s t.val).pc : Int) + signed 24 (fieldOf w 23 0)).toNat ∧
      (getT u t.val).p = (getT s t.val).p ∧ (getT u t.val).held = (getT s t.val).held) ∧
  (∀ (t : TileId) (w : Word64) (c : Nat) (s : State), TileReady s t c 1 → 16 ≤ (getT s t.val).held.length →
    ∃ u : State, exec (.seqStrip t w) s = .next u ∧ Faulted u c 1) ∧
  (∀ (t : TileId) (w : Word64) (c h : Nat) (l : List Nat) (s : State), TileReady s t c 1 → onlyFields w [] = true → (getT s t.val).held = h :: l →
    ∃ u : State, exec (.seqSret t w) s = .next u ∧ SeqDone s u t ((getT s t.val).pc + 1) ∧ (getT u t.val).held = l ∧
      (getT u t.val).p = (getT s t.val).p ∧ regsBut [Reg.TILE_SEQ_ISSUE t.val] s u) ∧
  (∀ (t : TileId) (w : Word64) (c : Nat) (s : State), TileReady s t c 1 → (getT s t.val).held = [] →
    ∃ u : State, exec (.seqSret t w) s = .next u ∧ Faulted u c 1)

/-- Barriers, semaphores and the end of a program: a tile that arrives at a barrier waits there, the last of a local barrier's set fixes its
release 30 ns later, and the last seat's arrival is what the manager of a group counts; a free semaphore is granted at once, a held one makes the tile wait in
turn, a shared one is withheld from a context whose stop is asked for, and a release passes it on; SEQ.END waits for every unit of the tile, frees it, and ends the exposure with its last tile (07 R240, R244; 08 R272, R277,
R279, R280; 14 R450, R451).
The model's own choices under these clauses: logs 3, 12 and 61. -/
def Obligations.BarriersSemaphoresAndEnds : Prop :=
  (∀ (t : TileId) (w : Word64) (c : Nat) (s : State), TileReady s t c 1 → onlyFields w [(7, 0)] = true → fieldOf w 7 0 < 224 →
    (fieldOf w 7 0, t.val) ∉ (getC s c).barArr →
    ∃ u : State, exec (.seqBar t w) s = .next u ∧ (getT u t.val).barWait = some (fieldOf w 7 0) ∧ (getT u t.val).pc = (getT s t.val).pc ∧
      (getT u t.val).seq = .waiting ∧ (getT u t.val).waitOp = 0xCB ∧ (∀ x, x ≠ t.val → getT u x = getT s x) ∧ (∀ x, x ≠ c → getC u x = getC s x) ∧
      (getC u c).barArr = (getC s c).barArr ++ [(fieldOf w 7 0, t.val)] ∧ (getC u c).st = (getC s c).st ∧
      ((∀ x ∈ instTiles s c, x = t.val ∨ (fieldOf w 7 0, x) ∈ (getC s c).barArr) →
        (getC u c).barRel = (getC s c).barRel ++ [(fieldOf w 7 0, s.now + 24)]) ∧
      ((∃ x ∈ instTiles s c, x ≠ t.val ∧ (fieldOf w 7 0, x) ∉ (getC s c).barArr) → (getC u c).barRel = (getC s c).barRel) ∧
      regsBut [Reg.TILE_SEQ_STALL t.val] s u ∧ sameBytes s u) ∧
  (∀ (t : TileId) (w : Word64) (c mask : Nat) (s : State), TileReady s t c 1 → onlyFields w [(7, 0)] = true → 224 ≤ fieldOf w 7 0 →
    barMask s (fieldOf w 7 0) = some mask → (∀ x ∈ instTiles s c, x = t.val ∨ (fieldOf w 7 0, x) ∈ (getC s c).barArr) → isManager s = true →
    let arrived := (((s.peer.bars.find? (fun x => decide (x.num = fieldOf w 7 0))).map (·.arrived)).getD 0 ||| 2 ^ ctxSeat s c) &&& mask
    arrived ≠ mask →
    ∃ u : State, exec (.seqBar t w) s = .next u ∧ (getT u t.val).barWait = some (fieldOf w 7 0) ∧ (getT u t.val).pc = (getT s t.val).pc ∧
      ((u.peer.bars.find? (fun x => decide (x.num = fieldOf w 7 0))).map (·.arrived)) = some arrived ∧
      (getC u c).barRel = (getC s c).barRel ∧ regsBut [Reg.TILE_SEQ_STALL t.val] s u ∧ sameBytes s u) ∧
  (∀ (t : TileId) (w : Word64) (c : Nat) (s : State), TileReady s t c 1 → 224 ≤ fieldOf w 7 0 → barMask s (fieldOf w 7 0) = none →
    ∃ u : State, exec (.seqBar t w) s = .next u ∧ Faulted u c 1) ∧
  (∀ (t : TileId) (w : Word64) (c : Nat) (s : State), TileReady s t c 1 → onlyFields w [(7, 0)] = true →
    semDeclared s c (fieldOf w 7 0) = true → (∀ x ∈ (getC s c).sems, x.1 ≠ fieldOf w 7 0) → semHolder s (ctxPart s c) (fieldOf w 7 0) = none →
    (getC s c).stopReq = none → (getP s (ctxPart s c)).waiters = [] →
    ∃ u : State, exec (.semAcq t w) s = .next u ∧ SeqDone s u t ((getT s t.val).pc + 1) ∧
      (getC u c).sems = (getC s c).sems ++ [(fieldOf w 7 0, runTime s c)] ∧ (∀ x, x ≠ c → getC u x = getC s x) ∧
      (getP u (ctxPart s c)).waiters = [] ∧ regsBut [Reg.TILE_SEQ_ISSUE t.val] s u) ∧
  (∀ (t : TileId) (w : Word64) (c d : Nat) (s : State), TileReady s t c 1 → onlyFields w [(7, 0)] = true →
    semDeclared s c (fieldOf w 7 0) = true → (∀ x ∈ (getC s c).sems, x.1 ≠ fieldOf w 7 0) → semHolder s (ctxPart s c) (fieldOf w 7 0) = some d →
    (getC s c).stopReq = none →
    ∃ u : State, exec (.semAcq t w) s = .next u ∧ SeqWaits s u t 0xCC ∧ (∀ x, getC u x = getC s x) ∧
      (∃ y ∈ (getP u (ctxPart s c)).waiters, y.sem = fieldOf w 7 0 ∧ y.ctx = c ∧ y.tile = t.val)) ∧
  (∀ (t : TileId) (w : Word64) (c : Nat) (s : State), TileReady s t c 1 → onlyFields w [(7, 0)] = true →
    semDeclared s c (fieldOf w 7 0) = true → (∀ x ∈ (getC s c).sems, x.1 ≠ fieldOf w 7 0) → (getC s c).stopReq ≠ none →
    semShared s (ctxPart s c) (fieldOf w 7 0) = true →
    ∃ u : State, exec (.semAcq t w) s = .next u ∧ SeqWaits s u t 0xCC ∧ u.ctxs = s.ctxs ∧ u.parts = s.parts) ∧
  (∀ (t : TileId) (w : Word64) (c : Nat) (s : State), TileReady s t c 1 →
    semDeclared s c (fieldOf w 7 0) = false ∨ (∃ x ∈ (getC s c).sems, x.1 = fieldOf w 7 0) →
    ∃ u : State, exec (.semAcq t w) s = .next u ∧ Faulted u c 1) ∧
  (∀ (t : TileId) (w : Word64) (c : Nat) (s : State), TileReady s t c 1 → onlyFields w [(7, 0)] = true →
    semDeclared s c (fieldOf w 7 0) = true → (∃ x ∈ (getC s c).sems, x.1 = fieldOf w 7 0) →
    (∀ x ∈ (getP s (ctxPart s c)).waiters, x.sem ≠ fieldOf w 7 0) →
    ∃ u : State, exec (.semRel t w) s = .next u ∧ SeqDone s u t ((getT s t.val).pc + 1) ∧
      (getC u c).sems = (getC s c).sems.filter (fun x => decide (x.1 ≠ fieldOf w 7 0)) ∧ (∀ x, x ≠ c → getC u x = getC s x) ∧
      regsBut [Reg.TILE_SEQ_ISSUE t.val] s u) ∧
  (∀ (t : TileId) (w : Word64) (c : Nat) (y : SemWait) (s : State), TileReady s t c 1 → onlyFields w [(7, 0)] = true →
    semDeclared s c (fieldOf w 7 0) = true → (∃ x ∈ (getC s c).sems, x.1 = fieldOf w 7 0) →
    (getP s (ctxPart s c)).waiters = [y] → y.sem = fieldOf w 7 0 → y.ctx ≠ c → y.tile ≠ t.val → y.tile < 256 → (getC s y.ctx).stopReq = none →
    (∀ kv ∈ s.ctxs, kv.1 ≠ c → ∀ z ∈ kv.2.sems, z.1 ≠ fieldOf w 7 0) →
    ∃ u : State, exec (.semRel t w) s = .next u ∧ (getT u t.val).pc = (getT s t.val).pc + 1 ∧ (getT u y.tile).pc = (getT s y.tile).pc + 1 ∧
      (getP u (ctxPart s c)).waiters = [] ∧ (∃ z ∈ (getC u y.ctx).sems, z.1 = fieldOf w 7 0) ∧
      (∀ z ∈ (getC u c).sems, z.1 ≠ fieldOf w 7 0)) ∧
  (∀ (t : TileId) (w : Word64) (c : Nat) (s : State), TileReady s t c 1 →
    semDeclared s c (fieldOf w 7 0) = false ∨ (∀ x ∈ (getC s c).sems, x.1 ≠ fieldOf w 7 0) →
    ∃ u : State, exec (.semRel t w) s = .next u ∧ Faulted u c 1) ∧
  (∀ (t : TileId) (w : Word64) (c : Nat) (i : ExpInst) (s : State), TileReady s t c 1 → onlyFields w [] = true → tileQuiet (getT s t.val) = true →
    (getC s c).inst = some i → (∃ x ∈ instTiles s c, x ≠ t.val ∧ x ∉ i.ended) →
    ∃ u : State, exec (.seqEnd t w) s = .next u ∧ (getT u t.val).run = none ∧ (getT u t.val).seq = .idle ∧ (getT u t.val).lastCtx = some c ∧
      (getC u c).inst = some { i with ended := i.ended ++ [t.val] } ∧ (getC u c).st = (getC s c).st ∧
      (∀ x, x ≠ t.val → getT u x = getT s x) ∧ (∀ x, x ≠ c → getC u x = getC s x) ∧ sameBytes s u) ∧
  (∀ (t : TileId) (w : Word64) (c : Nat) (i : ExpInst) (s : State), TileReady s t c 1 → onlyFields w [] = true → tileQuiet (getT s t.val) = true →
    (getC s c).inst = some i → (∀ x ∈ instTiles s c, x = t.val ∨ x ∈ i.ended) → (getC s c).queued = [] →
    ∃ u : State, exec (.seqEnd t w) s = .next u ∧ (getT u t.val).run = none ∧ (getT u t.val).seq = .idle ∧
      (getC u c).inst = none ∧ (getC u c).st = .idle ∧ (getC u c).stopReq = none ∧ (getC u c).barArr = []) ∧
  (∀ (t : TileId) (w : Word64) (c : Nat) (s : State), TileReady s t c 1 → onlyFields w [] = true → tileQuiet (getT s t.val) = false →
    ∃ u : State, exec (.seqEnd t w) s = .next u ∧ SeqWaits s u t 0xCE ∧ u.ctxs = s.ctxs)

/-! ### DMA and the tile's memory (06, 09) -/

/-- DMA.GO starts an idle channel at its chain and waits on a busy one; a misaligned chain is a DMA fault. The channel fetches the burst up to
the end of its 512 bytes, starts a legal descriptor once its range is free and its ring is ready, its reads through the weight cache counted as hits,
merges and misses, and completes its descriptors in order, their bytes landed and counted, notifying and advancing the ring they name; an illegal descriptor is
a DMA fault, cause 3 (06 R209, R217 to R223, R229). The model's own choices under these clauses: logs 3, 12, 72, 81 and 95. -/
def Obligations.DmaChannelsRun : Prop :=
  (∀ (t : TileId) (w : Word128) (c : Nat) (s : State), TileReady s t c 2 →
    fieldOf w 79 64 = 0 → fieldOf w 48 47 = 0 → fieldOf w 31 31 = 0 → fieldOf w 13 0 = 0 → fieldOf w 15 14 ≠ 3 →
    let va := if bitOf w 53 then ((pGet s t.val (fieldOf w 52 49)).toNat + fieldOf w 127 80) % 2 ^ 48 else fieldOf w 127 80
    va % 64 = 0 → (fieldOf w 30 16 = 0 ∨ fieldOf w 46 32 + fieldOf w 30 16 ≤ 24576) →
    (chanOf s t.val (fieldOf w 55 54)).busy = false → (getT s t.val).dma.length = 4 →
    ∃ u : State, exec (.dmaGo t w) s = .next u ∧ SeqDone s u t ((getT s t.val).pc + 2) ∧
      (chanOf u t.val (fieldOf w 55 54)).busy = true ∧ (chanOf u t.val (fieldOf w 55 54)).nextFetch = va ∧
      (chanOf u t.val (fieldOf w 55 54)).fetchDone = false ∧ (chanOf u t.val (fieldOf w 55 54)).fetched = [] ∧
      (chanOf u t.val (fieldOf w 55 54)).inFlight = [] ∧
      (fieldOf w 30 16 = 0 → (chanOf u t.val (fieldOf w 55 54)).range = none) ∧
      (fieldOf w 30 16 ≠ 0 → (chanOf u t.val (fieldOf w 55 54)).range.map (fun e => (e.lo, e.hi)) =
        some (fieldOf w 46 32, fieldOf w 46 32 + fieldOf w 30 16)) ∧
      (∀ k, k ≠ fieldOf w 55 54 → chanOf u t.val k = chanOf s t.val k) ∧ (getT u t.val).p = (getT s t.val).p ∧
      regsBut [Reg.TILE_SEQ_ISSUE t.val] s u) ∧
  (∀ (t : TileId) (w : Word128) (c : Nat) (s : State), TileReady s t c 2 →
    fieldOf w 79 64 = 0 → fieldOf w 48 47 = 0 → fieldOf w 31 31 = 0 → fieldOf w 13 0 = 0 → fieldOf w 15 14 ≠ 3 → bitOf w 53 = false →
    fieldOf w 127 80 % 64 = 0 → fieldOf w 30 16 = 0 → (chanOf s t.val (fieldOf w 55 54)).busy = true →
    ∃ u : State, exec (.dmaGo t w) s = .next u ∧ SeqWaits s u t 0xD0 ∧ (getT u t.val).dma = (getT s t.val).dma) ∧
  (∀ (t : TileId) (w : Word128) (c : Nat) (s : State), TileReady s t c 2 →
    fieldOf w 79 64 ≠ 0 ∨ fieldOf w 48 47 ≠ 0 ∨ fieldOf w 31 31 ≠ 0 ∨ fieldOf w 13 0 ≠ 0 ∨ fieldOf w 15 14 = 3 →
    ∃ u : State, exec (.dmaGo t w) s = .next u ∧ Faulted u c 1) ∧
  (∀ (t : TileId) (w : Word128) (c : Nat) (s : State), TileReady s t c 2 →
    fieldOf w 79 64 = 0 → fieldOf w 48 47 = 0 → fieldOf w 31 31 = 0 → fieldOf w 13 0 = 0 → fieldOf w 15 14 ≠ 3 → bitOf w 53 = false →
    fieldOf w 127 80 % 64 ≠ 0 → ∃ u : State, exec (.dmaGo t w) s = .next u ∧ Faulted u c 3) ∧
  (∀ (t : TileId) (ch : Fin 4) (c : Nat) (bs : List Byte) (s m : State), dmaCtx s t.val = some c → (chanOf s t.val ch.val).busy = true →
    (chanOf s t.val ch.val).fetchDone = false → (chanOf s t.val ch.val).fetched.length ≤ 4 →
    virtRead s t.val c 0 (chanOf s t.val ch.val).nextFetch (64 * ((512 - (chanOf s t.val ch.val).nextFetch % 512) / 64)) = .ok bs m →
    chanHeld s t.val ch.val = false → hasQueued (getT m t.val) = false → ch.val < (getT m t.val).dma.length →
    ((⟨(chanOf s t.val ch.val).nextFetch, leNat (bs.take 64)⟩ : Desc).last = true ∨
      ((⟨(chanOf s t.val ch.val).nextFetch, leNat (bs.take 64)⟩ : Desc).link = true ∧
        (⟨(chanOf s t.val ch.val).nextFetch, leNat (bs.take 64)⟩ : Desc).linkAddr % 64 = 0)) →
    512 - (chanOf s t.val ch.val).nextFetch % 512 ≥ 64 →
    ∃ u : State, exec (.dmaDescFetch t ch) s = .next u ∧
      (chanOf u t.val ch.val).fetched = (chanOf s t.val ch.val).fetched ++ [⟨(chanOf s t.val ch.val).nextFetch, leNat (bs.take 64)⟩] ∧
      (chanOf u t.val ch.val).fetchDone = (⟨(chanOf s t.val ch.val).nextFetch, leNat (bs.take 64)⟩ : Desc).last ∧
      ((⟨(chanOf s t.val ch.val).nextFetch, leNat (bs.take 64)⟩ : Desc).last = false →
        (chanOf u t.val ch.val).nextFetch = (⟨(chanOf s t.val ch.val).nextFetch, leNat (bs.take 64)⟩ : Desc).linkAddr) ∧
      (chanOf u t.val ch.val).inFlight = (chanOf s t.val ch.val).inFlight) ∧
  (∀ (t : TileId) (ch : Fin 4) (s : State), (chanOf s t.val ch.val).busy = false ∨ (chanOf s t.val ch.val).fetchDone = true ∨
      4 < (chanOf s t.val ch.val).fetched.length ∨ dmaCtx s t.val = none → exec (.dmaDescFetch t ch) s = .next s) ∧
  (∀ (t : TileId) (ch : Fin 4) (c : Nat) (d : Desc) (l : List Desc) (s : State), dmaCtx s t.val = some c → hasQueued (getT s t.val) = false →
    (chanOf s t.val ch.val).fetched = d :: l → chanHeld s t.val ch.val = false → d.legal = true → ringsOk s t.val c d = true →
    waitOk s t.val c d = true → (getC s c).spill = [] → ch.val < (getT s t.val).dma.length →
    ∃ u : State, exec (.dmaDescStart t ch) s = .next u ∧ (chanOf u t.val ch.val).fetched = l ∧
      (∃ fills, (chanOf u t.val ch.val).inFlight = (chanOf s t.val ch.val).inFlight ++ [DescRun.of s t.val d fills] ∧
        (d.cache ≠ 1 → fills = [])) ∧
      (d.cache = 0 ∨ d.op = 1 ∨ d.srcSpace ≠ 0 → regsBut [] s u ∧ u.wc = s.wc) ∧ sameBytes s u ∧ u.ctxs = s.ctxs) ∧
  (∀ (t : TileId) (ch : Fin 4) (c a : Nat) (d : Desc) (l : List Desc) (s : State), dmaCtx s t.val = some c → hasQueued (getT s t.val) = false →
    (chanOf s t.val ch.val).fetched = d :: l → chanHeld s t.val ch.val = false → d.legal = true → ringsOk s t.val c d = true →
    waitOk s t.val c d = true → (getC s c).spill = [] → ch.val < (getT s t.val).dma.length → d.cache ≠ 0 → d.op = 0 → d.srcSpace = 0 →
    d.count1 = 1 → d.count2 = 1 → hbmAt s c d.src = some a → d.src % 65536 + d.len0 ≤ 65536 → a % 512 + d.len0 ≤ 512 →
    ∃ u : State, exec (.dmaDescStart t ch) s = .next u ∧
      (wcOpen s (a / 512 % 12288) = false →
        getN64 u Reg.MEM_WC_MISS_LO Reg.MEM_WC_MISS_HI = min (getN64 s Reg.MEM_WC_MISS_LO Reg.MEM_WC_MISS_HI + 1) (2 ^ 64 - 1)) ∧
      (wcOpen s (a / 512 % 12288) = true → wcFind s (a / 512) ≠ none →
        getN64 u Reg.MEM_WC_HIT_LO Reg.MEM_WC_HIT_HI = min (getN64 s Reg.MEM_WC_HIT_LO Reg.MEM_WC_HIT_HI + 1) (2 ^ 64 - 1)) ∧
      (wcOpen s (a / 512 % 12288) = true → wcFind s (a / 512) = none → filling s (a / 512) = true →
        getR u Reg.MEM_WC_MERGE = satAdd (getR s Reg.MEM_WC_MERGE) 1) ∧
      (wcOpen s (a / 512 % 12288) = true → wcFind s (a / 512) = none → filling s (a / 512) = false →
        getN64 u Reg.MEM_WC_MISS_LO Reg.MEM_WC_MISS_HI = min (getN64 s Reg.MEM_WC_MISS_LO Reg.MEM_WC_MISS_HI + 1) (2 ^ 64 - 1) ∧
        (chanOf u t.val ch.val).inFlight = (chanOf s t.val ch.val).inFlight ++
          [DescRun.of s t.val d (if d.cache = 1 then [a / 512] else [])])) ∧
  (∀ (t : TileId) (ch : Fin 4) (c : Nat) (d : Desc) (l : List Desc) (s : State), dmaCtx s t.val = some c →
    (chanOf s t.val ch.val).fetched = d :: l → chanHeld s t.val ch.val = false → d.legal = false ∨ ringsOk s t.val c d = false →
    ∃ u : State, exec (.dmaDescStart t ch) s = .next u ∧ Faulted u c 3) ∧
  (∀ (t : TileId) (ch : Fin 4) (c : Nat) (d : Desc) (l : List Desc) (s : State), dmaCtx s t.val = some c → hasQueued (getT s t.val) = false →
    (chanOf s t.val ch.val).fetched = d :: l → chanHeld s t.val ch.val = false → d.legal = true → ringsOk s t.val c d = true →
    waitOk s t.val c d = false →
    ∃ u : State, exec (.dmaDescStart t ch) s = .next u ∧ chanOf u t.val ch.val = chanOf s t.val ch.val ∧ sameBytes s u ∧ regsBut [] s u) ∧
  (∀ (t : TileId) (ch : Fin 4) (c : Nat) (d : Desc) (l : List Desc) (s : State), dmaCtx s t.val = some c → hasQueued (getT s t.val) = false →
    (chanOf s t.val ch.val).fetched = d :: l → chanHeld s t.val ch.val = true →
    ∃ u : State, exec (.dmaDescStart t ch) s = .next u ∧ chanOf u t.val ch.val = chanOf s t.val ch.val ∧ sameBytes s u ∧
      getR u (Reg.TILE_SB_STALL t.val) = satAdd (getR s (Reg.TILE_SB_STALL t.val)) 1 ∧ regsBut [Reg.TILE_SB_STALL t.val] s u) ∧
  (∀ (t : TileId) (ch : Fin 4) (s : State), dmaCtx s t.val = none → exec (.dmaDescStart t ch) s = .next s) ∧
  (∀ (t : TileId) (ch : Fin 4) (c : CtxId) (d : Desc) (l : List DescRun) (s : State), (getT s t.val).run = some c →
    hasQueued (getT s t.val) = false → SpFree s t → ctxSpec s c.val = false → ch.val < (getT s t.val).dma.length →
    (chanOf s t.val ch.val).inFlight = ⟨d, 0, 0, 0, 0, []⟩ :: l → d.op = 1 → d.dstSpace = 1 → d.count1 = 1 → d.count2 = 1 → d.advKind = 0 →
    d.dst + d.len0 ≤ spBytes →
    ∃ u : State, exec (.dmaDescComplete t ch) s = .next u ∧ (chanOf u t.val ch.val).inFlight = l ∧
      (∀ i, i < d.len0 → getByte u (spBase t.val + d.dst + i) = BitVec.ofNat 8 (d.fill / 2 ^ (8 * (i % 8)))) ∧
      (∀ a, a < spBase t.val + d.dst ∨ spBase t.val + d.dst + d.len0 ≤ a → getByte u a = getByte s a) ∧
      getN64 u (Reg.TILE_DMA_BYTES_LO t.val) (Reg.TILE_DMA_BYTES_HI t.val) =
        min (getN64 s (Reg.TILE_DMA_BYTES_LO t.val) (Reg.TILE_DMA_BYTES_HI t.val) + d.len0) (2 ^ 64 - 1) ∧ u.ctxs = s.ctxs) ∧
  (∀ (t : TileId) (ch : Fin 4) (c : CtxId) (d : Desc) (l : List DescRun) (s : State), (getT s t.val).run = some c →
    hasQueued (getT s t.val) = false → SpFree s t → ctxSpec s c.val = false → ch.val < (getT s t.val).dma.length →
    (chanOf s t.val ch.val).inFlight = ⟨d, 0, 0, 0, 0, []⟩ :: l → d.op = 0 → d.srcSpace = 1 → d.dstSpace = 1 → d.count1 = 1 → d.count2 = 1 →
    d.advKind = 0 → d.dst + d.len0 ≤ spBytes → d.src + d.len0 ≤ spBytes →
    ∃ u : State, exec (.dmaDescComplete t ch) s = .next u ∧ (chanOf u t.val ch.val).inFlight = l ∧
      (∀ i, i < d.len0 → getByte u (spBase t.val + d.dst + i) = getByte s (spBase t.val + d.src + i)) ∧
      (∀ a, a < spBase t.val + d.dst ∨ spBase t.val + d.dst + d.len0 ≤ a → getByte u a = getByte s a) ∧
      getN64 u (Reg.TILE_DMA_BYTES_LO t.val) (Reg.TILE_DMA_BYTES_HI t.val) =
        min (getN64 s (Reg.TILE_DMA_BYTES_LO t.val) (Reg.TILE_DMA_BYTES_HI t.val) + d.len0) (2 ^ 64 - 1) ∧ u.ctxs = s.ctxs) ∧
  (∀ (t : TileId) (ch : Fin 4) (c : CtxId) (r : DescRun) (l : List DescRun) (s m : State), (getT s t.val).run = some c →
    (chanOf s t.val ch.val).inFlight = r :: l → runSteps (r.desc.steps - r.step) s t.val ch.val c.val = .wait m → hasQueued (getT m t.val) = false →
    ∃ u : State, exec (.dmaDescComplete t ch) s = .next u ∧ chanOf u t.val ch.val = chanOf m t.val ch.val ∧ sameBytes m u ∧ regsBut [] m u) ∧
  (∀ (t : TileId) (ch : Fin 4) (c : CtxId) (r : DescRun) (l : List DescRun) (s : State), (getT s t.val).run = some c →
    hasQueued (getT s t.val) = false → (chanOf s t.val ch.val).inFlight = r :: l → r.desc.steps ≤ r.step → ch.val < (getT s t.val).dma.length →
    (r.desc.advKind = 0 ∨ r.desc.advRemote = true) →
    ∃ u : State, exec (.dmaDescComplete t ch) s = .next u ∧ (chanOf u t.val ch.val).inFlight = l ∧
      (chanOf u t.val ch.val).busy = !((chanOf s t.val ch.val).fetchDone && (chanOf s t.val ch.val).fetched.isEmpty && l.isEmpty) ∧
      getR u (Reg.TILE_DMA_DESC_CNT t.val) = satAdd (getR s (Reg.TILE_DMA_DESC_CNT t.val)) 1 ∧
      (r.desc.notify = true → getF u (Reg.TILE_DMA_DONE t.val) (8 * ch.val + 7) (8 * ch.val) =
        (getF s (Reg.TILE_DMA_DONE t.val) (8 * ch.val + 7) (8 * ch.val) + 1) % 256 ∧ getB u (Reg.TILE_DMA_FLAGS t.val) ch.val = true) ∧
      (r.desc.notify = false → getR u (Reg.TILE_DMA_DONE t.val) = getR s (Reg.TILE_DMA_DONE t.val)) ∧
      (r.desc.advKind = 0 → u.advances = s.advances) ∧
      (r.desc.advKind ≠ 0 → u.advances =
        s.advances ++ [⟨c.val, r.desc.advTile, r.desc.advRing, decide (r.desc.advKind = 2), r.desc.advN⟩]) ∧ sameBytes s u) ∧
  (∀ (t : TileId) (ch : Fin 4) (c : CtxId) (r : DescRun) (l : List DescRun) (s : State), (getT s t.val).run = some c →
    hasQueued (getT s t.val) = false → (chanOf s t.val ch.val).inFlight = r :: l → r.desc.steps ≤ r.step → r.desc.advRemote = false →
    r.desc.advKind = 2 → (ringAt s t.val r.desc.advRing).en = true → (getC s c.val).spill = [] →
    (ringAt s t.val r.desc.advRing).occ + r.desc.advN ≤ (ringAt s t.val r.desc.advRing).slots →
    ∃ u : State, exec (.dmaDescComplete t ch) s = .next u ∧
      (ringAt u t.val r.desc.advRing).tail = ((ringAt s t.val r.desc.advRing).tail + r.desc.advN) % 65536 ∧
      (ringAt u t.val r.desc.advRing).head = (ringAt s t.val r.desc.advRing).head ∧ sameBytes s u) ∧
  (∀ (t : TileId) (ch : Fin 4) (s : State), (getT s t.val).run = none → exec (.dmaDescComplete t ch) s = .next s)

/-- The scratchpad and HBM between a tile's programs: a group put to sleep loses its contents, unless it still holds a Negative that has no copy in HBM, and reads as zero
when it is awake again; the patrol walks the rows of the awake banks and queues what it corrects; a queued row is written back; the HBM patrol steps through a stack; an invalidation
empties the weight cache once no fill is in progress, and a bank that is disabled loses its lines (06 R203 to R206, R230, R231; 08 R286; 09 R309).
The model's own choices under these clauses: logs 3, 69 and 113. -/
def Obligations.SleepScrubAndPatrol : Prop :=
  (∀ (t : TileId) (v : Word) (s : State), (∀ kv ∈ s.ctxs, kv.2.negs = []) → ∃ u : State, exec (.tileSpSleepWrite t v) s = .next u ∧
    (∀ g, g < 6 → ((getT u t.val).asleep.contains g = bitOf v g)) ∧
    (∀ g, g < 6 → bitOf v g = false → (getT s t.val).asleep.contains g = true → (getT u t.val).wakingG.contains g = true ∧
      ∀ i, i < 0x40000 → getByte u (spBase t.val + g * 0x40000 + i) = 0#8) ∧
    (∀ g, g < 6 → bitOf v g = true → (getT s t.val).asleep.contains g = false → (getT u t.val).wakingG.contains g = false ∧
      ∀ i, i < 0x40000 → getByte u (spBase t.val + g * 0x40000 + i) = 0#8) ∧
    (∀ a, (∀ g, g < 6 → bitOf v g ≠ (getT s t.val).asleep.contains g →
      a < spBase t.val + g * 0x40000 ∨ spBase t.val + (g + 1) * 0x40000 ≤ a) → getByte u a = getByte s a) ∧
    regsBut [Reg.TILE_SP_SLEEP t.val, Reg.ERR_HOST_STATUS] s u ∧ getF u (Reg.TILE_SP_SLEEP t.val) 5 0 = fieldOf v 5 0 ∧
    (∀ x, x ≠ t.val → getT u x = getT s x) ∧ u.ctxs = s.ctxs) ∧
  (∀ (t : TileId) (v : Word) (g : Nat) (s : State), g < 6 → bitOf v g = true → (getT s t.val).asleep.contains g = false →
    negHeld s t.val none (g * 0x40000) 0x40000 = true → ∃ u : State, exec (.tileSpSleepWrite t v) s = .next u ∧
      (getT u t.val).asleep.contains g = false ∧ (∀ i, i < 0x40000 → getByte u (spBase t.val + g * 0x40000 + i) =
        getByte s (spBase t.val + g * 0x40000 + i)) ∧ getB u (Reg.TILE_SP_SLEEP t.val) g = true) ∧
  (∀ (t : TileId) (g : Fin 6) (s : State), (getT s t.val).wakingG.contains g.val = true → hasQueued (getT s t.val) = false →
    s.peer.recv = [] → ∃ u : State, exec (.spGroupAwake t g) s = .next u ∧
    (getT u t.val).wakingG.contains g.val = false ∧ (getT u t.val).asleep = (getT s t.val).asleep ∧
    sameBytes s u ∧ regsBut [] s u ∧ (∀ x, x ≠ t.val → getT u x = getT s x)) ∧
  (∀ (t : TileId) (g : Fin 6) (s : State), (getT s t.val).wakingG.contains g.val = false → exec (.spGroupAwake t g) s = .next s) ∧
  (∀ (t : TileId) (s : State), (getT s t.val).power = .awake → getB s (Reg.TILE_SP_SCRUB t.val) 31 = true →
    getF s (Reg.TILE_SP_SCRUB t.val) 7 0 ≠ 0 → s.ecc.single = [] → s.ecc.bad = [] →
    ∃ u : State, exec (.scrubPatrol t) s = .next u ∧ (getT u t.val).patrolRow = ((getT s t.val).patrolRow + 1) % 1024 ∧
      regsBut [] s u ∧ sameBytes s u ∧ (∀ x, x ≠ t.val → getT u x = getT s x)) ∧
  (∀ (t : TileId) (b j : Nat) (s : State), (getT s t.val).power = .awake → getB s (Reg.TILE_SP_SCRUB t.val) 31 = true →
    getF s (Reg.TILE_SP_SCRUB t.val) 7 0 ≠ 0 → b < 24 → j < 8 → (getT s t.val).patrolRow < 1024 →
    s.ecc.single = [spBase t.val / 8 + (b * 1024 + (getT s t.val).patrolRow) * 8 + j] → s.ecc.bad = [] →
    (getT s t.val).asleep.contains (b / 4) = false → (getT s t.val).wakingG.contains (b / 4) = false → (scrubRows s t.val).length < 16 →
    ∃ u : State, exec (.scrubPatrol t) s = .next u ∧ (getT u t.val).patrolRow = ((getT s t.val).patrolRow + 1) % 1024 ∧
      getR u (Reg.TILE_SP_CE_CNT t.val) = satAdd (getR s (Reg.TILE_SP_CE_CNT t.val)) 1 ∧
      b * 1024 + (getT s t.val).patrolRow ∈ scrubRows u t.val ∧ sameBytes s u) ∧
  (∀ (t : TileId) (s : State), (getT s t.val).power ≠ .awake ∨ getB s (Reg.TILE_SP_SCRUB t.val) 31 = false ∨
      getF s (Reg.TILE_SP_SCRUB t.val) 7 0 = 0 → exec (.scrubPatrol t) s = .next s) ∧
  (∀ (t : TileId) (row : Nat) (l : List Nat) (s : State), scrubRows s t.val = row :: l → row ∉ l →
    ∃ u : State, exec (.scrubWriteback t) s = .next u ∧ scrubRows u t.val = l ∧ rowSingle u t.val row = false ∧ sameBytes s u ∧ regsBut [] s u ∧
      u.ecc.bad = s.ecc.bad ∧ u.tiles = s.tiles) ∧
  (∀ (t : TileId) (s : State), scrubRows s t.val = [] → exec (.scrubWriteback t) s = .next s) ∧
  (∀ (k : Fin 2) (s : State), getB s Reg.ERR_HBM_PATROL 31 = true → getF s Reg.ERR_HBM_PATROL 7 0 ≠ 0 → dieAwake s k.val = true →
    s.patrol.length = 2 → ∃ u : State, exec (.hbmPatrol k) s = .next u ∧ nth 0 u.patrol k.val = (nth 0 s.patrol k.val + 1) % (hbmStackBytes / 64) ∧
      (∀ w ∈ u.ecc.single, w / 8 ≠ (k.val * hbmStackBytes + nth 0 s.patrol k.val * 64) / 64) ∧ u.ecc.bad = s.ecc.bad ∧ sameBytes s u ∧
      u.tiles = s.tiles ∧ (s.ecc.single = [] → s.ecc.bad = [] → regsBut [] s u)) ∧
  (∀ (k : Fin 2) (s : State), getB s Reg.ERR_HBM_PATROL 31 = false ∨ getF s Reg.ERR_HBM_PATROL 7 0 = 0 ∨ dieAwake s k.val = false →
    exec (.hbmPatrol k) s = .next s) ∧
  (∀ (v : Word) (s : State), ∃ u : State, exec (.wcInvalidate v) s = .next u ∧ (bitOf v 31 = true → u.wc.inv = true) ∧
    (bitOf v 31 = false → u.wc.inv = s.wc.inv) ∧ getF u Reg.MEM_WC_CTL 3 0 = fieldOf v 3 0 ∧
    (∀ k n, k < 4 → bitOf v k = false → n % 4 = k → mapGet [] u.wc.sets n = []) ∧
    (∀ k n, k < 4 → bitOf v k = true → n % 4 = k → mapGet [] u.wc.sets n = mapGet [] s.wc.sets n) ∧
    regsBut [Reg.MEM_WC_CTL, Reg.ERR_HOST_STATUS] s u ∧ sameBytes s u) ∧
  (∀ s : State, s.wc.inv = true → (∀ kv ∈ s.tiles, ∀ ch ∈ kv.2.dma, ∀ r ∈ ch.inFlight, r.fills = []) → ∃ u : State, exec .wcInvComplete s = .next u ∧ u.wc.inv = false ∧ u.wc.sets = [] ∧
    getB u Reg.MEM_WC_CTL 31 = false ∧ regsBut [Reg.MEM_WC_CTL] s u ∧ sameBytes s u) ∧
  (∀ s : State, s.wc.inv = false → exec .wcInvComplete s = .next s)

/-! ### The Enlarger (04) and the Fixer (03) -/

/-- LOADS empties the shadow bank, so that rows and columns beyond those it loads read as zero, and by its completion has written its rows there and
marks the bank loaded; SWAP exchanges the banks; a PASS waits for its entries, and at full activity writes a block whose elements are the sums, in order of the inner index, of the products of the streamed
vector with the active bank, and the block is finished when its outputs are written; illegal commands fault, cause 1 (04 R124 to R126, R129 to R132, R134 to R141,
R145, R148; 03 R107, R108).
The model's own choices under these clauses: logs 3, 12 and 20. -/
def Obligations.EnlargerLoadsAndPasses : Prop :=
  (∀ (t : TileId) (w : Word128) (c : Nat) (s : State), TileReady s t c 2 → (getT s t.val).enl.loading = none →
    (LoadsCmd.of w).legal = true →
    ∃ (u : State) (b : EnlBank), exec (.enlLoads t w) s = .next u ∧ (getT u t.val).pc = (getT s t.val).pc + 2 ∧
      b = (if (getT s t.val).enl.active1 then (getT u t.val).enl.bank0 else (getT u t.val).enl.bank1) ∧
      activeBank (getT u t.val).enl = activeBank (getT s t.val).enl ∧ b.fmt = (LoadsCmd.of w).fmt ∧ (∀ i, mapGet 0#16 b.elems i = 0#16) ∧
      (getT u t.val).enl.loading.map (fun p => (LoadsCmd.of p.cmd, p.row)) = some (LoadsCmd.of w, 0) ∧
      (getT u t.val).enl.shadowLoaded = false ∧ (getT u t.val).enl.queue = [] ∧
      (getT u t.val).dev = (getT s t.val).dev ∧ sameBytes s u ∧
      TileFrame s u t [Reg.TILE_SEQ_ISSUE t.val, Reg.TILE_ENL_BANK_WAIT t.val, Reg.TILE_ENL_FLAGS t.val]) ∧
  (∀ (t : TileId) (w : Word128) (c : Nat) (s : State), TileReady s t c 2 → (getT s t.val).enl.loading = none →
    (LoadsCmd.of w).legal = false → ∃ u : State, exec (.enlLoads t w) s = .next u ∧ Faulted u c 1) ∧
  (∀ (t : TileId) (w : Word128) (c : Nat) (s : State), TileReady s t c 2 → (getT s t.val).enl.loading.isSome = true →
    ∃ u : State, exec (.enlLoads t w) s = .next u ∧ (getT u t.val).pc = (getT s t.val).pc + 2 ∧ (getT u t.val).enl.queue.length = 1 ∧
      (getT u t.val).enl.bank0 = (getT s t.val).enl.bank0 ∧ (getT u t.val).enl.bank1 = (getT s t.val).enl.bank1 ∧ sameBytes s u) ∧
  (∀ (t : TileId) (c : CtxId) (p : LoadProg) (s : State), (getT s t.val).enl.loading = some p → (getT s t.val).run = some c →
    (getT s t.val).seq ≠ .stopped → hasQueued (getT s t.val) = false → SpFree s t → (LoadsCmd.of p.cmd).legal = true →
    ∃ (u : State) (b a : EnlBank), exec (.enlLoadsComplete t) s = .next u ∧ (getT u t.val).enl.loading = none ∧
      (getT u t.val).enl.shadowLoaded = true ∧ activeBank (getT u t.val).enl = activeBank (getT s t.val).enl ∧
      b = (if (getT s t.val).enl.active1 then (getT u t.val).enl.bank0 else (getT u t.val).enl.bank1) ∧
      a = (if (getT s t.val).enl.active1 then (getT s t.val).enl.bank0 else (getT s t.val).enl.bank1) ∧
      (∀ r k, r < 64 → k < 64 → mapGet 0#16 b.elems (64 * r + k) =
        if p.row ≤ r ∧ r < (LoadsCmd.of p.cmd).rows ∧ k < (LoadsCmd.of p.cmd).cols then
          BitVec.ofNat 16 (elemAt s ((Fmt.ofCode (LoadsCmd.of p.cmd).fmt).getD .int8)
            (spBase t.val + ((LoadsCmd.of p.cmd).src + r * (LoadsCmd.of p.cmd).stride) * 64) k)
        else mapGet 0#16 a.elems (64 * r + k)) ∧
      regsBut [] s u ∧ sameBytes s u ∧ (∀ x, x ≠ t.val → getT u x = getT s x)) ∧
  (∀ (t : TileId) (s : State), (getT s t.val).enl.loading = none → exec (.enlLoadsComplete t) s = .next s) ∧
  (∀ (t : TileId) (w : Word128) (c : Nat) (s : State), TileReady s t c 2 → (getT s t.val).enl.loading = none →
    ∃ u : State, exec (.enlSwap t w) s = .next u ∧ (getT u t.val).pc = (getT s t.val).pc + 2 ∧
      (getT u t.val).enl = { (getT s t.val).enl with active1 := !(getT s t.val).enl.active1, shadowLoaded := false } ∧
      (getT u t.val).dev = (getT s t.val).dev ∧ sameBytes s u ∧ TileFrame s u t [Reg.TILE_SEQ_ISSUE t.val]) ∧
  (∀ (t : TileId) (w : Word128) (c : Nat) (k : EnlClass) (s : State), TileReady s t c 2 → SpFree s t →
    (PassCmd.of w).legal (getT s t.val).enl = true → (PassCmd.of w).cls = some k → k ≠ .cx16 → (PassCmd.of w).flow ≠ 1 → (PassCmd.of w).chain = 0 →
    (PassCmd.of w).count ≤ 64 → (getT s t.val).enl.level = 4 → (getT s t.val).enl.phase ≠ .rampUp → (getT s t.val).enl.waveUntil = none →
    (getT s t.val).enl.fbq.length < 8 →
    ∃ (u : State) (e : FbqEntry), exec (.enlPass t w) s = .next u ∧ (getT u t.val).pc = (getT s t.val).pc + 2 ∧
      (getT u t.val).enl.fbq = (getT s t.val).enl.fbq ++ [e] ∧ e.finished = false ∧ e.tag = (PassCmd.of w).tag ∧ e.owner = c ∧
      (∀ v x, v < (PassCmd.of w).count → x < (PassCmd.of w).width →
        mapGet 0#32 e.data (if (PassCmd.of w).flow = 0 then 64 * v + x else 64 * x + v) =
          (macRow k ((Fmt.ofCode (PassCmd.of w).aFmt).getD .int8) ((Fmt.ofCode (PassCmd.of w).bFmt).getD .int8) AccElem.zero (PassCmd.of w).k
            (fun i => elemAt s ((Fmt.ofCode (PassCmd.of w).aFmt).getD .int8)
              (spBase t.val + ((PassCmd.of w).src + v * (PassCmd.of w).stride) * 64) i)
            (fun i => (mapGet 0#16 (activeBank (getT s t.val).enl).elems (64 * i + x)).toNat)).re) ∧
      (getT u t.val).enl.tails = (getT s t.val).enl.tails ++ [⟨1, true, (PassCmd.of w).macs, some (getT s t.val).enl.active1⟩] ∧ (getT u t.val).enl.pass = none ∧
      (getT u t.val).enl.bank0 = (getT s t.val).enl.bank0 ∧ (getT u t.val).enl.bank1 = (getT s t.val).enl.bank1 ∧
      (getT u t.val).dev = (getT s t.val).dev ∧ sameBytes s u ∧ TileFrame s u t [Reg.TILE_SEQ_ISSUE t.val, Reg.TILE_ENL_FLAGS t.val]) ∧
  (∀ (t : TileId) (w : Word128) (c : Nat) (s : State), TileReady s t c 2 → SpFree s t → (PassCmd.of w).legal (getT s t.val).enl = true →
    (getT s t.val).enl.level < 4 → (getT s t.val).enl.phase ≠ .rampUp → (getT s t.val).enl.waveUntil = none →
    (getT s t.val).enl.fbq.length + (PassCmd.of w).perBlock ≤ 8 →
    ∃ u : State, exec (.enlPass t w) s = .next u ∧ (getT u t.val).enl.pass.isSome = true ∧ (getT u t.val).enl.phase = .rampUp ∧
      (getT u t.val).enl.level = (getT s t.val).enl.level + 1 ∧ (getT u t.val).enl.fbq = (getT s t.val).enl.fbq ∧ sameBytes s u) ∧
  (∀ (t : TileId) (w : Word128) (c : Nat) (s : State), TileReady s t c 2 → SpFree s t → (PassCmd.of w).legal (getT s t.val).enl = true →
    (PassCmd.of w).chain < 2 → 8 < (getT s t.val).enl.fbq.length + (PassCmd.of w).perBlock →
    ∃ u : State, exec (.enlPass t w) s = .next u ∧ (getT u t.val).enl.pass.isSome = true ∧ (getT u t.val).enl.fbq = (getT s t.val).enl.fbq ∧
      (getT u t.val).enl.level = (getT s t.val).enl.level ∧ getB u (Reg.TILE_ENL_FLAGS t.val) 4 = true ∧ sameBytes s u) ∧
  (∀ (t : TileId) (w : Word128) (c : Nat) (s : State), TileReady s t c 2 → (PassCmd.of w).legal (getT s t.val).enl = false →
    ∃ u : State, exec (.enlPass t w) s = .next u ∧ Faulted u c 1) ∧
  (∀ (t : TileId) (tl : PassTail) (l : List PassTail) (s : State), (getT s t.val).enl.tails = tl :: l → hasQueued (getT s t.val) = false →
    ∃ u : State, exec (.enlEntryFinished t) s = .next u ∧ (getT u t.val).enl.tails = l ∧
      (getT u t.val).enl.fbq = finishN tl.entries (getT s t.val).enl.fbq ∧
      (tl.ends = true → getN64 u (Reg.TILE_ENL_MAC_LO t.val) (Reg.TILE_ENL_MAC_HI t.val) =
        min (getN64 s (Reg.TILE_ENL_MAC_LO t.val) (Reg.TILE_ENL_MAC_HI t.val) + tl.macs) (2 ^ 64 - 1) ∧
        getB u (Reg.TILE_ENL_FLAGS t.val) 0 = true) ∧
      (tl.ends = false → regsBut [] s u) ∧ sameBytes s u ∧ (∀ x, x ≠ t.val → getT u x = getT s x)) ∧
  (∀ (t : TileId) (s : State), (getT s t.val).enl.tails = [] → (getT s t.val).run = none →
    exec (.enlEntryFinished t) s = .next s)

/-- The Enlarger's activity level: WAKE starts the ramp, a step of 16 rows for every 64 cycles; without a vector at full level the gap fills
down to the dummy-fill level that MODE sets, and 512 cycles of gap or an IDLE bring it down to 0; a barrier's wave holds the ramp until it passes; FENCE waits for every
earlier command (04 R146 to R149; Table 04.3). The first level of a ramp is entered at once.
The model's own choices under these clauses: logs 3, 12, 47 and 90. -/
def Obligations.EnlargerActivity : Prop :=
  (∀ (t : TileId) (w : Word128) (c : Nat) (s : State), TileReady s t c 2 → (getT s t.val).enl.waveUntil = none → (getT s t.val).enl.phase ≠ .rampUp →
    ∃ u : State, exec (.enlWake t w) s = .next u ∧ (getT u t.val).pc = (getT s t.val).pc + 2 ∧
      (getT u t.val).enl.level = (if 4 ≤ (getT s t.val).enl.level then (getT s t.val).enl.level else (getT s t.val).enl.level + 1) ∧
      (getT u t.val).enl.phase = (if 4 ≤ (getT s t.val).enl.level then .gap else .rampUp) ∧ (getT u t.val).dev = (getT s t.val).dev ∧ sameBytes s u ∧
      TileFrame s u t [Reg.TILE_SEQ_ISSUE t.val]) ∧
  (∀ (t : TileId) (w : Word128) (c : Nat) (s : State), TileReady s t c 2 → (getT s t.val).enl.waveUntil.isSome = true →
    ∃ u : State, exec (.enlWake t w) s = .next u ∧ (getT u t.val).enl.wakeHeld = true ∧ (getT u t.val).enl.phase = (getT s t.val).enl.phase ∧
      (getT u t.val).enl.level = (getT s t.val).enl.level) ∧
  (∀ (t : TileId) (w : Word128) (c : Nat) (s : State), TileReady s t c 2 →
    ∃ u : State, exec (.enlIdle t w) s = .next u ∧ (getT u t.val).pc = (getT s t.val).pc + 2 ∧ (getT u t.val).enl.level = (getT s t.val).enl.level ∧
      ((getT s t.val).enl.level ≠ 0 → (getT u t.val).enl.phase = .rampDown ∧ getB u (Reg.TILE_ENL_FLAGS t.val) 5 = true) ∧
      ((getT s t.val).enl.level = 0 → (getT u t.val).enl = (getT s t.val).enl) ∧ (getT u t.val).dev = (getT s t.val).dev ∧ sameBytes s u ∧
      TileFrame s u t [Reg.TILE_SEQ_ISSUE t.val, Reg.TILE_ENL_FLAGS t.val]) ∧
  (∀ (t : TileId) (w : Word128) (c : Nat) (s : State), TileReady s t c 2 →
    ∃ u : State, exec (.enlMode t w) s = .next u ∧ (getT u t.val).pc = (getT s t.val).pc + 2 ∧
      (getT u t.val).enl = { (getT s t.val).enl with fill := fieldOf w 1 0 + 1 } ∧ sameBytes s u ∧ TileFrame s u t [Reg.TILE_SEQ_ISSUE t.val]) ∧
  (∀ (t : TileId) (w : Word128) (c : Nat) (s : State), TileReady s t c 2 → (getT s t.val).enl.loading = none → (getT s t.val).enl.tails = [] →
    ∃ u : State, exec (.enlFence t w) s = .next u ∧ SeqDone s u t ((getT s t.val).pc + 2) ∧ regsBut [Reg.TILE_SEQ_ISSUE t.val] s u) ∧
  (∀ (t : TileId) (w : Word128) (c : Nat) (s : State), TileReady s t c 2 → (getT s t.val).enl.loading.isSome = true ∨ (getT s t.val).enl.tails ≠ [] →
    ∃ u : State, exec (.enlFence t w) s = .next u ∧ SeqWaits s u t 0xE6) ∧
  (∀ (t : TileId) (s : State), hasQueued (getT s t.val) = false → (getT s t.val).enl.phase = .rampUp → (getT s t.val).enl.waveUntil = none →
    ∃ u : State, exec (.enlLevelStep t) s = .next u ∧
      (getT u t.val).enl.level = (if (getT s t.val).enl.level < 4 then (getT s t.val).enl.level + 1 else (getT s t.val).enl.level) ∧
      (getT u t.val).enl.phase = (if (getT s t.val).enl.level < 4 then .rampUp else .gap) ∧
      getR u (Reg.TILE_ENL_DUMMY_CYC t.val) = satAdd (getR s (Reg.TILE_ENL_DUMMY_CYC t.val)) 64 ∧
      regsBut [Reg.TILE_ENL_DUMMY_CYC t.val] s u ∧ sameBytes s u) ∧
  (∀ (t : TileId) (s : State), hasQueued (getT s t.val) = false → (getT s t.val).enl.phase = .rampUp → (getT s t.val).enl.waveUntil.isSome = true →
    (getT s t.val).enl.level < 4 →
    ∃ u : State, exec (.enlLevelStep t) s = .next u ∧ (getT u t.val).enl = (getT s t.val).enl ∧ regsBut [] s u) ∧
  (∀ (t : TileId) (s : State), hasQueued (getT s t.val) = false → (getT s t.val).enl.phase = .gap →
    ∃ u : State, exec (.enlLevelStep t) s = .next u ∧ (getT u t.val).enl.phase = .gap ∧
      (getT u t.val).enl.level = (if (getT s t.val).enl.fill < (getT s t.val).enl.level then (getT s t.val).enl.level - 1 else (getT s t.val).enl.level)) ∧
  (∀ (t : TileId) (s : State), hasQueued (getT s t.val) = false → (getT s t.val).enl.phase = .rampDown →
    ∃ u : State, exec (.enlLevelStep t) s = .next u ∧ (getT u t.val).enl.level = (getT s t.val).enl.level - 1 ∧
      (getT u t.val).enl.phase = (if (getT s t.val).enl.level ≤ 1 then .idle else .rampDown) ∧
      getR u (Reg.TILE_ENL_DUMMY_CYC t.val) = satAdd (getR s (Reg.TILE_ENL_DUMMY_CYC t.val)) 64) ∧
  (∀ (t : TileId) (s : State), hasQueued (getT s t.val) = false → (getT s t.val).enl.phase = .gap →
    ∃ u : State, exec (.enlRampdownStart t) s = .next u ∧ (getT u t.val).enl.phase = .rampDown ∧ (getT u t.val).enl.level = (getT s t.val).enl.level ∧
      getB u (Reg.TILE_ENL_FLAGS t.val) 5 = true ∧ regsBut [Reg.TILE_ENL_FLAGS t.val, Reg.TILE_ENL_DUMMY_CYC t.val] s u ∧ sameBytes s u) ∧
  (∀ (t : TileId) (s : State), (getT s t.val).enl.phase ≠ .gap → (getT s t.val).run = none →
    exec (.enlRampdownStart t) s = .next s) ∧
  (∀ (t : TileId) (d : Nat) (s : State), hasQueued (getT s t.val) = false → (getT s t.val).enl.waveUntil = some d → d ≤ s.now * 1250 →
    ∃ u : State, exec (.enlWaveRelease t) s = .next u ∧ (getT u t.val).enl.waveUntil = none ∧
      ((getT s t.val).enl.wakeHeld = false → (getT u t.val).enl.level = (getT s t.val).enl.level ∧ (getT u t.val).enl.phase = (getT s t.val).enl.phase) ∧
      ((getT s t.val).enl.wakeHeld = true → (getT s t.val).enl.level < 4 → (getT s t.val).enl.phase ≠ .rampUp →
        (getT u t.val).enl.level = (getT s t.val).enl.level + 1 ∧ (getT u t.val).enl.phase = .rampUp) ∧ regsBut [] s u ∧ sameBytes s u) ∧
  (∀ (t : TileId) (s : State), (∀ d, (getT s t.val).enl.waveUntil = some d → s.now * 1250 < d) → exec (.enlWaveRelease t) s = .next s)

/-- The Fixer: a legal command on scratchpad data starts at its first group and shows busy; by its completion, where it uses
no scale (scale_src 2), it has clipped and converted every element of every channel, stored it at its place and left the rest of memory as it was; a command that names entries not
yet finished waits for them; an illegal one faults, cause 1; completion releases the entries, clears the status and sets done (03 R112 to R119). The written code
is that of a source which the command's own writes do not overlap. The model's own choices under these clauses: logs 3, 10, 12, 13, 89 and 111. -/
def Obligations.FixerConverts : Prop :=
  (∀ (t : TileId) (w : Word128) (c : Nat) (s : State), TileReady s t c 2 → (FixCmd.of w).legal = true → (FixCmd.of w).fromFbq = false →
    ∃ (u : State) (j : FixJob), exec (.fixerCommand t w) s = .next u ∧ (getT u t.val).pc = (getT s t.val).pc + 2 ∧
      (getT u t.val).fix = some j ∧ FixCmd.of j.cmd = FixCmd.of w ∧ j.waiting = false ∧ j.converting = decide ((FixCmd.of w).scaleSrc ≠ 0) ∧ j.group = 0 ∧
      bitOf (readReg u (Reg.TILE_FIX_STATUS t.val)) 31 = true ∧ (getT u t.val).dev = (getT s t.val).dev ∧
      (getT u t.val).enl = (getT s t.val).enl ∧ (∀ x, x ≠ t.val → getT u x = getT s x) ∧ regsBut [Reg.TILE_SEQ_ISSUE t.val] s u ∧ sameBytes s u) ∧
  (∀ (t : TileId) (w : Word128) (c : Nat) (s : State), TileReady s t c 2 → (FixCmd.of w).legal = true → (FixCmd.of w).fromFbq = true →
    (FixCmd.of w).entries ≤ fbqPositions (getT s t.val) → fbqFinished (getT s t.val) < (FixCmd.of w).entries →
    ∃ u : State, exec (.fixerCommand t w) s = .next u ∧ (getT u t.val).fix.map (·.waiting) = some true ∧
      readReg u (Reg.TILE_FIX_STATUS t.val) = 0x80000000#32 ∧ (getT u t.val).enl = (getT s t.val).enl ∧ sameBytes s u) ∧
  (∀ (t : TileId) (w : Word128) (c : Nat) (s : State), TileReady s t c 2 → (FixCmd.of w).legal = false →
    ∃ u : State, exec (.fixerCommand t w) s = .next u ∧ Faulted u c 1) ∧
  (∀ (t : TileId) (c : CtxId) (j : FixJob) (f : FixCmd) (dst : Fmt) (s : State), (getT s t.val).fix = some j → f = FixCmd.of j.cmd →
    j.waiting = false → j.converting = true → j.group = 0 → (getT s t.val).run = some c → (getT s t.val).seq ≠ .stopped →
    hasQueued (getT s t.val) = false → SpFree s t → f.legal = true → f.fromFbq = false → f.dst = some dst → f.scaleSrc = 2 →
    (f.srcOff * 64 + elemBytes (f.src.getD .fp32) (f.count * f.elems) ≤ f.dstOff * 64 ∨
      f.dstOff * 64 + elemBytes dst (f.count * f.elems) ≤ f.srcOff * 64) →
    ∃ u : State, exec (.fixerComplete t) s = .next u ∧ (getT u t.val).fix = none ∧ readReg u (Reg.TILE_FIX_STATUS t.val) = 0#32 ∧
      getB u (Reg.TILE_FIX_FLAGS t.val) 0 = true ∧
      (∀ i k, i < f.count → k < f.elems →
        elemAt u dst (spBase t.val + f.dstOff * 64) (fixIndex f f.axis1 i k) =
          (fixConvert f (getB s (Reg.TILE_FIX_OVF t.val ((f.base + i) / 32)) ((f.base + i) % 32)) (.fin false 1 1)
            (fixElem s t.val f i k)).1 % 2 ^ dst.width) ∧
      (∀ a, a < spBase t.val + f.dstOff * 64 ∨ spBase t.val + f.dstOff * 64 + elemBytes dst (f.count * f.elems) ≤ a →
        getByte u a = getByte s a) ∧
      (getT u t.val).enl = (getT s t.val).enl ∧ (getT u t.val).dev = (getT s t.val).dev ∧ (∀ x, x ≠ t.val → getT u x = getT s x)) ∧
  (∀ (t : TileId) (c : CtxId) (j : FixJob) (s : State), (getT s t.val).fix = some j → fixDone j = true → (getT s t.val).run = some c →
    (getT s t.val).seq ≠ .stopped → hasQueued (getT s t.val) = false →
    ∃ u : State, exec (.fixerComplete t) s = .next u ∧ (getT u t.val).fix = none ∧ readReg u (Reg.TILE_FIX_STATUS t.val) = 0#32 ∧
      getB u (Reg.TILE_FIX_FLAGS t.val) 0 = true ∧
      (getT u t.val).enl.fbq = (if (FixCmd.of j.cmd).fromFbq then (getT s t.val).enl.fbq.drop (FixCmd.of j.cmd).entries else (getT s t.val).enl.fbq) ∧
      (∀ e ∈ (getT u t.val).sb, e.pos ≠ j.pos) ∧ regsBut [Reg.TILE_FIX_FLAGS t.val] s u ∧ sameBytes s u ∧
      (∀ x, x ≠ t.val → getT u x = getT s x)) ∧
  (∀ (t : TileId) (s : State), (∀ j, (getT s t.val).fix = some j → j.waiting = true) → exec (.fixerComplete t) s = .next s)

/-! ### Peer Links and device groups (14) -/

/-- A frame on a link is accepted only when it is good and in sequence: it is counted, acknowledged, and forwarded, refused for its epoch or
delivered; any other is discarded and nacked. Kept frames go when they are acknowledged, leave again when 4 µs pass, and after eight sends the link retrains and
the contexts of its streams fault with cause 9. Training ends in the up state, or in the third failure (14 R437, R439, R441, R442, R444, R449, R456).
The model's own choices under these clauses: logs 3, 76 and 77. -/
def Obligations.PeerLinksCarryFrames : Prop :=
  (∀ (l : LinkId) (f : PeerFrame) (s : State), peerUp s l.val = false → exec (.peerFrameRx l f) s = .next s) ∧
  (∀ (l : LinkId) (f : PeerFrame) (s : State), peerUp s l.val = true → f.crcOk = false ∨ f.seq ≠ (getL s l.val).rxNext →
    silent s = false → (getL s l.val).waiting = [] → (getL s l.val).replay.length < 512 →
    ∃ (u : State) (g : PeerFrame), exec (.peerFrameRx l f) s = .next u ∧ (getL u l.val).out = (getL s l.val).out ++ [g] ∧ g.nack = true ∧ g.body = .ack ∧
      g.ack = (getL s l.val).rxNext ∧ (getL u l.val).rxNext = (getL s l.val).rxNext ∧
      (f.crcOk = false → getR u (Reg.PEER_L_CRC_ERR l.val) = satAdd (getR s (Reg.PEER_L_CRC_ERR l.val)) 1) ∧
      (∀ k, k ≠ l.val → getL u k = getL s k) ∧ regsBut [Reg.PEER_L_CRC_ERR l.val, Reg.PEER_L_TX_FRAMES l.val] s u ∧
      u.tiles = s.tiles ∧ u.ctxs = s.ctxs ∧ sameBytes s u) ∧
  (∀ (l : LinkId) (f : PeerFrame) (s : State), peerUp s l.val = true → f.crcOk = true → f.seq = (getL s l.val).rxNext → f.nack = false →
    f.kind = 1 → f.body = .ack → f.ackValid = true → f.ack = (getL s l.val).txSeq →
    (∀ k ∈ (getL s l.val).replay, k.frame.seq ≠ f.ack) → (getL s l.val).waiting = [] → silent s = false →
    ∃ (u : State) (g : PeerFrame), exec (.peerFrameRx l f) s = .next u ∧ (getL u l.val).rxNext = ((getL s l.val).rxNext + 1) % 4096 ∧
      (getL u l.val).replay = [⟨g, 1, s.now⟩] ∧ (getL u l.val).out = (getL s l.val).out ++ [g] ∧ g.nack = false ∧ g.body = .ack ∧
      g.ack = ((getL s l.val).rxNext + 1) % 4096 ∧
      getR u (Reg.PEER_L_RX_FRAMES l.val) = satAdd (getR s (Reg.PEER_L_RX_FRAMES l.val)) 1 ∧
      regsBut [Reg.PEER_L_RX_FRAMES l.val, Reg.PEER_L_TX_FRAMES l.val] s u ∧ u.tiles = s.tiles ∧ sameBytes s u) ∧
  (∀ (l : LinkId) (f : PeerFrame) (m : Nat) (bs : List Byte) (s : State), peerUp s l.val = true → f.crcOk = true →
    f.seq = (getL s l.val).rxNext → f.nack = false → f.ackValid = false → f.body = .data bs → f.dst ≠ ownMember s → f.hops < 7 →
    routeTo s f.dst = some m → m ≠ l.val → peerUp s m = true → (getL s m).replay.length < 512 → (getL s m).waiting = [] →
    silent s = false →
    ∃ (u : State) (g : PeerFrame), exec (.peerFrameRx l f) s = .next u ∧ (getL u m).out = (getL s m).out ++ [g] ∧ g.hops = f.hops + 1 ∧ g.dst = f.dst ∧ g.src = f.src ∧
      g.body = .data bs ∧ (getL u l.val).rxNext = ((getL s l.val).rxNext + 1) % 4096 ∧
      getR u (Reg.PEER_L_FWD l.val) = satAdd (getR s (Reg.PEER_L_FWD l.val)) 1 ∧ u.tiles = s.tiles ∧ sameBytes s u) ∧
  (∀ (l : LinkId) (f : PeerFrame) (s : State), peerUp s l.val = true → f.crcOk = true → f.seq = (getL s l.val).rxNext → f.nack = false →
    f.ackValid = false → ¬ (f.kind = 1 ∧ f.body = .ack) → f.dst ≠ ownMember s → 7 ≤ f.hops →
    ∃ u : State, exec (.peerFrameRx l f) s = .next u ∧ getR u (Reg.PEER_L_HOP_DROP l.val) = satAdd (getR s (Reg.PEER_L_HOP_DROP l.val)) 1 ∧
      getB u Reg.PEER_GRP_FLAGS 1 = true ∧ (∀ k, k ≠ l.val → getL u k = getL s k) ∧ u.tiles = s.tiles ∧ sameBytes s u) ∧
  (∀ (l : LinkId) (f : PeerFrame) (s : State), peerUp s l.val = true → f.crcOk = true → f.seq = (getL s l.val).rxNext → f.nack = false →
    f.ackValid = false → f.dst = ownMember s → epochChecked f.body = true → f.epoch ≠ epochOf s % 256 →
    ∃ u : State, exec (.peerFrameRx l f) s = .next u ∧ getR u (Reg.PEER_L_EPOCH_ERR l.val) = satAdd (getR s (Reg.PEER_L_EPOCH_ERR l.val)) 1 ∧
      getB u Reg.PEER_GRP_FLAGS 3 = true ∧ u.tiles = s.tiles ∧ u.ctxs = s.ctxs ∧ sameBytes s u) ∧
  (∀ (l : LinkId) (f : PeerFrame) (st : Stream) (bs : List Byte) (s : State), peerUp s l.val = true → f.crcOk = true →
    f.seq = (getL s l.val).rxNext → f.nack = false → f.ackValid = false → f.dst = ownMember s → f.epoch = epochOf s % 256 → f.body = .data bs →
    streamOf s f.stream = some st → runsOn s st.dstCtx st.dstTile = true → (ringAt s st.dstTile st.dstRing).en = true →
    (ringAt s st.dstTile st.dstRing).occ < (ringAt s st.dstTile st.dstRing).slots → slotBytes (ringAt s st.dstTile st.dstRing) = bs.length →
    f.offset % bs.length = 0 → s.peer.recv = [] → s.peer.partial' = [] → st.dstTile < 256 →
    (getT s st.dstTile).asleep = [] → (getT s st.dstTile).wakingG = [] → s.foreignDirty = [] →
    ∃ u : State, exec (.peerFrameRx l f) s = .next u ∧
      (∀ i, i < bs.length → bs[i]? = some (getByte u (spBase st.dstTile + (ringAt s st.dstTile st.dstRing).slotAt (ringAt s st.dstTile st.dstRing).tail + i))) ∧
      (∀ a, a < spBase st.dstTile + (ringAt s st.dstTile st.dstRing).slotAt (ringAt s st.dstTile st.dstRing).tail ∨
        spBase st.dstTile + (ringAt s st.dstTile st.dstRing).slotAt (ringAt s st.dstTile st.dstRing).tail + bs.length ≤ a → getByte u a = getByte s a) ∧
      (ringAt u st.dstTile st.dstRing).tail = ((ringAt s st.dstTile st.dstRing).tail + 1) % 65536) ∧
  (∀ (l : LinkId) (k : Kept) (r : List Kept) (s : State), (getL s l.val).replay = k :: r → peerUp s l.val = true → k.at' + 3200 ≤ s.now →
    k.sends < 8 → ∃ u : State, exec (.peerAckTimeout l) s = .next u ∧ (getL u l.val).replay.map (·.sends) = (k :: r).map (fun x => x.sends + 1) ∧
      (getL u l.val).replay.map (·.at') = (k :: r).map (fun _ => s.now) ∧
      (getL u l.val).out = (getL s l.val).out ++ (getL u l.val).replay.map (·.frame) ∧
      (getL u l.val).replay.map (fun x => (x.frame.seq, x.frame.body)) = (k :: r).map (fun x => (x.frame.seq, x.frame.body)) ∧
      getR u (Reg.PEER_L_RETRY l.val) = satAdd (getR s (Reg.PEER_L_RETRY l.val)) (k :: r).length ∧
      regsBut [Reg.PEER_L_RETRY l.val, Reg.PEER_L_TX_FRAMES l.val] s u ∧ (∀ j, j ≠ l.val → getL u j = getL s j) ∧ u.tiles = s.tiles ∧ sameBytes s u) ∧
  (∀ (l : LinkId) (k : Kept) (r : List Kept) (s : State), (getL s l.val).replay = k :: r → peerUp s l.val = true → k.at' + 3200 ≤ s.now →
    8 ≤ k.sends → inFlightOn s l.val = [] → ∃ u : State, exec (.peerAckTimeout l) s = .next u ∧ linkState u l.val = 3 ∧ (getL u l.val).replay = [] ∧
      getB u (Reg.PEER_L_FLAGS l.val) 2 = true ∧ u.tiles = s.tiles ∧ u.ctxs = s.ctxs ∧ sameBytes s u) ∧
  (∀ (l : LinkId) (k : Kept) (r : List Kept) (h : Nat × List Nat) (st : Stream) (s : State), (getL s l.val).replay = k :: r →
    peerUp s l.val = true → k.at' + 3200 ≤ s.now → 8 ≤ k.sends → inFlightOn s l.val = [h] → ownMember s ∈ h.2 → streamOf s h.1 = some st →
    ownSeat s st.srcSeat = true → dstSeatHere s st = none → (getC s st.srcCtx).st ≠ .scrubbing → (getC s st.srcCtx).st ≠ .held →
    ∃ u : State, exec (.peerAckTimeout l) s = .next u ∧ linkState u l.val = 3 ∧ Faulted u st.srcCtx 9) ∧
  (∀ (l : LinkId) (s : State), (getL s l.val).replay = [] ∨ peerUp s l.val = false ∨
      (∃ k r, (getL s l.val).replay = k :: r ∧ s.now < k.at' + 3200) → exec (.peerAckTimeout l) s = .next s) ∧
  (∀ (l : LinkId) (v : Word) (s : State), bitOf v 0 = true → linkState s l.val ≠ 0 → ∃ u : State, exec (.peerRetrain l v) s = .next u ∧
    linkState u l.val = 3 ∧ getF u (Reg.PEER_L_STATUS l.val) 9 8 = 0 ∧ getF u (Reg.PEER_L_STATUS l.val) 7 0 = 0 ∧
    getR u (Reg.PEER_L_CTL l.val) = 0#32 ∧ (getL u l.val).replay = (getL s l.val).replay ∧ u.tiles = s.tiles ∧ sameBytes s u) ∧
  (∀ (l : LinkId) (v : Word) (s : State), bitOf v 0 = false → exec (.peerRetrain l v) s = .next s) ∧
  (∀ (l : LinkId) (s : State), linkState s l.val = 1 ∨ linkState s l.val = 3 → (getL s l.val).replay = [] → (getL s l.val).waiting = [] →
    ∃ u : State, exec (.peerLinkTrained l true) s = .next u ∧ linkState u l.val = 2 ∧ (getL u l.val).txSeq = 0 ∧ (getL u l.val).rxNext = 0 ∧
      getB u (Reg.PEER_L_FLAGS l.val) 0 = true ∧ regsBut [Reg.PEER_L_STATUS l.val, Reg.PEER_L_FLAGS l.val] s u) ∧
  (∀ (l : LinkId) (k : Kept) (s : State), linkState s l.val = 3 → (getL s l.val).replay = [k] → (getL s l.val).waiting = [] →
    ∃ (u : State) (g : PeerFrame), exec (.peerLinkTrained l true) s = .next u ∧ linkState u l.val = 2 ∧ (getL u l.val).out = (getL s l.val).out ++ [g] ∧ g.seq = 0 ∧
      g.dst = k.frame.dst ∧ (getL u l.val).txSeq = 1) ∧
  (∀ (l : LinkId) (s : State), linkState s l.val = 1 ∨ linkState s l.val = 3 → ∃ u : State, exec (.peerLinkTrained l false) s = .next u ∧
    (getF s (Reg.PEER_L_STATUS l.val) 9 8 < 2 → linkState u l.val = 3 ∧
      getF u (Reg.PEER_L_STATUS l.val) 9 8 = getF s (Reg.PEER_L_STATUS l.val) 9 8 + 1) ∧
    (2 ≤ getF s (Reg.PEER_L_STATUS l.val) 9 8 → linkState u l.val = 4 ∧ getB u (Reg.PEER_L_FLAGS l.val) 3 = true) ∧
    regsBut [Reg.PEER_L_STATUS l.val, Reg.PEER_L_FLAGS l.val] s u ∧ u.tiles = s.tiles) ∧
  (∀ (l : LinkId) (b : Bool) (s : State), linkState s l.val ≠ 1 → linkState s l.val ≠ 3 → exec (.peerLinkTrained l b) s = .next s) ∧
  (∀ (m l : Nat) (s : State), m = ownMember s → isManager s = false → (peerServo s).isSome = true → exchangeDue s = true → routeTo s 0 = some l → peerUp s l = true →
    (getL s l).replay.length < 512 → (getL s l).waiting = [] → silent s = false →
    ∃ (u : State) (g : PeerFrame), exec (.peerTimeExchange m) s = .next u ∧ (getL u l).out = (getL s l).out ++ [g] ∧ g.dst = 0 ∧ g.body = .timeReq s.time.dev 0 ∧
      u.peer.timeReq = some s.time.dev ∧ regsBut [Reg.PEER_L_TX_FRAMES l] s u ∧ u.tiles = s.tiles ∧ sameBytes s u) ∧
  (∀ (m : Nat) (s : State), m ≠ ownMember s ∨ isManager s = true ∨ peerServo s = none ∨ exchangeDue s = false → exec (.peerTimeExchange m) s = .next s)

/-- Roll calls: the manager sends one fresh nonce to every member at the driver's request or when its period has passed, closes the call after
10 ms, and forms the group when every member has been accepted, fixing the arm cycle 100 ms on; a worker that receives a nonce queues its Proof, and one that hears no
roll call for three periods reports the manager lost (14 R446 to R448). The nonce is a free value of the model.
The model's own choices under these clauses: logs 3 and 80. -/
def Obligations.GroupsFormByRollCall : Prop :=
  (∀ s : State, isManager s = true → s.plan.isSome = true → s.peer.roll = none → groupSize s ≠ 0 →
    ∃ (u : State) (n : Nat), exec .rollCallStart s = .next u ∧ u.peer.roll = some ⟨n, s.now, 1, 0⟩ ∧ n < 2 ^ 128 ∧ u.peer.lastRoll = s.now ∧
      getB u Reg.PEER_ROLL_STATUS 31 = true ∧ u.tiles = s.tiles ∧ sameBytes s u ∧
      (∀ l, groupSize s = 2 → routeTo s 1 = some l → peerUp s l = true → (getL s l).replay.length < 512 → (getL s l).waiting = [] →
        silent s = false → ∃ g : PeerFrame, (getL u l).out = (getL s l).out ++ [g] ∧ g.dst = 1 ∧ g.body = .nonce n)) ∧
  (∀ s : State, isManager s = false ∨ s.plan = none ∨ s.peer.roll.isSome = true ∨ groupSize s = 0 → exec .rollCallStart s = .next s) ∧
  (∀ s : State, s.peer.lastRoll + rollPeriod s ≤ s.now → exec .rollPeriodExpiry s = exec .rollCallStart s) ∧
  (∀ s : State, isManager s = true → s.plan.isSome = true → s.peer.roll = none → groupSize s ≠ 0 → s.peer.lastRoll + rollPeriod s ≤ s.now →
    ∃ u : State, exec .rollPeriodExpiry s = .next u ∧ u.peer.roll.isSome = true ∧ u.peer.lastRoll = s.now) ∧
  (∀ s : State, s.now < s.peer.lastRoll + rollPeriod s → exec .rollPeriodExpiry s = .next s) ∧
  (∀ (r : RollCall) (s : State), s.peer.roll = some r → r.start + 8000000 ≤ s.now → r.ok < 2 ^ 64 →
    ∃ u : State, exec .rollCallTimeout s = .next u ∧ u.peer.roll = none ∧ getN64 u Reg.PEER_MEMBER_OK_LO Reg.PEER_MEMBER_OK_HI = r.ok ∧
      ((∀ m, m < groupSize s → r.ok.testBit m = true) → s.peer.formed = false → u.peer.formed = true ∧
        u.peer.armAt = some (cycleFrom s (s.time.dev + armLead)) ∧ getB u Reg.PEER_GRP_STATUS 31 = true ∧ getB u Reg.PEER_GRP_FLAGS 0 = true) ∧
      ((∃ m, m < groupSize s ∧ r.ok.testBit m = false) → u.peer.formed = s.peer.formed ∧ getB u Reg.PEER_GRP_FLAGS 4 = true) ∧
      u.tiles = s.tiles ∧ u.ctxs = s.ctxs ∧ sameBytes s u) ∧
  (∀ s : State, (∀ r, s.peer.roll = some r → s.now < r.start + 8000000) → exec .rollCallTimeout s = .next s) ∧
  (∀ s : State, isManager s = false → s.peer.formed = true → s.peer.lost = false → s.peer.lastRoll + 3 * rollPeriod s ≤ s.now →
    ∃ u : State, exec .managerLost s = .next u ∧ u.peer.lost = true ∧ getB u Reg.PEER_GRP_FLAGS 5 = true ∧ u.safe.evtSeq = (s.safe.evtSeq + 1) % 2 ^ 32 ∧
      u.tiles = s.tiles ∧ u.ctxs = s.ctxs ∧ sameBytes s u) ∧
  (∀ s : State, isManager s = true ∨ s.peer.formed = false ∨ s.peer.lost = true ∨ s.now < s.peer.lastRoll + 3 * rollPeriod s →
    exec .managerLost s = .next s) ∧
  (∀ (l : LinkId) (f : PeerFrame) (n : Nat) (s : State), peerUp s l.val = true → f.crcOk = true → f.seq = (getL s l.val).rxNext →
    f.nack = false → f.ackValid = false → f.dst = ownMember s → f.body = .nonce n → s.peer.recv = [] →
    ∃ u : State, exec (.peerFrameRx l f) s = .next u ∧ u.peer.lastRoll = s.now ∧ u.peer.lost = false ∧
      (canSign s = true → u.sec.queue = s.sec.queue ++ [.roll n]) ∧ (canSign s = false → u.sec.queue = s.sec.queue)) ∧
  (∀ (l : LinkId) (f : PeerFrame) (s : State), peerUp s l.val = true → f.crcOk = true → f.seq = (getL s l.val).rxNext → f.nack = false →
    f.ackValid = false → f.dst = ownMember s → f.body = .accepted true → s.peer.recv = [] → s.peer.armAt = none →
    ∃ u : State, exec (.peerFrameRx l f) s = .next u ∧ u.peer.armAt = some (cycleFrom s (s.time.dev + armLead)) ∧ u.peer.formed = true)

/-- Streams and group barriers: a burst leaves for its destinations when its turn comes on every link it uses, and takes a credit, once their replay buffers hold it whole; its context
faults with cause 9 where one of those links is down; a multicast held at its lead for 20 µs detaches the destinations that lag; a member passes the tiles of a group
barrier at its release and records the collective; the driver pops those records in order (14 R443, R451, R455 to R458, R460).
The model's own choices under these clauses: logs 3, 78 and 79. -/
def Obligations.StreamsAndGroupBarriers : Prop :=
  (∀ (n j : Nat) (x : Stream) (s : State), streamOf s n = some x → nextBurst s x = some (.ring j) → running s = true →
    (∀ l ∈ burstLinks s x.dstSeats, rrTurn s l x.vc = true ∧ peerUp s l = true) → burstRoom s x x.dstSeats = true → (getTx s n).fresh = false →
    s.ecc.single = [] → s.ecc.bad = [] → s.peer.recv = [] → (getC s x.srcCtx).spill = [] →
    (∀ seat ∈ bits64 x.dstSeats, seatMember s seat ≠ ownMember s) →
    ∃ u : State, exec (.peerBurstSend n) s = .next u ∧ (getTx u n).next = (getTx s n).next + 1 ∧
      (getTx u n).out = (getTx s n).out ++ [⟨(getTx s n).next, x.dstSeats, false⟩] ∧
      (ringAt u x.srcTile x.srcRing).head = (if j + 1 = max 1 (slotBursts (ringAt s x.srcTile x.srcRing)) then
        ((ringAt s x.srcTile x.srcRing).head + 1) % 65536 else (ringAt s x.srcTile x.srcRing).head) ∧ sameBytes s u ∧ u.ctxs = s.ctxs) ∧
  (∀ (n l : Nat) (k : NextBurst) (x : Stream) (s : State), streamOf s n = some x → nextBurst s x = some k → running s = true →
    (∀ l ∈ burstLinks s (burstSeats s x k), rrTurn s l x.vc = true) → l ∈ burstLinks s (burstSeats s x k) → peerUp s l = false →
    ∃ u : State, exec (.peerBurstSend n) s = .next u ∧ Faulted u x.srcCtx 9) ∧
  (∀ (n : Nat) (k : NextBurst) (x : Stream) (s : State), streamOf s n = some x → nextBurst s x = some k → burstRoom s x (burstSeats s x k) = false →
    (∀ l ∈ burstLinks s (burstSeats s x k), peerUp s l = true) → exec (.peerBurstSend n) s = .next s) ∧
  (∀ (n : Nat) (s : State), streamOf s n = none ∨ running s = false ∨ (∃ x, streamOf s n = some x ∧ nextBurst s x = none) →
    exec (.peerBurstSend n) s = .next s) ∧
  (∀ (n t : Nat) (b : Burst) (s : State), n < 256 → (getTx s n).heldAt = some t → t + 16000 < s.now →
    (getTx s n).out.find? (fun y => !y.uni) = some b → 8 ≤ ((getTx s n).out.filter (fun y => !y.uni)).length → b.seats < 2 ^ 64 →
    ∃ u : State, exec (.multicastDetach n) s = .next u ∧ (getTx u n).heldAt = none ∧ (getTx u n).detached = (getTx s n).detached ||| b.seats ∧
      getN64 u (Reg.PEER_ST_DET_LO n) (Reg.PEER_ST_DET_HI n) = getN64 s (Reg.PEER_ST_DET_LO n) (Reg.PEER_ST_DET_HI n) ||| b.seats ∧
      (b.seats ≠ 0 → getB u Reg.PEER_GRP_FLAGS 2 = true) ∧ u.tiles = s.tiles ∧ u.ctxs = s.ctxs ∧ sameBytes s u) ∧
  (∀ (n : Nat) (s : State), (getTx s n).heldAt = none ∨ (∃ t, (getTx s n).heldAt = some t ∧ s.now ≤ t + 16000) →
    exec (.multicastDetach n) s = .next s) ∧
  (∀ (b seat when' c : Nat) (late : Bool) (s : State), s.peer.rel = [(b, seat, when', late)] →
    (if late then when' ≤ s.now else when' ≤ s.time.dev) → barCtx s b seat = some c → (getC s c).st ≠ .stopped →
    (((getC s c).barArr.filter (fun x => decide (x.1 = b))).map (·.2)).Nodup → s.peer.coll.length < 64 →
    ∃ (u : State) (r : CollRec), exec (.groupBarrierRelease b) s = .next u ∧ u.peer.rel = [] ∧
      (∀ tl, (b, tl) ∈ (getC s c).barArr → (getT u tl).pc = (getT s tl).pc + 1 ∧ (getT u tl).barWait = none) ∧
      (∀ tl, (b, tl) ∉ (getC s c).barArr → getT u tl = getT s tl) ∧ (∀ x ∈ (getC u c).barArr, x.1 ≠ b) ∧
      u.peer.coll = s.peer.coll ++ [r] ∧ r.barrier = b ∧ r.ctx = c ∧ r.seat = ctxSeat s c ∧
      r.waitUs = (s.now - (mapGet Span.init s.peer.spans c).arrivedAt.getD s.now) / 800 ∧
      (late = true → getR u Reg.PEER_BAR_LATE = satAdd (getR s Reg.PEER_BAR_LATE) 1) ∧
      (late = false → getR u Reg.PEER_BAR_LATE = getR s Reg.PEER_BAR_LATE) ∧ sameBytes s u) ∧
  (∀ (b : Nat) (s : State), (∀ r ∈ s.peer.rel, r.1 ≠ b) → exec (.groupBarrierRelease b) s = .next s) ∧
  (∀ (v : Word) (s : State), ∃ u : State, exec (.peerCollPop v) s = .next u ∧
    u.peer.coll = (if bitOf v 0 then s.peer.coll.tail else s.peer.coll) ∧ regsBut [Reg.PEER_COLL_POP, Reg.ERR_HOST_STATUS] s u ∧
    u.tiles = s.tiles ∧ sameBytes s u)
end

