-- ==== Sys2Proof/Laws/Maps.lean ====
section
/-!
SUPPORT. Maps.lean (laws): what reading a sparse map answers after each of its operations, and that each keeps the canonical form.
-/
namespace Sys2Proof.Machine

open Sys2Proof

variable {V : Type}

/-! ### Reading -/

@[simp] theorem mapFind_nil (k : Nat) : mapFind ([] : SMap V) k = none := rfl

theorem mapFind_cons (a : Nat) (v : V) (m : SMap V) (k : Nat) :
    mapFind ((a, v) :: m) k = if k = a then some v else mapFind m k := rfl

@[simp] theorem mapFind_mapPut (m : SMap V) (k : Nat) (v : V) (j : Nat) :
    mapFind (mapPut m k v) j = if j = k then some v else mapFind m j := by
  induction m with
  | nil => simp [mapPut, mapFind_cons]
  | cons p m ih =>
    obtain ⟨a, w⟩ := p
    simp only [mapPut]
    split
    · simp only [mapFind_cons]
    · split
      · subst k; simp only [mapFind_cons]; split <;> rfl
      · simp only [mapFind_cons, ih]; split <;> split <;> simp_all

@[simp] theorem mapFind_mapErase (m : SMap V) (k j : Nat) :
    mapFind (mapErase m k) j = if j = k then none else mapFind m j := by
  induction m with
  | nil => simp [mapErase]
  | cons p m ih =>
    obtain ⟨a, w⟩ := p
    simp only [mapErase]
    split
    · subst k; rw [ih]; simp only [mapFind_cons]; split <;> simp_all
    · simp only [mapFind_cons, ih]; split <;> split <;> simp_all

theorem mapGet_mapSet [DecidableEq V] (d : V) (m : SMap V) (k : Nat) (v : V) (j : Nat) :
    mapGet d (mapSet d m k v) j = if j = k then v else mapGet d m j := by
  unfold mapGet mapSet
  split <;> simp only [mapFind_mapErase, mapFind_mapPut] <;> split <;> simp_all

@[simp] theorem mapGet_mapSet_self [DecidableEq V] (d : V) (m : SMap V) (k : Nat) (v : V) :
    mapGet d (mapSet d m k v) k = v := by simp [mapGet_mapSet]

theorem mapGet_mapSet_other [DecidableEq V] (d : V) (m : SMap V) {k j : Nat} (v : V) (h : j ≠ k) :
    mapGet d (mapSet d m k v) j = mapGet d m j := by simp [mapGet_mapSet, h]

@[simp] theorem mapGet_nil (d : V) (k : Nat) : mapGet d ([] : SMap V) k = d := rfl

@[simp] theorem mapFind_filter (p : Nat → Bool) (m : SMap V) (k : Nat) :
    mapFind (m.filter (fun kv => p kv.1)) k = if p k then mapFind m k else none := by
  induction m with
  | nil => simp
  | cons q m ih =>
    obtain ⟨a, w⟩ := q
    simp only [List.filter_cons, mapFind_cons]
    split <;> by_cases h : k = a <;> simp_all [mapFind_cons]

theorem mapGet_filter (d : V) (p : Nat → Bool) (m : SMap V) (k : Nat) :
    mapGet d (m.filter (fun kv => p kv.1)) k = if p k then mapGet d m k else d := by
  unfold mapGet
  rw [mapFind_filter]
  split <;> rfl

/-! ### The canonical form

A map is canonical when its keys rise strictly and it lists no default; `above b m` says that its keys rise strictly from `b` on. -/

/-- The keys are at least `b` and rise strictly. -/
def above : Nat → SMap V → Prop
  | _, [] => True
  | b, (k, _) :: m => b ≤ k ∧ above (k + 1) m

theorem above_mono {a b : Nat} {m : SMap V} (h : a ≤ b) (hm : above b m) : above a m := by
  cases m with
  | nil => trivial
  | cons p m => exact ⟨Nat.le_trans h hm.1, hm.2⟩

theorem mapRising_cons (a : Nat) (v : V) (m : SMap V) : mapRising ((a, v) :: m) = true ↔ above (a + 1) m := by
  induction m generalizing a v with
  | nil => simp [mapRising, above]
  | cons p m ih => obtain ⟨b, w⟩ := p; simp only [mapRising, Bool.and_eq_true, decide_eq_true_eq, ih, above, Nat.succ_le_iff]

theorem mapRising_iff (m : SMap V) : mapRising m = true ↔ above 0 m := by
  cases m with
  | nil => simp [mapRising, above]
  | cons p m => obtain ⟨a, v⟩ := p; simp [mapRising_cons, above]

theorem above_put {m : SMap V} {b k : Nat} (v : V) (hb : b ≤ k) (hm : above b m) : above b (mapPut m k v) := by
  induction m generalizing b with
  | nil => exact ⟨hb, trivial⟩
  | cons p m ih =>
    obtain ⟨a, w⟩ := p
    simp only [mapPut]
    split
    · exact ⟨hb, by omega, hm.2⟩
    · split
      · subst k; exact hm
      · exact ⟨hm.1, ih (by omega) hm.2⟩

theorem above_erase {m : SMap V} {b : Nat} (k : Nat) (hm : above b m) : above b (mapErase m k) := by
  induction m generalizing b with
  | nil => trivial
  | cons p m ih =>
    obtain ⟨a, w⟩ := p
    simp only [mapErase]
    split
    · exact above_mono (by have := hm.1; omega) (ih hm.2)
    · exact ⟨hm.1, ih hm.2⟩

theorem above_filter {m : SMap V} {b : Nat} (p : Nat × V → Bool) (hm : above b m) : above b (m.filter p) := by
  induction m generalizing b with
  | nil => trivial
  | cons q m ih =>
    obtain ⟨a, w⟩ := q
    simp only [List.filter_cons]
    split
    · exact ⟨hm.1, ih hm.2⟩
    · exact above_mono (by have := hm.1; omega) (ih hm.2)

theorem mem_mapPut {m : SMap V} {k : Nat} {v : V} {x : Nat × V} (h : x ∈ mapPut m k v) : x = (k, v) ∨ x ∈ m := by
  induction m with
  | nil => simpa [mapPut] using h
  | cons p m ih =>
    obtain ⟨a, w⟩ := p
    simp only [mapPut] at h
    split at h
    · simpa using h
    · split at h
      · simp only [List.mem_cons] at h ⊢; tauto
      · simp only [List.mem_cons] at h ⊢
        rcases h with h | h
        · tauto
        · rcases ih h with h | h <;> tauto

theorem mem_mapErase {m : SMap V} {k : Nat} {x : Nat × V} (h : x ∈ mapErase m k) : x ∈ m := by
  induction m with
  | nil => simp [mapErase] at h
  | cons p m ih =>
    obtain ⟨a, w⟩ := p
    simp only [mapErase] at h
    split at h
    · exact List.mem_cons_of_mem _ (ih h)
    · simp only [List.mem_cons] at h ⊢
      exact h.imp id ih

theorem mapWf_iff [DecidableEq V] (d : V) (m : SMap V) : mapWf d m = true ↔ above 0 m ∧ ∀ x ∈ m, x.2 ≠ d := by
  simp [mapWf, mapRising_iff]

/-- Writing keeps the canonical form. -/
theorem mapWf_mapSet [DecidableEq V] {d : V} {m : SMap V} (h : mapWf d m = true) (k : Nat) (v : V) :
    mapWf d (mapSet d m k v) = true := by
  rw [mapWf_iff] at h ⊢
  unfold mapSet
  split
  · exact ⟨above_erase k h.1, fun x hx => h.2 x (mem_mapErase hx)⟩
  · refine ⟨above_put v (Nat.zero_le k) h.1, fun x hx => ?_⟩
    rcases mem_mapPut hx with rfl | hx
    · assumption
    · exact h.2 x hx

/-- Removing entries keeps the canonical form. -/
theorem mapWf_filter [DecidableEq V] {d : V} {m : SMap V} (h : mapWf d m = true) (p : Nat × V → Bool) :
    mapWf d (m.filter p) = true := by
  rw [mapWf_iff] at h ⊢
  exact ⟨above_filter p h.1, fun x hx => h.2 x (List.mem_filter.mp hx).1⟩

@[simp] theorem mapWf_nil [DecidableEq V] (d : V) : mapWf d ([] : SMap V) = true := rfl

theorem above_not_found {m : SMap V} {b k : Nat} (hm : above b m) (hk : k < b) : mapFind m k = none := by
  induction m generalizing b with
  | nil => rfl
  | cons p m ih =>
    obtain ⟨a, w⟩ := p
    rw [mapFind_cons, if_neg (by have := hm.1; omega)]
    exact ih hm.2 (by have := hm.1; omega)

/-- Two canonical maps that read alike are the same data. -/
theorem mapWf_ext [DecidableEq V] {d : V} {m n : SMap V} (hm : mapWf d m = true) (hn : mapWf d n = true)
    (h : ∀ k, mapGet d m k = mapGet d n k) : m = n := by
  rw [mapWf_iff] at hm hn
  obtain ⟨hm, hmd⟩ := hm
  obtain ⟨hn, hnd⟩ := hn
  revert hm hn
  generalize 0 = b
  intro hm hn
  induction m generalizing n b with
  | nil =>
    cases n with
    | nil => rfl
    | cons q n => exact absurd (by have e := h q.1; rw [mapGet_nil, mapGet, show q :: n = (q.1, q.2) :: n from rfl, mapFind_cons, if_pos rfl] at e; exact e.symm) (hnd q (by simp))
  | cons p m ih =>
    obtain ⟨a, v⟩ := p
    cases n with
    | nil => exact absurd (by simpa [mapGet, mapFind_cons] using h a) (hmd (a, v) (by simp))
    | cons q n =>
      obtain ⟨c, w⟩ := q
      have hv : v ≠ d := hmd (a, v) (by simp)
      have hw : w ≠ d := hnd (c, w) (by simp)
      have hac : a = c := by
        rcases Nat.lt_trichotomy a c with hlt | heq | hgt
        · have e := h a
          rw [mapGet, mapGet, mapFind_cons, mapFind_cons, if_pos rfl, if_neg (by omega), above_not_found hn.2 (by omega)] at e
          exact absurd (by simpa using e) hv
        · exact heq
        · have e := h c
          rw [mapGet, mapGet, mapFind_cons, mapFind_cons, if_pos rfl, if_neg (by omega), above_not_found hm.2 (by omega)] at e
          exact absurd (by simpa using e.symm) hw
      subst hac
      have hvw : v = w := by simpa [mapGet, mapFind_cons] using h a
      subst hvw
      have tails : ∀ k, mapGet d m k = mapGet d n k := fun k => ?_
      · rw [ih tails (fun x hx => hmd x (by simp [hx])) (fun x hx => hnd x (by simp [hx])) (a + 1) hm.2 hn.2]
      by_cases hk : k < a + 1
      · simp [mapGet, above_not_found hm.2 hk, above_not_found hn.2 hk]
      · have e := h k
        rw [mapGet, mapGet, mapFind_cons, mapFind_cons, if_neg (by omega), if_neg (by omega)] at e
        exact e

end Sys2Proof.Machine
end

