-- ==== Sys2Proof/Laws/State.lean ====
section
/-!
SUPPORT. State.lean (laws): what each update of the state leaves alone, field by field, and what it writes. A proof reads a field through
an update by these and never unfolds the record update.
-/
namespace Sys2Proof.Machine

open Sys2Proof

/-! #### setR -/

@[simp] theorem setR_pending (s : State) (a : Nat) (v : Word) : (setR s a v).pending = s.pending := rfl
@[simp] theorem setR_freeCtr (s : State) (a : Nat) (v : Word) : (setR s a v).freeCtr = s.freeCtr := rfl
@[simp] theorem setR_now (s : State) (a : Nat) (v : Word) : (setR s a v).now = s.now := rfl
@[simp] theorem setR_mem (s : State) (a : Nat) (v : Word) : (setR s a v).mem = s.mem := rfl
@[simp] theorem setR_ecc (s : State) (a : Nat) (v : Word) : (setR s a v).ecc = s.ecc := rfl
@[simp] theorem setR_foreignDirty (s : State) (a : Nat) (v : Word) : (setR s a v).foreignDirty = s.foreignDirty := rfl
@[simp] theorem setR_scrubWant (s : State) (a : Nat) (v : Word) : (setR s a v).scrubWant = s.scrubWant := rfl
@[simp] theorem setR_patrol (s : State) (a : Nat) (v : Word) : (setR s a v).patrol = s.patrol := rfl
@[simp] theorem setR_tiles (s : State) (a : Nat) (v : Word) : (setR s a v).tiles = s.tiles := rfl
@[simp] theorem setR_advances (s : State) (a : Nat) (v : Word) : (setR s a v).advances = s.advances := rfl
@[simp] theorem setR_plan (s : State) (a : Nat) (v : Word) : (setR s a v).plan = s.plan := rfl
@[simp] theorem setR_sched (s : State) (a : Nat) (v : Word) : (setR s a v).sched = s.sched := rfl
@[simp] theorem setR_ctxs (s : State) (a : Nat) (v : Word) : (setR s a v).ctxs = s.ctxs := rfl
@[simp] theorem setR_parts (s : State) (a : Nat) (v : Word) : (setR s a v).parts = s.parts := rfl
@[simp] theorem setR_pairs (s : State) (a : Nat) (v : Word) : (setR s a v).pairs = s.pairs := rfl
@[simp] theorem setR_alloc (s : State) (a : Nat) (v : Word) : (setR s a v).alloc = s.alloc := rfl
@[simp] theorem setR_wc (s : State) (a : Nat) (v : Word) : (setR s a v).wc = s.wc := rfl
@[simp] theorem setR_errLog (s : State) (a : Nat) (v : Word) : (setR s a v).errLog = s.errLog := rfl
@[simp] theorem setR_errSeq (s : State) (a : Nat) (v : Word) : (setR s a v).errSeq = s.errSeq := rfl
@[simp] theorem setR_time (s : State) (a : Nat) (v : Word) : (setR s a v).time = s.time := rfl
@[simp] theorem setR_safe (s : State) (a : Nat) (v : Word) : (setR s a v).safe = s.safe := rfl
@[simp] theorem setR_power (s : State) (a : Nat) (v : Word) : (setR s a v).power = s.power := rfl
@[simp] theorem setR_carriers (s : State) (a : Nat) (v : Word) : (setR s a v).carriers = s.carriers := rfl
@[simp] theorem setR_coding (s : State) (a : Nat) (v : Word) : (setR s a v).coding = s.coding := rfl
@[simp] theorem setR_net (s : State) (a : Nat) (v : Word) : (setR s a v).net = s.net := rfl
@[simp] theorem setR_peer (s : State) (a : Nat) (v : Word) : (setR s a v).peer = s.peer := rfl
@[simp] theorem setR_boot (s : State) (a : Nat) (v : Word) : (setR s a v).boot = s.boot := rfl
@[simp] theorem setR_otp (s : State) (a : Nat) (v : Word) : (setR s a v).otp = s.otp := rfl
@[simp] theorem setR_sec (s : State) (a : Nat) (v : Word) : (setR s a v).sec = s.sec := rfl
@[simp] theorem setR_flash (s : State) (a : Nat) (v : Word) : (setR s a v).flash = s.flash := rfl
@[simp] theorem setR_host (s : State) (a : Nat) (v : Word) : (setR s a v).host = s.host := rfl

/-! #### setF -/

@[simp] theorem setF_pending (s : State) (a hi lo x : Nat) : (setF s a hi lo x).pending = s.pending := rfl
@[simp] theorem setF_freeCtr (s : State) (a hi lo x : Nat) : (setF s a hi lo x).freeCtr = s.freeCtr := rfl
@[simp] theorem setF_now (s : State) (a hi lo x : Nat) : (setF s a hi lo x).now = s.now := rfl
@[simp] theorem setF_mem (s : State) (a hi lo x : Nat) : (setF s a hi lo x).mem = s.mem := rfl
@[simp] theorem setF_ecc (s : State) (a hi lo x : Nat) : (setF s a hi lo x).ecc = s.ecc := rfl
@[simp] theorem setF_foreignDirty (s : State) (a hi lo x : Nat) : (setF s a hi lo x).foreignDirty = s.foreignDirty := rfl
@[simp] theorem setF_scrubWant (s : State) (a hi lo x : Nat) : (setF s a hi lo x).scrubWant = s.scrubWant := rfl
@[simp] theorem setF_patrol (s : State) (a hi lo x : Nat) : (setF s a hi lo x).patrol = s.patrol := rfl
@[simp] theorem setF_tiles (s : State) (a hi lo x : Nat) : (setF s a hi lo x).tiles = s.tiles := rfl
@[simp] theorem setF_advances (s : State) (a hi lo x : Nat) : (setF s a hi lo x).advances = s.advances := rfl
@[simp] theorem setF_plan (s : State) (a hi lo x : Nat) : (setF s a hi lo x).plan = s.plan := rfl
@[simp] theorem setF_sched (s : State) (a hi lo x : Nat) : (setF s a hi lo x).sched = s.sched := rfl
@[simp] theorem setF_ctxs (s : State) (a hi lo x : Nat) : (setF s a hi lo x).ctxs = s.ctxs := rfl
@[simp] theorem setF_parts (s : State) (a hi lo x : Nat) : (setF s a hi lo x).parts = s.parts := rfl
@[simp] theorem setF_pairs (s : State) (a hi lo x : Nat) : (setF s a hi lo x).pairs = s.pairs := rfl
@[simp] theorem setF_alloc (s : State) (a hi lo x : Nat) : (setF s a hi lo x).alloc = s.alloc := rfl
@[simp] theorem setF_wc (s : State) (a hi lo x : Nat) : (setF s a hi lo x).wc = s.wc := rfl
@[simp] theorem setF_errLog (s : State) (a hi lo x : Nat) : (setF s a hi lo x).errLog = s.errLog := rfl
@[simp] theorem setF_errSeq (s : State) (a hi lo x : Nat) : (setF s a hi lo x).errSeq = s.errSeq := rfl
@[simp] theorem setF_time (s : State) (a hi lo x : Nat) : (setF s a hi lo x).time = s.time := rfl
@[simp] theorem setF_safe (s : State) (a hi lo x : Nat) : (setF s a hi lo x).safe = s.safe := rfl
@[simp] theorem setF_power (s : State) (a hi lo x : Nat) : (setF s a hi lo x).power = s.power := rfl
@[simp] theorem setF_carriers (s : State) (a hi lo x : Nat) : (setF s a hi lo x).carriers = s.carriers := rfl
@[simp] theorem setF_coding (s : State) (a hi lo x : Nat) : (setF s a hi lo x).coding = s.coding := rfl
@[simp] theorem setF_net (s : State) (a hi lo x : Nat) : (setF s a hi lo x).net = s.net := rfl
@[simp] theorem setF_peer (s : State) (a hi lo x : Nat) : (setF s a hi lo x).peer = s.peer := rfl
@[simp] theorem setF_boot (s : State) (a hi lo x : Nat) : (setF s a hi lo x).boot = s.boot := rfl
@[simp] theorem setF_otp (s : State) (a hi lo x : Nat) : (setF s a hi lo x).otp = s.otp := rfl
@[simp] theorem setF_sec (s : State) (a hi lo x : Nat) : (setF s a hi lo x).sec = s.sec := rfl
@[simp] theorem setF_flash (s : State) (a hi lo x : Nat) : (setF s a hi lo x).flash = s.flash := rfl
@[simp] theorem setF_host (s : State) (a hi lo x : Nat) : (setF s a hi lo x).host = s.host := rfl

/-! #### setBitR -/

@[simp] theorem setBitR_pending (s : State) (a i : Nat) (b : Bool) : (setBitR s a i b).pending = s.pending := rfl
@[simp] theorem setBitR_freeCtr (s : State) (a i : Nat) (b : Bool) : (setBitR s a i b).freeCtr = s.freeCtr := rfl
@[simp] theorem setBitR_now (s : State) (a i : Nat) (b : Bool) : (setBitR s a i b).now = s.now := rfl
@[simp] theorem setBitR_mem (s : State) (a i : Nat) (b : Bool) : (setBitR s a i b).mem = s.mem := rfl
@[simp] theorem setBitR_ecc (s : State) (a i : Nat) (b : Bool) : (setBitR s a i b).ecc = s.ecc := rfl
@[simp] theorem setBitR_foreignDirty (s : State) (a i : Nat) (b : Bool) : (setBitR s a i b).foreignDirty = s.foreignDirty := rfl
@[simp] theorem setBitR_scrubWant (s : State) (a i : Nat) (b : Bool) : (setBitR s a i b).scrubWant = s.scrubWant := rfl
@[simp] theorem setBitR_patrol (s : State) (a i : Nat) (b : Bool) : (setBitR s a i b).patrol = s.patrol := rfl
@[simp] theorem setBitR_tiles (s : State) (a i : Nat) (b : Bool) : (setBitR s a i b).tiles = s.tiles := rfl
@[simp] theorem setBitR_advances (s : State) (a i : Nat) (b : Bool) : (setBitR s a i b).advances = s.advances := rfl
@[simp] theorem setBitR_plan (s : State) (a i : Nat) (b : Bool) : (setBitR s a i b).plan = s.plan := rfl
@[simp] theorem setBitR_sched (s : State) (a i : Nat) (b : Bool) : (setBitR s a i b).sched = s.sched := rfl
@[simp] theorem setBitR_ctxs (s : State) (a i : Nat) (b : Bool) : (setBitR s a i b).ctxs = s.ctxs := rfl
@[simp] theorem setBitR_parts (s : State) (a i : Nat) (b : Bool) : (setBitR s a i b).parts = s.parts := rfl
@[simp] theorem setBitR_pairs (s : State) (a i : Nat) (b : Bool) : (setBitR s a i b).pairs = s.pairs := rfl
@[simp] theorem setBitR_alloc (s : State) (a i : Nat) (b : Bool) : (setBitR s a i b).alloc = s.alloc := rfl
@[simp] theorem setBitR_wc (s : State) (a i : Nat) (b : Bool) : (setBitR s a i b).wc = s.wc := rfl
@[simp] theorem setBitR_errLog (s : State) (a i : Nat) (b : Bool) : (setBitR s a i b).errLog = s.errLog := rfl
@[simp] theorem setBitR_errSeq (s : State) (a i : Nat) (b : Bool) : (setBitR s a i b).errSeq = s.errSeq := rfl
@[simp] theorem setBitR_time (s : State) (a i : Nat) (b : Bool) : (setBitR s a i b).time = s.time := rfl
@[simp] theorem setBitR_safe (s : State) (a i : Nat) (b : Bool) : (setBitR s a i b).safe = s.safe := rfl
@[simp] theorem setBitR_power (s : State) (a i : Nat) (b : Bool) : (setBitR s a i b).power = s.power := rfl
@[simp] theorem setBitR_carriers (s : State) (a i : Nat) (b : Bool) : (setBitR s a i b).carriers = s.carriers := rfl
@[simp] theorem setBitR_coding (s : State) (a i : Nat) (b : Bool) : (setBitR s a i b).coding = s.coding := rfl
@[simp] theorem setBitR_net (s : State) (a i : Nat) (b : Bool) : (setBitR s a i b).net = s.net := rfl
@[simp] theorem setBitR_peer (s : State) (a i : Nat) (b : Bool) : (setBitR s a i b).peer = s.peer := rfl
@[simp] theorem setBitR_boot (s : State) (a i : Nat) (b : Bool) : (setBitR s a i b).boot = s.boot := rfl
@[simp] theorem setBitR_otp (s : State) (a i : Nat) (b : Bool) : (setBitR s a i b).otp = s.otp := rfl
@[simp] theorem setBitR_sec (s : State) (a i : Nat) (b : Bool) : (setBitR s a i b).sec = s.sec := rfl
@[simp] theorem setBitR_flash (s : State) (a i : Nat) (b : Bool) : (setBitR s a i b).flash = s.flash := rfl
@[simp] theorem setBitR_host (s : State) (a i : Nat) (b : Bool) : (setBitR s a i b).host = s.host := rfl

/-! #### flag -/

@[simp] theorem flag_pending (s : State) (a i : Nat) : (flag s a i).pending = s.pending := rfl
@[simp] theorem flag_freeCtr (s : State) (a i : Nat) : (flag s a i).freeCtr = s.freeCtr := rfl
@[simp] theorem flag_now (s : State) (a i : Nat) : (flag s a i).now = s.now := rfl
@[simp] theorem flag_mem (s : State) (a i : Nat) : (flag s a i).mem = s.mem := rfl
@[simp] theorem flag_ecc (s : State) (a i : Nat) : (flag s a i).ecc = s.ecc := rfl
@[simp] theorem flag_foreignDirty (s : State) (a i : Nat) : (flag s a i).foreignDirty = s.foreignDirty := rfl
@[simp] theorem flag_scrubWant (s : State) (a i : Nat) : (flag s a i).scrubWant = s.scrubWant := rfl
@[simp] theorem flag_patrol (s : State) (a i : Nat) : (flag s a i).patrol = s.patrol := rfl
@[simp] theorem flag_tiles (s : State) (a i : Nat) : (flag s a i).tiles = s.tiles := rfl
@[simp] theorem flag_advances (s : State) (a i : Nat) : (flag s a i).advances = s.advances := rfl
@[simp] theorem flag_plan (s : State) (a i : Nat) : (flag s a i).plan = s.plan := rfl
@[simp] theorem flag_sched (s : State) (a i : Nat) : (flag s a i).sched = s.sched := rfl
@[simp] theorem flag_ctxs (s : State) (a i : Nat) : (flag s a i).ctxs = s.ctxs := rfl
@[simp] theorem flag_parts (s : State) (a i : Nat) : (flag s a i).parts = s.parts := rfl
@[simp] theorem flag_pairs (s : State) (a i : Nat) : (flag s a i).pairs = s.pairs := rfl
@[simp] theorem flag_alloc (s : State) (a i : Nat) : (flag s a i).alloc = s.alloc := rfl
@[simp] theorem flag_wc (s : State) (a i : Nat) : (flag s a i).wc = s.wc := rfl
@[simp] theorem flag_errLog (s : State) (a i : Nat) : (flag s a i).errLog = s.errLog := rfl
@[simp] theorem flag_errSeq (s : State) (a i : Nat) : (flag s a i).errSeq = s.errSeq := rfl
@[simp] theorem flag_time (s : State) (a i : Nat) : (flag s a i).time = s.time := rfl
@[simp] theorem flag_safe (s : State) (a i : Nat) : (flag s a i).safe = s.safe := rfl
@[simp] theorem flag_power (s : State) (a i : Nat) : (flag s a i).power = s.power := rfl
@[simp] theorem flag_carriers (s : State) (a i : Nat) : (flag s a i).carriers = s.carriers := rfl
@[simp] theorem flag_coding (s : State) (a i : Nat) : (flag s a i).coding = s.coding := rfl
@[simp] theorem flag_net (s : State) (a i : Nat) : (flag s a i).net = s.net := rfl
@[simp] theorem flag_peer (s : State) (a i : Nat) : (flag s a i).peer = s.peer := rfl
@[simp] theorem flag_boot (s : State) (a i : Nat) : (flag s a i).boot = s.boot := rfl
@[simp] theorem flag_otp (s : State) (a i : Nat) : (flag s a i).otp = s.otp := rfl
@[simp] theorem flag_sec (s : State) (a i : Nat) : (flag s a i).sec = s.sec := rfl
@[simp] theorem flag_flash (s : State) (a i : Nat) : (flag s a i).flash = s.flash := rfl
@[simp] theorem flag_host (s : State) (a i : Nat) : (flag s a i).host = s.host := rfl

/-! #### flagIf -/

@[simp] theorem flagIf_pending (s : State) (b : Bool) (a i : Nat) : (flagIf s b a i).pending = s.pending := by cases b <;> rfl
@[simp] theorem flagIf_freeCtr (s : State) (b : Bool) (a i : Nat) : (flagIf s b a i).freeCtr = s.freeCtr := by cases b <;> rfl
@[simp] theorem flagIf_now (s : State) (b : Bool) (a i : Nat) : (flagIf s b a i).now = s.now := by cases b <;> rfl
@[simp] theorem flagIf_mem (s : State) (b : Bool) (a i : Nat) : (flagIf s b a i).mem = s.mem := by cases b <;> rfl
@[simp] theorem flagIf_ecc (s : State) (b : Bool) (a i : Nat) : (flagIf s b a i).ecc = s.ecc := by cases b <;> rfl
@[simp] theorem flagIf_foreignDirty (s : State) (b : Bool) (a i : Nat) : (flagIf s b a i).foreignDirty = s.foreignDirty := by cases b <;> rfl
@[simp] theorem flagIf_scrubWant (s : State) (b : Bool) (a i : Nat) : (flagIf s b a i).scrubWant = s.scrubWant := by cases b <;> rfl
@[simp] theorem flagIf_patrol (s : State) (b : Bool) (a i : Nat) : (flagIf s b a i).patrol = s.patrol := by cases b <;> rfl
@[simp] theorem flagIf_tiles (s : State) (b : Bool) (a i : Nat) : (flagIf s b a i).tiles = s.tiles := by cases b <;> rfl
@[simp] theorem flagIf_advances (s : State) (b : Bool) (a i : Nat) : (flagIf s b a i).advances = s.advances := by cases b <;> rfl
@[simp] theorem flagIf_plan (s : State) (b : Bool) (a i : Nat) : (flagIf s b a i).plan = s.plan := by cases b <;> rfl
@[simp] theorem flagIf_sched (s : State) (b : Bool) (a i : Nat) : (flagIf s b a i).sched = s.sched := by cases b <;> rfl
@[simp] theorem flagIf_ctxs (s : State) (b : Bool) (a i : Nat) : (flagIf s b a i).ctxs = s.ctxs := by cases b <;> rfl
@[simp] theorem flagIf_parts (s : State) (b : Bool) (a i : Nat) : (flagIf s b a i).parts = s.parts := by cases b <;> rfl
@[simp] theorem flagIf_pairs (s : State) (b : Bool) (a i : Nat) : (flagIf s b a i).pairs = s.pairs := by cases b <;> rfl
@[simp] theorem flagIf_alloc (s : State) (b : Bool) (a i : Nat) : (flagIf s b a i).alloc = s.alloc := by cases b <;> rfl
@[simp] theorem flagIf_wc (s : State) (b : Bool) (a i : Nat) : (flagIf s b a i).wc = s.wc := by cases b <;> rfl
@[simp] theorem flagIf_errLog (s : State) (b : Bool) (a i : Nat) : (flagIf s b a i).errLog = s.errLog := by cases b <;> rfl
@[simp] theorem flagIf_errSeq (s : State) (b : Bool) (a i : Nat) : (flagIf s b a i).errSeq = s.errSeq := by cases b <;> rfl
@[simp] theorem flagIf_time (s : State) (b : Bool) (a i : Nat) : (flagIf s b a i).time = s.time := by cases b <;> rfl
@[simp] theorem flagIf_safe (s : State) (b : Bool) (a i : Nat) : (flagIf s b a i).safe = s.safe := by cases b <;> rfl
@[simp] theorem flagIf_power (s : State) (b : Bool) (a i : Nat) : (flagIf s b a i).power = s.power := by cases b <;> rfl
@[simp] theorem flagIf_carriers (s : State) (b : Bool) (a i : Nat) : (flagIf s b a i).carriers = s.carriers := by cases b <;> rfl
@[simp] theorem flagIf_coding (s : State) (b : Bool) (a i : Nat) : (flagIf s b a i).coding = s.coding := by cases b <;> rfl
@[simp] theorem flagIf_net (s : State) (b : Bool) (a i : Nat) : (flagIf s b a i).net = s.net := by cases b <;> rfl
@[simp] theorem flagIf_peer (s : State) (b : Bool) (a i : Nat) : (flagIf s b a i).peer = s.peer := by cases b <;> rfl
@[simp] theorem flagIf_boot (s : State) (b : Bool) (a i : Nat) : (flagIf s b a i).boot = s.boot := by cases b <;> rfl
@[simp] theorem flagIf_otp (s : State) (b : Bool) (a i : Nat) : (flagIf s b a i).otp = s.otp := by cases b <;> rfl
@[simp] theorem flagIf_sec (s : State) (b : Bool) (a i : Nat) : (flagIf s b a i).sec = s.sec := by cases b <;> rfl
@[simp] theorem flagIf_flash (s : State) (b : Bool) (a i : Nat) : (flagIf s b a i).flash = s.flash := by cases b <;> rfl
@[simp] theorem flagIf_host (s : State) (b : Bool) (a i : Nat) : (flagIf s b a i).host = s.host := by cases b <;> rfl

/-! #### incR -/

@[simp] theorem incR_pending (s : State) (a n : Nat) : (incR s a n).pending = s.pending := rfl
@[simp] theorem incR_freeCtr (s : State) (a n : Nat) : (incR s a n).freeCtr = s.freeCtr := rfl
@[simp] theorem incR_now (s : State) (a n : Nat) : (incR s a n).now = s.now := rfl
@[simp] theorem incR_mem (s : State) (a n : Nat) : (incR s a n).mem = s.mem := rfl
@[simp] theorem incR_ecc (s : State) (a n : Nat) : (incR s a n).ecc = s.ecc := rfl
@[simp] theorem incR_foreignDirty (s : State) (a n : Nat) : (incR s a n).foreignDirty = s.foreignDirty := rfl
@[simp] theorem incR_scrubWant (s : State) (a n : Nat) : (incR s a n).scrubWant = s.scrubWant := rfl
@[simp] theorem incR_patrol (s : State) (a n : Nat) : (incR s a n).patrol = s.patrol := rfl
@[simp] theorem incR_tiles (s : State) (a n : Nat) : (incR s a n).tiles = s.tiles := rfl
@[simp] theorem incR_advances (s : State) (a n : Nat) : (incR s a n).advances = s.advances := rfl
@[simp] theorem incR_plan (s : State) (a n : Nat) : (incR s a n).plan = s.plan := rfl
@[simp] theorem incR_sched (s : State) (a n : Nat) : (incR s a n).sched = s.sched := rfl
@[simp] theorem incR_ctxs (s : State) (a n : Nat) : (incR s a n).ctxs = s.ctxs := rfl
@[simp] theorem incR_parts (s : State) (a n : Nat) : (incR s a n).parts = s.parts := rfl
@[simp] theorem incR_pairs (s : State) (a n : Nat) : (incR s a n).pairs = s.pairs := rfl
@[simp] theorem incR_alloc (s : State) (a n : Nat) : (incR s a n).alloc = s.alloc := rfl
@[simp] theorem incR_wc (s : State) (a n : Nat) : (incR s a n).wc = s.wc := rfl
@[simp] theorem incR_errLog (s : State) (a n : Nat) : (incR s a n).errLog = s.errLog := rfl
@[simp] theorem incR_errSeq (s : State) (a n : Nat) : (incR s a n).errSeq = s.errSeq := rfl
@[simp] theorem incR_time (s : State) (a n : Nat) : (incR s a n).time = s.time := rfl
@[simp] theorem incR_safe (s : State) (a n : Nat) : (incR s a n).safe = s.safe := rfl
@[simp] theorem incR_power (s : State) (a n : Nat) : (incR s a n).power = s.power := rfl
@[simp] theorem incR_carriers (s : State) (a n : Nat) : (incR s a n).carriers = s.carriers := rfl
@[simp] theorem incR_coding (s : State) (a n : Nat) : (incR s a n).coding = s.coding := rfl
@[simp] theorem incR_net (s : State) (a n : Nat) : (incR s a n).net = s.net := rfl
@[simp] theorem incR_peer (s : State) (a n : Nat) : (incR s a n).peer = s.peer := rfl
@[simp] theorem incR_boot (s : State) (a n : Nat) : (incR s a n).boot = s.boot := rfl
@[simp] theorem incR_otp (s : State) (a n : Nat) : (incR s a n).otp = s.otp := rfl
@[simp] theorem incR_sec (s : State) (a n : Nat) : (incR s a n).sec = s.sec := rfl
@[simp] theorem incR_flash (s : State) (a n : Nat) : (incR s a n).flash = s.flash := rfl
@[simp] theorem incR_host (s : State) (a n : Nat) : (incR s a n).host = s.host := rfl

/-! #### setN64 -/

@[simp] theorem setN64_pending (s : State) (lo hi x : Nat) : (setN64 s lo hi x).pending = s.pending := rfl
@[simp] theorem setN64_freeCtr (s : State) (lo hi x : Nat) : (setN64 s lo hi x).freeCtr = s.freeCtr := rfl
@[simp] theorem setN64_now (s : State) (lo hi x : Nat) : (setN64 s lo hi x).now = s.now := rfl
@[simp] theorem setN64_mem (s : State) (lo hi x : Nat) : (setN64 s lo hi x).mem = s.mem := rfl
@[simp] theorem setN64_ecc (s : State) (lo hi x : Nat) : (setN64 s lo hi x).ecc = s.ecc := rfl
@[simp] theorem setN64_foreignDirty (s : State) (lo hi x : Nat) : (setN64 s lo hi x).foreignDirty = s.foreignDirty := rfl
@[simp] theorem setN64_scrubWant (s : State) (lo hi x : Nat) : (setN64 s lo hi x).scrubWant = s.scrubWant := rfl
@[simp] theorem setN64_patrol (s : State) (lo hi x : Nat) : (setN64 s lo hi x).patrol = s.patrol := rfl
@[simp] theorem setN64_tiles (s : State) (lo hi x : Nat) : (setN64 s lo hi x).tiles = s.tiles := rfl
@[simp] theorem setN64_advances (s : State) (lo hi x : Nat) : (setN64 s lo hi x).advances = s.advances := rfl
@[simp] theorem setN64_plan (s : State) (lo hi x : Nat) : (setN64 s lo hi x).plan = s.plan := rfl
@[simp] theorem setN64_sched (s : State) (lo hi x : Nat) : (setN64 s lo hi x).sched = s.sched := rfl
@[simp] theorem setN64_ctxs (s : State) (lo hi x : Nat) : (setN64 s lo hi x).ctxs = s.ctxs := rfl
@[simp] theorem setN64_parts (s : State) (lo hi x : Nat) : (setN64 s lo hi x).parts = s.parts := rfl
@[simp] theorem setN64_pairs (s : State) (lo hi x : Nat) : (setN64 s lo hi x).pairs = s.pairs := rfl
@[simp] theorem setN64_alloc (s : State) (lo hi x : Nat) : (setN64 s lo hi x).alloc = s.alloc := rfl
@[simp] theorem setN64_wc (s : State) (lo hi x : Nat) : (setN64 s lo hi x).wc = s.wc := rfl
@[simp] theorem setN64_errLog (s : State) (lo hi x : Nat) : (setN64 s lo hi x).errLog = s.errLog := rfl
@[simp] theorem setN64_errSeq (s : State) (lo hi x : Nat) : (setN64 s lo hi x).errSeq = s.errSeq := rfl
@[simp] theorem setN64_time (s : State) (lo hi x : Nat) : (setN64 s lo hi x).time = s.time := rfl
@[simp] theorem setN64_safe (s : State) (lo hi x : Nat) : (setN64 s lo hi x).safe = s.safe := rfl
@[simp] theorem setN64_power (s : State) (lo hi x : Nat) : (setN64 s lo hi x).power = s.power := rfl
@[simp] theorem setN64_carriers (s : State) (lo hi x : Nat) : (setN64 s lo hi x).carriers = s.carriers := rfl
@[simp] theorem setN64_coding (s : State) (lo hi x : Nat) : (setN64 s lo hi x).coding = s.coding := rfl
@[simp] theorem setN64_net (s : State) (lo hi x : Nat) : (setN64 s lo hi x).net = s.net := rfl
@[simp] theorem setN64_peer (s : State) (lo hi x : Nat) : (setN64 s lo hi x).peer = s.peer := rfl
@[simp] theorem setN64_boot (s : State) (lo hi x : Nat) : (setN64 s lo hi x).boot = s.boot := rfl
@[simp] theorem setN64_otp (s : State) (lo hi x : Nat) : (setN64 s lo hi x).otp = s.otp := rfl
@[simp] theorem setN64_sec (s : State) (lo hi x : Nat) : (setN64 s lo hi x).sec = s.sec := rfl
@[simp] theorem setN64_flash (s : State) (lo hi x : Nat) : (setN64 s lo hi x).flash = s.flash := rfl
@[simp] theorem setN64_host (s : State) (lo hi x : Nat) : (setN64 s lo hi x).host = s.host := rfl

/-! #### incR64 -/

@[simp] theorem incR64_pending (s : State) (lo hi n : Nat) : (incR64 s lo hi n).pending = s.pending := rfl
@[simp] theorem incR64_freeCtr (s : State) (lo hi n : Nat) : (incR64 s lo hi n).freeCtr = s.freeCtr := rfl
@[simp] theorem incR64_now (s : State) (lo hi n : Nat) : (incR64 s lo hi n).now = s.now := rfl
@[simp] theorem incR64_mem (s : State) (lo hi n : Nat) : (incR64 s lo hi n).mem = s.mem := rfl
@[simp] theorem incR64_ecc (s : State) (lo hi n : Nat) : (incR64 s lo hi n).ecc = s.ecc := rfl
@[simp] theorem incR64_foreignDirty (s : State) (lo hi n : Nat) : (incR64 s lo hi n).foreignDirty = s.foreignDirty := rfl
@[simp] theorem incR64_scrubWant (s : State) (lo hi n : Nat) : (incR64 s lo hi n).scrubWant = s.scrubWant := rfl
@[simp] theorem incR64_patrol (s : State) (lo hi n : Nat) : (incR64 s lo hi n).patrol = s.patrol := rfl
@[simp] theorem incR64_tiles (s : State) (lo hi n : Nat) : (incR64 s lo hi n).tiles = s.tiles := rfl
@[simp] theorem incR64_advances (s : State) (lo hi n : Nat) : (incR64 s lo hi n).advances = s.advances := rfl
@[simp] theorem incR64_plan (s : State) (lo hi n : Nat) : (incR64 s lo hi n).plan = s.plan := rfl
@[simp] theorem incR64_sched (s : State) (lo hi n : Nat) : (incR64 s lo hi n).sched = s.sched := rfl
@[simp] theorem incR64_ctxs (s : State) (lo hi n : Nat) : (incR64 s lo hi n).ctxs = s.ctxs := rfl
@[simp] theorem incR64_parts (s : State) (lo hi n : Nat) : (incR64 s lo hi n).parts = s.parts := rfl
@[simp] theorem incR64_pairs (s : State) (lo hi n : Nat) : (incR64 s lo hi n).pairs = s.pairs := rfl
@[simp] theorem incR64_alloc (s : State) (lo hi n : Nat) : (incR64 s lo hi n).alloc = s.alloc := rfl
@[simp] theorem incR64_wc (s : State) (lo hi n : Nat) : (incR64 s lo hi n).wc = s.wc := rfl
@[simp] theorem incR64_errLog (s : State) (lo hi n : Nat) : (incR64 s lo hi n).errLog = s.errLog := rfl
@[simp] theorem incR64_errSeq (s : State) (lo hi n : Nat) : (incR64 s lo hi n).errSeq = s.errSeq := rfl
@[simp] theorem incR64_time (s : State) (lo hi n : Nat) : (incR64 s lo hi n).time = s.time := rfl
@[simp] theorem incR64_safe (s : State) (lo hi n : Nat) : (incR64 s lo hi n).safe = s.safe := rfl
@[simp] theorem incR64_power (s : State) (lo hi n : Nat) : (incR64 s lo hi n).power = s.power := rfl
@[simp] theorem incR64_carriers (s : State) (lo hi n : Nat) : (incR64 s lo hi n).carriers = s.carriers := rfl
@[simp] theorem incR64_coding (s : State) (lo hi n : Nat) : (incR64 s lo hi n).coding = s.coding := rfl
@[simp] theorem incR64_net (s : State) (lo hi n : Nat) : (incR64 s lo hi n).net = s.net := rfl
@[simp] theorem incR64_peer (s : State) (lo hi n : Nat) : (incR64 s lo hi n).peer = s.peer := rfl
@[simp] theorem incR64_boot (s : State) (lo hi n : Nat) : (incR64 s lo hi n).boot = s.boot := rfl
@[simp] theorem incR64_otp (s : State) (lo hi n : Nat) : (incR64 s lo hi n).otp = s.otp := rfl
@[simp] theorem incR64_sec (s : State) (lo hi n : Nat) : (incR64 s lo hi n).sec = s.sec := rfl
@[simp] theorem incR64_flash (s : State) (lo hi n : Nat) : (incR64 s lo hi n).flash = s.flash := rfl
@[simp] theorem incR64_host (s : State) (lo hi n : Nat) : (incR64 s lo hi n).host = s.host := rfl

/-! #### reservedWrite -/

@[simp] theorem reservedWrite_pending (s : State) : (reservedWrite s).pending = s.pending := rfl
@[simp] theorem reservedWrite_freeCtr (s : State) : (reservedWrite s).freeCtr = s.freeCtr := rfl
@[simp] theorem reservedWrite_now (s : State) : (reservedWrite s).now = s.now := rfl
@[simp] theorem reservedWrite_mem (s : State) : (reservedWrite s).mem = s.mem := rfl
@[simp] theorem reservedWrite_ecc (s : State) : (reservedWrite s).ecc = s.ecc := rfl
@[simp] theorem reservedWrite_foreignDirty (s : State) : (reservedWrite s).foreignDirty = s.foreignDirty := rfl
@[simp] theorem reservedWrite_scrubWant (s : State) : (reservedWrite s).scrubWant = s.scrubWant := rfl
@[simp] theorem reservedWrite_patrol (s : State) : (reservedWrite s).patrol = s.patrol := rfl
@[simp] theorem reservedWrite_tiles (s : State) : (reservedWrite s).tiles = s.tiles := rfl
@[simp] theorem reservedWrite_advances (s : State) : (reservedWrite s).advances = s.advances := rfl
@[simp] theorem reservedWrite_plan (s : State) : (reservedWrite s).plan = s.plan := rfl
@[simp] theorem reservedWrite_sched (s : State) : (reservedWrite s).sched = s.sched := rfl
@[simp] theorem reservedWrite_ctxs (s : State) : (reservedWrite s).ctxs = s.ctxs := rfl
@[simp] theorem reservedWrite_parts (s : State) : (reservedWrite s).parts = s.parts := rfl
@[simp] theorem reservedWrite_pairs (s : State) : (reservedWrite s).pairs = s.pairs := rfl
@[simp] theorem reservedWrite_alloc (s : State) : (reservedWrite s).alloc = s.alloc := rfl
@[simp] theorem reservedWrite_wc (s : State) : (reservedWrite s).wc = s.wc := rfl
@[simp] theorem reservedWrite_errLog (s : State) : (reservedWrite s).errLog = s.errLog := rfl
@[simp] theorem reservedWrite_errSeq (s : State) : (reservedWrite s).errSeq = s.errSeq := rfl
@[simp] theorem reservedWrite_time (s : State) : (reservedWrite s).time = s.time := rfl
@[simp] theorem reservedWrite_safe (s : State) : (reservedWrite s).safe = s.safe := rfl
@[simp] theorem reservedWrite_power (s : State) : (reservedWrite s).power = s.power := rfl
@[simp] theorem reservedWrite_carriers (s : State) : (reservedWrite s).carriers = s.carriers := rfl
@[simp] theorem reservedWrite_coding (s : State) : (reservedWrite s).coding = s.coding := rfl
@[simp] theorem reservedWrite_net (s : State) : (reservedWrite s).net = s.net := rfl
@[simp] theorem reservedWrite_peer (s : State) : (reservedWrite s).peer = s.peer := rfl
@[simp] theorem reservedWrite_boot (s : State) : (reservedWrite s).boot = s.boot := rfl
@[simp] theorem reservedWrite_otp (s : State) : (reservedWrite s).otp = s.otp := rfl
@[simp] theorem reservedWrite_sec (s : State) : (reservedWrite s).sec = s.sec := rfl
@[simp] theorem reservedWrite_flash (s : State) : (reservedWrite s).flash = s.flash := rfl
@[simp] theorem reservedWrite_host (s : State) : (reservedWrite s).host = s.host := rfl

/-! #### countError -/

@[simp] theorem countError_pending (s : State) (n : Nat) : (countError s n).pending = s.pending := rfl
@[simp] theorem countError_freeCtr (s : State) (n : Nat) : (countError s n).freeCtr = s.freeCtr := rfl
@[simp] theorem countError_now (s : State) (n : Nat) : (countError s n).now = s.now := rfl
@[simp] theorem countError_mem (s : State) (n : Nat) : (countError s n).mem = s.mem := rfl
@[simp] theorem countError_ecc (s : State) (n : Nat) : (countError s n).ecc = s.ecc := rfl
@[simp] theorem countError_foreignDirty (s : State) (n : Nat) : (countError s n).foreignDirty = s.foreignDirty := rfl
@[simp] theorem countError_scrubWant (s : State) (n : Nat) : (countError s n).scrubWant = s.scrubWant := rfl
@[simp] theorem countError_patrol (s : State) (n : Nat) : (countError s n).patrol = s.patrol := rfl
@[simp] theorem countError_tiles (s : State) (n : Nat) : (countError s n).tiles = s.tiles := rfl
@[simp] theorem countError_advances (s : State) (n : Nat) : (countError s n).advances = s.advances := rfl
@[simp] theorem countError_plan (s : State) (n : Nat) : (countError s n).plan = s.plan := rfl
@[simp] theorem countError_sched (s : State) (n : Nat) : (countError s n).sched = s.sched := rfl
@[simp] theorem countError_ctxs (s : State) (n : Nat) : (countError s n).ctxs = s.ctxs := rfl
@[simp] theorem countError_parts (s : State) (n : Nat) : (countError s n).parts = s.parts := rfl
@[simp] theorem countError_pairs (s : State) (n : Nat) : (countError s n).pairs = s.pairs := rfl
@[simp] theorem countError_alloc (s : State) (n : Nat) : (countError s n).alloc = s.alloc := rfl
@[simp] theorem countError_wc (s : State) (n : Nat) : (countError s n).wc = s.wc := rfl
@[simp] theorem countError_errLog (s : State) (n : Nat) : (countError s n).errLog = s.errLog := rfl
@[simp] theorem countError_errSeq (s : State) (n : Nat) : (countError s n).errSeq = s.errSeq := rfl
@[simp] theorem countError_time (s : State) (n : Nat) : (countError s n).time = s.time := rfl
@[simp] theorem countError_safe (s : State) (n : Nat) : (countError s n).safe = s.safe := rfl
@[simp] theorem countError_power (s : State) (n : Nat) : (countError s n).power = s.power := rfl
@[simp] theorem countError_carriers (s : State) (n : Nat) : (countError s n).carriers = s.carriers := rfl
@[simp] theorem countError_coding (s : State) (n : Nat) : (countError s n).coding = s.coding := rfl
@[simp] theorem countError_net (s : State) (n : Nat) : (countError s n).net = s.net := rfl
@[simp] theorem countError_peer (s : State) (n : Nat) : (countError s n).peer = s.peer := rfl
@[simp] theorem countError_boot (s : State) (n : Nat) : (countError s n).boot = s.boot := rfl
@[simp] theorem countError_otp (s : State) (n : Nat) : (countError s n).otp = s.otp := rfl
@[simp] theorem countError_sec (s : State) (n : Nat) : (countError s n).sec = s.sec := rfl
@[simp] theorem countError_flash (s : State) (n : Nat) : (countError s n).flash = s.flash := rfl
@[simp] theorem countError_host (s : State) (n : Nat) : (countError s n).host = s.host := rfl

/-! #### setBytes -/

@[simp] theorem setBytes_pending (s : State) (a : Nat) (l : List Byte) : (setBytes s a l).pending = s.pending := rfl
@[simp] theorem setBytes_freeCtr (s : State) (a : Nat) (l : List Byte) : (setBytes s a l).freeCtr = s.freeCtr := rfl
@[simp] theorem setBytes_now (s : State) (a : Nat) (l : List Byte) : (setBytes s a l).now = s.now := rfl
@[simp] theorem setBytes_regs (s : State) (a : Nat) (l : List Byte) : (setBytes s a l).regs = s.regs := rfl
@[simp] theorem setBytes_foreignDirty (s : State) (a : Nat) (l : List Byte) : (setBytes s a l).foreignDirty = s.foreignDirty := rfl
@[simp] theorem setBytes_scrubWant (s : State) (a : Nat) (l : List Byte) : (setBytes s a l).scrubWant = s.scrubWant := rfl
@[simp] theorem setBytes_patrol (s : State) (a : Nat) (l : List Byte) : (setBytes s a l).patrol = s.patrol := rfl
@[simp] theorem setBytes_tiles (s : State) (a : Nat) (l : List Byte) : (setBytes s a l).tiles = s.tiles := rfl
@[simp] theorem setBytes_advances (s : State) (a : Nat) (l : List Byte) : (setBytes s a l).advances = s.advances := rfl
@[simp] theorem setBytes_plan (s : State) (a : Nat) (l : List Byte) : (setBytes s a l).plan = s.plan := rfl
@[simp] theorem setBytes_sched (s : State) (a : Nat) (l : List Byte) : (setBytes s a l).sched = s.sched := rfl
@[simp] theorem setBytes_ctxs (s : State) (a : Nat) (l : List Byte) : (setBytes s a l).ctxs = s.ctxs := rfl
@[simp] theorem setBytes_parts (s : State) (a : Nat) (l : List Byte) : (setBytes s a l).parts = s.parts := rfl
@[simp] theorem setBytes_pairs (s : State) (a : Nat) (l : List Byte) : (setBytes s a l).pairs = s.pairs := rfl
@[simp] theorem setBytes_alloc (s : State) (a : Nat) (l : List Byte) : (setBytes s a l).alloc = s.alloc := rfl
@[simp] theorem setBytes_wc (s : State) (a : Nat) (l : List Byte) : (setBytes s a l).wc = s.wc := rfl
@[simp] theorem setBytes_errLog (s : State) (a : Nat) (l : List Byte) : (setBytes s a l).errLog = s.errLog := rfl
@[simp] theorem setBytes_errSeq (s : State) (a : Nat) (l : List Byte) : (setBytes s a l).errSeq = s.errSeq := rfl
@[simp] theorem setBytes_time (s : State) (a : Nat) (l : List Byte) : (setBytes s a l).time = s.time := rfl
@[simp] theorem setBytes_safe (s : State) (a : Nat) (l : List Byte) : (setBytes s a l).safe = s.safe := rfl
@[simp] theorem setBytes_power (s : State) (a : Nat) (l : List Byte) : (setBytes s a l).power = s.power := rfl
@[simp] theorem setBytes_carriers (s : State) (a : Nat) (l : List Byte) : (setBytes s a l).carriers = s.carriers := rfl
@[simp] theorem setBytes_coding (s : State) (a : Nat) (l : List Byte) : (setBytes s a l).coding = s.coding := rfl
@[simp] theorem setBytes_net (s : State) (a : Nat) (l : List Byte) : (setBytes s a l).net = s.net := rfl
@[simp] theorem setBytes_peer (s : State) (a : Nat) (l : List Byte) : (setBytes s a l).peer = s.peer := rfl
@[simp] theorem setBytes_boot (s : State) (a : Nat) (l : List Byte) : (setBytes s a l).boot = s.boot := rfl
@[simp] theorem setBytes_otp (s : State) (a : Nat) (l : List Byte) : (setBytes s a l).otp = s.otp := rfl
@[simp] theorem setBytes_sec (s : State) (a : Nat) (l : List Byte) : (setBytes s a l).sec = s.sec := rfl
@[simp] theorem setBytes_flash (s : State) (a : Nat) (l : List Byte) : (setBytes s a l).flash = s.flash := rfl
@[simp] theorem setBytes_host (s : State) (a : Nat) (l : List Byte) : (setBytes s a l).host = s.host := rfl

/-! #### setLe -/

@[simp] theorem setLe_pending (s : State) (a n x : Nat) : (setLe s a n x).pending = s.pending := rfl
@[simp] theorem setLe_freeCtr (s : State) (a n x : Nat) : (setLe s a n x).freeCtr = s.freeCtr := rfl
@[simp] theorem setLe_now (s : State) (a n x : Nat) : (setLe s a n x).now = s.now := rfl
@[simp] theorem setLe_regs (s : State) (a n x : Nat) : (setLe s a n x).regs = s.regs := rfl
@[simp] theorem setLe_foreignDirty (s : State) (a n x : Nat) : (setLe s a n x).foreignDirty = s.foreignDirty := rfl
@[simp] theorem setLe_scrubWant (s : State) (a n x : Nat) : (setLe s a n x).scrubWant = s.scrubWant := rfl
@[simp] theorem setLe_patrol (s : State) (a n x : Nat) : (setLe s a n x).patrol = s.patrol := rfl
@[simp] theorem setLe_tiles (s : State) (a n x : Nat) : (setLe s a n x).tiles = s.tiles := rfl
@[simp] theorem setLe_advances (s : State) (a n x : Nat) : (setLe s a n x).advances = s.advances := rfl
@[simp] theorem setLe_plan (s : State) (a n x : Nat) : (setLe s a n x).plan = s.plan := rfl
@[simp] theorem setLe_sched (s : State) (a n x : Nat) : (setLe s a n x).sched = s.sched := rfl
@[simp] theorem setLe_ctxs (s : State) (a n x : Nat) : (setLe s a n x).ctxs = s.ctxs := rfl
@[simp] theorem setLe_parts (s : State) (a n x : Nat) : (setLe s a n x).parts = s.parts := rfl
@[simp] theorem setLe_pairs (s : State) (a n x : Nat) : (setLe s a n x).pairs = s.pairs := rfl
@[simp] theorem setLe_alloc (s : State) (a n x : Nat) : (setLe s a n x).alloc = s.alloc := rfl
@[simp] theorem setLe_wc (s : State) (a n x : Nat) : (setLe s a n x).wc = s.wc := rfl
@[simp] theorem setLe_errLog (s : State) (a n x : Nat) : (setLe s a n x).errLog = s.errLog := rfl
@[simp] theorem setLe_errSeq (s : State) (a n x : Nat) : (setLe s a n x).errSeq = s.errSeq := rfl
@[simp] theorem setLe_time (s : State) (a n x : Nat) : (setLe s a n x).time = s.time := rfl
@[simp] theorem setLe_safe (s : State) (a n x : Nat) : (setLe s a n x).safe = s.safe := rfl
@[simp] theorem setLe_power (s : State) (a n x : Nat) : (setLe s a n x).power = s.power := rfl
@[simp] theorem setLe_carriers (s : State) (a n x : Nat) : (setLe s a n x).carriers = s.carriers := rfl
@[simp] theorem setLe_coding (s : State) (a n x : Nat) : (setLe s a n x).coding = s.coding := rfl
@[simp] theorem setLe_net (s : State) (a n x : Nat) : (setLe s a n x).net = s.net := rfl
@[simp] theorem setLe_peer (s : State) (a n x : Nat) : (setLe s a n x).peer = s.peer := rfl
@[simp] theorem setLe_boot (s : State) (a n x : Nat) : (setLe s a n x).boot = s.boot := rfl
@[simp] theorem setLe_otp (s : State) (a n x : Nat) : (setLe s a n x).otp = s.otp := rfl
@[simp] theorem setLe_sec (s : State) (a n x : Nat) : (setLe s a n x).sec = s.sec := rfl
@[simp] theorem setLe_flash (s : State) (a n x : Nat) : (setLe s a n x).flash = s.flash := rfl
@[simp] theorem setLe_host (s : State) (a n x : Nat) : (setLe s a n x).host = s.host := rfl

/-! #### zeroRange -/

@[simp] theorem zeroRange_pending (s : State) (a n : Nat) : (zeroRange s a n).pending = s.pending := rfl
@[simp] theorem zeroRange_freeCtr (s : State) (a n : Nat) : (zeroRange s a n).freeCtr = s.freeCtr := rfl
@[simp] theorem zeroRange_now (s : State) (a n : Nat) : (zeroRange s a n).now = s.now := rfl
@[simp] theorem zeroRange_regs (s : State) (a n : Nat) : (zeroRange s a n).regs = s.regs := rfl
@[simp] theorem zeroRange_foreignDirty (s : State) (a n : Nat) : (zeroRange s a n).foreignDirty = s.foreignDirty := rfl
@[simp] theorem zeroRange_scrubWant (s : State) (a n : Nat) : (zeroRange s a n).scrubWant = s.scrubWant := rfl
@[simp] theorem zeroRange_patrol (s : State) (a n : Nat) : (zeroRange s a n).patrol = s.patrol := rfl
@[simp] theorem zeroRange_tiles (s : State) (a n : Nat) : (zeroRange s a n).tiles = s.tiles := rfl
@[simp] theorem zeroRange_advances (s : State) (a n : Nat) : (zeroRange s a n).advances = s.advances := rfl
@[simp] theorem zeroRange_plan (s : State) (a n : Nat) : (zeroRange s a n).plan = s.plan := rfl
@[simp] theorem zeroRange_sched (s : State) (a n : Nat) : (zeroRange s a n).sched = s.sched := rfl
@[simp] theorem zeroRange_ctxs (s : State) (a n : Nat) : (zeroRange s a n).ctxs = s.ctxs := rfl
@[simp] theorem zeroRange_parts (s : State) (a n : Nat) : (zeroRange s a n).parts = s.parts := rfl
@[simp] theorem zeroRange_pairs (s : State) (a n : Nat) : (zeroRange s a n).pairs = s.pairs := rfl
@[simp] theorem zeroRange_alloc (s : State) (a n : Nat) : (zeroRange s a n).alloc = s.alloc := rfl
@[simp] theorem zeroRange_wc (s : State) (a n : Nat) : (zeroRange s a n).wc = s.wc := rfl
@[simp] theorem zeroRange_errLog (s : State) (a n : Nat) : (zeroRange s a n).errLog = s.errLog := rfl
@[simp] theorem zeroRange_errSeq (s : State) (a n : Nat) : (zeroRange s a n).errSeq = s.errSeq := rfl
@[simp] theorem zeroRange_time (s : State) (a n : Nat) : (zeroRange s a n).time = s.time := rfl
@[simp] theorem zeroRange_safe (s : State) (a n : Nat) : (zeroRange s a n).safe = s.safe := rfl
@[simp] theorem zeroRange_power (s : State) (a n : Nat) : (zeroRange s a n).power = s.power := rfl
@[simp] theorem zeroRange_carriers (s : State) (a n : Nat) : (zeroRange s a n).carriers = s.carriers := rfl
@[simp] theorem zeroRange_coding (s : State) (a n : Nat) : (zeroRange s a n).coding = s.coding := rfl
@[simp] theorem zeroRange_net (s : State) (a n : Nat) : (zeroRange s a n).net = s.net := rfl
@[simp] theorem zeroRange_peer (s : State) (a n : Nat) : (zeroRange s a n).peer = s.peer := rfl
@[simp] theorem zeroRange_boot (s : State) (a n : Nat) : (zeroRange s a n).boot = s.boot := rfl
@[simp] theorem zeroRange_otp (s : State) (a n : Nat) : (zeroRange s a n).otp = s.otp := rfl
@[simp] theorem zeroRange_sec (s : State) (a n : Nat) : (zeroRange s a n).sec = s.sec := rfl
@[simp] theorem zeroRange_flash (s : State) (a n : Nat) : (zeroRange s a n).flash = s.flash := rfl
@[simp] theorem zeroRange_host (s : State) (a n : Nat) : (zeroRange s a n).host = s.host := rfl

/-! #### setT -/

@[simp] theorem setT_pending (s : State) (t : Nat) (x : Tile) : (setT s t x).pending = s.pending := rfl
@[simp] theorem setT_freeCtr (s : State) (t : Nat) (x : Tile) : (setT s t x).freeCtr = s.freeCtr := rfl
@[simp] theorem setT_now (s : State) (t : Nat) (x : Tile) : (setT s t x).now = s.now := rfl
@[simp] theorem setT_regs (s : State) (t : Nat) (x : Tile) : (setT s t x).regs = s.regs := rfl
@[simp] theorem setT_mem (s : State) (t : Nat) (x : Tile) : (setT s t x).mem = s.mem := rfl
@[simp] theorem setT_ecc (s : State) (t : Nat) (x : Tile) : (setT s t x).ecc = s.ecc := rfl
@[simp] theorem setT_foreignDirty (s : State) (t : Nat) (x : Tile) : (setT s t x).foreignDirty = s.foreignDirty := rfl
@[simp] theorem setT_scrubWant (s : State) (t : Nat) (x : Tile) : (setT s t x).scrubWant = s.scrubWant := rfl
@[simp] theorem setT_patrol (s : State) (t : Nat) (x : Tile) : (setT s t x).patrol = s.patrol := rfl
@[simp] theorem setT_advances (s : State) (t : Nat) (x : Tile) : (setT s t x).advances = s.advances := rfl
@[simp] theorem setT_plan (s : State) (t : Nat) (x : Tile) : (setT s t x).plan = s.plan := rfl
@[simp] theorem setT_sched (s : State) (t : Nat) (x : Tile) : (setT s t x).sched = s.sched := rfl
@[simp] theorem setT_ctxs (s : State) (t : Nat) (x : Tile) : (setT s t x).ctxs = s.ctxs := rfl
@[simp] theorem setT_parts (s : State) (t : Nat) (x : Tile) : (setT s t x).parts = s.parts := rfl
@[simp] theorem setT_pairs (s : State) (t : Nat) (x : Tile) : (setT s t x).pairs = s.pairs := rfl
@[simp] theorem setT_alloc (s : State) (t : Nat) (x : Tile) : (setT s t x).alloc = s.alloc := rfl
@[simp] theorem setT_wc (s : State) (t : Nat) (x : Tile) : (setT s t x).wc = s.wc := rfl
@[simp] theorem setT_errLog (s : State) (t : Nat) (x : Tile) : (setT s t x).errLog = s.errLog := rfl
@[simp] theorem setT_errSeq (s : State) (t : Nat) (x : Tile) : (setT s t x).errSeq = s.errSeq := rfl
@[simp] theorem setT_time (s : State) (t : Nat) (x : Tile) : (setT s t x).time = s.time := rfl
@[simp] theorem setT_safe (s : State) (t : Nat) (x : Tile) : (setT s t x).safe = s.safe := rfl
@[simp] theorem setT_power (s : State) (t : Nat) (x : Tile) : (setT s t x).power = s.power := rfl
@[simp] theorem setT_carriers (s : State) (t : Nat) (x : Tile) : (setT s t x).carriers = s.carriers := rfl
@[simp] theorem setT_coding (s : State) (t : Nat) (x : Tile) : (setT s t x).coding = s.coding := rfl
@[simp] theorem setT_net (s : State) (t : Nat) (x : Tile) : (setT s t x).net = s.net := rfl
@[simp] theorem setT_peer (s : State) (t : Nat) (x : Tile) : (setT s t x).peer = s.peer := rfl
@[simp] theorem setT_boot (s : State) (t : Nat) (x : Tile) : (setT s t x).boot = s.boot := rfl
@[simp] theorem setT_otp (s : State) (t : Nat) (x : Tile) : (setT s t x).otp = s.otp := rfl
@[simp] theorem setT_sec (s : State) (t : Nat) (x : Tile) : (setT s t x).sec = s.sec := rfl
@[simp] theorem setT_flash (s : State) (t : Nat) (x : Tile) : (setT s t x).flash = s.flash := rfl
@[simp] theorem setT_host (s : State) (t : Nat) (x : Tile) : (setT s t x).host = s.host := rfl

/-! #### modT -/

@[simp] theorem modT_pending (s : State) (t : Nat) (f : Tile → Tile) : (modT s t f).pending = s.pending := rfl
@[simp] theorem modT_freeCtr (s : State) (t : Nat) (f : Tile → Tile) : (modT s t f).freeCtr = s.freeCtr := rfl
@[simp] theorem modT_now (s : State) (t : Nat) (f : Tile → Tile) : (modT s t f).now = s.now := rfl
@[simp] theorem modT_regs (s : State) (t : Nat) (f : Tile → Tile) : (modT s t f).regs = s.regs := rfl
@[simp] theorem modT_mem (s : State) (t : Nat) (f : Tile → Tile) : (modT s t f).mem = s.mem := rfl
@[simp] theorem modT_ecc (s : State) (t : Nat) (f : Tile → Tile) : (modT s t f).ecc = s.ecc := rfl
@[simp] theorem modT_foreignDirty (s : State) (t : Nat) (f : Tile → Tile) : (modT s t f).foreignDirty = s.foreignDirty := rfl
@[simp] theorem modT_scrubWant (s : State) (t : Nat) (f : Tile → Tile) : (modT s t f).scrubWant = s.scrubWant := rfl
@[simp] theorem modT_patrol (s : State) (t : Nat) (f : Tile → Tile) : (modT s t f).patrol = s.patrol := rfl
@[simp] theorem modT_advances (s : State) (t : Nat) (f : Tile → Tile) : (modT s t f).advances = s.advances := rfl
@[simp] theorem modT_plan (s : State) (t : Nat) (f : Tile → Tile) : (modT s t f).plan = s.plan := rfl
@[simp] theorem modT_sched (s : State) (t : Nat) (f : Tile → Tile) : (modT s t f).sched = s.sched := rfl
@[simp] theorem modT_ctxs (s : State) (t : Nat) (f : Tile → Tile) : (modT s t f).ctxs = s.ctxs := rfl
@[simp] theorem modT_parts (s : State) (t : Nat) (f : Tile → Tile) : (modT s t f).parts = s.parts := rfl
@[simp] theorem modT_pairs (s : State) (t : Nat) (f : Tile → Tile) : (modT s t f).pairs = s.pairs := rfl
@[simp] theorem modT_alloc (s : State) (t : Nat) (f : Tile → Tile) : (modT s t f).alloc = s.alloc := rfl
@[simp] theorem modT_wc (s : State) (t : Nat) (f : Tile → Tile) : (modT s t f).wc = s.wc := rfl
@[simp] theorem modT_errLog (s : State) (t : Nat) (f : Tile → Tile) : (modT s t f).errLog = s.errLog := rfl
@[simp] theorem modT_errSeq (s : State) (t : Nat) (f : Tile → Tile) : (modT s t f).errSeq = s.errSeq := rfl
@[simp] theorem modT_time (s : State) (t : Nat) (f : Tile → Tile) : (modT s t f).time = s.time := rfl
@[simp] theorem modT_safe (s : State) (t : Nat) (f : Tile → Tile) : (modT s t f).safe = s.safe := rfl
@[simp] theorem modT_power (s : State) (t : Nat) (f : Tile → Tile) : (modT s t f).power = s.power := rfl
@[simp] theorem modT_carriers (s : State) (t : Nat) (f : Tile → Tile) : (modT s t f).carriers = s.carriers := rfl
@[simp] theorem modT_coding (s : State) (t : Nat) (f : Tile → Tile) : (modT s t f).coding = s.coding := rfl
@[simp] theorem modT_net (s : State) (t : Nat) (f : Tile → Tile) : (modT s t f).net = s.net := rfl
@[simp] theorem modT_peer (s : State) (t : Nat) (f : Tile → Tile) : (modT s t f).peer = s.peer := rfl
@[simp] theorem modT_boot (s : State) (t : Nat) (f : Tile → Tile) : (modT s t f).boot = s.boot := rfl
@[simp] theorem modT_otp (s : State) (t : Nat) (f : Tile → Tile) : (modT s t f).otp = s.otp := rfl
@[simp] theorem modT_sec (s : State) (t : Nat) (f : Tile → Tile) : (modT s t f).sec = s.sec := rfl
@[simp] theorem modT_flash (s : State) (t : Nat) (f : Tile → Tile) : (modT s t f).flash = s.flash := rfl
@[simp] theorem modT_host (s : State) (t : Nat) (f : Tile → Tile) : (modT s t f).host = s.host := rfl

/-! #### setC -/

@[simp] theorem setC_pending (s : State) (c : Nat) (x : Ctx) : (setC s c x).pending = s.pending := rfl
@[simp] theorem setC_freeCtr (s : State) (c : Nat) (x : Ctx) : (setC s c x).freeCtr = s.freeCtr := rfl
@[simp] theorem setC_now (s : State) (c : Nat) (x : Ctx) : (setC s c x).now = s.now := rfl
@[simp] theorem setC_regs (s : State) (c : Nat) (x : Ctx) : (setC s c x).regs = s.regs := rfl
@[simp] theorem setC_mem (s : State) (c : Nat) (x : Ctx) : (setC s c x).mem = s.mem := rfl
@[simp] theorem setC_ecc (s : State) (c : Nat) (x : Ctx) : (setC s c x).ecc = s.ecc := rfl
@[simp] theorem setC_foreignDirty (s : State) (c : Nat) (x : Ctx) : (setC s c x).foreignDirty = s.foreignDirty := rfl
@[simp] theorem setC_scrubWant (s : State) (c : Nat) (x : Ctx) : (setC s c x).scrubWant = s.scrubWant := rfl
@[simp] theorem setC_patrol (s : State) (c : Nat) (x : Ctx) : (setC s c x).patrol = s.patrol := rfl
@[simp] theorem setC_tiles (s : State) (c : Nat) (x : Ctx) : (setC s c x).tiles = s.tiles := rfl
@[simp] theorem setC_advances (s : State) (c : Nat) (x : Ctx) : (setC s c x).advances = s.advances := rfl
@[simp] theorem setC_plan (s : State) (c : Nat) (x : Ctx) : (setC s c x).plan = s.plan := rfl
@[simp] theorem setC_sched (s : State) (c : Nat) (x : Ctx) : (setC s c x).sched = s.sched := rfl
@[simp] theorem setC_parts (s : State) (c : Nat) (x : Ctx) : (setC s c x).parts = s.parts := rfl
@[simp] theorem setC_pairs (s : State) (c : Nat) (x : Ctx) : (setC s c x).pairs = s.pairs := rfl
@[simp] theorem setC_alloc (s : State) (c : Nat) (x : Ctx) : (setC s c x).alloc = s.alloc := rfl
@[simp] theorem setC_wc (s : State) (c : Nat) (x : Ctx) : (setC s c x).wc = s.wc := rfl
@[simp] theorem setC_errLog (s : State) (c : Nat) (x : Ctx) : (setC s c x).errLog = s.errLog := rfl
@[simp] theorem setC_errSeq (s : State) (c : Nat) (x : Ctx) : (setC s c x).errSeq = s.errSeq := rfl
@[simp] theorem setC_time (s : State) (c : Nat) (x : Ctx) : (setC s c x).time = s.time := rfl
@[simp] theorem setC_safe (s : State) (c : Nat) (x : Ctx) : (setC s c x).safe = s.safe := rfl
@[simp] theorem setC_power (s : State) (c : Nat) (x : Ctx) : (setC s c x).power = s.power := rfl
@[simp] theorem setC_carriers (s : State) (c : Nat) (x : Ctx) : (setC s c x).carriers = s.carriers := rfl
@[simp] theorem setC_coding (s : State) (c : Nat) (x : Ctx) : (setC s c x).coding = s.coding := rfl
@[simp] theorem setC_net (s : State) (c : Nat) (x : Ctx) : (setC s c x).net = s.net := rfl
@[simp] theorem setC_peer (s : State) (c : Nat) (x : Ctx) : (setC s c x).peer = s.peer := rfl
@[simp] theorem setC_boot (s : State) (c : Nat) (x : Ctx) : (setC s c x).boot = s.boot := rfl
@[simp] theorem setC_otp (s : State) (c : Nat) (x : Ctx) : (setC s c x).otp = s.otp := rfl
@[simp] theorem setC_sec (s : State) (c : Nat) (x : Ctx) : (setC s c x).sec = s.sec := rfl
@[simp] theorem setC_flash (s : State) (c : Nat) (x : Ctx) : (setC s c x).flash = s.flash := rfl
@[simp] theorem setC_host (s : State) (c : Nat) (x : Ctx) : (setC s c x).host = s.host := rfl

/-! #### modC -/

@[simp] theorem modC_pending (s : State) (c : Nat) (f : Ctx → Ctx) : (modC s c f).pending = s.pending := rfl
@[simp] theorem modC_freeCtr (s : State) (c : Nat) (f : Ctx → Ctx) : (modC s c f).freeCtr = s.freeCtr := rfl
@[simp] theorem modC_now (s : State) (c : Nat) (f : Ctx → Ctx) : (modC s c f).now = s.now := rfl
@[simp] theorem modC_regs (s : State) (c : Nat) (f : Ctx → Ctx) : (modC s c f).regs = s.regs := rfl
@[simp] theorem modC_mem (s : State) (c : Nat) (f : Ctx → Ctx) : (modC s c f).mem = s.mem := rfl
@[simp] theorem modC_ecc (s : State) (c : Nat) (f : Ctx → Ctx) : (modC s c f).ecc = s.ecc := rfl
@[simp] theorem modC_foreignDirty (s : State) (c : Nat) (f : Ctx → Ctx) : (modC s c f).foreignDirty = s.foreignDirty := rfl
@[simp] theorem modC_scrubWant (s : State) (c : Nat) (f : Ctx → Ctx) : (modC s c f).scrubWant = s.scrubWant := rfl
@[simp] theorem modC_patrol (s : State) (c : Nat) (f : Ctx → Ctx) : (modC s c f).patrol = s.patrol := rfl
@[simp] theorem modC_tiles (s : State) (c : Nat) (f : Ctx → Ctx) : (modC s c f).tiles = s.tiles := rfl
@[simp] theorem modC_advances (s : State) (c : Nat) (f : Ctx → Ctx) : (modC s c f).advances = s.advances := rfl
@[simp] theorem modC_plan (s : State) (c : Nat) (f : Ctx → Ctx) : (modC s c f).plan = s.plan := rfl
@[simp] theorem modC_sched (s : State) (c : Nat) (f : Ctx → Ctx) : (modC s c f).sched = s.sched := rfl
@[simp] theorem modC_parts (s : State) (c : Nat) (f : Ctx → Ctx) : (modC s c f).parts = s.parts := rfl
@[simp] theorem modC_pairs (s : State) (c : Nat) (f : Ctx → Ctx) : (modC s c f).pairs = s.pairs := rfl
@[simp] theorem modC_alloc (s : State) (c : Nat) (f : Ctx → Ctx) : (modC s c f).alloc = s.alloc := rfl
@[simp] theorem modC_wc (s : State) (c : Nat) (f : Ctx → Ctx) : (modC s c f).wc = s.wc := rfl
@[simp] theorem modC_errLog (s : State) (c : Nat) (f : Ctx → Ctx) : (modC s c f).errLog = s.errLog := rfl
@[simp] theorem modC_errSeq (s : State) (c : Nat) (f : Ctx → Ctx) : (modC s c f).errSeq = s.errSeq := rfl
@[simp] theorem modC_time (s : State) (c : Nat) (f : Ctx → Ctx) : (modC s c f).time = s.time := rfl
@[simp] theorem modC_safe (s : State) (c : Nat) (f : Ctx → Ctx) : (modC s c f).safe = s.safe := rfl
@[simp] theorem modC_power (s : State) (c : Nat) (f : Ctx → Ctx) : (modC s c f).power = s.power := rfl
@[simp] theorem modC_carriers (s : State) (c : Nat) (f : Ctx → Ctx) : (modC s c f).carriers = s.carriers := rfl
@[simp] theorem modC_coding (s : State) (c : Nat) (f : Ctx → Ctx) : (modC s c f).coding = s.coding := rfl
@[simp] theorem modC_net (s : State) (c : Nat) (f : Ctx → Ctx) : (modC s c f).net = s.net := rfl
@[simp] theorem modC_peer (s : State) (c : Nat) (f : Ctx → Ctx) : (modC s c f).peer = s.peer := rfl
@[simp] theorem modC_boot (s : State) (c : Nat) (f : Ctx → Ctx) : (modC s c f).boot = s.boot := rfl
@[simp] theorem modC_otp (s : State) (c : Nat) (f : Ctx → Ctx) : (modC s c f).otp = s.otp := rfl
@[simp] theorem modC_sec (s : State) (c : Nat) (f : Ctx → Ctx) : (modC s c f).sec = s.sec := rfl
@[simp] theorem modC_flash (s : State) (c : Nat) (f : Ctx → Ctx) : (modC s c f).flash = s.flash := rfl
@[simp] theorem modC_host (s : State) (c : Nat) (f : Ctx → Ctx) : (modC s c f).host = s.host := rfl

/-! #### setP -/

@[simp] theorem setP_pending (s : State) (p : Nat) (x : Part) : (setP s p x).pending = s.pending := rfl
@[simp] theorem setP_freeCtr (s : State) (p : Nat) (x : Part) : (setP s p x).freeCtr = s.freeCtr := rfl
@[simp] theorem setP_now (s : State) (p : Nat) (x : Part) : (setP s p x).now = s.now := rfl
@[simp] theorem setP_regs (s : State) (p : Nat) (x : Part) : (setP s p x).regs = s.regs := rfl
@[simp] theorem setP_mem (s : State) (p : Nat) (x : Part) : (setP s p x).mem = s.mem := rfl
@[simp] theorem setP_ecc (s : State) (p : Nat) (x : Part) : (setP s p x).ecc = s.ecc := rfl
@[simp] theorem setP_foreignDirty (s : State) (p : Nat) (x : Part) : (setP s p x).foreignDirty = s.foreignDirty := rfl
@[simp] theorem setP_scrubWant (s : State) (p : Nat) (x : Part) : (setP s p x).scrubWant = s.scrubWant := rfl
@[simp] theorem setP_patrol (s : State) (p : Nat) (x : Part) : (setP s p x).patrol = s.patrol := rfl
@[simp] theorem setP_tiles (s : State) (p : Nat) (x : Part) : (setP s p x).tiles = s.tiles := rfl
@[simp] theorem setP_advances (s : State) (p : Nat) (x : Part) : (setP s p x).advances = s.advances := rfl
@[simp] theorem setP_plan (s : State) (p : Nat) (x : Part) : (setP s p x).plan = s.plan := rfl
@[simp] theorem setP_sched (s : State) (p : Nat) (x : Part) : (setP s p x).sched = s.sched := rfl
@[simp] theorem setP_ctxs (s : State) (p : Nat) (x : Part) : (setP s p x).ctxs = s.ctxs := rfl
@[simp] theorem setP_pairs (s : State) (p : Nat) (x : Part) : (setP s p x).pairs = s.pairs := rfl
@[simp] theorem setP_alloc (s : State) (p : Nat) (x : Part) : (setP s p x).alloc = s.alloc := rfl
@[simp] theorem setP_wc (s : State) (p : Nat) (x : Part) : (setP s p x).wc = s.wc := rfl
@[simp] theorem setP_errLog (s : State) (p : Nat) (x : Part) : (setP s p x).errLog = s.errLog := rfl
@[simp] theorem setP_errSeq (s : State) (p : Nat) (x : Part) : (setP s p x).errSeq = s.errSeq := rfl
@[simp] theorem setP_time (s : State) (p : Nat) (x : Part) : (setP s p x).time = s.time := rfl
@[simp] theorem setP_safe (s : State) (p : Nat) (x : Part) : (setP s p x).safe = s.safe := rfl
@[simp] theorem setP_power (s : State) (p : Nat) (x : Part) : (setP s p x).power = s.power := rfl
@[simp] theorem setP_carriers (s : State) (p : Nat) (x : Part) : (setP s p x).carriers = s.carriers := rfl
@[simp] theorem setP_coding (s : State) (p : Nat) (x : Part) : (setP s p x).coding = s.coding := rfl
@[simp] theorem setP_net (s : State) (p : Nat) (x : Part) : (setP s p x).net = s.net := rfl
@[simp] theorem setP_peer (s : State) (p : Nat) (x : Part) : (setP s p x).peer = s.peer := rfl
@[simp] theorem setP_boot (s : State) (p : Nat) (x : Part) : (setP s p x).boot = s.boot := rfl
@[simp] theorem setP_otp (s : State) (p : Nat) (x : Part) : (setP s p x).otp = s.otp := rfl
@[simp] theorem setP_sec (s : State) (p : Nat) (x : Part) : (setP s p x).sec = s.sec := rfl
@[simp] theorem setP_flash (s : State) (p : Nat) (x : Part) : (setP s p x).flash = s.flash := rfl
@[simp] theorem setP_host (s : State) (p : Nat) (x : Part) : (setP s p x).host = s.host := rfl

/-! #### modP -/

@[simp] theorem modP_pending (s : State) (p : Nat) (f : Part → Part) : (modP s p f).pending = s.pending := rfl
@[simp] theorem modP_freeCtr (s : State) (p : Nat) (f : Part → Part) : (modP s p f).freeCtr = s.freeCtr := rfl
@[simp] theorem modP_now (s : State) (p : Nat) (f : Part → Part) : (modP s p f).now = s.now := rfl
@[simp] theorem modP_regs (s : State) (p : Nat) (f : Part → Part) : (modP s p f).regs = s.regs := rfl
@[simp] theorem modP_mem (s : State) (p : Nat) (f : Part → Part) : (modP s p f).mem = s.mem := rfl
@[simp] theorem modP_ecc (s : State) (p : Nat) (f : Part → Part) : (modP s p f).ecc = s.ecc := rfl
@[simp] theorem modP_foreignDirty (s : State) (p : Nat) (f : Part → Part) : (modP s p f).foreignDirty = s.foreignDirty := rfl
@[simp] theorem modP_scrubWant (s : State) (p : Nat) (f : Part → Part) : (modP s p f).scrubWant = s.scrubWant := rfl
@[simp] theorem modP_patrol (s : State) (p : Nat) (f : Part → Part) : (modP s p f).patrol = s.patrol := rfl
@[simp] theorem modP_tiles (s : State) (p : Nat) (f : Part → Part) : (modP s p f).tiles = s.tiles := rfl
@[simp] theorem modP_advances (s : State) (p : Nat) (f : Part → Part) : (modP s p f).advances = s.advances := rfl
@[simp] theorem modP_plan (s : State) (p : Nat) (f : Part → Part) : (modP s p f).plan = s.plan := rfl
@[simp] theorem modP_sched (s : State) (p : Nat) (f : Part → Part) : (modP s p f).sched = s.sched := rfl
@[simp] theorem modP_ctxs (s : State) (p : Nat) (f : Part → Part) : (modP s p f).ctxs = s.ctxs := rfl
@[simp] theorem modP_pairs (s : State) (p : Nat) (f : Part → Part) : (modP s p f).pairs = s.pairs := rfl
@[simp] theorem modP_alloc (s : State) (p : Nat) (f : Part → Part) : (modP s p f).alloc = s.alloc := rfl
@[simp] theorem modP_wc (s : State) (p : Nat) (f : Part → Part) : (modP s p f).wc = s.wc := rfl
@[simp] theorem modP_errLog (s : State) (p : Nat) (f : Part → Part) : (modP s p f).errLog = s.errLog := rfl
@[simp] theorem modP_errSeq (s : State) (p : Nat) (f : Part → Part) : (modP s p f).errSeq = s.errSeq := rfl
@[simp] theorem modP_time (s : State) (p : Nat) (f : Part → Part) : (modP s p f).time = s.time := rfl
@[simp] theorem modP_safe (s : State) (p : Nat) (f : Part → Part) : (modP s p f).safe = s.safe := rfl
@[simp] theorem modP_power (s : State) (p : Nat) (f : Part → Part) : (modP s p f).power = s.power := rfl
@[simp] theorem modP_carriers (s : State) (p : Nat) (f : Part → Part) : (modP s p f).carriers = s.carriers := rfl
@[simp] theorem modP_coding (s : State) (p : Nat) (f : Part → Part) : (modP s p f).coding = s.coding := rfl
@[simp] theorem modP_net (s : State) (p : Nat) (f : Part → Part) : (modP s p f).net = s.net := rfl
@[simp] theorem modP_peer (s : State) (p : Nat) (f : Part → Part) : (modP s p f).peer = s.peer := rfl
@[simp] theorem modP_boot (s : State) (p : Nat) (f : Part → Part) : (modP s p f).boot = s.boot := rfl
@[simp] theorem modP_otp (s : State) (p : Nat) (f : Part → Part) : (modP s p f).otp = s.otp := rfl
@[simp] theorem modP_sec (s : State) (p : Nat) (f : Part → Part) : (modP s p f).sec = s.sec := rfl
@[simp] theorem modP_flash (s : State) (p : Nat) (f : Part → Part) : (modP s p f).flash = s.flash := rfl
@[simp] theorem modP_host (s : State) (p : Nat) (f : Part → Part) : (modP s p f).host = s.host := rfl

/-! #### setCar -/

@[simp] theorem setCar_pending (s : State) (c : Nat) (x : Carrier) : (setCar s c x).pending = s.pending := rfl
@[simp] theorem setCar_freeCtr (s : State) (c : Nat) (x : Carrier) : (setCar s c x).freeCtr = s.freeCtr := rfl
@[simp] theorem setCar_now (s : State) (c : Nat) (x : Carrier) : (setCar s c x).now = s.now := rfl
@[simp] theorem setCar_regs (s : State) (c : Nat) (x : Carrier) : (setCar s c x).regs = s.regs := rfl
@[simp] theorem setCar_mem (s : State) (c : Nat) (x : Carrier) : (setCar s c x).mem = s.mem := rfl
@[simp] theorem setCar_ecc (s : State) (c : Nat) (x : Carrier) : (setCar s c x).ecc = s.ecc := rfl
@[simp] theorem setCar_foreignDirty (s : State) (c : Nat) (x : Carrier) : (setCar s c x).foreignDirty = s.foreignDirty := rfl
@[simp] theorem setCar_scrubWant (s : State) (c : Nat) (x : Carrier) : (setCar s c x).scrubWant = s.scrubWant := rfl
@[simp] theorem setCar_patrol (s : State) (c : Nat) (x : Carrier) : (setCar s c x).patrol = s.patrol := rfl
@[simp] theorem setCar_tiles (s : State) (c : Nat) (x : Carrier) : (setCar s c x).tiles = s.tiles := rfl
@[simp] theorem setCar_advances (s : State) (c : Nat) (x : Carrier) : (setCar s c x).advances = s.advances := rfl
@[simp] theorem setCar_plan (s : State) (c : Nat) (x : Carrier) : (setCar s c x).plan = s.plan := rfl
@[simp] theorem setCar_sched (s : State) (c : Nat) (x : Carrier) : (setCar s c x).sched = s.sched := rfl
@[simp] theorem setCar_ctxs (s : State) (c : Nat) (x : Carrier) : (setCar s c x).ctxs = s.ctxs := rfl
@[simp] theorem setCar_parts (s : State) (c : Nat) (x : Carrier) : (setCar s c x).parts = s.parts := rfl
@[simp] theorem setCar_pairs (s : State) (c : Nat) (x : Carrier) : (setCar s c x).pairs = s.pairs := rfl
@[simp] theorem setCar_alloc (s : State) (c : Nat) (x : Carrier) : (setCar s c x).alloc = s.alloc := rfl
@[simp] theorem setCar_wc (s : State) (c : Nat) (x : Carrier) : (setCar s c x).wc = s.wc := rfl
@[simp] theorem setCar_errLog (s : State) (c : Nat) (x : Carrier) : (setCar s c x).errLog = s.errLog := rfl
@[simp] theorem setCar_errSeq (s : State) (c : Nat) (x : Carrier) : (setCar s c x).errSeq = s.errSeq := rfl
@[simp] theorem setCar_time (s : State) (c : Nat) (x : Carrier) : (setCar s c x).time = s.time := rfl
@[simp] theorem setCar_safe (s : State) (c : Nat) (x : Carrier) : (setCar s c x).safe = s.safe := rfl
@[simp] theorem setCar_power (s : State) (c : Nat) (x : Carrier) : (setCar s c x).power = s.power := rfl
@[simp] theorem setCar_coding (s : State) (c : Nat) (x : Carrier) : (setCar s c x).coding = s.coding := rfl
@[simp] theorem setCar_net (s : State) (c : Nat) (x : Carrier) : (setCar s c x).net = s.net := rfl
@[simp] theorem setCar_peer (s : State) (c : Nat) (x : Carrier) : (setCar s c x).peer = s.peer := rfl
@[simp] theorem setCar_boot (s : State) (c : Nat) (x : Carrier) : (setCar s c x).boot = s.boot := rfl
@[simp] theorem setCar_otp (s : State) (c : Nat) (x : Carrier) : (setCar s c x).otp = s.otp := rfl
@[simp] theorem setCar_sec (s : State) (c : Nat) (x : Carrier) : (setCar s c x).sec = s.sec := rfl
@[simp] theorem setCar_flash (s : State) (c : Nat) (x : Carrier) : (setCar s c x).flash = s.flash := rfl
@[simp] theorem setCar_host (s : State) (c : Nat) (x : Carrier) : (setCar s c x).host = s.host := rfl

/-! #### modCar -/

@[simp] theorem modCar_pending (s : State) (c : Nat) (f : Carrier → Carrier) : (modCar s c f).pending = s.pending := rfl
@[simp] theorem modCar_freeCtr (s : State) (c : Nat) (f : Carrier → Carrier) : (modCar s c f).freeCtr = s.freeCtr := rfl
@[simp] theorem modCar_now (s : State) (c : Nat) (f : Carrier → Carrier) : (modCar s c f).now = s.now := rfl
@[simp] theorem modCar_regs (s : State) (c : Nat) (f : Carrier → Carrier) : (modCar s c f).regs = s.regs := rfl
@[simp] theorem modCar_mem (s : State) (c : Nat) (f : Carrier → Carrier) : (modCar s c f).mem = s.mem := rfl
@[simp] theorem modCar_ecc (s : State) (c : Nat) (f : Carrier → Carrier) : (modCar s c f).ecc = s.ecc := rfl
@[simp] theorem modCar_foreignDirty (s : State) (c : Nat) (f : Carrier → Carrier) : (modCar s c f).foreignDirty = s.foreignDirty := rfl
@[simp] theorem modCar_scrubWant (s : State) (c : Nat) (f : Carrier → Carrier) : (modCar s c f).scrubWant = s.scrubWant := rfl
@[simp] theorem modCar_patrol (s : State) (c : Nat) (f : Carrier → Carrier) : (modCar s c f).patrol = s.patrol := rfl
@[simp] theorem modCar_tiles (s : State) (c : Nat) (f : Carrier → Carrier) : (modCar s c f).tiles = s.tiles := rfl
@[simp] theorem modCar_advances (s : State) (c : Nat) (f : Carrier → Carrier) : (modCar s c f).advances = s.advances := rfl
@[simp] theorem modCar_plan (s : State) (c : Nat) (f : Carrier → Carrier) : (modCar s c f).plan = s.plan := rfl
@[simp] theorem modCar_sched (s : State) (c : Nat) (f : Carrier → Carrier) : (modCar s c f).sched = s.sched := rfl
@[simp] theorem modCar_ctxs (s : State) (c : Nat) (f : Carrier → Carrier) : (modCar s c f).ctxs = s.ctxs := rfl
@[simp] theorem modCar_parts (s : State) (c : Nat) (f : Carrier → Carrier) : (modCar s c f).parts = s.parts := rfl
@[simp] theorem modCar_pairs (s : State) (c : Nat) (f : Carrier → Carrier) : (modCar s c f).pairs = s.pairs := rfl
@[simp] theorem modCar_alloc (s : State) (c : Nat) (f : Carrier → Carrier) : (modCar s c f).alloc = s.alloc := rfl
@[simp] theorem modCar_wc (s : State) (c : Nat) (f : Carrier → Carrier) : (modCar s c f).wc = s.wc := rfl
@[simp] theorem modCar_errLog (s : State) (c : Nat) (f : Carrier → Carrier) : (modCar s c f).errLog = s.errLog := rfl
@[simp] theorem modCar_errSeq (s : State) (c : Nat) (f : Carrier → Carrier) : (modCar s c f).errSeq = s.errSeq := rfl
@[simp] theorem modCar_time (s : State) (c : Nat) (f : Carrier → Carrier) : (modCar s c f).time = s.time := rfl
@[simp] theorem modCar_safe (s : State) (c : Nat) (f : Carrier → Carrier) : (modCar s c f).safe = s.safe := rfl
@[simp] theorem modCar_power (s : State) (c : Nat) (f : Carrier → Carrier) : (modCar s c f).power = s.power := rfl
@[simp] theorem modCar_coding (s : State) (c : Nat) (f : Carrier → Carrier) : (modCar s c f).coding = s.coding := rfl
@[simp] theorem modCar_net (s : State) (c : Nat) (f : Carrier → Carrier) : (modCar s c f).net = s.net := rfl
@[simp] theorem modCar_peer (s : State) (c : Nat) (f : Carrier → Carrier) : (modCar s c f).peer = s.peer := rfl
@[simp] theorem modCar_boot (s : State) (c : Nat) (f : Carrier → Carrier) : (modCar s c f).boot = s.boot := rfl
@[simp] theorem modCar_otp (s : State) (c : Nat) (f : Carrier → Carrier) : (modCar s c f).otp = s.otp := rfl
@[simp] theorem modCar_sec (s : State) (c : Nat) (f : Carrier → Carrier) : (modCar s c f).sec = s.sec := rfl
@[simp] theorem modCar_flash (s : State) (c : Nat) (f : Carrier → Carrier) : (modCar s c f).flash = s.flash := rfl
@[simp] theorem modCar_host (s : State) (c : Nat) (f : Carrier → Carrier) : (modCar s c f).host = s.host := rfl

/-! #### setL -/

@[simp] theorem setL_pending (s : State) (l : Nat) (x : PeerLink) : (setL s l x).pending = s.pending := rfl
@[simp] theorem setL_freeCtr (s : State) (l : Nat) (x : PeerLink) : (setL s l x).freeCtr = s.freeCtr := rfl
@[simp] theorem setL_now (s : State) (l : Nat) (x : PeerLink) : (setL s l x).now = s.now := rfl
@[simp] theorem setL_regs (s : State) (l : Nat) (x : PeerLink) : (setL s l x).regs = s.regs := rfl
@[simp] theorem setL_mem (s : State) (l : Nat) (x : PeerLink) : (setL s l x).mem = s.mem := rfl
@[simp] theorem setL_ecc (s : State) (l : Nat) (x : PeerLink) : (setL s l x).ecc = s.ecc := rfl
@[simp] theorem setL_foreignDirty (s : State) (l : Nat) (x : PeerLink) : (setL s l x).foreignDirty = s.foreignDirty := rfl
@[simp] theorem setL_scrubWant (s : State) (l : Nat) (x : PeerLink) : (setL s l x).scrubWant = s.scrubWant := rfl
@[simp] theorem setL_patrol (s : State) (l : Nat) (x : PeerLink) : (setL s l x).patrol = s.patrol := rfl
@[simp] theorem setL_tiles (s : State) (l : Nat) (x : PeerLink) : (setL s l x).tiles = s.tiles := rfl
@[simp] theorem setL_advances (s : State) (l : Nat) (x : PeerLink) : (setL s l x).advances = s.advances := rfl
@[simp] theorem setL_plan (s : State) (l : Nat) (x : PeerLink) : (setL s l x).plan = s.plan := rfl
@[simp] theorem setL_sched (s : State) (l : Nat) (x : PeerLink) : (setL s l x).sched = s.sched := rfl
@[simp] theorem setL_ctxs (s : State) (l : Nat) (x : PeerLink) : (setL s l x).ctxs = s.ctxs := rfl
@[simp] theorem setL_parts (s : State) (l : Nat) (x : PeerLink) : (setL s l x).parts = s.parts := rfl
@[simp] theorem setL_pairs (s : State) (l : Nat) (x : PeerLink) : (setL s l x).pairs = s.pairs := rfl
@[simp] theorem setL_alloc (s : State) (l : Nat) (x : PeerLink) : (setL s l x).alloc = s.alloc := rfl
@[simp] theorem setL_wc (s : State) (l : Nat) (x : PeerLink) : (setL s l x).wc = s.wc := rfl
@[simp] theorem setL_errLog (s : State) (l : Nat) (x : PeerLink) : (setL s l x).errLog = s.errLog := rfl
@[simp] theorem setL_errSeq (s : State) (l : Nat) (x : PeerLink) : (setL s l x).errSeq = s.errSeq := rfl
@[simp] theorem setL_time (s : State) (l : Nat) (x : PeerLink) : (setL s l x).time = s.time := rfl
@[simp] theorem setL_safe (s : State) (l : Nat) (x : PeerLink) : (setL s l x).safe = s.safe := rfl
@[simp] theorem setL_power (s : State) (l : Nat) (x : PeerLink) : (setL s l x).power = s.power := rfl
@[simp] theorem setL_carriers (s : State) (l : Nat) (x : PeerLink) : (setL s l x).carriers = s.carriers := rfl
@[simp] theorem setL_coding (s : State) (l : Nat) (x : PeerLink) : (setL s l x).coding = s.coding := rfl
@[simp] theorem setL_net (s : State) (l : Nat) (x : PeerLink) : (setL s l x).net = s.net := rfl
@[simp] theorem setL_boot (s : State) (l : Nat) (x : PeerLink) : (setL s l x).boot = s.boot := rfl
@[simp] theorem setL_otp (s : State) (l : Nat) (x : PeerLink) : (setL s l x).otp = s.otp := rfl
@[simp] theorem setL_sec (s : State) (l : Nat) (x : PeerLink) : (setL s l x).sec = s.sec := rfl
@[simp] theorem setL_flash (s : State) (l : Nat) (x : PeerLink) : (setL s l x).flash = s.flash := rfl
@[simp] theorem setL_host (s : State) (l : Nat) (x : PeerLink) : (setL s l x).host = s.host := rfl

/-! #### modL -/

@[simp] theorem modL_pending (s : State) (l : Nat) (f : PeerLink → PeerLink) : (modL s l f).pending = s.pending := rfl
@[simp] theorem modL_freeCtr (s : State) (l : Nat) (f : PeerLink → PeerLink) : (modL s l f).freeCtr = s.freeCtr := rfl
@[simp] theorem modL_now (s : State) (l : Nat) (f : PeerLink → PeerLink) : (modL s l f).now = s.now := rfl
@[simp] theorem modL_regs (s : State) (l : Nat) (f : PeerLink → PeerLink) : (modL s l f).regs = s.regs := rfl
@[simp] theorem modL_mem (s : State) (l : Nat) (f : PeerLink → PeerLink) : (modL s l f).mem = s.mem := rfl
@[simp] theorem modL_ecc (s : State) (l : Nat) (f : PeerLink → PeerLink) : (modL s l f).ecc = s.ecc := rfl
@[simp] theorem modL_foreignDirty (s : State) (l : Nat) (f : PeerLink → PeerLink) : (modL s l f).foreignDirty = s.foreignDirty := rfl
@[simp] theorem modL_scrubWant (s : State) (l : Nat) (f : PeerLink → PeerLink) : (modL s l f).scrubWant = s.scrubWant := rfl
@[simp] theorem modL_patrol (s : State) (l : Nat) (f : PeerLink → PeerLink) : (modL s l f).patrol = s.patrol := rfl
@[simp] theorem modL_tiles (s : State) (l : Nat) (f : PeerLink → PeerLink) : (modL s l f).tiles = s.tiles := rfl
@[simp] theorem modL_advances (s : State) (l : Nat) (f : PeerLink → PeerLink) : (modL s l f).advances = s.advances := rfl
@[simp] theorem modL_plan (s : State) (l : Nat) (f : PeerLink → PeerLink) : (modL s l f).plan = s.plan := rfl
@[simp] theorem modL_sched (s : State) (l : Nat) (f : PeerLink → PeerLink) : (modL s l f).sched = s.sched := rfl
@[simp] theorem modL_ctxs (s : State) (l : Nat) (f : PeerLink → PeerLink) : (modL s l f).ctxs = s.ctxs := rfl
@[simp] theorem modL_parts (s : State) (l : Nat) (f : PeerLink → PeerLink) : (modL s l f).parts = s.parts := rfl
@[simp] theorem modL_pairs (s : State) (l : Nat) (f : PeerLink → PeerLink) : (modL s l f).pairs = s.pairs := rfl
@[simp] theorem modL_alloc (s : State) (l : Nat) (f : PeerLink → PeerLink) : (modL s l f).alloc = s.alloc := rfl
@[simp] theorem modL_wc (s : State) (l : Nat) (f : PeerLink → PeerLink) : (modL s l f).wc = s.wc := rfl
@[simp] theorem modL_errLog (s : State) (l : Nat) (f : PeerLink → PeerLink) : (modL s l f).errLog = s.errLog := rfl
@[simp] theorem modL_errSeq (s : State) (l : Nat) (f : PeerLink → PeerLink) : (modL s l f).errSeq = s.errSeq := rfl
@[simp] theorem modL_time (s : State) (l : Nat) (f : PeerLink → PeerLink) : (modL s l f).time = s.time := rfl
@[simp] theorem modL_safe (s : State) (l : Nat) (f : PeerLink → PeerLink) : (modL s l f).safe = s.safe := rfl
@[simp] theorem modL_power (s : State) (l : Nat) (f : PeerLink → PeerLink) : (modL s l f).power = s.power := rfl
@[simp] theorem modL_carriers (s : State) (l : Nat) (f : PeerLink → PeerLink) : (modL s l f).carriers = s.carriers := rfl
@[simp] theorem modL_coding (s : State) (l : Nat) (f : PeerLink → PeerLink) : (modL s l f).coding = s.coding := rfl
@[simp] theorem modL_net (s : State) (l : Nat) (f : PeerLink → PeerLink) : (modL s l f).net = s.net := rfl
@[simp] theorem modL_boot (s : State) (l : Nat) (f : PeerLink → PeerLink) : (modL s l f).boot = s.boot := rfl
@[simp] theorem modL_otp (s : State) (l : Nat) (f : PeerLink → PeerLink) : (modL s l f).otp = s.otp := rfl
@[simp] theorem modL_sec (s : State) (l : Nat) (f : PeerLink → PeerLink) : (modL s l f).sec = s.sec := rfl
@[simp] theorem modL_flash (s : State) (l : Nat) (f : PeerLink → PeerLink) : (modL s l f).flash = s.flash := rfl
@[simp] theorem modL_host (s : State) (l : Nat) (f : PeerLink → PeerLink) : (modL s l f).host = s.host := rfl

/-! #### setTx -/

@[simp] theorem setTx_pending (s : State) (n : Nat) (x : StreamTx) : (setTx s n x).pending = s.pending := rfl
@[simp] theorem setTx_freeCtr (s : State) (n : Nat) (x : StreamTx) : (setTx s n x).freeCtr = s.freeCtr := rfl
@[simp] theorem setTx_now (s : State) (n : Nat) (x : StreamTx) : (setTx s n x).now = s.now := rfl
@[simp] theorem setTx_regs (s : State) (n : Nat) (x : StreamTx) : (setTx s n x).regs = s.regs := rfl
@[simp] theorem setTx_mem (s : State) (n : Nat) (x : StreamTx) : (setTx s n x).mem = s.mem := rfl
@[simp] theorem setTx_ecc (s : State) (n : Nat) (x : StreamTx) : (setTx s n x).ecc = s.ecc := rfl
@[simp] theorem setTx_foreignDirty (s : State) (n : Nat) (x : StreamTx) : (setTx s n x).foreignDirty = s.foreignDirty := rfl
@[simp] theorem setTx_scrubWant (s : State) (n : Nat) (x : StreamTx) : (setTx s n x).scrubWant = s.scrubWant := rfl
@[simp] theorem setTx_patrol (s : State) (n : Nat) (x : StreamTx) : (setTx s n x).patrol = s.patrol := rfl
@[simp] theorem setTx_tiles (s : State) (n : Nat) (x : StreamTx) : (setTx s n x).tiles = s.tiles := rfl
@[simp] theorem setTx_advances (s : State) (n : Nat) (x : StreamTx) : (setTx s n x).advances = s.advances := rfl
@[simp] theorem setTx_plan (s : State) (n : Nat) (x : StreamTx) : (setTx s n x).plan = s.plan := rfl
@[simp] theorem setTx_sched (s : State) (n : Nat) (x : StreamTx) : (setTx s n x).sched = s.sched := rfl
@[simp] theorem setTx_ctxs (s : State) (n : Nat) (x : StreamTx) : (setTx s n x).ctxs = s.ctxs := rfl
@[simp] theorem setTx_parts (s : State) (n : Nat) (x : StreamTx) : (setTx s n x).parts = s.parts := rfl
@[simp] theorem setTx_pairs (s : State) (n : Nat) (x : StreamTx) : (setTx s n x).pairs = s.pairs := rfl
@[simp] theorem setTx_alloc (s : State) (n : Nat) (x : StreamTx) : (setTx s n x).alloc = s.alloc := rfl
@[simp] theorem setTx_wc (s : State) (n : Nat) (x : StreamTx) : (setTx s n x).wc = s.wc := rfl
@[simp] theorem setTx_errLog (s : State) (n : Nat) (x : StreamTx) : (setTx s n x).errLog = s.errLog := rfl
@[simp] theorem setTx_errSeq (s : State) (n : Nat) (x : StreamTx) : (setTx s n x).errSeq = s.errSeq := rfl
@[simp] theorem setTx_time (s : State) (n : Nat) (x : StreamTx) : (setTx s n x).time = s.time := rfl
@[simp] theorem setTx_safe (s : State) (n : Nat) (x : StreamTx) : (setTx s n x).safe = s.safe := rfl
@[simp] theorem setTx_power (s : State) (n : Nat) (x : StreamTx) : (setTx s n x).power = s.power := rfl
@[simp] theorem setTx_carriers (s : State) (n : Nat) (x : StreamTx) : (setTx s n x).carriers = s.carriers := rfl
@[simp] theorem setTx_coding (s : State) (n : Nat) (x : StreamTx) : (setTx s n x).coding = s.coding := rfl
@[simp] theorem setTx_net (s : State) (n : Nat) (x : StreamTx) : (setTx s n x).net = s.net := rfl
@[simp] theorem setTx_boot (s : State) (n : Nat) (x : StreamTx) : (setTx s n x).boot = s.boot := rfl
@[simp] theorem setTx_otp (s : State) (n : Nat) (x : StreamTx) : (setTx s n x).otp = s.otp := rfl
@[simp] theorem setTx_sec (s : State) (n : Nat) (x : StreamTx) : (setTx s n x).sec = s.sec := rfl
@[simp] theorem setTx_flash (s : State) (n : Nat) (x : StreamTx) : (setTx s n x).flash = s.flash := rfl
@[simp] theorem setTx_host (s : State) (n : Nat) (x : StreamTx) : (setTx s n x).host = s.host := rfl

/-! #### modTx -/

@[simp] theorem modTx_pending (s : State) (n : Nat) (f : StreamTx → StreamTx) : (modTx s n f).pending = s.pending := rfl
@[simp] theorem modTx_freeCtr (s : State) (n : Nat) (f : StreamTx → StreamTx) : (modTx s n f).freeCtr = s.freeCtr := rfl
@[simp] theorem modTx_now (s : State) (n : Nat) (f : StreamTx → StreamTx) : (modTx s n f).now = s.now := rfl
@[simp] theorem modTx_regs (s : State) (n : Nat) (f : StreamTx → StreamTx) : (modTx s n f).regs = s.regs := rfl
@[simp] theorem modTx_mem (s : State) (n : Nat) (f : StreamTx → StreamTx) : (modTx s n f).mem = s.mem := rfl
@[simp] theorem modTx_ecc (s : State) (n : Nat) (f : StreamTx → StreamTx) : (modTx s n f).ecc = s.ecc := rfl
@[simp] theorem modTx_foreignDirty (s : State) (n : Nat) (f : StreamTx → StreamTx) : (modTx s n f).foreignDirty = s.foreignDirty := rfl
@[simp] theorem modTx_scrubWant (s : State) (n : Nat) (f : StreamTx → StreamTx) : (modTx s n f).scrubWant = s.scrubWant := rfl
@[simp] theorem modTx_patrol (s : State) (n : Nat) (f : StreamTx → StreamTx) : (modTx s n f).patrol = s.patrol := rfl
@[simp] theorem modTx_tiles (s : State) (n : Nat) (f : StreamTx → StreamTx) : (modTx s n f).tiles = s.tiles := rfl
@[simp] theorem modTx_advances (s : State) (n : Nat) (f : StreamTx → StreamTx) : (modTx s n f).advances = s.advances := rfl
@[simp] theorem modTx_plan (s : State) (n : Nat) (f : StreamTx → StreamTx) : (modTx s n f).plan = s.plan := rfl
@[simp] theorem modTx_sched (s : State) (n : Nat) (f : StreamTx → StreamTx) : (modTx s n f).sched = s.sched := rfl
@[simp] theorem modTx_ctxs (s : State) (n : Nat) (f : StreamTx → StreamTx) : (modTx s n f).ctxs = s.ctxs := rfl
@[simp] theorem modTx_parts (s : State) (n : Nat) (f : StreamTx → StreamTx) : (modTx s n f).parts = s.parts := rfl
@[simp] theorem modTx_pairs (s : State) (n : Nat) (f : StreamTx → StreamTx) : (modTx s n f).pairs = s.pairs := rfl
@[simp] theorem modTx_alloc (s : State) (n : Nat) (f : StreamTx → StreamTx) : (modTx s n f).alloc = s.alloc := rfl
@[simp] theorem modTx_wc (s : State) (n : Nat) (f : StreamTx → StreamTx) : (modTx s n f).wc = s.wc := rfl
@[simp] theorem modTx_errLog (s : State) (n : Nat) (f : StreamTx → StreamTx) : (modTx s n f).errLog = s.errLog := rfl
@[simp] theorem modTx_errSeq (s : State) (n : Nat) (f : StreamTx → StreamTx) : (modTx s n f).errSeq = s.errSeq := rfl
@[simp] theorem modTx_time (s : State) (n : Nat) (f : StreamTx → StreamTx) : (modTx s n f).time = s.time := rfl
@[simp] theorem modTx_safe (s : State) (n : Nat) (f : StreamTx → StreamTx) : (modTx s n f).safe = s.safe := rfl
@[simp] theorem modTx_power (s : State) (n : Nat) (f : StreamTx → StreamTx) : (modTx s n f).power = s.power := rfl
@[simp] theorem modTx_carriers (s : State) (n : Nat) (f : StreamTx → StreamTx) : (modTx s n f).carriers = s.carriers := rfl
@[simp] theorem modTx_coding (s : State) (n : Nat) (f : StreamTx → StreamTx) : (modTx s n f).coding = s.coding := rfl
@[simp] theorem modTx_net (s : State) (n : Nat) (f : StreamTx → StreamTx) : (modTx s n f).net = s.net := rfl
@[simp] theorem modTx_boot (s : State) (n : Nat) (f : StreamTx → StreamTx) : (modTx s n f).boot = s.boot := rfl
@[simp] theorem modTx_otp (s : State) (n : Nat) (f : StreamTx → StreamTx) : (modTx s n f).otp = s.otp := rfl
@[simp] theorem modTx_sec (s : State) (n : Nat) (f : StreamTx → StreamTx) : (modTx s n f).sec = s.sec := rfl
@[simp] theorem modTx_flash (s : State) (n : Nat) (f : StreamTx → StreamTx) : (modTx s n f).flash = s.flash := rfl
@[simp] theorem modTx_host (s : State) (n : Nat) (f : StreamTx → StreamTx) : (modTx s n f).host = s.host := rfl

/-! #### postEvent -/

@[simp] theorem postEvent_pending (s : State) (a b c d e : Nat) : (postEvent s a b c d e).pending = s.pending := by unfold postEvent; dsimp only; split <;> rfl
@[simp] theorem postEvent_freeCtr (s : State) (a b c d e : Nat) : (postEvent s a b c d e).freeCtr = s.freeCtr := by unfold postEvent; dsimp only; split <;> rfl
@[simp] theorem postEvent_now (s : State) (a b c d e : Nat) : (postEvent s a b c d e).now = s.now := by unfold postEvent; dsimp only; split <;> rfl
@[simp] theorem postEvent_mem (s : State) (a b c d e : Nat) : (postEvent s a b c d e).mem = s.mem := by unfold postEvent; dsimp only; split <;> rfl
@[simp] theorem postEvent_ecc (s : State) (a b c d e : Nat) : (postEvent s a b c d e).ecc = s.ecc := by unfold postEvent; dsimp only; split <;> rfl
@[simp] theorem postEvent_foreignDirty (s : State) (a b c d e : Nat) : (postEvent s a b c d e).foreignDirty = s.foreignDirty := by unfold postEvent; dsimp only; split <;> rfl
@[simp] theorem postEvent_scrubWant (s : State) (a b c d e : Nat) : (postEvent s a b c d e).scrubWant = s.scrubWant := by unfold postEvent; dsimp only; split <;> rfl
@[simp] theorem postEvent_patrol (s : State) (a b c d e : Nat) : (postEvent s a b c d e).patrol = s.patrol := by unfold postEvent; dsimp only; split <;> rfl
@[simp] theorem postEvent_tiles (s : State) (a b c d e : Nat) : (postEvent s a b c d e).tiles = s.tiles := by unfold postEvent; dsimp only; split <;> rfl
@[simp] theorem postEvent_advances (s : State) (a b c d e : Nat) : (postEvent s a b c d e).advances = s.advances := by unfold postEvent; dsimp only; split <;> rfl
@[simp] theorem postEvent_plan (s : State) (a b c d e : Nat) : (postEvent s a b c d e).plan = s.plan := by unfold postEvent; dsimp only; split <;> rfl
@[simp] theorem postEvent_sched (s : State) (a b c d e : Nat) : (postEvent s a b c d e).sched = s.sched := by unfold postEvent; dsimp only; split <;> rfl
@[simp] theorem postEvent_ctxs (s : State) (a b c d e : Nat) : (postEvent s a b c d e).ctxs = s.ctxs := by unfold postEvent; dsimp only; split <;> rfl
@[simp] theorem postEvent_parts (s : State) (a b c d e : Nat) : (postEvent s a b c d e).parts = s.parts := by unfold postEvent; dsimp only; split <;> rfl
@[simp] theorem postEvent_pairs (s : State) (a b c d e : Nat) : (postEvent s a b c d e).pairs = s.pairs := by unfold postEvent; dsimp only; split <;> rfl
@[simp] theorem postEvent_alloc (s : State) (a b c d e : Nat) : (postEvent s a b c d e).alloc = s.alloc := by unfold postEvent; dsimp only; split <;> rfl
@[simp] theorem postEvent_wc (s : State) (a b c d e : Nat) : (postEvent s a b c d e).wc = s.wc := by unfold postEvent; dsimp only; split <;> rfl
@[simp] theorem postEvent_errLog (s : State) (a b c d e : Nat) : (postEvent s a b c d e).errLog = s.errLog := by unfold postEvent; dsimp only; split <;> rfl
@[simp] theorem postEvent_errSeq (s : State) (a b c d e : Nat) : (postEvent s a b c d e).errSeq = s.errSeq := by unfold postEvent; dsimp only; split <;> rfl
@[simp] theorem postEvent_time (s : State) (a b c d e : Nat) : (postEvent s a b c d e).time = s.time := by unfold postEvent; dsimp only; split <;> rfl
@[simp] theorem postEvent_power (s : State) (a b c d e : Nat) : (postEvent s a b c d e).power = s.power := by unfold postEvent; dsimp only; split <;> rfl
@[simp] theorem postEvent_carriers (s : State) (a b c d e : Nat) : (postEvent s a b c d e).carriers = s.carriers := by unfold postEvent; dsimp only; split <;> rfl
@[simp] theorem postEvent_coding (s : State) (a b c d e : Nat) : (postEvent s a b c d e).coding = s.coding := by unfold postEvent; dsimp only; split <;> rfl
@[simp] theorem postEvent_net (s : State) (a b c d e : Nat) : (postEvent s a b c d e).net = s.net := by unfold postEvent; dsimp only; split <;> rfl
@[simp] theorem postEvent_peer (s : State) (a b c d e : Nat) : (postEvent s a b c d e).peer = s.peer := by unfold postEvent; dsimp only; split <;> rfl
@[simp] theorem postEvent_boot (s : State) (a b c d e : Nat) : (postEvent s a b c d e).boot = s.boot := by unfold postEvent; dsimp only; split <;> rfl
@[simp] theorem postEvent_otp (s : State) (a b c d e : Nat) : (postEvent s a b c d e).otp = s.otp := by unfold postEvent; dsimp only; split <;> rfl
@[simp] theorem postEvent_sec (s : State) (a b c d e : Nat) : (postEvent s a b c d e).sec = s.sec := by unfold postEvent; dsimp only; split <;> rfl
@[simp] theorem postEvent_flash (s : State) (a b c d e : Nat) : (postEvent s a b c d e).flash = s.flash := by unfold postEvent; dsimp only; split <;> rfl
@[simp] theorem postEvent_host (s : State) (a b c d e : Nat) : (postEvent s a b c d e).host = s.host := by unfold postEvent; dsimp only; split <;> rfl

/-! #### event -/

@[simp] theorem event_pending (s : State) (a b c : Nat) : (event s a b c).pending = s.pending := postEvent_pending s a b 0xFF 0xFF c
@[simp] theorem event_freeCtr (s : State) (a b c : Nat) : (event s a b c).freeCtr = s.freeCtr := postEvent_freeCtr s a b 0xFF 0xFF c
@[simp] theorem event_now (s : State) (a b c : Nat) : (event s a b c).now = s.now := postEvent_now s a b 0xFF 0xFF c
@[simp] theorem event_mem (s : State) (a b c : Nat) : (event s a b c).mem = s.mem := postEvent_mem s a b 0xFF 0xFF c
@[simp] theorem event_ecc (s : State) (a b c : Nat) : (event s a b c).ecc = s.ecc := postEvent_ecc s a b 0xFF 0xFF c
@[simp] theorem event_foreignDirty (s : State) (a b c : Nat) : (event s a b c).foreignDirty = s.foreignDirty := postEvent_foreignDirty s a b 0xFF 0xFF c
@[simp] theorem event_scrubWant (s : State) (a b c : Nat) : (event s a b c).scrubWant = s.scrubWant := postEvent_scrubWant s a b 0xFF 0xFF c
@[simp] theorem event_patrol (s : State) (a b c : Nat) : (event s a b c).patrol = s.patrol := postEvent_patrol s a b 0xFF 0xFF c
@[simp] theorem event_tiles (s : State) (a b c : Nat) : (event s a b c).tiles = s.tiles := postEvent_tiles s a b 0xFF 0xFF c
@[simp] theorem event_advances (s : State) (a b c : Nat) : (event s a b c).advances = s.advances := postEvent_advances s a b 0xFF 0xFF c
@[simp] theorem event_plan (s : State) (a b c : Nat) : (event s a b c).plan = s.plan := postEvent_plan s a b 0xFF 0xFF c
@[simp] theorem event_sched (s : State) (a b c : Nat) : (event s a b c).sched = s.sched := postEvent_sched s a b 0xFF 0xFF c
@[simp] theorem event_ctxs (s : State) (a b c : Nat) : (event s a b c).ctxs = s.ctxs := postEvent_ctxs s a b 0xFF 0xFF c
@[simp] theorem event_parts (s : State) (a b c : Nat) : (event s a b c).parts = s.parts := postEvent_parts s a b 0xFF 0xFF c
@[simp] theorem event_pairs (s : State) (a b c : Nat) : (event s a b c).pairs = s.pairs := postEvent_pairs s a b 0xFF 0xFF c
@[simp] theorem event_alloc (s : State) (a b c : Nat) : (event s a b c).alloc = s.alloc := postEvent_alloc s a b 0xFF 0xFF c
@[simp] theorem event_wc (s : State) (a b c : Nat) : (event s a b c).wc = s.wc := postEvent_wc s a b 0xFF 0xFF c
@[simp] theorem event_errLog (s : State) (a b c : Nat) : (event s a b c).errLog = s.errLog := postEvent_errLog s a b 0xFF 0xFF c
@[simp] theorem event_errSeq (s : State) (a b c : Nat) : (event s a b c).errSeq = s.errSeq := postEvent_errSeq s a b 0xFF 0xFF c
@[simp] theorem event_time (s : State) (a b c : Nat) : (event s a b c).time = s.time := postEvent_time s a b 0xFF 0xFF c
@[simp] theorem event_power (s : State) (a b c : Nat) : (event s a b c).power = s.power := postEvent_power s a b 0xFF 0xFF c
@[simp] theorem event_carriers (s : State) (a b c : Nat) : (event s a b c).carriers = s.carriers := postEvent_carriers s a b 0xFF 0xFF c
@[simp] theorem event_coding (s : State) (a b c : Nat) : (event s a b c).coding = s.coding := postEvent_coding s a b 0xFF 0xFF c
@[simp] theorem event_net (s : State) (a b c : Nat) : (event s a b c).net = s.net := postEvent_net s a b 0xFF 0xFF c
@[simp] theorem event_peer (s : State) (a b c : Nat) : (event s a b c).peer = s.peer := postEvent_peer s a b 0xFF 0xFF c
@[simp] theorem event_boot (s : State) (a b c : Nat) : (event s a b c).boot = s.boot := postEvent_boot s a b 0xFF 0xFF c
@[simp] theorem event_otp (s : State) (a b c : Nat) : (event s a b c).otp = s.otp := postEvent_otp s a b 0xFF 0xFF c
@[simp] theorem event_sec (s : State) (a b c : Nat) : (event s a b c).sec = s.sec := postEvent_sec s a b 0xFF 0xFF c
@[simp] theorem event_flash (s : State) (a b c : Nat) : (event s a b c).flash = s.flash := postEvent_flash s a b 0xFF 0xFF c
@[simp] theorem event_host (s : State) (a b c : Nat) : (event s a b c).host = s.host := postEvent_host s a b 0xFF 0xFF c

/-! #### insertRec -/

@[simp] theorem insertRec_pending (s : State) (r : ErrRec) : (insertRec s r).pending = s.pending := rfl
@[simp] theorem insertRec_freeCtr (s : State) (r : ErrRec) : (insertRec s r).freeCtr = s.freeCtr := rfl
@[simp] theorem insertRec_now (s : State) (r : ErrRec) : (insertRec s r).now = s.now := rfl
@[simp] theorem insertRec_regs (s : State) (r : ErrRec) : (insertRec s r).regs = s.regs := rfl
@[simp] theorem insertRec_mem (s : State) (r : ErrRec) : (insertRec s r).mem = s.mem := rfl
@[simp] theorem insertRec_ecc (s : State) (r : ErrRec) : (insertRec s r).ecc = s.ecc := rfl
@[simp] theorem insertRec_foreignDirty (s : State) (r : ErrRec) : (insertRec s r).foreignDirty = s.foreignDirty := rfl
@[simp] theorem insertRec_scrubWant (s : State) (r : ErrRec) : (insertRec s r).scrubWant = s.scrubWant := rfl
@[simp] theorem insertRec_patrol (s : State) (r : ErrRec) : (insertRec s r).patrol = s.patrol := rfl
@[simp] theorem insertRec_tiles (s : State) (r : ErrRec) : (insertRec s r).tiles = s.tiles := rfl
@[simp] theorem insertRec_advances (s : State) (r : ErrRec) : (insertRec s r).advances = s.advances := rfl
@[simp] theorem insertRec_plan (s : State) (r : ErrRec) : (insertRec s r).plan = s.plan := rfl
@[simp] theorem insertRec_sched (s : State) (r : ErrRec) : (insertRec s r).sched = s.sched := rfl
@[simp] theorem insertRec_ctxs (s : State) (r : ErrRec) : (insertRec s r).ctxs = s.ctxs := rfl
@[simp] theorem insertRec_parts (s : State) (r : ErrRec) : (insertRec s r).parts = s.parts := rfl
@[simp] theorem insertRec_pairs (s : State) (r : ErrRec) : (insertRec s r).pairs = s.pairs := rfl
@[simp] theorem insertRec_alloc (s : State) (r : ErrRec) : (insertRec s r).alloc = s.alloc := rfl
@[simp] theorem insertRec_wc (s : State) (r : ErrRec) : (insertRec s r).wc = s.wc := rfl
@[simp] theorem insertRec_errSeq (s : State) (r : ErrRec) : (insertRec s r).errSeq = s.errSeq := rfl
@[simp] theorem insertRec_time (s : State) (r : ErrRec) : (insertRec s r).time = s.time := rfl
@[simp] theorem insertRec_power (s : State) (r : ErrRec) : (insertRec s r).power = s.power := rfl
@[simp] theorem insertRec_carriers (s : State) (r : ErrRec) : (insertRec s r).carriers = s.carriers := rfl
@[simp] theorem insertRec_coding (s : State) (r : ErrRec) : (insertRec s r).coding = s.coding := rfl
@[simp] theorem insertRec_net (s : State) (r : ErrRec) : (insertRec s r).net = s.net := rfl
@[simp] theorem insertRec_peer (s : State) (r : ErrRec) : (insertRec s r).peer = s.peer := rfl
@[simp] theorem insertRec_boot (s : State) (r : ErrRec) : (insertRec s r).boot = s.boot := rfl
@[simp] theorem insertRec_otp (s : State) (r : ErrRec) : (insertRec s r).otp = s.otp := rfl
@[simp] theorem insertRec_sec (s : State) (r : ErrRec) : (insertRec s r).sec = s.sec := rfl
@[simp] theorem insertRec_flash (s : State) (r : ErrRec) : (insertRec s r).flash = s.flash := rfl
@[simp] theorem insertRec_host (s : State) (r : ErrRec) : (insertRec s r).host = s.host := rfl

/-! #### putRec -/

@[simp] theorem putRec_pending (s : State) (r : ErrRec) : (putRec s r).pending = s.pending := by unfold putRec; split <;> (try split) <;> rfl
@[simp] theorem putRec_freeCtr (s : State) (r : ErrRec) : (putRec s r).freeCtr = s.freeCtr := by unfold putRec; split <;> (try split) <;> rfl
@[simp] theorem putRec_now (s : State) (r : ErrRec) : (putRec s r).now = s.now := by unfold putRec; split <;> (try split) <;> rfl
@[simp] theorem putRec_mem (s : State) (r : ErrRec) : (putRec s r).mem = s.mem := by unfold putRec; split <;> (try split) <;> rfl
@[simp] theorem putRec_ecc (s : State) (r : ErrRec) : (putRec s r).ecc = s.ecc := by unfold putRec; split <;> (try split) <;> rfl
@[simp] theorem putRec_foreignDirty (s : State) (r : ErrRec) : (putRec s r).foreignDirty = s.foreignDirty := by unfold putRec; split <;> (try split) <;> rfl
@[simp] theorem putRec_scrubWant (s : State) (r : ErrRec) : (putRec s r).scrubWant = s.scrubWant := by unfold putRec; split <;> (try split) <;> rfl
@[simp] theorem putRec_patrol (s : State) (r : ErrRec) : (putRec s r).patrol = s.patrol := by unfold putRec; split <;> (try split) <;> rfl
@[simp] theorem putRec_tiles (s : State) (r : ErrRec) : (putRec s r).tiles = s.tiles := by unfold putRec; split <;> (try split) <;> rfl
@[simp] theorem putRec_advances (s : State) (r : ErrRec) : (putRec s r).advances = s.advances := by unfold putRec; split <;> (try split) <;> rfl
@[simp] theorem putRec_plan (s : State) (r : ErrRec) : (putRec s r).plan = s.plan := by unfold putRec; split <;> (try split) <;> rfl
@[simp] theorem putRec_sched (s : State) (r : ErrRec) : (putRec s r).sched = s.sched := by unfold putRec; split <;> (try split) <;> rfl
@[simp] theorem putRec_ctxs (s : State) (r : ErrRec) : (putRec s r).ctxs = s.ctxs := by unfold putRec; split <;> (try split) <;> rfl
@[simp] theorem putRec_parts (s : State) (r : ErrRec) : (putRec s r).parts = s.parts := by unfold putRec; split <;> (try split) <;> rfl
@[simp] theorem putRec_pairs (s : State) (r : ErrRec) : (putRec s r).pairs = s.pairs := by unfold putRec; split <;> (try split) <;> rfl
@[simp] theorem putRec_alloc (s : State) (r : ErrRec) : (putRec s r).alloc = s.alloc := by unfold putRec; split <;> (try split) <;> rfl
@[simp] theorem putRec_wc (s : State) (r : ErrRec) : (putRec s r).wc = s.wc := by unfold putRec; split <;> (try split) <;> rfl
@[simp] theorem putRec_errSeq (s : State) (r : ErrRec) : (putRec s r).errSeq = s.errSeq := by unfold putRec; split <;> (try split) <;> rfl
@[simp] theorem putRec_time (s : State) (r : ErrRec) : (putRec s r).time = s.time := by unfold putRec; split <;> (try split) <;> rfl
@[simp] theorem putRec_power (s : State) (r : ErrRec) : (putRec s r).power = s.power := by unfold putRec; split <;> (try split) <;> rfl
@[simp] theorem putRec_carriers (s : State) (r : ErrRec) : (putRec s r).carriers = s.carriers := by unfold putRec; split <;> (try split) <;> rfl
@[simp] theorem putRec_coding (s : State) (r : ErrRec) : (putRec s r).coding = s.coding := by unfold putRec; split <;> (try split) <;> rfl
@[simp] theorem putRec_net (s : State) (r : ErrRec) : (putRec s r).net = s.net := by unfold putRec; split <;> (try split) <;> rfl
@[simp] theorem putRec_peer (s : State) (r : ErrRec) : (putRec s r).peer = s.peer := by unfold putRec; split <;> (try split) <;> rfl
@[simp] theorem putRec_boot (s : State) (r : ErrRec) : (putRec s r).boot = s.boot := by unfold putRec; split <;> (try split) <;> rfl
@[simp] theorem putRec_otp (s : State) (r : ErrRec) : (putRec s r).otp = s.otp := by unfold putRec; split <;> (try split) <;> rfl
@[simp] theorem putRec_sec (s : State) (r : ErrRec) : (putRec s r).sec = s.sec := by unfold putRec; split <;> (try split) <;> rfl
@[simp] theorem putRec_flash (s : State) (r : ErrRec) : (putRec s r).flash = s.flash := by unfold putRec; split <;> (try split) <;> rfl
@[simp] theorem putRec_host (s : State) (r : ErrRec) : (putRec s r).host = s.host := by unfold putRec; split <;> (try split) <;> rfl

/-! #### logError -/

@[simp] theorem logError_pending (s : State) (r : ErrRec) : (logError s r).pending = s.pending := by unfold logError; simp
@[simp] theorem logError_freeCtr (s : State) (r : ErrRec) : (logError s r).freeCtr = s.freeCtr := by unfold logError; simp
@[simp] theorem logError_now (s : State) (r : ErrRec) : (logError s r).now = s.now := by unfold logError; simp
@[simp] theorem logError_mem (s : State) (r : ErrRec) : (logError s r).mem = s.mem := by unfold logError; simp
@[simp] theorem logError_ecc (s : State) (r : ErrRec) : (logError s r).ecc = s.ecc := by unfold logError; simp
@[simp] theorem logError_foreignDirty (s : State) (r : ErrRec) : (logError s r).foreignDirty = s.foreignDirty := by unfold logError; simp
@[simp] theorem logError_scrubWant (s : State) (r : ErrRec) : (logError s r).scrubWant = s.scrubWant := by unfold logError; simp
@[simp] theorem logError_patrol (s : State) (r : ErrRec) : (logError s r).patrol = s.patrol := by unfold logError; simp
@[simp] theorem logError_tiles (s : State) (r : ErrRec) : (logError s r).tiles = s.tiles := by unfold logError; simp
@[simp] theorem logError_advances (s : State) (r : ErrRec) : (logError s r).advances = s.advances := by unfold logError; simp
@[simp] theorem logError_plan (s : State) (r : ErrRec) : (logError s r).plan = s.plan := by unfold logError; simp
@[simp] theorem logError_sched (s : State) (r : ErrRec) : (logError s r).sched = s.sched := by unfold logError; simp
@[simp] theorem logError_ctxs (s : State) (r : ErrRec) : (logError s r).ctxs = s.ctxs := by unfold logError; simp
@[simp] theorem logError_parts (s : State) (r : ErrRec) : (logError s r).parts = s.parts := by unfold logError; simp
@[simp] theorem logError_pairs (s : State) (r : ErrRec) : (logError s r).pairs = s.pairs := by unfold logError; simp
@[simp] theorem logError_alloc (s : State) (r : ErrRec) : (logError s r).alloc = s.alloc := by unfold logError; simp
@[simp] theorem logError_wc (s : State) (r : ErrRec) : (logError s r).wc = s.wc := by unfold logError; simp
@[simp] theorem logError_time (s : State) (r : ErrRec) : (logError s r).time = s.time := by unfold logError; simp
@[simp] theorem logError_power (s : State) (r : ErrRec) : (logError s r).power = s.power := by unfold logError; simp
@[simp] theorem logError_carriers (s : State) (r : ErrRec) : (logError s r).carriers = s.carriers := by unfold logError; simp
@[simp] theorem logError_coding (s : State) (r : ErrRec) : (logError s r).coding = s.coding := by unfold logError; simp
@[simp] theorem logError_net (s : State) (r : ErrRec) : (logError s r).net = s.net := by unfold logError; simp
@[simp] theorem logError_peer (s : State) (r : ErrRec) : (logError s r).peer = s.peer := by unfold logError; simp
@[simp] theorem logError_boot (s : State) (r : ErrRec) : (logError s r).boot = s.boot := by unfold logError; simp
@[simp] theorem logError_otp (s : State) (r : ErrRec) : (logError s r).otp = s.otp := by unfold logError; simp
@[simp] theorem logError_sec (s : State) (r : ErrRec) : (logError s r).sec = s.sec := by unfold logError; simp
@[simp] theorem logError_flash (s : State) (r : ErrRec) : (logError s r).flash = s.flash := by unfold logError; simp
@[simp] theorem logError_host (s : State) (r : ErrRec) : (logError s r).host = s.host := by unfold logError; simp

end Sys2Proof.Machine
end

