-- ==== Sys2Proof/Laws/Ops.lean ====
section
/-!
SUPPORT. Ops.lean (laws): what is read after each of the named operations, one law per operation: registers, tiles, contexts, carriers,
links, streams, bit fields, events and errors, and repeated changes.
-/
namespace Sys2Proof.Machine

open Sys2Proof

/-! ### Bit fields of a word -/

theorem maskOf_bit (n hi lo i : Nat) : (maskOf n hi lo).getLsbD i = (decide (i < n) && (decide (lo ≤ i) && decide (i < hi + 1 - lo + lo))) := by
  simp only [maskOf, BitVec.getLsbD_ofNat, Nat.testBit_shiftLeft, Nat.testBit_two_pow_sub_one, ge_iff_le]
  by_cases h : lo ≤ i
  · rw [show decide (i - lo < hi + 1 - lo) = decide (i < hi + 1 - lo + lo) from decide_eq_decide.mpr (by omega)]
  · simp [h]

/-- A field written reads, bit by bit, as the number written inside it and as before outside. -/
theorem setField_bit {n : Nat} (w : BitVec n) (hi lo x i : Nat) (h : i < n) :
    (setField w hi lo x).getLsbD i = if lo ≤ i ∧ i < hi + 1 - lo + lo then x.testBit (i - lo) else w.getLsbD i := by
  simp only [setField, BitVec.getLsbD_or, BitVec.getLsbD_and, BitVec.getLsbD_not, maskOf_bit, BitVec.getLsbD_ofNat,
    Nat.testBit_shiftLeft, Nat.testBit_mod_two_pow, h, decide_true, Bool.true_and, ge_iff_le]
  by_cases h1 : lo ≤ i
  · by_cases h2 : i < hi + 1 - lo + lo
    · simp [h1, h2, show i - lo < hi + 1 - lo by omega]
    · simp [h1, h2, show ¬ i - lo < hi + 1 - lo by omega]
  · simp [h1]

@[simp] theorem bitOf_setBit_self {n : Nat} (w : BitVec n) (i : Nat) (b : Bool) (h : i < n) : bitOf (setBit w i b) i = b := by
  unfold bitOf setBit
  rw [setField_bit _ _ _ _ _ h, if_pos (by omega)]
  cases b <;> simp

theorem bitOf_setBit_other {n : Nat} (w : BitVec n) {i j : Nat} (b : Bool) (h : j ≠ i) : bitOf (setBit w i b) j = bitOf w j := by
  unfold bitOf setBit
  by_cases hj : j < n
  · rw [setField_bit _ _ _ _ _ hj, if_neg (by omega)]
  · rw [BitVec.getLsbD_of_ge _ _ (by omega), BitVec.getLsbD_of_ge _ _ (by omega)]

theorem fieldOf_bit {n : Nat} (w : BitVec n) (hi lo i : Nat) :
    (fieldOf w hi lo).testBit i = (decide (i < hi + 1 - lo) && w.getLsbD (lo + i)) := by
  simp [fieldOf, nbits, Nat.testBit_mod_two_pow, Nat.testBit_shiftRight, BitVec.getLsbD]

/-- A field written reads as what was written, modulo its width. -/
theorem fieldOf_setField {n : Nat} (w : BitVec n) {hi lo : Nat} (x : Nat) (h : hi < n) :
    fieldOf (setField w hi lo x) hi lo = x % 2 ^ (hi + 1 - lo) := by
  apply Nat.eq_of_testBit_eq
  intro i
  rw [fieldOf_bit, Nat.testBit_mod_two_pow]
  by_cases hi' : i < hi + 1 - lo
  · rw [setField_bit _ _ _ _ _ (by omega), if_pos (by omega), Nat.add_sub_cancel_left]
  · simp [hi']

/-- A field that does not meet the one written reads as before. -/
theorem fieldOf_setField_other {n : Nat} (w : BitVec n) {hi lo hi' lo' : Nat} (x : Nat) (h : hi' < lo ∨ hi < lo') (hw : hi' < n) :
    fieldOf (setField w hi lo x) hi' lo' = fieldOf w hi' lo' := by
  apply Nat.eq_of_testBit_eq
  intro i
  rw [fieldOf_bit, fieldOf_bit]
  by_cases hi2 : i < hi' + 1 - lo'
  · rw [setField_bit _ _ _ _ _ (by omega), if_neg (by omega)]
  · simp [hi2]

/-! ### Registers -/

theorem getR_of_regs {s t : State} (h : t.regs = s.regs) (a : Nat) : getR t a = getR s a := by simp [getR, h]

theorem getR_setR (s : State) (a : Nat) (v : Word) (b : Nat) : getR (setR s a v) b = if b = a then v else getR s b := by
  simp only [getR, setR]
  have h := mapGet_mapSet (resetValue a) s.regs a v b
  by_cases hb : b = a
  · subst hb; simpa [mapGet] using h
  · unfold mapSet; split <;> simp [hb]

@[simp] theorem getR_setR_self (s : State) (a : Nat) (v : Word) : getR (setR s a v) a = v := by simp [getR_setR]

theorem getR_setR_other (s : State) {a b : Nat} (v : Word) (h : b ≠ a) : getR (setR s a v) b = getR s b := by simp [getR_setR, h]

theorem getR_setF (s : State) (a hi lo x b : Nat) :
    getR (setF s a hi lo x) b = if b = a then setField (getR s a) hi lo x else getR s b := getR_setR ..

theorem getR_setBitR (s : State) (a i : Nat) (v : Bool) (b : Nat) :
    getR (setBitR s a i v) b = if b = a then setBit (getR s a) i v else getR s b := getR_setR ..

theorem getR_flag (s : State) (a i b : Nat) : getR (flag s a i) b = if b = a then setBit (getR s a) i true else getR s b := getR_setR ..

theorem getR_flagIf (s : State) (c : Bool) (a i b : Nat) :
    getR (flagIf s c a i) b = if c = true ∧ b = a then setBit (getR s a) i true else getR s b := by
  cases c <;> simp [flagIf, getR_flag]

theorem getR_incR (s : State) (a n b : Nat) : getR (incR s a n) b = if b = a then satAdd (getR s a) n else getR s b := getR_setR ..

/-- A flag that is set reads as set, and every flag set before stays so. -/
theorem getB_flag (s : State) (a i b j : Nat) (hi : i < 32) :
    getB (flag s a i) b j = (decide (b = a ∧ j = i) || getB s b j) := by
  unfold getB
  rw [getR_flag]
  by_cases hb : b = a
  · subst hb
    by_cases hj : j = i
    · subst hj; simp [hi]
    · simp [hj, bitOf_setBit_other _ _ hj]
  · simp [hb]

@[simp] theorem getR_setT (s : State) (t : Nat) (x : Tile) (a : Nat) : getR (setT s t x) a = getR s a := rfl
@[simp] theorem getR_modT (s : State) (t : Nat) (f : Tile → Tile) (a : Nat) : getR (modT s t f) a = getR s a := rfl
@[simp] theorem getR_setC (s : State) (c : Nat) (x : Ctx) (a : Nat) : getR (setC s c x) a = getR s a := rfl
@[simp] theorem getR_modC (s : State) (c : Nat) (f : Ctx → Ctx) (a : Nat) : getR (modC s c f) a = getR s a := rfl
@[simp] theorem getR_setP (s : State) (p : Nat) (x : Part) (a : Nat) : getR (setP s p x) a = getR s a := rfl
@[simp] theorem getR_setBytes (s : State) (b : Nat) (l : List Byte) (a : Nat) : getR (setBytes s b l) a = getR s a := rfl
@[simp] theorem getR_setLe (s : State) (b n x a : Nat) : getR (setLe s b n x) a = getR s a := rfl
@[simp] theorem getR_zeroRange (s : State) (b n a : Nat) : getR (zeroRange s b n) a = getR s a := rfl
@[simp] theorem getR_setCar (s : State) (c : Nat) (x : Carrier) (a : Nat) : getR (setCar s c x) a = getR s a := rfl
@[simp] theorem getR_setL (s : State) (l : Nat) (x : PeerLink) (a : Nat) : getR (setL s l x) a = getR s a := rfl
@[simp] theorem getR_setTx (s : State) (n : Nat) (x : StreamTx) (a : Nat) : getR (setTx s n x) a = getR s a := rfl

/-! ### Tiles, contexts, partitions, carriers, links, streams -/

theorem getT_setT (s : State) (t : Nat) (x : Tile) (u : Nat) : getT (setT s t x) u = if u = t then x else getT s u := mapGet_mapSet ..
@[simp] theorem getT_setT_self (s : State) (t : Nat) (x : Tile) : getT (setT s t x) t = x := by simp [getT_setT]
theorem getT_modT (s : State) (t : Nat) (f : Tile → Tile) (u : Nat) :
    getT (modT s t f) u = if u = t then f (getT s t) else getT s u := mapGet_mapSet ..
theorem getC_setC (s : State) (c : Nat) (x : Ctx) (d : Nat) : getC (setC s c x) d = if d = c then x else getC s d := mapGet_mapSet ..
@[simp] theorem getC_setC_self (s : State) (c : Nat) (x : Ctx) : getC (setC s c x) c = x := by simp [getC_setC]
theorem getC_modC (s : State) (c : Nat) (f : Ctx → Ctx) (d : Nat) :
    getC (modC s c f) d = if d = c then f (getC s c) else getC s d := mapGet_mapSet ..
theorem getP_setP (s : State) (p : Nat) (x : Part) (q : Nat) : getP (setP s p x) q = if q = p then x else getP s q := mapGet_mapSet ..
theorem getCar_setCar (s : State) (c : Nat) (x : Carrier) (d : Nat) :
    getCar (setCar s c x) d = if d = c then x else getCar s d := mapGet_mapSet ..

theorem getL_setL (s : State) (l : Nat) (x : PeerLink) (m : Nat) : getL (setL s l x) m = if m = l then x else getL s m := by
  simp only [getL, setL, mapGet, mapFind_mapPut]
  split <;> rfl

theorem getTx_setTx (s : State) (n : Nat) (x : StreamTx) (m : Nat) : getTx (setTx s n x) m = if m = n then x else getTx s m := by
  simp only [getTx, setTx, mapGet, mapFind_mapPut]
  split <;> rfl

theorem getT_of_tiles {s u : State} (h : u.tiles = s.tiles) (t : Nat) : getT u t = getT s t := by simp [getT, h]
theorem getC_of_ctxs {s u : State} (h : u.ctxs = s.ctxs) (c : Nat) : getC u c = getC s c := by simp [getC, h]
theorem getCar_of_carriers {s u : State} (h : u.carriers = s.carriers) (c : Nat) : getCar u c = getCar s c := by simp [getCar, h]

@[simp] theorem getT_setR (s : State) (a : Nat) (v : Word) (t : Nat) : getT (setR s a v) t = getT s t := rfl
@[simp] theorem getC_setR (s : State) (a : Nat) (v : Word) (c : Nat) : getC (setR s a v) c = getC s c := rfl
@[simp] theorem getT_setC (s : State) (c : Nat) (x : Ctx) (t : Nat) : getT (setC s c x) t = getT s t := rfl
@[simp] theorem getC_setT (s : State) (t : Nat) (x : Tile) (c : Nat) : getC (setT s t x) c = getC s c := rfl

/-! ### Repeated changes -/

@[simp] theorem forEach_nil {α : Type} (s : State) (f : α → State → State) : forEach [] s f = s := rfl

@[simp] theorem forEach_cons {α : Type} (x : α) (l : List α) (s : State) (f : α → State → State) :
    forEach (x :: l) s f = forEach l (f x s) f := rfl

theorem forEach_append {α : Type} (l m : List α) (s : State) (f : α → State → State) :
    forEach (l ++ m) s f = forEach m (forEach l s f) f := List.foldl_append ..

/-- What every single change keeps, the repetition keeps. -/
theorem forEach_keep {α : Type} {P : State → Prop} {l : List α} {s : State} {f : α → State → State} (h0 : P s)
    (h : ∀ x ∈ l, ∀ u, P u → P (f x u)) : P (forEach l s f) := by
  induction l generalizing s with
  | nil => exact h0
  | cons x l ih => exact ih (h x (by simp) s h0) (fun y hy => h y (by simp [hy]))

/-- A field that no single change touches stands. -/
theorem forEach_field {α β : Type} (g : State → β) (l : List α) (s : State) (f : α → State → State)
    (h : ∀ x ∈ l, ∀ u, g (f x u) = g u) : g (forEach l s f) = g s :=
  forEach_keep (P := fun u => g u = g s) rfl (fun x hx u hu => (h x hx u).trans hu)

/-! ### Events and errors -/

/-- An event takes the next sequence number (17 R540). -/
@[simp] theorem postEvent_evtSeq (s : State) (cls code carrier ctx arg : Nat) :
    (postEvent s cls code carrier ctx arg).safe.evtSeq = (s.safe.evtSeq + 1) % 2 ^ 32 := by
  unfold postEvent; dsimp only; split <;> rfl

/-- A FIFO with room takes the record as its newest (17 R540). -/
theorem postEvent_events (s : State) (cls code carrier ctx arg : Nat) (h : s.safe.events.length < 256) :
    (postEvent s cls code carrier ctx arg).safe.events =
      s.safe.events ++ [{ seq := s.safe.evtSeq, cls := cls, code := code, carrier := carrier, ctx := ctx, arg := arg % 2 ^ 32,
                          uptime := uptime s % 2 ^ 32 }] := by
  unfold postEvent; simp [h]

/-- A full FIFO drops the record and counts it (17 R540). -/
theorem postEvent_full (s : State) (cls code carrier ctx arg : Nat) (h : 256 ≤ s.safe.events.length) :
    (postEvent s cls code carrier ctx arg).safe.events = s.safe.events ∧
      getR (postEvent s cls code carrier ctx arg) Reg.SAFE_EVT_LOST = satAdd (getR s Reg.SAFE_EVT_LOST) 1 := by
  unfold postEvent
  simp only [show ¬ s.safe.events.length < 256 by omega, if_false, flag_safe, incR_safe, true_and]
  rw [getR_flag, if_neg (by decide), getR_incR, if_pos rfl]
  rfl

/-- An event writes no register but the FIFO's two. -/
theorem getR_postEvent (s : State) (cls code carrier ctx arg : Nat) {a : Nat} (h1 : a ≠ Reg.SAFE_FLAGS) (h2 : a ≠ Reg.SAFE_EVT_LOST) :
    getR (postEvent s cls code carrier ctx arg) a = getR s a := by
  unfold postEvent
  dsimp only
  split
  · rw [getR_flag, if_neg h1]; rfl
  · rw [getR_flag, if_neg h1, getR_incR, if_neg h2]; rfl

/-- An error record takes the next sequence number of its log (09 R325). -/
@[simp] theorem logError_errSeq (s : State) (r : ErrRec) : (logError s r).errSeq = (s.errSeq + 1) % 2 ^ 32 := by
  unfold logError; simp

/-- A record in the log writes no register but the count of lost ones. -/
theorem getR_putRec (s : State) (r : ErrRec) {a : Nat} (h : a ≠ Reg.ERR_LOG_LOST) : getR (putRec s r) a = getR s a := by
  unfold putRec
  split
  · rw [getR_incR, if_neg h]
  · split <;> rfl

/-- An error counts in its class, and writes no register but that counter, the log's, and the event FIFO's (09 R307, R325). -/
theorem getR_logError (s : State) (r : ErrRec) {a : Nat} (h1 : a ≠ Reg.SAFE_FLAGS) (h2 : a ≠ Reg.SAFE_EVT_LOST)
    (h3 : a ≠ Reg.ERR_LOG_LOST) (h4 : a ≠ Reg.ERR_CLASS_CNT r.cls) : getR (logError s r) a = getR s a := by
  unfold logError
  rw [getR_postEvent _ _ _ _ _ _ h1 h2]
  exact (getR_putRec _ _ h3).trans (by rw [countError, getR_incR, if_neg h4])

end Sys2Proof.Machine
end

