-- ==== Sys2Proof/Laws/Memory.lean ====
section
/-!
SUPPORT. Memory.lean (laws): what a byte reads as after a store and after a range is zeroed, and that every operation on memory keeps its
canonical form.
-/
namespace Sys2Proof.Machine

open Sys2Proof

theorem mapGet_putBytes (m : SMap Byte) (a : Nat) (l : List Byte) (x : Nat) :
    mapGet 0#8 (putBytes m a l) x = if a ≤ x ∧ x < a + l.length then l.getD (x - a) 0#8 else mapGet 0#8 m x := by
  induction l generalizing m a with
  | nil => simp only [putBytes, List.length_nil]; rw [if_neg (by omega)]
  | cons b l ih =>
    simp only [putBytes, ih, mapGet_mapSet, List.length_cons]
    by_cases h : x = a
    · subst h; rw [if_neg (by omega), if_pos rfl, if_pos (by omega)]; simp
    · rw [if_neg h]
      by_cases h2 : a + 1 ≤ x ∧ x < a + 1 + l.length
      · rw [if_pos h2, if_pos (by omega), show x - a = x - (a + 1) + 1 by omega, List.getD_cons_succ]
      · rw [if_neg h2, if_neg (by omega)]

/-- A store: the bytes stored read back, and every other byte stands. -/
theorem getByte_setBytes (s : State) (a : Nat) (l : List Byte) (x : Nat) :
    getByte (setBytes s a l) x = if a ≤ x ∧ x < a + l.length then l.getD (x - a) 0#8 else getByte s x := mapGet_putBytes ..

theorem getByte_setBytes_other (s : State) (a : Nat) (l : List Byte) (x : Nat) (h : x < a ∨ a + l.length ≤ x) :
    getByte (setBytes s a l) x = getByte s x := by rw [getByte_setBytes, if_neg (by omega)]

@[simp] theorem getByte_setBytes_nil (s : State) (a x : Nat) : getByte (setBytes s a []) x = getByte s x :=
  getByte_setBytes_other _ _ _ _ (by simp; omega)

/-- A range that is zeroed reads as zero, and every other byte stands. -/
theorem getByte_zeroRange (s : State) (a n x : Nat) :
    getByte (zeroRange s a n) x = if a ≤ x ∧ x < a + n then 0#8 else getByte s x := by
  simp only [getByte, zeroRange, mapGet_filter (p := fun k => !(decide (a ≤ k) && decide (k < a + n)))]
  by_cases h : a ≤ x ∧ x < a + n <;> simp [h]

theorem getByte_of_mem {s t : State} (h : t.mem = s.mem) (x : Nat) : getByte t x = getByte s x := by simp [getByte, h]

@[simp] theorem getByte_setR (s : State) (a : Nat) (v : Word) (x : Nat) : getByte (setR s a v) x = getByte s x := rfl
@[simp] theorem getByte_setT (s : State) (t : Nat) (y : Tile) (x : Nat) : getByte (setT s t y) x = getByte s x := rfl
@[simp] theorem getByte_setC (s : State) (c : Nat) (y : Ctx) (x : Nat) : getByte (setC s c y) x = getByte s x := rfl
@[simp] theorem getByte_setCar (s : State) (c : Nat) (y : Carrier) (x : Nat) : getByte (setCar s c y) x = getByte s x := rfl

theorem getBytes_of_mem {s t : State} (h : t.mem = s.mem) (a n : Nat) : getBytes t a n = getBytes s a n := by
  simp [getBytes, getByte_of_mem h]

/-! ### The canonical form -/

theorem putBytes_wf {m : SMap Byte} (h : mapWf 0#8 m = true) (a : Nat) (l : List Byte) : mapWf 0#8 (putBytes m a l) = true := by
  induction l generalizing m a with
  | nil => exact h
  | cons b l ih => exact ih (mapWf_mapSet h a b) (a + 1)

theorem wf_of_mem {s t : State} (h : t.mem = s.mem) (hs : Memory.wf s = true) : Memory.wf t = true := by
  unfold Memory.wf at hs ⊢
  rwa [h]

theorem wf_setBytes {s : State} (h : Memory.wf s = true) (a : Nat) (l : List Byte) : Memory.wf (setBytes s a l) = true :=
  putBytes_wf h a l

theorem wf_setLe {s : State} (h : Memory.wf s = true) (a n x : Nat) : Memory.wf (setLe s a n x) = true := wf_setBytes h a _

theorem wf_zeroRange {s : State} (h : Memory.wf s = true) (a n : Nat) : Memory.wf (zeroRange s a n) = true := mapWf_filter h _

theorem wf_reset : Memory.wf State.reset = true := rfl

/-- Memory in canonical form is told apart by its bytes. -/
theorem mem_ext {s t : State} (hs : Memory.wf s = true) (ht : Memory.wf t = true) (h : ∀ x, getByte t x = getByte s x) : t.mem = s.mem :=
  mapWf_ext ht hs h

end Sys2Proof.Machine
end

