-- ==== Sys2Proof/Laws/Keeps.lean ====
section
/-!
SUPPORT. Keeps.lean (laws): what no command undoes (`Keeps`, Safety.lean) passes through every shared operation, so that a proof about a
meaning goes from one operation to the next and unfolds none of them.
-/
namespace Sys2Proof

open Sys2Proof.Machine

theorem Keeps.refl (s : State) : Keeps s s := ⟨id, Nat.le_refl _, Nat.le_refl _, id, rfl⟩

theorem Keeps.trans {s t u : State} (h : Keeps s t) (k : Keeps t u) : Keeps s u :=
  ⟨fun x => k.trust (h.trust x), Nat.le_trans h.secver k.secver, Nat.le_trans h.life k.life, fun x => k.mem (h.mem x), k.queue.trans h.queue⟩

/-- A change that leaves OTP, memory and the queue alone. -/
theorem Keeps.of_fields {s t : State} (ho : t.otp = s.otp) (hm : t.mem = s.mem) (hq : t.pending = s.pending) : Keeps s t :=
  ⟨fun h => by rwa [ho], by rw [ho], by rw [ho]; exact Nat.le_refl _, wf_of_mem hm, hq⟩

/-- A change of memory that keeps its form. -/
theorem Keeps.of_mem {s t : State} (ho : t.otp = s.otp) (hm : Memory.wf s = true → Memory.wf t = true) (hq : t.pending = s.pending) :
    Keeps s t :=
  ⟨fun h => by rwa [ho], by rw [ho], by rw [ho]; exact Nat.le_refl _, hm, hq⟩

/-- The invariant passes through what keeps it. -/
theorem Inv.of_keeps {s t : State} (h : Inv s) (k : Keeps s t) : Inv t := ⟨k.trust h.1, k.mem h.2⟩

theorem keeps_setR (s : State) (a : Nat) (v : Word) : Keeps s (setR s a v) := .of_fields rfl rfl rfl
theorem keeps_setF (s : State) (a hi lo x : Nat) : Keeps s (setF s a hi lo x) := .of_fields rfl rfl rfl
theorem keeps_setBitR (s : State) (a i : Nat) (b : Bool) : Keeps s (setBitR s a i b) := .of_fields rfl rfl rfl
theorem keeps_flag (s : State) (a i : Nat) : Keeps s (flag s a i) := .of_fields rfl rfl rfl
theorem keeps_flagIf (s : State) (c : Bool) (a i : Nat) : Keeps s (flagIf s c a i) := .of_fields (by simp) (by simp) (by simp)
theorem keeps_incR (s : State) (a n : Nat) : Keeps s (incR s a n) := .of_fields rfl rfl rfl
theorem keeps_setN64 (s : State) (lo hi x : Nat) : Keeps s (setN64 s lo hi x) := .of_fields rfl rfl rfl
theorem keeps_incR64 (s : State) (lo hi n : Nat) : Keeps s (incR64 s lo hi n) := .of_fields rfl rfl rfl
theorem keeps_reservedWrite (s : State) : Keeps s (reservedWrite s) := .of_fields rfl rfl rfl
theorem keeps_countError (s : State) (n : Nat) : Keeps s (countError s n) := .of_fields rfl rfl rfl
theorem keeps_setT (s : State) (t : Nat) (x : Tile) : Keeps s (setT s t x) := .of_fields rfl rfl rfl
theorem keeps_modT (s : State) (t : Nat) (f : Tile → Tile) : Keeps s (modT s t f) := .of_fields rfl rfl rfl
theorem keeps_setC (s : State) (c : Nat) (x : Ctx) : Keeps s (setC s c x) := .of_fields rfl rfl rfl
theorem keeps_modC (s : State) (c : Nat) (f : Ctx → Ctx) : Keeps s (modC s c f) := .of_fields rfl rfl rfl
theorem keeps_setP (s : State) (p : Nat) (x : Part) : Keeps s (setP s p x) := .of_fields rfl rfl rfl
theorem keeps_modP (s : State) (p : Nat) (f : Part → Part) : Keeps s (modP s p f) := .of_fields rfl rfl rfl
theorem keeps_setCar (s : State) (c : Nat) (x : Carrier) : Keeps s (setCar s c x) := .of_fields rfl rfl rfl
theorem keeps_modCar (s : State) (c : Nat) (f : Carrier → Carrier) : Keeps s (modCar s c f) := .of_fields rfl rfl rfl
theorem keeps_setL (s : State) (l : Nat) (x : PeerLink) : Keeps s (setL s l x) := .of_fields rfl rfl rfl
theorem keeps_modL (s : State) (l : Nat) (f : PeerLink → PeerLink) : Keeps s (modL s l f) := .of_fields rfl rfl rfl
theorem keeps_setTx (s : State) (n : Nat) (x : StreamTx) : Keeps s (setTx s n x) := .of_fields rfl rfl rfl
theorem keeps_setBytes (s : State) (a : Nat) (l : List Byte) : Keeps s (setBytes s a l) := .of_mem rfl (fun h => wf_setBytes h a l) rfl
theorem keeps_setLe (s : State) (a n x : Nat) : Keeps s (setLe s a n x) := .of_mem rfl (fun h => wf_setLe h a n x) rfl
theorem keeps_zeroRange (s : State) (a n : Nat) : Keeps s (zeroRange s a n) := .of_mem rfl (fun h => wf_zeroRange h a n) rfl
theorem keeps_postEvent (s : State) (a b c d e : Nat) : Keeps s (postEvent s a b c d e) := .of_fields (by simp) (by simp) (by simp)
theorem keeps_event (s : State) (a b c : Nat) : Keeps s (event s a b c) := .of_fields (by simp) (by simp) (by simp)
theorem keeps_logError (s : State) (r : ErrRec) : Keeps s (logError s r) := .of_fields (by simp) (by simp) (by simp)
theorem keeps_fresh (s : State) : Keeps s (fresh s).2 := .of_fields rfl rfl rfl

/-- A repetition of changes that keep it. -/
theorem keeps_forEach {α : Type} (l : List α) (s : State) (f : α → State → State) (h : ∀ x ∈ l, ∀ u, Keeps u (f x u)) :
    Keeps s (forEach l s f) :=
  forEach_keep (P := Keeps s) (.refl s) (fun x hx u hu => hu.trans (h x hx u))

/-- A choice of two changes that keep it. -/
theorem keeps_ite {s t u : State} {c : Prop} [Decidable c] (ht : c → Keeps s t) (hu : ¬ c → Keeps s u) : Keeps s (if c then t else u) := by
  split
  · exact ht ‹_›
  · exact hu ‹_›

end Sys2Proof
end

