-- ==== Sys2Proof/Laws/Registers.lean ====
section
/-!
SUPPORT. Registers.lean (laws): all that a register write by access codes can do, what the settling of the power controller leaves alone,
and the byte order of a little-endian number.
-/
namespace Sys2Proof.Machine

open Sys2Proof

/-! ### Register writes (17 R537, R539) -/

/-- A register write changes registers only: the one named, if the address holds one, and ERR_HOST_STATUS. -/
theorem putReg_eq (s : State) (a : Nat) (lock : Bool) (v : Word) : ∃ m, putReg s a lock v = { s with regs := m } := by
  unfold putReg flagIf
  dsimp only
  split <;> split <;> split <;> exact ⟨_, rfl⟩

theorem getR_putReg (s : State) (a : Nat) (lock : Bool) (v : Word) {b : Nat} (h1 : b ≠ a) (h2 : b ≠ Reg.ERR_HOST_STATUS) :
    getR (putReg s a lock v) b = getR s b := by
  unfold putReg
  dsimp only
  rw [getR_flagIf, if_neg (by tauto), getR_flagIf, if_neg (by tauto)]
  split
  · exact getR_setR_other s _ h1
  · rfl

/-- The register named takes the value that its fields' access codes give. -/
theorem getR_putReg_self (s : State) (a : Nat) (lock : Bool) (v : Word) (h : (regRow a).isSome = true) (h2 : a ≠ Reg.ERR_HOST_STATUS) :
    getR (putReg s a lock v) a = (writeValue a lock (getR s a) v).value := by
  unfold putReg
  dsimp only
  rw [getR_flagIf, if_neg (by tauto), getR_flagIf, if_neg (by tauto), if_pos h, getR_setR_self]

theorem keeps_putReg (s : State) (a : Nat) (lock : Bool) (v : Word) : Keeps s (putReg s a lock v) := by
  obtain ⟨m, h⟩ := putReg_eq s a lock v
  rw [h]
  exact .of_fields rfl rfl rfl

theorem keeps_regWrite (s : State) (a : Nat) (v : Word) : Keeps s (regWrite s a v) := keeps_putReg ..

theorem regBut_regWrite (s : State) (a : Nat) (v : Word) : regsBut [a, Reg.ERR_HOST_STATUS] s (regWrite s a v) := by
  intro b hb
  simp only [List.mem_cons, List.not_mem_nil, or_false, not_or] at hb
  exact getR_putReg s a _ v hb.1 hb.2

/-! ### The power controller (15 R480, R490) -/

/-- Settling changes the power controller's own state only. -/
theorem powerSettle_eq (s : State) : ∃ p, powerSettle s = { s with power := p } := ⟨_, rfl⟩

@[simp] theorem getR_powerSettle (s : State) (a : Nat) : getR (powerSettle s) a = getR s a := rfl

theorem keeps_powerSettle (s : State) : Keeps s (powerSettle s) := .of_fields rfl rfl rfl

/-! ### Byte order (00, Conventions) -/

@[simp] theorem length_leBytes (n x : Nat) : (leBytes n x).length = n := by
  induction n generalizing x with
  | zero => rfl
  | succ n ih => simp [leBytes, ih]

/-- A number laid out least significant byte first reads back, modulo its width. -/
theorem leNat_leBytes (n x : Nat) : leNat (leBytes n x) = x % 256 ^ n := by
  induction n generalizing x with
  | zero => simp [leBytes, leNat, Nat.mod_one]
  | succ n ih =>
    rw [leBytes, leNat, ih, BitVec.toNat_ofNat, show 256 ^ (n + 1) = 256 * 256 ^ n from Nat.pow_succ', Nat.mod_mul]

theorem getBytes_setBytes (s : State) (a : Nat) (l : List Byte) : getBytes (setBytes s a l) a l.length = l := by
  apply List.ext_getElem
  · simp [getBytes, build]
  · intro i h1 h2
    simp only [getBytes, build, List.getElem_map, List.getElem_range, getByte_setBytes]
    rw [if_pos (by omega), Nat.add_sub_cancel_left, List.getD_eq_getElem _ _ h2]

/-- A stored number reads back, modulo its width. -/
theorem getLe_setLe (s : State) (a n x : Nat) : getLe (setLe s a n x) a n = x % 256 ^ n := by
  have h := getBytes_setBytes s a (leBytes n x)
  rw [length_leBytes] at h
  rw [getLe, setLe, h, leNat_leBytes]

end Sys2Proof.Machine
end

