-- ==== Sys2Proof/Machine/BoundaryScan.lean ====
section
/-!
DEFINITION. BoundaryScan.lean: what the TAP makes of an instruction code (18 R569, R570, Table 18.12; 16 R519, Table 16.8).
No row of the table moves the TAP, which stays in Test-Logic-Reset in service (18 R570, log 86).
-/
namespace Sys2Proof.Machine

open Sys2Proof

inductive TapAct where
  | extest | idcode | samplePreload | extestPulse | extestTrain | clamp | highz | bypass
  | beyxonTest (code : Nat)
  deriving DecidableEq, Repr

/-- Beyxon's private test instructions are open in Blank and Returned (Table 16.8). -/
def testOpen (s : State) : Bool := s.otp.lc == 0 || s.otp.lc == 3

/-- What a loaded code acts as: the board-test codes only while PWRON_RST_N is low, codes that are not listed as BYPASS. -/
def tapActs (s : State) (pwronLow : Bool) (code : Nat) : TapAct :=
  match code with
  | 0x00 => if pwronLow then .extest else .bypass
  | 0x01 => .idcode
  | 0x02 => .samplePreload
  | 0x03 => if pwronLow then .extestPulse else .bypass
  | 0x04 => if pwronLow then .extestTrain else .bypass
  | 0x05 => if pwronLow then .clamp else .bypass
  | 0x06 => if pwronLow then .highz else .bypass
  | c => if 0x80 ≤ c ∧ c ≤ 0xFE ∧ testOpen s then .beyxonTest c else .bypass

/-- The 32-bit ID, by Beyxon's JEP106 code, which the spec does not state. -/
def idcode (jep106 : Nat) : Word := BitVec.ofNat 32 (0x1 * 2 ^ 28 + 0x7140 * 2 ^ 12 + jep106 % 2 ^ 11 * 2 + 1)

end Sys2Proof.Machine
end

