-- ==== Sys2Proof/Tests/Slice0.lean ====
section
/-!
SUPPORT. Slice0.lean: tests of the model: an ill-formed term for every check of WellFormed, the worked examples of the spec, and for
every statement of Obligations.lean that has hypotheses a state and operands that meet them, clause by clause.
-/
namespace Slice0Tests

open Sys2Proof Sys2Proof.Machine

set_option maxRecDepth 20000
-- One theorem at a time: every kernel check that waits would hold a thread with a stack of its own.
set_option Elab.async false
/-! ### Small states -/

/-- A word of the Developer: operands and immediate. -/
def dw (vd vs1 vs2 vs3 imm : Nat) : Word64 := BitVec.ofNat 64 (vd * 2 ^ 50 + vs1 * 2 ^ 44 + vs2 * 2 ^ 38 + vs3 * 2 ^ 32 + imm)
def w64 (n : Nat) : Word64 := BitVec.ofNat 64 n
def w128 (n : Nat) : Word128 := BitVec.ofNat 128 n
def w32 (n : Nat) : Word := BitVec.ofNat 32 n

/-- A plan of one partition: one entry, one program, contexts 0 and 1. -/
def tEntry : PlanEntry :=
  { start := 0, deadline := 0, ctx := 0, op := 0, spec := false, preempt := false, sems := [3], program := 0, tiles := 1#256 }
def tProg : Program := { entry := 0, threads := 512, tiles := 1#256, pins := [] }
def tDecl : Decl :=
  { ctx := 0, seat := 0, part := 0, spec := false, tiles := 1#256, ptRoot := 0, imemBase := 0, imemWords := 100, negOff := 0, groups := 0,
    shadowMax := 0, sems := 8#256, credits := [1, 0, 0, 0], recvVa := 0, recvPages := 0, ovfVa := 0, ovfPages := 0, holds := [(3, 10)] }
def tPart : PartPlan := { part := 0, cycle := 0, tiles := 1#256, negStore := 0, policy := 0, entries := [tEntry] }
def tPlan : Plan :=
  { parts := [tPart], programs := [tProg], decls := [tDecl, { tDecl with ctx := 1 }], setups := [], images := [], streams := [], bars := [(230, 3)],
    wsets := [], resv := [], placed := [] }
def tInst : ExpInst :=
  { entry := 0, cycle := 0, planned := 0, deadline := none, missed := false, spec := false, dueAt := 0, startAt := 0, started := [0], ended := [], stopped := [] }
def tCtx : Ctx := { Ctx.init with st := .running, inst := some tInst, runSince := some 0 }
def tTile : Tile := { Tile.init with run := some 0, seq := .issuing, pc := 10, power := .awake }

/-- A state whose tile 0 runs context 0. -/
def tS : State := { State.reset with regs := [], plan := some tPlan, ctxs := [(0, tCtx)], tiles := [(0, tTile)] }
def tX (x : Tile) : State := { tS with tiles := [(0, x)] }

/-- A Developer with a few values in its registers. -/
def tDev : Developer :=
  { Developer.first with
    v := [(256, 0x3FC00000#32), (257, 0xC0000000#32), (258, 0x00000005#32), (259, 0x7FC00000#32),
          (512, 0x40000000#32), (513, 0x00000003#32), (514, 0x00000001#32), (515, 0x00000009#32),
          (768, 0x11111111#32), (769, 0x22222222#32), (770, 0x33333333#32), (772, 0x55555555#32), (1024, 0x00010002#32), (1536, 0x3F800000#32)]
    m := [(0, 5#256), (1, 6#256), (3, 9#256)]
    s := [(0, 8#32), (1, 4#32), (5, 2#32)]
    a := [(512, 0x400000000#48), (513, 0x7FFFFFFFFFFF#48), (768, 0x1234567#48)]
    vlen := 4, cbb := [(0, 128#32)], cbl := [(0, 64#32)] }
def tD (d : Developer) : State := tX { tTile with dev := d }
def dS : State := tD tDev
def tFbq : FbqEntry := { owner := 0, tag := 7, data := [(0, 5#32), (1, 6#32), (64, 9#32)], wrap := [(1, true)], finished := true }
def tFbq2 : FbqEntry := { owner := 0, tag := 8, data := [(0, 15#32), (2, 16#32), (128, 19#32)], wrap := [], finished := true }
/-! States with a few registers -/
def rg (l : List (Nat × Word)) : SMap Word := l.foldl (fun m kv => mapPut m kv.1 kv.2) []
def sR (l : List (Nat × Word)) : State := { State.reset with regs := rg l }
def sBt (st : BootStage) (l : List (Nat × Word)) : State := { State.reset with regs := rg l, boot := { Boot.init with stage := st } }
def tB : Board := { xoDly := 3, bootMode := 2, coolantOk := true, quiesceLow := false, brakeLow := false, flash := none }
def wrF (c : HpCmd) (a : Nat) (n : Option Nat) (d : List Word) : HpWrite :=
  { inverse := 255 - c.byte, addr := a, length := 0, data := d, crc := crc8 (headBytes c (255 - c.byte) a n ++ wordBytes d), cutHost := false }
def rdF (c : HpCmd) (a n : Nat) : HpRead := { inverse := 255 - c.byte, addr := a, length := n, slow := false, cutHost := false, cutTarget := false }
/-- A flash of 64 KiB whose sheet header claims one section with a digest of zeros. -/
def tFlash : Flash := { size0 := 65536, size1 := 0, bytes := [(11, 1#8), (512, 1#8), (516, 0#8), (517, 0x10#8), (518, 0#8), (519, 0#8), (520, 1#8), (521, 0#8), (522, 0#8), (523, 0#8)] ++ (List.range 32).map (fun i => (528 + i, 0#8)), sfdp0 := [0x53#8], sfdp1 := [] }
/-! A carrier: number 0, µ = 0, 2 PRBs, 2 ports, valid; its slot 0 begins at device time `gps`. -/
def gps : Nat := 315964819 * unitsPerSec
def ccCfg : Word := 0x80102000#32
def exA : BitVec 128 := BitVec.ofNat 128 (2 ^ 39 + 5 * 2 ^ 16 + 9)
def exB : BitVec 128 := BitVec.ofNat 128 (2 ^ 39 + 5 * 2 ^ 16 + 10 + 2 ^ 48)
def tPrb : PrbIq := { exp := 0, iq := [(100, -200), (3, 4), (5, 6), (32767, -32768), (0, 0), (1, 1), (2, 2), (3, 3), (4, 4), (5, 5), (6, 6), (7, 7)] }
def tSec : USection := { rb := 0, symInc := 0, startPrb := 0, numPrb := 1, comp := none, lenOk := true, prbs := [tPrb], raw := [1#8, 2#8] }
def tUp : UPlaneMsg :=
  { mac := 0, vlan := 5, revision := 1, concat := false, sizeOk := true, msgType := 0, pcid := 9, seqId := 0, eBit := true, subSeq := 0, dir := 0,
    version := 1, filter := 0, frame := 0, subframe := 0, slot := 0, symbol := 0, sections := [tSec] }
def rec72 (l : List (Nat × Byte)) : List Byte := (List.range 72).map (fun i => mapGet 0#8 l i)
def tHd : NbHead := { mac := 0, srcIp := 0, srcPort := 0, phyId := 0, seq := 0, sfn := 0, slot := 0, raw := [1#8], csumBad := false, segBad := false, lenBad := false, fieldBad := false }
/-- RNTI 7, PRBs 0 and 1, symbols 0 to 1, a DMRS symbol 0. -/
def tAlloc : List Byte := rec72 [(0, 7#8), (4, 2#8), (12, 1#8), (18, 1#8), (23, 0#8), (24, 3#8), (64, 0#8), (65, 2#8), (60, 0#8), (61, 0#8), (62, 2#8)]
def tPusch : PuschPdu :=
  { alloc := tAlloc, handle := 3, ulsch := true, harq := 0, ndi := true, rv := 0, tbBytes := 8, lbrm := 8, bg2 := true, scrId := 1, uci := [], betas := [], alpha := 0, rate := 3080 }
def tReq : UlTti := { hd := tHd, order := [0], pusch := [tPusch], pucch := [], srs := [], prach := [] }
/-- The carrier running at a device time, with registers and slots of one's own. -/
def sC (dev : Nat) (l : List (Nat × Word)) (x : Carrier) : State :=
  { sR ([(Reg.ETH_P_CFG 0, 0x06000001#32), (Reg.ETH_P_STATUS 0, 1#32), (Reg.SCH_CC_CFG 0 0, ccCfg)] ++ l) with
    time := { TimeGen.init with running := true, dev := dev }, net := { Net.init with eaxc := [(3, exA), (4, exB)] },
    carriers := [(0, { x with running := true })] }
/-- The same carrier with a northbound engine that hears MAC 0. -/
def sN (dev : Nat) (l : List (Nat × Word)) (x : Carrier) : State :=
  sC dev ([(Reg.NB_CFG, 0x80000000#32), (Reg.NB_CC_PHYID 0, 0x80000000#32), (Reg.NB_TIMING, 0xFFFF#32)] ++ l) x
def hdAt (slot : Nat) : NbHead := { tHd with slot := slot }
def ulAt (slot : Nat) : UlTti := { tReq with hd := hdAt slot }
def dlAt (slot : Nat) : DlTti := { hd := hdAt slot, pdsch := [], pdcch := [⟨1, 0, ⟨3, 1, 0xFFF⟩⟩], ssb := [], csirs := [] }
def tPdsch : PdschPdu :=
  { pduIndex := 0, mu := 0, rnti := 7, layers := 1, alloc := ⟨3, 1, 0xFFF⟩, codewords := 1, tbBytes := [8], bg2 := true, lbrm := 8, rv := [0], qm := [2], codedBits := [48] }
def exD : BitVec 128 := BitVec.ofNat 128 (2 ^ 39 + 2 ^ 37 + 5 * 2 ^ 16 + 9)
/-- The carrier with one downlink eAxC and a downlink slot 0. -/
def sDl (dev : Nat) (l : List (Nat × Word)) (d : DlSlot) : State :=
  { sC dev ([(Reg.FHX_CC_DLCFG 0, 1#32)] ++ l) { Carrier.init with dl := [(0, d)] } with net := { Net.init with eaxc := [(3, exD)] } }
/-- How far past the slot start the mark of symbol 5 is first read on the whole microsecond grid of its reads. -/
def dlGrid : Nat := 19114667
def tPred : Pred := { alloc := tAlloc, version := none, foVersion := none, matched := false, dropped := false, refused := false, ctx := none, fo := none, stage4 := false, wrote := [] }
def tPdu : UlPdu := UlPdu.new tPusch none 0 none
def cb0 : CbRef := ⟨0, 0, 0, 0⟩
/-- The carrier's slot 0 holds one PUSCH PDU. -/
def sP (p : UlPdu) : State := sN gps [] { Carrier.init with ul := [(0, { UlSlot.init with cls := .onTime, req := some tReq, pdus := [p] })] }
def tPucch : PucchPdu := { rnti := 7, handle := 1, format := 2, uciBits := 4, detections := 1, prbStart := 0, prbs := 1, hop := none, symStart := 0, syms := 1, scrId := 1, mu := 0 }
def tTx : TxPdu := ⟨0, 0, [1#8, 2#8, 3#8, 4#8, 5#8, 6#8, 7#8, 8#8]⟩
def dlFull : DlSlot := { DlSlot.init with tti := some { dlAt 0 with pdsch := [tPdsch] }, data := some ⟨tHd, [tTx]⟩, works := [⟨none, false, 0, none, false⟩] }
def ueMem : SMap Byte := [(ctxCoreBase, 7#8), (ctxCoreBase + 3, 1#8)]
/-- The Ready device with its plan armed. -/
def sE (dev : Nat) (l : List (Nat × Word)) (cx : SMap Ctx) (ts : SMap Tile) : State :=
  { tS with
    regs := rg ([(Reg.TIME_STATUS, 0x80000000#32), (Reg.PEER_GRP_STATUS, 1#32), (Reg.PHYS_TILE_AVAIL 0, 0xFFFFFFFF#32)] ++ l)
    boot := { Boot.init with stage := .ready }, sched := { State.reset.sched with permitted := true, armed := true }
    time := { TimeGen.init with running := true, dev := dev }, ctxs := cx, tiles := ts }
def tAwake : Tile := { Tile.init with power := .awake }
def tNeg : Negative := { unit := unitOf { tTile with p := [(2, 7#48)], dev := tDev }, regs := [], cause := 1, entry := 0, stopTime := 0, cycle := 0, bytes := 65536 }
def tRing : List (Nat × Word) := [(Reg.TILE_RING_CFG 0 2, 0x86000000#32), (Reg.TILE_RING_PTR 0 2, 0x00030001#32)]
def sRing : State := { tS with regs := rg tRing }
def tPlan2 : Plan := { tPlan with parts := [{ tPart with entries := [{ tEntry with tiles := 3#256 }] }] }
/-! DMA: a page table that maps the low 2 MiB of HBM to itself, a channel, descriptors. -/
def tPt : SMap Byte := [(0, 1#8), (7, 0x80#8), (0x10007, 0x9C#8)]
/-- The same, with a last descriptor of zeros at 448. -/
def tPtL : SMap Byte := [(0, 1#8), (7, 0x80#8), (494, 1#8), (0x10007, 0x9C#8)]
def chF : DmaChan := { DmaChan.idle with busy := true, nextFetch := 448 }
def tCh (ch : DmaChan) : Tile := { tTile with dma := [ch, DmaChan.idle, DmaChan.idle, DmaChan.idle] }
/-- A descriptor of 16 bytes to scratchpad 128 with more of its bits set. -/
def dsc (more : Nat) : Desc := ⟨448, 128 * 2 ^ 64 + 2 ^ 112 + 16 * 2 ^ 128 + 2 ^ 160 + 2 ^ 176 + more⟩
def dFill : Desc := dsc (2 ^ 320 + 0x0807060504030201 * 2 ^ 448)
def dCopy : Desc := dsc (64 + 2 ^ 48)
def chS (d : Desc) : DmaChan := { DmaChan.idle with busy := true, fetchDone := true, fetched := [d] }
def chC (d : Desc) : DmaChan := { DmaChan.idle with busy := true, fetchDone := true, inFlight := [⟨d, 0, 0, 0, 0, []⟩] }
def chD (d : Desc) : DmaChan := { DmaChan.idle with busy := true, fetchDone := true, inFlight := [⟨d, 0, 0, 0, 1, []⟩] }
/-- A cached copy from HBM address 128. -/
def dCached : Desc := dsc (128 + 2 ^ 50)
/-- A channel whose DMA.GO range waits for an older access. -/
def chHeldT : Tile := { tCh { chS dFill with range := some ⟨5, .dma 0, 2, 4, true, true⟩ } with sb := [⟨0, .developer, 0, 100, true, true⟩] }
def sWaking : State := tX { tCh (chC dFill) with wakingG := [0] }
/-- A ring of 4 slots that is full, and one of its advances. -/
def tFull : List (Nat × Word) := [(Reg.TILE_RING_CFG 0 2, 0x86000000#32), (Reg.TILE_RING_PTR 0 2, 0x00050001#32)]
def dWait : Desc := ⟨448, 3 * 2 ^ 112 + 16 * 2 ^ 128 + 2 ^ 160 + 2 ^ 176 + 2 ^ 320 + 66 * 2 ^ 336⟩
def tBlocked : Tile := { tCh (chS dWait) with seq := .waiting, waitOp := 0xC7, wdSince := some 0 }
def planD (d : Decl) : Plan := { tPlan with decls := [d, { d with ctx := 1 }] }
/-! Enlarger, Fixer. -/
def tBank : EnlBank := { Enlarger.first.bank0 with fmt := 1, elems := [(0, 3#16), (1, 0xFE#16), (2, 5#16), (64, 7#16), (65, 0x80#16), (128, 2#16)] }
def tEnl : Enlarger := { Enlarger.first with bank0 := tBank, active1 := false, level := 4, phase := .gap }
def tE (e : Enlarger) : State := { tX { tTile with enl := e } with mem := [(spBase 0 + 64, 2#8), (spBase 0 + 65, 0xFF#8), (spBase 0 + 66, 4#8), (spBase 0 + 128, 0x7F#8)] }
def wLoads : Word128 := w128 (2 ^ 112 + 2 ^ 96 + 2 ^ 52 + 2 * 2 ^ 46 + 2 * 2 ^ 40)
def wPass : Word128 := w128 (2 ^ 112 + 2 ^ 100 + 2 ^ 72 + 2 ^ 48 + 2 ^ 44 + 2 * 2 ^ 38 + 2 * 2 ^ 32 + 9 * 2 ^ 24)
def wFix : Word128 := w128 (0x42C80000 * 2 ^ 96 + 2 ^ 80 + 16 * 2 ^ 64 + 2 ^ 40 + 2 * 2 ^ 28 + 9 * 2 ^ 24 + 2 ^ 20 + 2 * 2 ^ 18)
def wFixQ : Word128 := w128 (0x42C80000 * 2 ^ 96 + 16 * 2 ^ 64 + 63 * 2 ^ 40 + 63 * 2 ^ 28 + 9 * 2 ^ 24 + 2 ^ 20 + 2 * 2 ^ 18 + 2 ^ 15)
def jFix : FixJob := { pos := 3, cmd := wFix, waiting := false, converting := true, group := 0, acc := 0, maxima := [] }
/-! A group of two members: this device is member m. -/
def tMember (seats : Nat) : Member := { devId := 0, keyDigest := [], route := [], cabled := 1, seats := seats }
def tStream : Stream :=
  { num := 0, multicast := false, vc := 0, srcSeat := 0, srcCtx := 0, srcTile := 0, srcRing := 2, dstCtx := 0, dstTile := 0, dstRing := 2,
    stagePa := 0x10000, dstSeats := 2, stageSlots := 4 }
def sG (m : Nat) (l : List (Nat × Word)) (p : Peer) (x : Ctx) : State :=
  { tS with
    regs := rg ([(Reg.PEER_GRP_STATUS, BitVec.ofNat 32 (m * 65536 + 2)), (Reg.PEER_ROUTE 0, 0x80000000#32), (Reg.PEER_ROUTE 1, 0x80000000#32),
      (Reg.PEER_L_STATUS 0, 0x40000000#32), (Reg.PEER_GRP_CFG, 10#32)] ++ l)
    boot := { Boot.init with stage := .ready }, plan := some { tPlan with streams := [tStream] }, ctxs := [(0, x)], time := { TimeGen.init with running := true, dev := 5 }
    peer := { p with members := [tMember 1, tMember 2] } }
def pI : Peer := State.reset.peer
def cCred : Ctx := { tCtx with credits := [1, 0, 0, 0] }
def sLk (x : PeerLink) : Peer := { pI with links := [(0, x)] }
def fr (b : PeerBody) (src dst : Nat) : PeerFrame :=
  { kind := 0, vc := 0, hops := 1, epoch := 0, src := src, dst := dst, seq := 0, ack := 0, nack := false, ackValid := false, stream := 0, offset := 0, body := b, crcOk := true }
def dat64 : List Byte := 9#8 :: List.replicate 62 0#8 ++ [7#8]
def kp (n : Nat) : Kept := ⟨fr (.data [1#8]) 0 1, n, 0⟩
def txOut : StreamTx := { StreamTx.init with fresh := false, next := 1, out := [⟨0, 2, false⟩] }
def tx8 : StreamTx := { StreamTx.init with fresh := false, next := 8, heldAt := some 0, out := (List.range 8).map (fun i => ⟨i, 2, false⟩) }

/-! Results taken apart -/
def rBytes : RRes → List Byte
  | .ok bs _ => bs
  | _ => []
def rState : RRes → State
  | .ok _ s => s
  | _ => State.reset
def rIsOk : RRes → Bool
  | .ok _ _ => true
  | _ => false
def tIsOk : TRes → Bool
  | .ok _ => true
  | _ => false
theorem rOk {r : RRes} (h : rIsOk r = true) : r = .ok (rBytes r) (rState r) := by
  cases r with
  | ok => rfl
  | wait => exact absurd h (by simp [rIsOk])
  | fault => exact absurd h (by simp [rIsOk])
theorem tOk {r : TRes} (h : tIsOk r = true) : r = .ok r.state := by
  cases r with
  | ok => rfl
  | wait => exact absurd h (by simp [tIsOk])
  | fault => exact absurd h (by simp [tIsOk])
def tIsWait : TRes → Bool
  | .wait _ => true
  | _ => false
theorem tWaits {r : TRes} (h : tIsWait r = true) : r = .wait r.state := by
  cases r with
  | wait => rfl
  | ok => exact absurd h (by simp [tIsWait])
  | fault => exact absurd h (by simp [tIsWait])
theorem someFst {o : Option (Nat × List Int)} {a : Nat} (h : o.map (·.1) = some a) : o = some (a, (o.getD (0, [])).2) := by
  cases o with
  | none => exact absurd h (by simp)
  | some x => cases h; rfl
def sUci0 : State :=
  { sN gps [] { Carrier.init with ul := [(0, { UlSlot.init with cls := .onTime, req := some { tReq with pucch := [tPucch] }, pucch := [CtlRes.new none 0] })] } with
    power := { Power.init with hubOn := 4096 }, coding := { Coding.init with uciQ := [⟨0, 0, 0, 0, 0⟩] } }
def pUci : UlPdu := { tPdu with pdu := { tPusch with uci := [4] }, uciOut := [none] }
def sUci1 : State := { sP pUci with power := { Power.init with hubOn := 4096 }, coding := { Coding.init with uciQ := [⟨0, 0, 1, 0, 0⟩] } }

/-! ### Well-formedness: one ill-formed term for every check -/

def rdBad (f : HpRead) (bits : Nat) : List HpRead := [{ f with inverse := 256 }, { f with addr := 2 ^ bits }, { f with length := 65536 }]
def wrBad (f : HpWrite) (bits : Nat) : List HpWrite :=
  [{ f with inverse := 256 }, { f with addr := 2 ^ bits }, { f with length := 65536, cutHost := true }, { f with crc := 256 }, { f with data := [] }]
def rd0 : HpRead := rdF .regRd 0 0
def wr0 : HpWrite := wrF .regWr 0 none [7#32]
def ck0 : HpWrite := { wr0 with data := List.replicate 1024 0#32 }

theorem test_wf_board_and_host_port :
    ([.powerOnReset { tB with xoDly := 8 }, .powerOnReset { tB with bootMode := 4 },
      .powerOnReset { tB with flash := some { tFlash with bytes := [(5, 1#8), (3, 1#8)] } },
      .powerOnReset { tB with flash := some { tFlash with bytes := [(65536, 1#8)] } },
      .powerOnReset { tB with flash := some { tFlash with bytes := [], size1 := 2 ^ 29 } }, .systemReset { tB with xoDly := 8 } 0,
      .hpStat ⟨256, false⟩, .registerWrite 2 0#32, .registerWrite (2 ^ 32) 0#32, .deviceFatalError ⟨0, 2 ^ 48⟩, .hubDomainOn 73,
      .hubDomainOn 92, .thermalEval [25], .thermalEval (List.replicate 40 40000),
      .recovWr { ck0 with data := [] }, .recovWr { ck0 with inverse := 256 }, .recovWr { ck0 with addr := 2 ^ 32 }, .recovWr { ck0 with crc := 256 }]
      ++ (rdBad rd0 32).map .regRd ++ (rdBad rd0 48).map .memRd ++ (wrBad wr0 32).map .regWr ++ (wrBad wr0 48).map .memWr : List Instr).all
      (fun c => !c.wf) = true ∧
    ([.powerOnReset tB, .powerOnReset { tB with flash := some { tFlash with bytes := [(3, 1#8), (5, 1#8)] } }, .regRd rd0, .regWr wr0, .memWr wr0,
      .recovWr ck0, .registerWrite 4 0#32, .thermalEval (List.replicate 40 85), .hubDomainOn 74] : List Instr).all (·.wf) = true := by decide +kernel

def hdBad : List NbHead :=
  [{ tHd with phyId := 65536 }, { tHd with sfn := 65536 }, { tHd with slot := 65536 }, { tHd with srcIp := 2 ^ 128 }, { tHd with srcPort := 65536 }]
def puschBad : List PuschPdu :=
  [{ tPusch with alloc := [] }, { tPusch with harq := 256 }, { tPusch with rv := 4 }, { tPusch with uci := [1, 1, 1, 1] }, { tPusch with scrId := 65536 },
   { tPusch with betas := [0] }, { tPusch with uci := [3], betas := [19] }, { tPusch with alpha := 4 }, { tPusch with rate := 65536 }]
def pucchBad : List PucchPdu := [{ tPucch with rnti := 65536 }, { tPucch with format := 5 }, { tPucch with prbs := 276 }, { tPucch with syms := 15 },
  { tPucch with hop := some 275 }, { tPucch with mu := 5 }]
def tSrs : SrsPdu := ⟨7, 0, 1, 0, 4, 0, 1⟩
def tPrach : PrachPdu := ⟨1, 0, 0, 4, 0, 1⟩
def pdschBad : List PdschPdu :=
  [{ tPdsch with rnti := 65536 }, { tPdsch with codewords := 0 }, { tPdsch with codewords := 3 }, { tPdsch with alloc := ⟨2 ^ 275, 1, 1⟩ },
   { tPdsch with alloc := ⟨1, 2 ^ 14, 1⟩ }, { tPdsch with alloc := ⟨1, 1, 2 ^ 12⟩ }, { tPdsch with tbBytes := [] }, { tPdsch with rv := [] }, { tPdsch with rv := [4] }, { tPdsch with qm := [] },
   { tPdsch with codedBits := [] }]
def ctlBad : CtlPdu := ⟨1, 0, ⟨2 ^ 275, 1, 1⟩⟩
def dl0 : DlTti := dlAt 0

theorem test_wf_northbound :
    (hdBad.map (fun h => Instr.ulTtiRequest { tReq with hd := h }) ++ puschBad.map (fun p => Instr.ulTtiRequest { tReq with pusch := [p] })
      ++ pucchBad.map (fun p => Instr.ulTtiRequest { tReq with order := [0, 1], pucch := [p] })
      ++ [{ tSrs with rnti := 65536 }, { tSrs with prbs := 276 }, { tSrs with syms := 15 }].map (fun p => Instr.ulTtiRequest { tReq with order := [0, 2], srs := [p] })
      ++ [{ tPrach with prbs := 276 }, { tPrach with syms := 15 }].map (fun p => Instr.ulTtiRequest { tReq with order := [0, 3], prach := [p] })
      ++ [[], [0, 0], [0, 1], [0, 4]].map (fun o => Instr.ulTtiRequest { tReq with order := o })
      ++ hdBad.map (fun h => Instr.dlTtiRequest { dl0 with hd := h }) ++ pdschBad.map (fun p => Instr.dlTtiRequest { dl0 with pdsch := [p] })
      ++ ([.dlTtiRequest { dl0 with pdcch := [ctlBad] }, .dlTtiRequest { dl0 with ssb := [ctlBad] }, .dlTtiRequest { dl0 with csirs := [ctlBad] },
          .ulDciRequest ⟨tHd, [ctlBad]⟩, .txDataRequest ⟨tHd, [⟨0, 2, []⟩]⟩] : List Instr)
      ++ hdBad.map (fun h => Instr.ulDciRequest ⟨h, []⟩) ++ hdBad.map (fun h => Instr.txDataRequest ⟨h, []⟩)).all (fun c => !c.wf) = true ∧
    ([.ulTtiRequest { tReq with order := [2, 0, 3, 1], pucch := [tPucch], srs := [tSrs], prach := [tPrach] }, .dlTtiRequest { dl0 with pdsch := [tPdsch] },
      .ulDciRequest ⟨tHd, dl0.pdcch⟩, .txDataRequest ⟨tHd, [tTx]⟩] : List Instr).all (·.wf) = true := by decide +kernel

def upBad : List UPlaneMsg :=
  [{ tUp with vlan := 4096 }, { tUp with revision := 16 }, { tUp with msgType := 256 }, { tUp with pcid := 65536 }, { tUp with seqId := 256 },
   { tUp with subSeq := 128 }, { tUp with dir := 2 }, { tUp with version := 8 }, { tUp with filter := 16 }, { tUp with frame := 256 },
   { tUp with subframe := 16 }, { tUp with slot := 64 }, { tUp with symbol := 64 }]
def secBad : List USection :=
  [{ tSec with rb := 2 }, { tSec with symInc := 2 }, { tSec with startPrb := 1024 }, { tSec with numPrb := 256 }, { tSec with prbs := [{ tPrb with exp := 16 }] },
   { tSec with prbs := [{ tPrb with iq := [] }] }, { tSec with prbs := [{ tPrb with iq := List.replicate 12 (32768, 0) }] }]
def tOwd : OwdMsg := ⟨0, 5, 2, 5, 1, false, true, 0, 1, 0, 0⟩
def tEth : EthFrame := ⟨0, 7, 2, 64, true, [(5, 3)], .other⟩
def tPtp : PtpTx := ⟨0, 1, 7, false, 64, 3⟩

theorem test_wf_fronthaul_and_links :
    (upBad.map Instr.uplaneRx ++ secBad.map (fun x => Instr.uplaneRx { tUp with sections := [x] })
      ++ [{ tOwd with src := 2 ^ 48 }, { tOwd with vlan := 4096 }, { tOwd with revision := 16 }, { tOwd with action := 256 }, { tOwd with measId := 256 }].flatMap
          (fun f => [Instr.ecpriOwdRequest f, Instr.owdResponseRx f])
      ++ ([.ethFrameRx { tEth with dst := 2 ^ 48 }, .ethFrameRx { tEth with tags := [(4096, 0)] }, .ethFrameRx { tEth with tags := [(5, 8)] },
          .ptpEventMessageTx { tPtp with msgType := 16 }, .ptpEventMessageTx { tPtp with seqId := 65536 }, .ptpEventMessageTx { tPtp with pcp := 8 },
          .ulRxWindowEnd 0 0 14, .dlCplaneSend 0 0 14, .ulCplaneSend 0 0 14, .dlMarkPoll 0 0 14, .dlUplaneDeadline 0 0 14] : List Instr)
      ++ [{ fr .ack 1 0 with kind := 256 }, { fr .ack 1 0 with vc := 4 }, { fr .ack 1 0 with hops := 8 }, { fr .ack 1 0 with epoch := 256 },
          fr .ack 64 0, fr .ack 1 64, { fr .ack 1 0 with seq := 4096 }, { fr .ack 1 0 with ack := 4096 }, { fr .ack 1 0 with stream := 1024 }].map
          (Instr.peerFrameRx 0)).all (fun c => !c.wf) = true ∧
    ([.uplaneRx tUp, .ecpriOwdRequest tOwd, .owdResponseRx tOwd, .ethFrameRx tEth, .ptpEventMessageTx tPtp, .ulRxWindowEnd 0 0 13, .dlCplaneSend 0 0 13,
      .peerFrameRx 0 (fr .ack 1 0)] : List Instr).all (·.wf) = true := by decide +kernel

theorem test_wf_execution :
    ([.harqExpire 131072, .contextFault 0 0 0, .contextFault 0 0 12, .foreignDirtyScrub (2 ^ 32), .barrierRelease 0 256, .groupBarrierRelease 223,
      .groupBarrierRelease 256, .peerBurstSend 1024, .multicastDetach 1024, .peerTimeExchange 64] : List Instr).all (fun c => !c.wf) = true ∧
    ([.harqExpire 131071, .contextFault 0 0 11, .barrierRelease 0 255, .groupBarrierRelease 224, .peerBurstSend 1023, .rollCallStart,
      .enlPass 0 0#128] : List Instr).all (·.wf) = true := by decide +kernel

/-! ### The interface -/

/-- No word spells a command, so a fetch word changes nothing (log 2). -/
theorem test_no_word_spells_a_command : decodeTableWord 16 0xFFFF = none ∧ State.reset.withFetchWord 16 0xFFFF = State.reset := ⟨rfl, rfl⟩

/-! ### The spec's worked examples -/

/-- Example 01.1: tile 173 in a repaired row. -/
theorem test_example_01_1 :
    physCol (sR [(Reg.PHYS_ROW_MAP 10, 0x49#32)]) 173 = 14 ∧ physCol (sR [(Reg.PHYS_ROW_MAP 10, 0x49#32)]) 168 = 8 ∧
    physCol State.reset 173 = 13 := by decide +kernel

/-- Example 03.1: the CX16 words of six inputs, and which of them clips. -/
theorem test_example_03_1 :
    (cxEncode (.fin false 3 1) (.fin true 4 10)).code = 0x963D ∧ (cxEncode (.fin false 63 16) XVal.zero).code = 0xA400 ∧
    (cxEncode (.fin true 4 1) XVal.zero).code = 0x9800 ∧ (cxEncode (.fin true 41 10) XVal.zero).code = 0x9800 ∧
    cxEncode (.fin false 300 1) (.fin false 1 1) = ⟨0xF7C0, true, false⟩ ∧
    (cxEncode (.fin false 5 100000) (.fin true 5 100000)).code = 0x0000 := by decide +kernel

/-- Example 03.2: ties and limits. -/
theorem test_example_03_2 :
    (intEncode 8 (.fin false 5 2)).code = 2 ∧ (intEncode 8 (.fin true 5 2)).code = 0xFE ∧ (intEncode 8 (.fin false 7 2)).code = 4 ∧
    intEncode 8 (.fin false 255 2) = ⟨127, true, false⟩ ∧
    (Fmt.e4m3.encodeReal (.fin false 17 16)).code = 0x38 ∧ (Fmt.e4m3.encodeReal (.fin false 19 16)).code = 0x3A ∧
    Fmt.e4m3.encodeReal (.fin false 464 1) = ⟨0x7E, false, false⟩ ∧ Fmt.e4m3.encodeReal (.fin false 465 1) = ⟨0x7E, true, false⟩ ∧
    Fmt.e5m2.encodeReal (.fin false 61439 1) = ⟨0x7B, false, false⟩ ∧ Fmt.e5m2.encodeReal (.fin false 61440 1) = ⟨0x7B, true, false⟩ ∧
    (fmtE5M2.encode .ieeeClip (.fin false 61440 1)).code = 0x7C ∧
    (Fmt.bf16.encodeReal (.fin false 257 256)).code = 0x3F80 ∧ (Fmt.bf16.encodeReal (.fin false 259 256)).code = 0x3F82 ∧
    q15OfAcc 0xC000 0 = ⟨2, false, false⟩ := by decide +kernel

/-- Example 03.3: two channels of FP32 at scratchpad byte 64 go to INT8 at byte 1024. -/
def fix33 : State :=
  { tS with mem := putBytes [] (spBase 0 + 64) ((leBytes 4 0x427E0000 ++ leBytes 4 0xC1A20000 ++ leBytes 4 0x3F400000 ++ leBytes 4 0x3E800000) ++
      (leBytes 4 0x42C80000 ++ leBytes 4 0xC0400000 ++ leBytes 4 0x3F800000 ++ leBytes 4 0x7FC00000)) }
def fix33Run (w : Word128) (s : State) : State := 
  let s := nextOf s (exec (.fixerCommand 0 w) s)
  nextOf s (exec (.fixerComplete 0) s)
theorem test_example_03_3 :
    let u := fix33Run (w128 (2 ^ 80 + 16 * 2 ^ 64 + 2 ^ 40 + 3 * 2 ^ 28 + 6 * 2 ^ 24 + 2 ^ 20 + 2 ^ 17 + 2 ^ 11)) fix33
    getBytes u (spBase 0 + 1024) 8 = [127#8, 0xD8#8, 2#8, 0#8, 100#8, 0xFD#8, 1#8, 0#8] ∧
    getR u (Reg.TILE_FIX_SCALE 0 0) = 0x3F000000#32 ∧ getR u (Reg.TILE_FIX_SCALE 0 1) = 0x3F800000#32 ∧
    getR u (Reg.TILE_FIX_TOTAL 0 0) = 4#32 ∧ getR u (Reg.TILE_FIX_TOTAL 0 1) = 4#32 ∧ getR u (Reg.TILE_FIX_CLIP 0 0) = 0#32 := by decide +kernel
theorem test_example_03_3_clipped :
    let u := fix33Run (w128 (0x42C80000 * 2 ^ 96 + 2 ^ 80 + 16 * 2 ^ 64 + 3 * 2 ^ 28 + 6 * 2 ^ 24 + 2 ^ 20 + 2 ^ 18 + 2 ^ 11))
      { fix33 with regs := [(Reg.TILE_FIX_SCALE 0 0, 0x3E800000#32)] }
    getBytes u (spBase 0 + 1024) 4 = [100#8, 0xAF#8, 3#8, 1#8] ∧ getR u (Reg.TILE_FIX_CLIP 0 0) = 1#32 := by decide +kernel

/-- Example 05.2: a segmented add scan over INT32, inclusive and exclusive. -/
def scanDev : Developer :=
  { Developer.first with
    v := [(256, 3#32), (257, 1#32), (258, 4#32), (259, 1#32), (260, 5#32), (261, 9#32), (262, 2#32), (263, 6#32)], m := [(0, 0x49#256)], vlen := 8 }
def scanRun (excl : Nat) : List Word :=
  (List.range 8).map (fun i => vGet (getD (nextOf (tD scanDev) (exec (.scan 0 (dw 2 1 0 32 (8 + 4 * excl))) (tD scanDev))) 0) 2 i)
theorem test_example_05_2 :
    scanRun 0 = [3#32, 4#32, 8#32, 1#32, 6#32, 15#32, 2#32, 8#32] ∧ scanRun 1 = [0#32, 3#32, 4#32, 0#32, 1#32, 6#32, 0#32, 2#32] := by decide +kernel

/-- Example 05.3: the rows whose outputs the text gives. -/
theorem test_example_05_3 :
    smaxOut [(0x7F800000#32, true), (0x40400000#32, true), (0x7F800000#32, true), (0x7F800000#32, true)] =
      ([0x3EAAAAAB#32, 0#32, 0x3EAAAAAB#32, 0x3EAAAAAB#32], 0) ∧
    (smaxOut [(0x3F800000#32, true), (0x7FC00000#32, true), (0x7F800000#32, true), (0x40400000#32, true)]).1 = List.replicate 4 0x7FC00000#32 ∧
    (smaxOut [(0x3F800000#32, false), (0x40000000#32, false)]).1 = [0#32, 0#32] := by decide +kernel

/-- Example 05.4: four products accumulate; one more reaches the sums below; the moves at shift 0 and at the automatic shift. -/
def macDev (a : SMap (BitVec 48)) : Developer :=
  { Developer.first with v := [(256, 0x20004000#32), (257, 0x00002000#32), (512, 0xC0004000#32), (513, 0x00002000#32)], a := a, vlen := 2 }
theorem test_example_05_4_cmac :
    let u := getD (nextOf (tD (macDev [])) (exec (.dspCmac 0 (dw 0 1 2 0 0)) (tD (macDev [])))) 0
    4 * aGet u 0 0 = 1610612736 ∧ 4 * aGet u 1 0 = -536870912 ∧ 4 * aGet u 0 1 = 268435456 ∧ aGet u 1 1 = 0 := by decide +kernel
theorem test_example_05_4_movq :
    let d := macDev [(0, BitVec.ofInt 48 1610612736), (1, 268435456#48), (256, BitVec.ofInt 48 (-536870912))]
    let u := getD (nextOf (tD d) (exec (.dspMovq 0 (dw 3 0 0 0 0)) (tD d))) 0
    let v := getD (nextOf (tD d) (exec (.dspMovq 0 (dw 3 0 0 0 (2 ^ 13 + 5 * 2 ^ 8 + 2 ^ 7))) (tD d))) 0
    vGet u 3 0 = 0xC0007FFF#32 ∧ vGet v 3 0 = 0xE0006000#32 ∧ vGet v 3 1 = 0x00001000#32 ∧ sGet v 5 = 1#32 := by decide +kernel

/-- Example 06.1: the ring's register, and where its slots begin. -/
theorem test_example_06_1 :
    let r := Ring.of 0x847F8400#32 0#32
    r.en = true ∧ r.slots = 3 ∧ r.size = 256 ∧ r.slotAt 0 = 0x10000 ∧ r.slotAt 1 = 0x14000 ∧ r.slotAt 5 = 0x18000 := by decide +kernel

/-- Example 07.2: a level-2 entry of kind 2. -/
theorem test_example_07_2 : (applyPte tS 0 0xACFFFFFF00000026 0x000400612340 true).1 = .phys 0x100004C12340 := by decide +kernel

/-- Example 10.1: combining four positions at a new exponent. -/
theorem test_example_10_1 :
    combineOne 100 (-2) 60 (-1) = (110, false) ∧ combineOne (-90) (-2) (-100) (-1) = (-128, true) ∧ combineOne 3 (-2) 0 (-1) = (2, false) ∧
    combineOne (-5) (-2) 41 (-1) = (38, false) := by decide +kernel

/-- Example 10.2: one check-node update. -/
theorem test_example_10_2 :
    let d := checkNode [(0, false), (1, false), (2, false)] [0, 1, 2] 104 1 ⟨#[40, -12, 25], []⟩
    d.p.toList = [31, 7, 16] ∧ [mapGet 0 d.rm 0, mapGet 0 d.rm 1, mapGet 0 d.rm 2] = [-9, 19, -9] := by decide +kernel

/-- Example 12.1: one RE from the wire to its CX16 word (iqWidth 9: a mantissa at exponent 3). -/
theorem test_example_12_1 : (reConv 7 (1600, -296)).code = 0xB67B := by decide +kernel

/-- Example 13.1: SFN, slot and symbol at a device time, on carrier 2 at numerology 1 with an offset of 2,500 ns. -/
def at131 : State :=
  { sR [(Reg.SCH_CC_CFG 2 0, 0xA0001000#32), (Reg.TIME_CC_OFFSET 2, 2500#32)] with
    time := { TimeGen.init with dev := (1700000000 * 1000000000 + 4000000) * 65536 } }
theorem test_example_13_1 :
    deviceSfn at131 = 660 ∧ sfnOf at131 2 (slotNow at131 2) = 660 ∧ slotOf at131 2 (slotNow at131 2) = 7 ∧
    symStart at131 2 (slotNow at131 2) 13 ≤ nowGrid at131 ∧ nowGrid at131 < slotStart at131 2 (slotNow at131 2 + 1) ∧
    slotStart at131 2 (slotNow at131 2 + 1) - nowGrid at131 = 2500 * 65536 * 3 := by decide +kernel

/-- Example 17.1: DEV_ID over the host port. -/
theorem test_example_17_1 :
    (match exec (.regRd (rdF .regRd 0 0)) { sBt .ready [] with boot := { Boot.init with stage := .ready, served := true } } with
      | .next u => (match u.host.resp with | .read d st _ => (d, st) | _ => ([], 9))
      | _ => ([], 9)) = ([0x7140A100#32], 0) := by decide +kernel

/-! ### The TAP (18 Table 18.12, R569, R570) -/

theorem test_tap_board_test_codes : tapActs State.reset true 0x00 = .extest ∧ tapActs State.reset false 0x00 = .bypass ∧
    tapActs State.reset false 0x01 = .idcode ∧ tapActs State.reset false 0x07 = .bypass := by decide

theorem test_tap_private_codes : tapActs State.reset false 0x80 = .beyxonTest 0x80 ∧
    tapActs { State.reset with otp := { Otp.blank with lc := 2 } } false 0x80 = .bypass := by decide

theorem test_tap_idcode : idcode 0 = 0x17140001#32 := by decide

/-! ### Witnesses: for every clause of every statement with hypotheses, a state and operands that meet them -/

theorem test_witness_EmptyQueueTicks :
    (∃ s : State, (s.pending = [])) :=
  ⟨State.reset, by decide +kernel⟩

theorem test_witness_StepKeepsTheInvariant :
    (∃ s : State, (∃ t : State, (Inv s) ∧ (step s = .next t))) :=
  ⟨State.reset, tick State.reset, ⟨by constructor <;> decide +kernel, rfl⟩⟩

theorem test_witness_TrustOnlyMovesForward :
    (∃ s : State, (∃ t : State, (step s = .next t))) :=
  ⟨State.reset, tick State.reset, rfl⟩

theorem test_witness_CommandsCompleteOrNameTheirFault :
    (∃ c : Instr, (c.wf = true)) ∧
    (∃ l : List Int, (l.length ≠ 40)) :=
  ⟨⟨.bootArm, by decide +kernel⟩,
   ⟨[25], by decide +kernel⟩⟩

theorem test_witness_ResetsRestartTheDevice :
    (∃ p : Nat, (∃ s : State, (100 ≤ p) ∧ (s.safe.trip = true))) ∧
    (∃ p : Nat, (∃ s : State, (100 ≤ p) ∧ (s.safe.trip = false))) ∧
    (∃ s : State, (s.safe.trip = false)) ∧
    (∃ v : Word, (∃ s : State, (v ≠ 0xC0DE7140#32 ∨ s.safe.trip = true))) ∧
    (∃ s : State, (wdogEn s = true) ∧ (s.boot.stage ≠ .stopped) ∧ (s.safe.trip = false) ∧ (s.boot.wdogAt + (getF s Reg.BOOT_WDOG_CFG 5 0 + 1) * 800000000 ≤ s.now)) ∧
    (∃ s : State, (wdogEn s = false ∨ s.now < s.boot.wdogAt + (getF s Reg.BOOT_WDOG_CFG 5 0 + 1) * 800000000)) ∧
    (∃ s : State, (wdogEn s = true)) ∧
    (∃ v : Word, (∃ s : State, (v ≠ 0x5A5A#32 ∨ wdogEn s = false))) ∧
    (∃ v : Word, (∃ s : State, (s.otp.lc = 2 ∨ s.otp.lc = 3) ∧ (wdogEn s = true) ∧ (bitOf v 31 = false))) :=
  ⟨⟨100, { State.reset with safe := { State.reset.safe with trip := true } }, by decide +kernel⟩,
   ⟨100, { sBt .ready [(Reg.TIME_STATUS, 0x80000000#32)] with safe := { State.reset.safe with upTicks := 77 } }, by decide +kernel⟩,
   ⟨{ sBt .holding [(Reg.TIME_STATUS, 0x80000000#32)] with plan := some tPlan, safe := { State.reset.safe with upTicks := 77 } }, by decide +kernel⟩,
   ⟨0xC0DE7141#32, sBt .ready [], by decide +kernel⟩,
   ⟨{ sBt .ready [(Reg.BOOT_WDOG_CFG, 0x80000000#32)] with now := 800000000 }, by decide +kernel⟩,
   ⟨sBt .ready [(Reg.BOOT_WDOG_CFG, 0x7FFFFFFF#32)], by decide +kernel⟩,
   ⟨{ sBt .ready [(Reg.BOOT_WDOG_CFG, 0x80000000#32)] with now := 799999999 }, by decide +kernel⟩,
   ⟨0x5A5B#32, sBt .ready [(Reg.BOOT_WDOG_CFG, 0x80000000#32)], by decide +kernel⟩,
   ⟨5#32, { sBt .ready [(Reg.BOOT_WDOG_CFG, 0x80000003#32)] with otp := { State.reset.otp with lc := 2 } }, by decide +kernel⟩⟩

theorem test_witness_BootReachesReadyOrHolding :
    (∃ n : Nat, (∃ s : State, (s.boot.stage = .judging) ∧ (s.boot.relAt + (s.boot.tries + 1) * judgeTime s * 98 / 100 ≤ s.now) ∧ (10240 * 97 ≤ 100 * n) ∧ (100 * n ≤ 10240 * 103))) ∧
    (∃ n : Nat, (∃ s : State, (s.boot.stage = .judging) ∧ (s.boot.relAt + (s.boot.tries + 1) * judgeTime s * 98 / 100 ≤ s.now) ∧ ((100 * n < 10240 * 97 ∨ 10240 * 103 < 100 * n)))) ∧
    (∃ s : State, (s.boot.stage = .locking)) ∧
    (∃ s : State, (s.boot.relAt + 4000000 ≤ s.now)) ∧
    (∃ s : State, (s.now < s.boot.relAt + 4000000)) ∧
    (∃ s : State, (s.boot.stage = .wiping)) ∧
    (∃ a : Nat, (∃ s : State, (s.boot.stage = .loading) ∧ (s.boot.fwAt = some a) ∧ (a + 8000000000 ≤ s.now))) ∧
    (∃ a : Nat, (∃ s : State, (s.boot.fwAt = some a) ∧ (s.now < a + 8000000000))) ∧
    (∃ s : State, (s.boot.stage = .loading) ∧ (digestFails s (sheetSource s) = none)) ∧
    (∃ s : State, (∃ k : Nat, (s.boot.stage = .loading) ∧ (digestFails s (sheetSource s) = some k))) ∧
    (∃ s : State, (s.boot.stage = .ready) ∧ (getF s Reg.BOOT_STATUS 27 26 = 2) ∧ (s.plan.isSome = true) ∧ (0 < groupSize s)) ∧
    (∃ s : State, (s.boot.stage ≠ .ready)) :=
  ⟨⟨9933, { State.reset with now := 592704 }, by decide +kernel⟩,
   ⟨9932, { State.reset with now := 592704 }, by decide +kernel⟩,
   ⟨sBt .locking [], by decide +kernel⟩,
   ⟨{ State.reset with now := 4000000 }, by decide +kernel⟩,
   ⟨{ State.reset with now := 3999999 }, by decide +kernel⟩,
   ⟨{ sBt .wiping [(Reg.BOOT_STATUS, 0x04000000#32)] with mem := [(5, 1#8)] }, by decide +kernel⟩,
   ⟨0, { State.reset with now := 8000000000, boot := { Boot.init with stage := .loading, fwAt := some 0 } }, by decide +kernel⟩,
   ⟨0, { State.reset with now := 7999999999, boot := { Boot.init with stage := .loading, fwAt := some 0 } }, by decide +kernel⟩,
   ⟨{ sBt .loading [] with flash := { tFlash with bytes := [(11, 0#8)] } }, by decide +kernel⟩,
   ⟨{ sBt .loading [] with flash := tFlash }, 0, by decide +kernel⟩,
   ⟨{ sBt .ready [(Reg.BOOT_STATUS, 0x08000000#32), (Reg.PEER_GRP_STATUS, 1#32)] with plan := some tPlan }, by decide +kernel⟩,
   ⟨sBt .holding [], by decide +kernel⟩⟩

theorem test_witness_ReloadsAndRecovery :
    (∃ s : State, (s.boot.stage = .ready) ∧ (s.boot.reloading = false) ∧ (s.boot.swap = false) ∧ (s.boot.quiesce = .none)) ∧
    (∃ s : State, (s.boot.stage ≠ .ready)) ∧
    (∃ s : State, (s.boot.reloading = true)) ∧
    (∃ s : State, (s.boot.stage = .holding)) ∧
    (∃ s : State, (s.boot.stage ≠ .holding)) ∧
    (∃ s : State, (s.boot.stage = .recovery) ∧ (0 < received s) ∧ (s.boot.recovAt + 800000000 < s.now)) ∧
    (∃ s : State, (s.now ≤ s.boot.recovAt + 800000000)) ∧
    (∃ f : HpWrite, (∃ s : State, (s.boot.served = true) ∧ (inverseOk .recovWr f.inverse = true) ∧ (f.cutHost = false) ∧ (s.host.held = none) ∧ (crc8 (headBytes .recovWr f.inverse f.addr none ++ wordBytes f.data) = f.crc) ∧ (getB s Reg.BOOT_CTL 2 = true) ∧ (f.addr = chunksTaken s) ∧ (bufferUsed s + 4096 ≤ 8192))) :=
  ⟨⟨{ sBt .ready [] with plan := some tPlan }, by decide +kernel⟩,
   ⟨sBt .holding [], by decide +kernel⟩,
   ⟨{ State.reset with boot := { Boot.init with stage := .ready, reloading := true }, plan := some tPlan }, by decide +kernel⟩,
   ⟨sBt .holding [(Reg.BOOT_RECOV_STATUS, 5#32)], by decide +kernel⟩,
   ⟨sBt .ready [], by decide +kernel⟩,
   ⟨{ sBt .recovery [(Reg.BOOT_RECOV_STATUS, 5#32)] with now := 800000001 }, by decide +kernel⟩,
   ⟨{ sBt .recovery [(Reg.BOOT_RECOV_STATUS, 5#32)] with now := 800000000 }, by decide +kernel⟩,
   ⟨wrF .recovWr 0 none [1#32], { State.reset with regs := rg [(Reg.BOOT_CTL, 4#32)], boot := { Boot.init with stage := .recovery, served := true } }, by decide +kernel⟩⟩

theorem test_witness_SecurityVersionAndProofs :
    (∃ s : State, (s.otp.lc = 1 ∨ s.otp.lc = 2) ∧ (s.boot.stage = .ready) ∧ (s.otp.secver < min 64 (getN s Reg.BOOT_SECVER))) ∧
    (∃ s : State, (s.otp.lc = 1 ∨ s.otp.lc = 2) ∧ (min 64 (getN s Reg.BOOT_SECVER) ≤ s.otp.secver ∨ s.boot.stage ≠ .ready)) ∧
    (∃ s : State, (s.otp.lc = 0 ∨ s.otp.lc = 3)) ∧
    (∃ s : State, (canSign s = true)) ∧
    (∃ s : State, (canSign s = false)) ∧
    (∃ s : State, (∃ n : Nat, (∃ k : Nat, (∃ rest : List ProofReq, (s.sec.queue = .driver n :: rest) ∧ (s.otp.idKey = some k))))) ∧
    (∃ s : State, (∃ n : Nat, (∃ k : Nat, (∃ rest : List ProofReq, (s.sec.queue = .roll n :: rest) ∧ (s.otp.idKey = some k))))) ∧
    (∃ s : State, (s.sec.queue = [] ∨ s.otp.idKey = none)) :=
  ⟨⟨{ sBt .ready [(Reg.BOOT_SECVER, 64#32)] with otp := { Otp.blank with lc := 1, secver := 63 } }, by decide +kernel⟩,
   ⟨{ sBt .ready [(Reg.BOOT_SECVER, 63#32)] with otp := { Otp.blank with lc := 2, secver := 63 } }, by decide +kernel⟩,
   ⟨State.reset, by decide +kernel⟩,
   ⟨{ State.reset with otp := { Otp.blank with lc := 2, idKey := some 5 } }, by decide +kernel⟩,
   ⟨State.reset, by decide +kernel⟩,
   ⟨{ State.reset with otp := { Otp.blank with lc := 2, idKey := some 5 }, sec := ⟨[.driver 9], 3⟩ }, 9, 5, [], by decide +kernel⟩,
   ⟨{ State.reset with otp := { Otp.blank with lc := 2, idKey := some 5 }, sec := ⟨[.roll 9], 3⟩ }, 9, 5, [], by decide +kernel⟩,
   ⟨State.reset, by decide +kernel⟩⟩

theorem test_witness_LifeCycleAndFieldRepair :
    (∃ s : State, (s.boot.stage ≠ .ready)) ∧
    (∃ s : State, (s.boot.stage = .ready) ∧ (lcPermitted s.otp.lc (getF s Reg.SEC_LC_REQ 1 0) = false)) ∧
    (∃ s : State, (s.boot.stage = .ready) ∧ (lcPermitted s.otp.lc (getF s Reg.SEC_LC_REQ 1 0) = true) ∧ (s.otp.lc ≠ 0) ∧ (lcSigned s (getF s Reg.SEC_LC_REQ 1 0) = false)) ∧
    (∃ s : State, (s.boot.stage = .ready) ∧ (s.otp.lc = 0) ∧ (getF s Reg.SEC_LC_REQ 1 0 = 1) ∧ (s.safe.trip = false)) ∧
    (∃ s : State, (s.boot.stage = .ready) ∧ (s.otp.lc = 0) ∧ (getF s Reg.SEC_LC_REQ 1 0 = 3) ∧ (s.safe.trip = false)) ∧
    (∃ v : Word, (fieldOf v 4 0 ≤ 16)) ∧
    (∃ v : Word, (16 < fieldOf v 4 0)) :=
  ⟨⟨sBt .holding [(Reg.SEC_LC_REQ, 1#32)], by decide +kernel⟩,
   ⟨sBt .ready [(Reg.SEC_LC_REQ, 2#32)], by decide +kernel⟩,
   ⟨{ sBt .ready [(Reg.SEC_LC_REQ, 2#32)] with otp := { Otp.blank with lc := 1 } }, by decide +kernel⟩,
   ⟨sBt .ready [(Reg.SEC_LC_REQ, 1#32)], by decide +kernel⟩,
   ⟨sBt .ready [(Reg.SEC_LC_REQ, 3#32)], by decide +kernel⟩,
   ⟨0x80000010#32, by decide +kernel⟩,
   ⟨0x80000011#32, by decide +kernel⟩⟩

theorem test_witness_HostReads :
    (∃ f : HpRead, (∃ s : State, (s.boot.served = true) ∧ (inverseOk .regRd f.inverse = true) ∧ (f.length ≤ 1023) ∧ (f.cutHost = false) ∧ (f.cutTarget = false) ∧ (f.slow = false) ∧ (s.host.held = none) ∧ (s.host.buffer = []) ∧ (regRange f.addr (f.length + 1) = 0) ∧ (regCode s f.addr false = 0))) ∧
    (∃ f : HpStat, (∃ s : State, (s.boot.served = true) ∧ (inverseOk .stat f.inverse = true) ∧ (f.cutHost = false))) ∧
    (∃ f : HpRead, (∃ s : State, (s.boot.served = true) ∧ (inverseOk .regRd f.inverse = false))) ∧
    (∃ f : HpRead, (∃ s : State, (∃ k : Nat, (s.boot.served = true) ∧ (inverseOk .memRd f.inverse = true) ∧ (f.length = 0) ∧ (f.cutHost = false) ∧ (f.cutTarget = false) ∧ (f.slow = false) ∧ (s.host.held = none) ∧ (s.host.buffer = []) ∧ (memCmdRange s f.addr 1 = 0) ∧ (memCode s f.addr false = 0) ∧ (memRow f.addr = .hbm k) ∧ (s.foreignDirty = []) ∧ (s.ecc.single = []) ∧ (s.ecc.bad = []) ∧ (s.carriers = [])))) ∧
    (∃ f : HpRead, (∃ s : State, (s.boot.served = true) ∧ (inverseOk .memRd f.inverse = true) ∧ (f.length ≤ 1023) ∧ (f.cutHost = false) ∧ (f.cutTarget = false) ∧ (f.slow = true) ∧ (s.host.held = none) ∧ (s.host.buffer = []))) ∧
    (∃ h : HeldRead, (∃ s : State, (s.host.held = some h) ∧ (h.result = none) ∧ (s.host.buffer = []))) :=
  ⟨⟨rdF .regRd Reg.DEV_SCRATCH 0, { State.reset with boot := { Boot.init with stage := .ready, served := true } }, by decide +kernel⟩,
   ⟨⟨0xFA, false⟩, { State.reset with boot := { Boot.init with served := true } }, by decide +kernel⟩,
   ⟨{ rdF .regRd 0 1023 with inverse := 0 }, { State.reset with boot := { Boot.init with served := true } }, by decide +kernel⟩,
   ⟨rdF .memRd 4 0, { State.reset with regs := [(Reg.BOOT_STATUS, 0x40000000#32)], boot := { Boot.init with stage := .ready, served := true }, mem := [(5, 7#8)] }, 0, by decide +kernel⟩,
   ⟨{ rdF .memRd 4 1023 with slow := true }, { State.reset with boot := { Boot.init with stage := .ready, served := true }, mem := [(5, 7#8)] }, by decide +kernel⟩,
   ⟨⟨false, 0, 2, none⟩, { State.reset with host := { HostPort.init with held := some ⟨false, 0, 2, none⟩ } }, by decide +kernel⟩⟩

theorem test_witness_HostWritesArePosted :
    (∃ f : HpWrite, (∃ v : Word, (∃ s : State, (s.boot.served = true) ∧ (inverseOk .regWr f.inverse = true) ∧ (f.length = 0) ∧ (f.data = [v]) ∧ (f.cutHost = false) ∧ (s.host.held = none) ∧ (crc8 (headBytes .regWr f.inverse f.addr (some 0) ++ wordBytes [v]) = f.crc) ∧ (regRange f.addr 1 = 0) ∧ (goRefused s [(f.addr, v)] = false) ∧ (bufferUsed s + 4 ≤ 8192) ∧ (regCode s f.addr true = 0)))) ∧
    (∃ f : HpWrite, (∃ v : Word, (∃ s : State, (s.boot.served = true) ∧ (inverseOk .memWr f.inverse = true) ∧ (f.length = 0) ∧ (f.data = [v]) ∧ (f.cutHost = false) ∧ (s.host.held = none) ∧ (crc8 (headBytes .memWr f.inverse f.addr (some 0) ++ wordBytes [v]) = f.crc) ∧ (memCmdRange s f.addr 1 = 0) ∧ (bufferUsed s + 4 ≤ 8192) ∧ (memCode s f.addr true = 0) ∧ (s.foreignDirty = [])))) ∧
    (∃ a : Nat, (∃ k : Nat, (∃ v : Word, (∃ rest : List Posted, (∃ s : State, (s.host.buffer = .mem a v :: rest) ∧ (memRow a = .hbm k) ∧ (s.foreignDirty = []) ∧ (cgOwner s a = none)))))) ∧
    (∃ a : Nat, (∃ v : Word, (∃ rest : List Posted, (∃ s : State, (s.host.buffer = .reg a v :: rest))))) ∧
    (∃ s : State, (s.host.buffer = [])) :=
  ⟨⟨wrF .regWr Reg.DEV_SCRATCH (some 0) [7#32], 7#32, { State.reset with boot := { Boot.init with served := true } }, by decide +kernel⟩,
   ⟨wrF .memWr 4 (some 0) [7#32], 7#32, { State.reset with regs := [(Reg.BOOT_STATUS, 0x40000000#32)], boot := { Boot.init with stage := .ready, served := true } }, by decide +kernel⟩,
   ⟨4, 0, 0x01020304#32, [], { State.reset with host := { HostPort.init with buffer := [.mem 4 0x01020304#32] }, mem := [(4, 9#8), (8, 9#8)] }, by decide +kernel⟩,
   ⟨Reg.DEV_SCRATCH, 7#32, [], { State.reset with host := { HostPort.init with buffer := [.reg Reg.DEV_SCRATCH 7#32] } }, by decide +kernel⟩,
   ⟨State.reset, by decide +kernel⟩⟩

theorem test_witness_RegisterWrites :
    (∃ a : Nat, (∃ v : Word, ((regRow a).isSome = true) ∧ (a ≠ Reg.ERR_HOST_STATUS) ∧ (a ∉ [Reg.BOOT_CTL, Reg.BOOT_RST_REQ, Reg.BOOT_WDOG_CFG, Reg.BOOT_WDOG_KICK, Reg.SEC_LC_CTL]) ∧ ((∀ s' : State, tileEffect s' a v = none ∧ oneEffect s' a v = none ∧ arrayEffect s' a v = none)))) ∧
    (∃ f : RegField, (f.lo ≤ f.hi) ∧ (f.hi < 32)) :=
  ⟨⟨Reg.DEV_SCRATCH, 7#32, ⟨by decide +kernel, by decide +kernel, by decide +kernel, fun _ => ⟨by rfl, by simp +decide [oneEffect], by rfl⟩⟩⟩,
   ⟨{ name := "x", hi := 3, lo := 0, acc := .rwl, range := none }, by decide +kernel⟩⟩

theorem test_witness_FlashBridgeRuns :
    (∃ s : State, (flbBusy s = false) ∧ (flashReads s = false)) ∧
    (∃ s : State, (flbBusy s = true) ∧ (s.host.flbFail = none) ∧ (getF s Reg.DEV_FLB_CMD 3 0 = 3)) ∧
    (∃ s : State, (flbBusy s = true) ∧ (s.host.flbFail = none) ∧ (getF s Reg.DEV_FLB_CMD 3 0 = 2) ∧ ((flbSpan s).2 ≤ 4096) ∧ ((flbSpan s).1 + (flbSpan s).2 ≤ flashSpace s.flash)) ∧
    (∃ r : Nat, (∃ s : State, (flbBusy s = true) ∧ (s.host.flbFail = some r) ∧ (0 < r) ∧ (r < 256))) ∧
    (∃ x : Nat, (∃ s : State, (s.host.flb = some x) ∧ (x + 4000000000 ≤ s.now))) ∧
    (∃ x : Nat, (∃ s : State, (s.host.flb = some x) ∧ (s.now < x + 4000000000))) :=
  ⟨⟨{ State.reset with flash := tFlash }, by decide +kernel⟩,
   ⟨{ State.reset with regs := rg [(Reg.DEV_FLB_CMD, 0x80000003#32), (Reg.DEV_FLB_ADDR, 0x200#32)], flash := tFlash, host := { HostPort.init with flb := some 0 } }, by decide +kernel⟩,
   ⟨{ State.reset with regs := rg [(Reg.DEV_FLB_CMD, 0x80000002#32), (Reg.DEV_FLB_LEN, 2#32), (Reg.DEV_FLB_ADDR, 0x200#32), (Reg.DEV_FLB_BUF 0, 0xF#32)], flash := tFlash, host := { HostPort.init with flb := some 0 } }, by decide +kernel⟩,
   ⟨255, { State.reset with host := { HostPort.init with flb := some 0, flbFail := some 255 } }, by decide +kernel⟩,
   ⟨0, { State.reset with now := 4000000000, host := { HostPort.init with flb := some 0 } }, by decide +kernel⟩,
   ⟨0, { State.reset with now := 3999999999, host := { HostPort.init with flb := some 0 } }, by decide +kernel⟩⟩

theorem test_witness_RemovalAndWakeTimers :
    (∃ s : State, (s.boot.quiesce = .none) ∧ (s.boot.stage = .ready)) ∧
    (∃ s : State, (s.boot.quiesce = .none) ∧ (s.boot.stage = .loading ∨ s.boot.stage = .holding ∨ s.boot.stage = .recovery)) ∧
    (∃ s : State, (s.boot.quiesce ≠ .none)) ∧
    (∃ s : State, (s.boot.quiesce = .requested) ∧ (s.boot.quiesceAt < s.time.frame)) ∧
    (∃ s : State, (s.boot.quiesce = .requested) ∧ (s.time.frame ≤ s.boot.quiesceAt)) ∧
    (∃ s : State, (s.boot.quiesce = .stopping) ∧ (flbBusy s = false)) ∧
    (∃ s : State, (s.boot.quiesce = .stopping) ∧ (flbBusy s = true) ∧ (s.boot.stage ≠ .stopped)) ∧
    (∃ v : Word, (bitOf v 31 = true)) ∧
    (∃ v : Word, (bitOf v 30 = true) ∧ (bitOf v 31 = false)) ∧
    (∃ w : Fin 4, (∃ s : State, (wakeArmed s w.val = true) ∧ (wakeTarget s w.val ≤ uptime s))) ∧
    (∃ w : Fin 4, (∃ s : State, (wakeArmed s w.val = false ∨ uptime s < wakeTarget s w.val))) ∧
    (∃ w : Fin 4, (∃ v : Word, (∃ s : State, (bitOf v 31 = true) ∧ (wakeTarget s w.val ≤ uptime s)))) ∧
    (∃ w : Fin 4, (∃ a : Nat, (∃ s : State, (a = Reg.SAFE_WAKE_AT_LO w.val ∨ a = Reg.SAFE_WAKE_AT_HI w.val) ∧ (wakeArmed s w.val = true)))) :=
  ⟨⟨sBt .ready [], by decide +kernel⟩,
   ⟨sBt .recovery [], by decide +kernel⟩,
   ⟨{ State.reset with boot := { Boot.init with stage := .ready, quiesce := .requested } }, by decide +kernel⟩,
   ⟨{ tS with boot := { Boot.init with stage := .ready, quiesce := .requested }, time := { TimeGen.init with frame := 1 }, carriers := [(2, { Carrier.init with running := true })] }, by decide +kernel⟩,
   ⟨{ State.reset with boot := { Boot.init with stage := .ready, quiesce := .requested } }, by decide +kernel⟩,
   ⟨{ State.reset with boot := { Boot.init with stage := .ready, quiesce := .stopping } }, by decide +kernel⟩,
   ⟨{ State.reset with boot := { Boot.init with stage := .ready, quiesce := .stopping }, host := { HostPort.init with flb := some 0 } }, by decide +kernel⟩,
   ⟨0x80000001#32, by decide +kernel⟩,
   ⟨0x40000001#32, by decide +kernel⟩,
   ⟨0, { sR [(Reg.SAFE_WAKE_CTL 0, 0x80000001#32)] with power := { Power.init with dies := [.dormant, .dormant] } }, by decide +kernel⟩,
   ⟨0, sR [(Reg.SAFE_WAKE_CTL 0, 0x80000001#32), (Reg.SAFE_WAKE_AT_LO 0, 1#32)], by decide +kernel⟩,
   ⟨2, 0x80000000#32, State.reset, by decide +kernel⟩,
   ⟨1, Reg.SAFE_WAKE_AT_HI 1, sR [(Reg.SAFE_WAKE_CTL 1, 0x80000000#32)], by decide +kernel⟩⟩

theorem test_witness_ReferenceGatesAndDomains :
    (∃ s : State, (clocksRun s = true) ∧ (getB s Reg.TIME_DPLL_STATUS 30 = false)) ∧
    (∃ s : State, (clocksRun s = false ∨ getB s Reg.TIME_DPLL_STATUS 30 = true)) ∧
    (∃ k : Fin 2, (∃ v : Word, (∃ s : State, ((∀ i, i < (if k.val = 0 then 11 else 12) → getB s (gateReg k.val) i = true → bitOf v i = false →
      gateUsed s k.val i = false ∧ gateBusy s k.val i = false ∧ ¬(k.val = 0 ∧ i < 2))) ∧ (s.boot.stage ≠ .holding) ∧ (s.boot.stage ≠ .recovery)))) ∧
    (∃ k : Fin 2, (∃ v : Word, (∃ i : Nat, (∃ s : State, (i < (if k.val = 0 then 11 else 12)) ∧ (getB s (gateReg k.val) i = true) ∧ (bitOf v i = false) ∧ ((gateUsed s k.val i = true ∨ (k.val = 0 ∧ i < 2))))))) ∧
    (∃ v : Word, (∃ s : State, ((∀ i, i < 18 → getB s Reg.PWR_HUB_EN i = true → bitOf v i = false → hubRefused s i = false)))) ∧
    (∃ v : Word, (∃ i : Nat, (∃ s : State, (i < 18) ∧ (getB s Reg.PWR_HUB_EN i = true) ∧ (bitOf v i = false) ∧ (hubRefused s i = true)))) ∧
    (∃ d : Nat, (∃ s : State, (74 ≤ d) ∧ (d ≤ 91) ∧ (hubOn s (d - 74) = false) ∧ (getB s Reg.PWR_HUB_EN (d - 74) = true) ∧ (s.boot.stage ≠ .stopped))) ∧
    (∃ k : Fin 2, (∃ i : Nat, (∃ s : State, (s.boot.stage = .holding ∨ s.boot.stage = .recovery) ∧ (i < (if k.val = 0 then 11 else 12)) ∧ (¬(k.val = 0 ∧ i < 2)) ∧ (getB s (gateReg k.val) i = false)))) :=
  ⟨⟨sBt .ready [], by decide +kernel⟩,
   ⟨State.reset, by decide +kernel⟩,
   ⟨0, 0xFFFFFFFF#32, sR [(Reg.CLK_GATE_EN0, 3#32)], by decide +kernel⟩,
   ⟨0, 0#32, 0, sR [(Reg.CLK_GATE_EN0, 3#32)], by decide +kernel⟩,
   ⟨0x3FFFF#32, State.reset, by decide +kernel⟩,
   ⟨0#32, 0, sR [(Reg.PWR_HUB_EN, 1#32), (Reg.ETH_P_CFG 0, 1#32)], by decide +kernel⟩,
   ⟨74, sBt .ready [(Reg.PWR_HUB_EN, 1#32)], by decide +kernel⟩,
   ⟨0, 2, sBt .holding [], by decide +kernel⟩⟩

theorem test_witness_CapsAndHeat :
    (∃ s : State, (s.power.clk.length = 2)) ∧
    (∃ l : List Int, (l.length = 40)) ∧
    (∃ s : State, (s.boot.stage ≠ .stopped)) ∧
    (∃ s : State, (s.boot.stage = .stopped)) ∧
    (∃ v : Word, (∃ s : State, (bitOf v 31 = true) ∧ ((getF s Reg.THM_COOLANT_CFG 23 16 : Int) * 8 < signed 16 (fieldOf v 15 0)))) ∧
    (∃ v : Word, (∃ s : State, (bitOf v 31 = false ∨ signed 16 (fieldOf v 15 0) ≤ (getF s Reg.THM_COOLANT_CFG 23 16 : Int) * 8 - 16))) ∧
    (∃ v : Word, (∃ s : State, (bitOf v 31 = true) ∧ ((getF s Reg.THM_COOLANT_CFG 23 16 : Int) * 8 - 16 < signed 16 (fieldOf v 15 0)) ∧ (signed 16 (fieldOf v 15 0) ≤ (getF s Reg.THM_COOLANT_CFG 23 16 : Int) * 8))) :=
  ⟨⟨sR [(Reg.PWR_ILIM, 0x00130009#32)], by decide +kernel⟩,
   ⟨List.replicate 40 920, by decide +kernel⟩,
   ⟨{ tS with boot := { Boot.init with stage := .ready }, mem := [(5, 1#8)] }, by decide +kernel⟩,
   ⟨{ tS with boot := { Boot.init with stage := .stopped } }, by decide +kernel⟩,
   ⟨0x80000029#32, sR [(Reg.THM_COOLANT_CFG, 0x00050000#32)], by decide +kernel⟩,
   ⟨0x00000029#32, sR [(Reg.THM_COOLANT_CFG, 0x00050000#32)], by decide +kernel⟩,
   ⟨0x80000028#32, sR [(Reg.THM_COOLANT_CFG, 0x00050000#32)], by decide +kernel⟩⟩

theorem test_witness_BrakesAndOperatingPoints :
    (∃ s : State, (clocksRun s = true) ∧ (s.power.clk.length = 2)) ∧
    (∃ s : State, (s.power.brakeLow = true)) ∧
    (∃ x : Nat, (∃ s : State, (s.power.brakeUntil = some x) ∧ (x ≤ s.now))) ∧
    (∃ x : Nat, (∃ s : State, (s.power.brakeUntil = some x) ∧ (s.now < x))) ∧
    (∃ d : DieId, (∃ s : State, (dieAwake s d.val = true) ∧ (clocksRun s = true) ∧ (s.power.clk.length = 2))) ∧
    (∃ s : State, (s.power.clk.length = 2)) ∧
    (∃ d : DieId, (∃ s : State, (s.power.clk.length = 2) ∧ (dieAwake s d.val = true) ∧ ((clkOf s d.val).raise' = none) ∧ (effectiveOp s d.val < (clkOf s d.val).op))) ∧
    (∃ d : DieId, (∃ s : State, (s.power.clk.length = 2) ∧ (dieAwake s d.val = true) ∧ ((clkOf s d.val).raise' = none) ∧ ((clkOf s d.val).blocked = none) ∧ ((clkOf s d.val).op < effectiveOp s d.val))) ∧
    (∃ d : DieId, (∃ r : Raise, (∃ s : State, (s.power.clk.length = 2) ∧ ((clkOf s d.val).raise' = some r) ∧ (r.to' ≤ effectiveOp s d.val)))) ∧
    (∃ d : DieId, (∃ r : Raise, (∃ s : State, (s.power.clk.length = 2) ∧ ((clkOf s d.val).raise' = some r) ∧ (r.to' ≤ effectiveOp s d.val) ∧ (r.at' + 40000 ≤ s.now)))) :=
  ⟨⟨sBt .ready [], by decide +kernel⟩,
   ⟨{ sR [(Reg.PWR_BRAKE_CFG, 5#32)] with power := { Power.init with brakeLow := true, clk := [{ DieClk.init with halved := true }, DieClk.init] } }, by decide +kernel⟩,
   ⟨5, { State.reset with now := 5, power := { Power.init with brakeUntil := some 5, clk := [{ DieClk.init with halved := true }, DieClk.init] } }, by decide +kernel⟩,
   ⟨5, { State.reset with now := 4, power := { Power.init with brakeUntil := some 5 } }, by decide +kernel⟩,
   ⟨0, sBt .ready [], by decide +kernel⟩,
   ⟨{ State.reset with power := { Power.init with clk := [DieClk.init, { DieClk.init with droop := true }] } }, by decide +kernel⟩,
   ⟨0, { State.reset with power := { Power.init with clk := [{ DieClk.init with op := 3, volt := 3 }, DieClk.init] } }, by decide +kernel⟩,
   ⟨1, { State.reset with sched := { State.reset.sched with opReq := [0, 2] } }, by decide +kernel⟩,
   ⟨0, ⟨2, 0⟩, { State.reset with sched := { State.reset.sched with opReq := [2, 2] }, power := { Power.init with clk := [{ DieClk.init with op := 1, volt := 2, raise' := some ⟨2, 0⟩ }, DieClk.init] } }, by decide +kernel⟩,
   ⟨0, ⟨2, 0⟩, { State.reset with now := 40000, sched := { State.reset.sched with opReq := [2, 2] }, power := { Power.init with clk := [{ DieClk.init with op := 1, volt := 2, raise' := some ⟨2, 0⟩ }, DieClk.init] } }, by decide +kernel⟩⟩

theorem test_witness_TilesAndDiesSleep :
    (∃ t : TileId, (∃ s : State, (maySleep s t.val = true))) ∧
    (∃ t : TileId, (∃ s : State, (maySleep s t.val = false))) ∧
    (∃ t : TileId, (∃ s : State, (tileWanted s t.val = true) ∧ (dieAwake s (dieOf t.val) = true) ∧ ((getT s t.val).power = .asleep))) ∧
    (∃ t : TileId, (∃ s : State, ((getT s t.val).power = .waking) ∧ ((getT s t.val).wakeAt + 1600 ≤ s.now))) ∧
    (∃ t : TileId, (∃ s : State, ((getT s t.val).power = .waking) ∧ (s.now < (getT s t.val).wakeAt + 1600))) ∧
    (∃ d : DieId, (∃ v : Word, (∃ s : State, (s.power.dies.length = 2) ∧ (bitOf v 31 = true) ∧ (dieSt s d.val = .awake)))) ∧
    (∃ d : DieId, (∃ s : State, (s.power.dies.length = 2) ∧ (dieSt s d.val = .entering) ∧ (mayDormant s d.val = true) ∧ (getB s (dieCtl d.val) 31 = true))) ∧
    (∃ d : DieId, (∃ v : Word, (∃ s : State, (s.power.dies.length = 2) ∧ (s.power.clk.length = 2) ∧ (bitOf v 31 = false) ∧ (dieSt s d.val = .dormant)))) ∧
    (∃ d : DieId, (∃ s : State, (s.power.dies.length = 2) ∧ (s.power.clk.length = 2) ∧ (autoWakeDue s d.val = true) ∧ (dieSt s d.val = .dormant))) ∧
    (∃ d : DieId, (∃ s : State, (s.power.dies.length = 2) ∧ (s.power.clk.length = 2) ∧ (dieSt s d.val = .waking) ∧ ((clkOf s d.val).wakeAt + 40000 ≤ s.now) ∧ (getB s (dieCtl d.val) 31 = false))) :=
  ⟨⟨0, { sR [(Reg.TILE_PWR_CTL 0, 0x80000000#32)] with tiles := [(0, { Tile.init with power := .awake })] }, by decide +kernel⟩,
   ⟨0, State.reset, by decide +kernel⟩,
   ⟨0, { tS with ctxs := [(0, { tCtx with inst := some { tInst with started := [] } })], tiles := [] }, by decide +kernel⟩,
   ⟨0, { State.reset with now := 1600, tiles := [(0, { Tile.init with power := .waking })] }, by decide +kernel⟩,
   ⟨0, { State.reset with now := 1599, tiles := [(0, { Tile.init with power := .waking })] }, by decide +kernel⟩,
   ⟨1, 0x80000000#32, State.reset, by decide +kernel⟩,
   ⟨0, { sR [(Reg.PWR_DIE_CTL 0, 0x80000000#32)] with power := { Power.init with dies := [.entering, .awake] }, tiles := [(5, { Tile.init with power := .awake })] }, by decide +kernel⟩,
   ⟨0, 0#32, { sR [(Reg.PWR_DIE_CTL 0, 0x80000000#32)] with power := { Power.init with dies := [.dormant, .awake] } }, by decide +kernel⟩,
   ⟨0, { tS with regs := rg [(Reg.PWR_DIE_CTL 0, 0xC0000000#32), (Reg.PEER_GRP_STATUS, 1#32), (Reg.TIME_STATUS, 0x80000000#32)], power := { Power.init with dies := [.dormant, .awake] }, sched := { State.reset.sched with permitted := true, armed := true } }, by decide +kernel⟩,
   ⟨0, { State.reset with now := 40000, mem := [(spBase 0 + 3, 1#8)], power := { Power.init with dies := [.waking, .awake] } }, by decide +kernel⟩⟩

theorem test_witness_TimeStepsAndServoSwitches :
    (∃ s : State, (s.time.running = true)) ∧
    (∃ s : State, (s.time.running = false)) ∧
    (∃ s : State, (s.time.running = true) ∧ (s.time.switchAt ≠ some s.now) ∧ (shadowLocked s = true) ∧ ((servoOf s (1 - activeServo s)).phi.natAbs ≤ 50 * 65536)) ∧
    (∃ b : Bool, (∃ s : State, (s.time.running = true) ∧ (s.time.switchAt ≠ some s.now) ∧ (shadowLocked s = true) ∧ (50 * 65536 < (servoOf s (1 - activeServo s)).phi.natAbs) ∧ (b = true ∨ getB s Reg.TIME_SWITCH_CFG 0 = true))) ∧
    (∃ s : State, (s.time.running = true) ∧ (s.time.switchAt ≠ some s.now) ∧ (shadowLocked s = true) ∧ (50 * 65536 < (servoOf s (1 - activeServo s)).phi.natAbs) ∧ (getB s Reg.TIME_SWITCH_CFG 0 = false)) ∧
    (∃ s : State, (s.time.running = true) ∧ (s.time.switchAt ≠ some s.now) ∧ (shadowLocked s = false)) ∧
    (∃ s : State, (s.time.switchAt = some s.now)) :=
  ⟨⟨{ sR [(Reg.TIME_SET_NS, 5#32)] with time := { TimeGen.init with running := true } }, by decide +kernel⟩,
   ⟨State.reset, by decide +kernel⟩,
   ⟨{ State.reset with time := { TimeGen.init with running := true, servos := [Servo.init, { Servo.init with st := 2, phi := 3276800 }] } }, by decide +kernel⟩,
   ⟨true, { State.reset with time := { TimeGen.init with running := true, servos := [Servo.init, { Servo.init with st := 2, phi := -3276801 }] } }, by decide +kernel⟩,
   ⟨{ State.reset with time := { TimeGen.init with running := true, servos := [Servo.init, { Servo.init with st := 2, phi := 3276801 }] } }, by decide +kernel⟩,
   ⟨{ State.reset with time := { TimeGen.init with running := true } }, by decide +kernel⟩,
   ⟨{ State.reset with now := 9, time := { TimeGen.init with running := true, switchAt := some 9, servos := [Servo.init, { Servo.init with st := 2, phi := 3276800 }] } }, by decide +kernel⟩⟩

theorem test_witness_ServoLawsAndHoldover :
    (∃ n : Fin 2, (∃ x : BitVec 48, (∃ s : State, (s.time.running = true) ∧ (servoEn s n.val = true) ∧ (activeServo s = n.val) ∧ (s.time.servos.length = 2) ∧ ((servoOf s n.val).st = 1) ∧ (x.toInt.natAbs < getN s (Reg.TIME_S_STEP_THR n.val) * 65536) ∧ (getF s (Reg.TIME_S_LOCK n.val) 15 0 * 65536 < x.toInt.natAbs)))) ∧
    (∃ n : Fin 2, (∃ x : BitVec 48, (∃ s : State, (s.time.running = true) ∧ (servoEn s n.val = true) ∧ (activeServo s = n.val) ∧ (getN s (Reg.TIME_S_STEP_THR n.val) * 65536 ≤ x.toInt.natAbs) ∧ (getB s (Reg.TIME_S_CFG n.val) 27 = true) ∧ ((schArmed s = false ∨ getB s (Reg.TIME_S_CFG n.val) 26 = true)) ∧ (s.time.setAt ≠ some s.now)))) ∧
    (∃ n : Fin 2, (∃ s : State, (servoEn s n.val = false ∨ s.time.running = false))) ∧
    (∃ n : Fin 2, (∃ s : State, (s.time.running = true) ∧ (lossDue s n.val = true) ∧ ((servoOf s n.val).st = 2) ∧ (s.time.servos.length = 2))) ∧
    (∃ n : Fin 2, (∃ s : State, (lossDue s n.val = false))) ∧
    (∃ s : State, ((servoOf s (activeServo s)).st = 3) ∧ (getN s Reg.TIME_HOLD_LIMIT ≤ holdSec s (activeServo s)) ∧ (getB s Reg.TIME_STATUS 25 = false)) ∧
    (∃ s : State, (dpllMode s = 1) ∧ (s.time.synceLost = false)) ∧
    (∃ s : State, (s.time.synceLost = true) ∧ (macUp s (synceSrc s) = true)) :=
  ⟨⟨0, 131073#48, { sR [(Reg.TIME_S_CFG 0, 0x80000000#32), (Reg.TIME_S_STEP_THR 0, 1000#32), (Reg.TIME_S_LOCK 0, 2#32), (Reg.TIME_S_KI 0, 3#32), (Reg.TIME_S_KP 0, 5#32), (Reg.TIME_S_FMAX 0, 7#32)] with time := { TimeGen.init with running := true, servos := [{ Servo.init with st := 1 }, Servo.init] } }, by decide +kernel⟩,
   ⟨0, 65536000#48, { sR [(Reg.TIME_S_CFG 0, 0x88000000#32), (Reg.TIME_S_STEP_THR 0, 1000#32)] with time := { TimeGen.init with dev := 70000000, running := true } }, by decide +kernel⟩,
   ⟨0, State.reset, by decide +kernel⟩,
   ⟨1, { sR [(Reg.TIME_S_LOSS 1, 2#32)] with now := 1600001, time := { TimeGen.init with running := true, servos := [Servo.init, { Servo.init with st := 2, i := 5, y := 9, last := some 0 }] } }, by decide +kernel⟩,
   ⟨1, { sR [(Reg.TIME_S_LOSS 1, 2#32)] with now := 1600000, time := { TimeGen.init with running := true, servos := [Servo.init, { Servo.init with st := 2, i := 5, y := 9, last := some 0 }] } }, by decide +kernel⟩,
   ⟨{ sR [(Reg.TIME_HOLD_LIMIT, 1#32)] with now := 800000000, time := { TimeGen.init with running := true, servos := [{ Servo.init with st := 3 }, Servo.init] } }, by decide +kernel⟩,
   ⟨sR [(Reg.TIME_DPLL_CFG, 1#32)], by decide +kernel⟩,
   ⟨{ sR [(Reg.ETH_P_STATUS 0, 1#32)] with time := { TimeGen.init with synceLost := true, rateHeld := some 4 } }, by decide +kernel⟩⟩

theorem test_witness_PulsesFramesAndPins :
    (∃ s : State, (getB s Reg.TIME_PPS_IN_CFG 31 = true) ∧ (s.time.running = true)) ∧
    (∃ x : Nat, (∃ s : State, (s.time.ppsIn = some x) ∧ (x + 1200000000 ≤ s.now))) ∧
    (∃ x : Nat, (∃ s : State, (s.time.ppsIn = some x) ∧ (s.now < x + 1200000000))) ∧
    (∃ s : State, (ppsAllowed s = true) ∧ (s.time.ppsUntil = none) ∧ (s.time.ppsDone < (ppsInstant s).toNat)) ∧
    (∃ u : Nat, (∃ s : State, (ppsAllowed s = true) ∧ (s.time.ppsUntil = some u) ∧ (u ≤ s.time.dev))) ∧
    (∃ s : State, (ppsAllowed s = false)) ∧
    (∃ s : State, (s.time.running = true)) ∧
    (∃ m : MacId, (∃ n : Fin 2, (∃ s : State, (getF s (Reg.TIME_SYNCE_OUT n.val) 4 0 = m.val)))) ∧
    (∃ v : Word, (bitOf v 31 = true) ∧ (fieldOf v 2 0 = 2)) ∧
    (∃ k : Fin 16, (∃ v : Word, (∃ s : State, (bitOf v 31 = true) ∧ (fieldOf v 2 0 = 3) ∧ (getN s (Reg.TPIN_I_PERIOD_NS k.val) < 10)))) ∧
    (∃ v : Word, (bitOf v 30 = true) ∧ (bitOf v 31 = false)) ∧
    (∃ k : Fin 16, (∃ s : State, (pinArmed s k.val = true) ∧ (s.time.running = true) ∧ ((getPin s k.val).next ≤ s.time.dev) ∧ ((getPin s k.val).mode = 2))) ∧
    (∃ k : Fin 16, (∃ s : State, (pinArmed s k.val = true) ∧ (s.time.running = true) ∧ ((getPin s k.val).next ≤ s.time.dev) ∧ ((getPin s k.val).mode = 3))) ∧
    (∃ k : Fin 16, (∃ s : State, (s.time.dev < (getPin s k.val).next))) ∧
    (∃ k : Fin 16, (∃ u : Nat, (∃ s : State, ((getPin s k.val).active = true) ∧ ((getPin s k.val).until' = some u) ∧ (u ≤ s.time.dev)))) ∧
    (∃ k : Fin 16, (∃ s : State, (getF s (Reg.TPIN_I_CFG k.val) 2 0 = 1) ∧ (getF s (Reg.TPIN_I_CFG k.val) 5 4 = 0) ∧ ((getPin s k.val).fifo.length < 4))) ∧
    (∃ k : Fin 16, (∃ s : State, (getF s (Reg.TPIN_I_CFG k.val) 2 0 = 1) ∧ (getF s (Reg.TPIN_I_CFG k.val) 5 4 = 0) ∧ (4 ≤ (getPin s k.val).fifo.length))) ∧
    (∃ v : Word, (bitOf v 0 = true)) :=
  ⟨⟨{ sR [(Reg.TIME_PPS_IN_CFG, 0x80000000#32)] with now := 9, time := { TimeGen.init with running := true, dev := 5000 } }, by decide +kernel⟩,
   ⟨0, { sR [(Reg.TIME_STATUS, 0x01000000#32)] with now := 1200000000, time := { TimeGen.init with ppsIn := some 0 } }, by decide +kernel⟩,
   ⟨0, { sR [(Reg.TIME_STATUS, 0x01000000#32)] with now := 1199999999, time := { TimeGen.init with ppsIn := some 0 } }, by decide +kernel⟩,
   ⟨{ sR [(Reg.TIME_STATUS, 0x80000000#32), (Reg.TIME_PPS_OUT, 0x80000064#32)] with time := { TimeGen.init with running := true, dev := unitsPerSec } }, by decide +kernel⟩,
   ⟨5, { sR [(Reg.TIME_STATUS, 0x80000000#32), (Reg.TIME_PPS_OUT, 0x80000064#32)] with time := { TimeGen.init with running := true, dev := unitsPerSec, ppsUntil := some 5 } }, by decide +kernel⟩,
   ⟨{ State.reset with time := { TimeGen.init with ppsUntil := some 5 } }, by decide +kernel⟩,
   ⟨{ State.reset with time := { TimeGen.init with running := true, dev := 20000000 * 65536 } }, by decide +kernel⟩,
   ⟨3, 1, sR [(Reg.TIME_SYNCE_OUT 1, 0x80000003#32), (Reg.ETH_P_STATUS 0, 8#32)], by decide +kernel⟩,
   ⟨0x80000002#32, by decide +kernel⟩,
   ⟨3, 0x80000003#32, sR [(Reg.TPIN_I_PERIOD_NS 3, 9#32)], by decide +kernel⟩,
   ⟨0x40000000#32, by decide +kernel⟩,
   ⟨3, { sR [(Reg.TPIN_I_CFG 3, 0x80000002#32)] with time := { TimeGen.init with running := true, dev := 9, pins := [(3, { Tpin.init with mode := 2, next := 9 })] } }, by decide +kernel⟩,
   ⟨3, { sR [(Reg.TPIN_I_CFG 3, 0x80000003#32)] with time := { TimeGen.init with running := true, dev := 9, pins := [(3, { Tpin.init with mode := 3, next := 9, period := 20 })] } }, by decide +kernel⟩,
   ⟨3, { sR [(Reg.TPIN_I_CFG 3, 0x80000002#32)] with time := { TimeGen.init with running := true, dev := 8, pins := [(3, { Tpin.init with mode := 2, next := 9 })] } }, by decide +kernel⟩,
   ⟨3, 5, { State.reset with time := { TimeGen.init with running := true, dev := 8, pins := [(3, { Tpin.init with active := true, until' := some 5 })] } }, by decide +kernel⟩,
   ⟨3, { sR [(Reg.TPIN_I_CFG 3, 0x00000001#32)] with time := { TimeGen.init with running := true, dev := 8 } }, by decide +kernel⟩,
   ⟨3, { sR [(Reg.TPIN_I_CFG 3, 0x00000001#32)] with time := { TimeGen.init with running := true, dev := 8, pins := [(3, { Tpin.init with fifo := [1, 2, 3, 4] })] } }, by decide +kernel⟩,
   ⟨1#32, by decide +kernel⟩⟩

theorem test_witness_PortsLinksAndDelays :
    (∃ p : Fin 8, (∃ v : Word, (∃ s : State, (fieldOf v 1 0 ≠ portMode s p.val)))) ∧
    (∃ m : MacId, (∃ s : State, (modeHas (portMode s (m.val / 4)) (m.val % 4) = true))) ∧
    (∃ m : MacId, (∃ s : State, (modeHas (portMode s (m.val / 4)) (m.val % 4) = false))) ∧
    (∃ m : MacId, (∃ s : State, (getB s (Reg.ETH_P_STATUS (m.val / 4)) (m.val % 4) = true))) ∧
    (∃ m : MacId, (∃ s : State, (getB s (Reg.ETH_P_STATUS (m.val / 4)) (m.val % 4) = false))) ∧
    (∃ f : OwdMsg, (∃ s : State, (linkUp s f.mac.val = true) ∧ (owdForm f = true) ∧ (f.action = 0 ∨ f.action = 1) ∧ (s.net.egress = []))) ∧
    (∃ f : OwdMsg, (∃ s : State, (linkUp s f.mac.val = true) ∧ (owdForm f = false ∨ ¬(f.action = 0 ∨ f.action = 1 ∨ f.action = 5)))) ∧
    (∃ v : Word, (∃ s : State, (bitOf v 31 = true) ∧ (s.net.owd = none))) ∧
    (∃ f : OwdMsg, (∃ o : Owd, (∃ s : State, (linkUp s f.mac.val = true) ∧ (owdForm f = true) ∧ (f.action = 2) ∧ (s.net.owd = some o) ∧ (f.measId = o.measId) ∧ (o.stamp ≠ 0)))) ∧
    (∃ o : Owd, (∃ s : State, (s.net.owd = some o) ∧ (o.start + 8000000 ≤ s.now))) ∧
    (∃ o : Owd, (∃ s : State, (s.net.owd = some o) ∧ (s.now < o.start + 8000000))) ∧
    (∃ r : PtpTx, (∃ s : State, (linkUp s r.mac.val = true) ∧ (s.net.egress = []) ∧ (r.length ≤ 262144))) :=
  ⟨⟨3, 0xFFFFFFFE#32, sR [(Reg.ETH_P_CFG 3, 3#32), (Reg.ETH_P_STATUS 3, 15#32)], by decide +kernel⟩,
   ⟨15, sR [(Reg.ETH_P_CFG 3, 3#32)], by decide +kernel⟩,
   ⟨14, sR [(Reg.ETH_P_CFG 3, 2#32)], by decide +kernel⟩,
   ⟨13, { sR [(Reg.ETH_P_CFG 3, 2#32), (Reg.ETH_P_STATUS 3, 3#32)] with net := { Net.init with egress := [{ mac := 13, queue := 0, bytes := 64, dst := 0, msg := .ptp 0 0 none }] } }, by decide +kernel⟩,
   ⟨13, State.reset, by decide +kernel⟩,
   ⟨{ mac := 0, ago := 5, src := 77, vlan := 0, revision := 1, concat := false, sizeOk := true, action := 0, measId := 9, stamp := 1, comp := 0 }, sR [(Reg.ETH_P_CFG 0, 1#32), (Reg.ETH_P_STATUS 0, 1#32)], by decide +kernel⟩,
   ⟨{ mac := 0, ago := 5, src := 77, vlan := 0, revision := 2, concat := false, sizeOk := true, action := 0, measId := 9, stamp := 1, comp := 0 }, sR [(Reg.ETH_P_CFG 0, 1#32), (Reg.ETH_P_STATUS 0, 1#32)], by decide +kernel⟩,
   ⟨0x80000002#32, { sR [(Reg.FHX_OWD_RESULT, 9#32)] with now := 7 }, by decide +kernel⟩,
   ⟨{ mac := 0, ago := 5, src := 77, vlan := 0, revision := 1, concat := false, sizeOk := true, action := 2, measId := 9, stamp := 65536000, comp := -6 }, { ru := 2, measId := 9, start := 0, stamp := 655360 }, { sR [(Reg.ETH_P_CFG 0, 1#32), (Reg.ETH_P_STATUS 0, 1#32), (Reg.FHX_OWD_CTL, 0x80000002#32)] with net := { Net.init with owd := some { ru := 2, measId := 9, start := 0, stamp := 655360 } } }, by decide +kernel⟩,
   ⟨{ ru := 2, measId := 9, start := 0, stamp := 1 }, { sR [(Reg.FHX_OWD_CTL, 0x80000002#32)] with now := 8000000, net := { Net.init with owd := some { ru := 2, measId := 9, start := 0, stamp := 1 } } }, by decide +kernel⟩,
   ⟨{ ru := 2, measId := 9, start := 0, stamp := 1 }, { sR [(Reg.FHX_OWD_CTL, 0x80000002#32)] with now := 7999999, net := { Net.init with owd := some { ru := 2, measId := 9, start := 0, stamp := 1 } } }, by decide +kernel⟩,
   ⟨{ mac := 0, msgType := 0, seqId := 9, oneStep := false, length := 262144, pcp := 9 }, sR [(Reg.ETH_P_CFG 0, 1#32), (Reg.ETH_P_STATUS 0, 1#32)], by decide +kernel⟩⟩

theorem test_witness_FramesAreClassified :
    (∃ f : EthFrame, (∃ ty : Nat, (∃ sq : Nat, (∃ e : Bool, (∃ s : State, (linkUp s f.mac.val = true) ∧ (f.fcsOk = true) ∧ (64 ≤ f.length) ∧ (f.length ≤ maxFrame s f.mac.val) ∧ (f.tags.length = 1) ∧ (f.body = .ptp ty sq e) ∧ ((f.dst = macAddr s f.mac.val ∨ ptpDst f.dst = true))))))) ∧
    (∃ f : EthFrame, (∃ s : State, (linkUp s f.mac.val = true) ∧ (f.fcsOk = true) ∧ (64 ≤ f.length) ∧ (f.length ≤ maxFrame s f.mac.val) ∧ (f.tags.length = 1) ∧ (f.body = .other))) ∧
    (∃ f : EthFrame, (∃ s : State, (linkUp s f.mac.val = true) ∧ (f.fcsOk = false))) ∧
    (∃ f : EthFrame, (∃ s : State, (linkUp s f.mac.val = false))) ∧
    (∃ p : Fin 16, (∃ r : Reasm, (∃ s : State, (s.net.reasm[p.val]? = some r) ∧ (r.whole = false) ∧ (r.first + 800 * getF s Reg.NB_TIMING 31 16 ≤ s.now)))) ∧
    (∃ p : Fin 16, (∃ r : Reasm, (∃ s : State, (s.net.reasm[p.val]? = some r) ∧ (s.now < r.first + 800 * getF s Reg.NB_TIMING 31 16)))) :=
  ⟨⟨{ mac := 0, ago := 7, dst := 0x011B19000000, length := 64, fcsOk := true, tags := [(5, 6)], body := .ptp 0 9 true }, 0, 9, true, sR [(Reg.ETH_P_CFG 0, 0x06000001#32), (Reg.ETH_P_STATUS 0, 1#32)], by decide +kernel⟩,
   ⟨{ mac := 0, ago := 7, dst := 0x011B19000000, length := 64, fcsOk := true, tags := [(5, 6)], body := .other }, sR [(Reg.ETH_P_CFG 0, 0x06000001#32), (Reg.ETH_P_STATUS 0, 1#32)], by decide +kernel⟩,
   ⟨{ mac := 0, ago := 7, dst := 0x011B19000000, length := 64, fcsOk := false, tags := [(5, 6)], body := .other }, sR [(Reg.ETH_P_CFG 0, 0x06000001#32), (Reg.ETH_P_STATUS 0, 1#32)], by decide +kernel⟩,
   ⟨{ mac := 0, ago := 7, dst := 0x011B19000000, length := 64, fcsOk := true, tags := [(5, 6)], body := .other }, State.reset, by decide +kernel⟩,
   ⟨0, { mac := 0, phyId := 0, msgId := 0x80, seq := 1, segs := [0], last := none, first := 0 }, { sR [(Reg.NB_TIMING, 0x00010000#32)] with now := 800, net := { Net.init with reasm := [{ mac := 0, phyId := 0, msgId := 0x80, seq := 1, segs := [0], last := none, first := 0 }] } }, by decide +kernel⟩,
   ⟨0, { mac := 0, phyId := 0, msgId := 0x80, seq := 1, segs := [0], last := none, first := 0 }, { sR [(Reg.NB_TIMING, 0x00010000#32)] with now := 799, net := { Net.init with reasm := [{ mac := 0, phyId := 0, msgId := 0x80, seq := 1, segs := [0], last := none, first := 0 }] } }, by decide +kernel⟩⟩

theorem test_witness_UplinkFramesAreJudged :
    (∃ f : UPlaneMsg, (∃ s : State, (linkUp s f.mac.val = false))) ∧
    (∃ f : UPlaneMsg, (∃ s : State, (linkUp s f.mac.val = true) ∧ (headerOk f = false))) ∧
    (∃ f : UPlaneMsg, (∃ s : State, (linkUp s f.mac.val = true) ∧ (headerOk f = true) ∧ (exFind s (f.mac.val, f.vlan, f.pcid, 0) = none))) ∧
    (∃ f : UPlaneMsg, (∃ i : Nat, (∃ e : BitVec 128, (∃ s : State, (linkUp s f.mac.val = true) ∧ (headerOk f = true) ∧ (exFind s (f.mac.val, f.vlan, f.pcid, 0) = some (i, e)) ∧ (f.dir = 0) ∧ (f.version = 1) ∧ (f.filter = 0) ∧ (exPrach e = false) ∧ (namesSymbol s (exCarrier e) f = true) ∧ (nowGrid s < symStart s (exCarrier e) (frameSlot s (exCarrier e) f) f.symbol))))) ∧
    (∃ f : UPlaneMsg, (∃ i : Nat, (∃ e : BitVec 128, (∃ s : State, (linkUp s f.mac.val = true) ∧ (headerOk f = true) ∧ (exFind s (f.mac.val, f.vlan, f.pcid, 0) = some (i, e)) ∧ (f.dir = 0) ∧ (f.version = 1) ∧ (f.filter = 0) ∧ (exPrach e = false) ∧ (namesSymbol s (exCarrier e) f = true) ∧ (symStart s (exCarrier e) (frameSlot s (exCarrier e) f) f.symbol ≤ nowGrid s) ∧ (rxWindowEnd s (exCarrier e) (frameSlot s (exCarrier e) f) f.symbol + gridPerTick ≤ nowGrid s))))) ∧
    (∃ f : UPlaneMsg, (∃ i : Nat, (∃ n : Nat, (∃ e : BitVec 128, (∃ x : USection, (∃ p : PrbIq, (∃ s : State, (linkUp s f.mac.val = true) ∧ (headerOk f = true) ∧ (exFind s (f.mac.val, f.vlan, f.pcid, 0) = some (i, e)) ∧ (exAt s i = e) ∧ (i < 8192) ∧ (f.dir = 0) ∧ (f.version = 1) ∧ (f.filter = 0) ∧ (exPrach e = false) ∧ (exDmrs e = false) ∧ (namesSymbol s (exCarrier e) f = true) ∧ (frameSlot s (exCarrier e) f = n) ∧ (symStart s (exCarrier e) n f.symbol ≤ nowGrid s) ∧ (nowGrid s < rxWindowEnd s (exCarrier e) n f.symbol + gridPerTick) ∧ (f.sections = [x]) ∧ (sectionOk s (exCarrier e) i x = true) ∧ (x.prbs = [p]) ∧ ((rxBits (getUl s (exCarrier e) n) i f.symbol).testBit x.startPrb = false) ∧ (getN s (Reg.FHX_CC_CAPSZ (exCarrier e)) = 0) ∧ ((getUl s (exCarrier e) n).dmrs = []) ∧ (engineOpen s (reAt s (exCarrier e) n f.symbol (exPort e) (12 * x.startPrb)) = true) ∧ ((∃ y ∈ expected s (exCarrier e) n f.symbol, y.1 ≠ i ∧ lackBits (getUl s (exCarrier e) n) y.1 f.symbol y.2 ≠ 0))))))))) ∧
    (∃ f : UPlaneMsg, (∃ i : Nat, (∃ n : Nat, (∃ e : BitVec 128, (∃ x : USection, (∃ p : PrbIq, (∃ s : State, (linkUp s f.mac.val = true) ∧ (headerOk f = true) ∧ (exFind s (f.mac.val, f.vlan, f.pcid, 0) = some (i, e)) ∧ (exAt s i = e) ∧ (i < 8192) ∧ (f.dir = 0) ∧ (f.version = 1) ∧ (f.filter ≠ 0) ∧ (exPrach e = true) ∧ (namesSymbol s (exCarrier e) f = true) ∧ (frameSlot s (exCarrier e) f = n) ∧ (symStart s (exCarrier e) n f.symbol ≤ nowGrid s) ∧ (nowGrid s < rxWindowEnd s (exCarrier e) n f.symbol + gridPerTick) ∧ (f.sections = [x]) ∧ (sectionOk s (exCarrier e) i x = true) ∧ (x.prbs = [p]) ∧ ((rxBits (getUl s (exCarrier e) n) i f.symbol).testBit x.startPrb = false) ∧ (getN s (Reg.FHX_CC_CAPSZ (exCarrier e)) = 0) ∧ ((∃ y ∈ expected s (exCarrier e) n f.symbol, y.1 ≠ i ∧ lackBits (getUl s (exCarrier e) n) y.1 f.symbol y.2 ≠ 0))))))))) ∧
    (∃ f : UPlaneMsg, (∃ i : Nat, (∃ n : Nat, (∃ tl : Nat, (∃ e : BitVec 128, (∃ x : USection, (∃ p : PrbIq, (∃ r : UlTti, (∃ s : State, (linkUp s f.mac.val = true) ∧ (headerOk f = true) ∧ (exFind s (f.mac.val, f.vlan, f.pcid, 0) = some (i, e)) ∧ (exAt s i = e) ∧ (i < 8192) ∧ (f.dir = 0) ∧ (f.version = 1) ∧ (f.filter = 0) ∧ (exPrach e = false) ∧ (exDmrs e = true) ∧ (exTiles e = [tl]) ∧ (namesSymbol s (exCarrier e) f = true) ∧ (frameSlot s (exCarrier e) f = n) ∧ ((getUl s (exCarrier e) n).cls = .onTime) ∧ ((getUl s (exCarrier e) n).req = some r) ∧ (isDmrs s (exCarrier e) n f.symbol = true) ∧ (symStart s (exCarrier e) n f.symbol ≤ nowGrid s) ∧ (nowGrid s < rxWindowEnd s (exCarrier e) n f.symbol + gridPerTick) ∧ (f.sections = [x]) ∧ (sectionOk s (exCarrier e) i x = true) ∧ (x.prbs = [p]) ∧ (s.carriers.flatMap (fun kv => kv.2.ul.flatMap (fun u => u.2.dmrs)) = []) ∧ (rxBits (getUl s (exCarrier e) n) i f.symbol = 0) ∧ (filledBits (getUl s (exCarrier e) n) i f.symbol = 0) ∧ (1 < ccPrb s (exCarrier e)) ∧ (getN s (Reg.FHX_CC_CAPSZ (exCarrier e)) = 0) ∧ (runsOn s (exCtx e) tl = true) ∧ ((ctxRing s (exCtx e) tl (exRing e)).en = true) ∧ ((ctxRing s (exCtx e) tl (exRing e)).occ < (ctxRing s (exCtx e) tl (exRing e)).slots) ∧ (recvAdvances s (exCtx e) tl (exRing e) = 0) ∧ ((getT s tl).asleep = []) ∧ ((getT s tl).wakingG = []) ∧ (s.foreignDirty = []) ∧ ((∃ y ∈ expected s (exCarrier e) n f.symbol, y.1 ≠ i ∧ lackBits (getUl s (exCarrier e) n) y.1 f.symbol y.2 ≠ 0))))))))))) :=
  ⟨⟨tUp, State.reset, by decide +kernel⟩,
   ⟨{ tUp with revision := 2 }, sC gps [] Carrier.init, by decide +kernel⟩,
   ⟨{ tUp with pcid := 11 }, sC gps [] Carrier.init, by decide +kernel⟩,
   ⟨{ tUp with symbol := 13, seqId := 3 }, 3, exA, sC gps [] Carrier.init, by decide +kernel⟩,
   ⟨{ tUp with symbol := 0 }, 3, exA, sC (gps + 72 * unitsPerUs) [] Carrier.init, by decide +kernel⟩,
   ⟨tUp, 3, 0, exA, tSec, tPrb, { sC gps [] Carrier.init with mem := [(50, 5#8), (4096, 6#8)] }, by decide +kernel⟩,
   ⟨{ tUp with filter := 1 }, 3, 0, (exA ||| BitVec.ofNat 128 (2 ^ 38)), tSec, tPrb, { sC gps [] Carrier.init with net := { Net.init with eaxc := [(3, exA ||| BitVec.ofNat 128 (2 ^ 38)), (4, exB)] } }, by decide +kernel⟩,
   ⟨tUp, 3, 0, 0, (exA ||| BitVec.ofNat 128 (2 ^ 79 + 2 ^ 80)), tSec, tPrb, tReq, { sC gps [(Reg.TILE_RING_CFG 0 0, 0x86000000#32)] { Carrier.init with ul := [(0, { UlSlot.init with cls := .onTime, req := some tReq })] } with net := { Net.init with eaxc := [(3, exA ||| BitVec.ofNat 128 (2 ^ 79 + 2 ^ 80)), (4, exB)] }, plan := some tPlan, ctxs := [(0, tCtx)], tiles := [(0, tTile)] }, by decide +kernel⟩⟩

theorem test_witness_UplinkSymbolsAreRequestedAndClosed :
    (∃ c : CarrierId, (∃ n : Nat, (∃ k : Nat, (∃ i : Nat, (∃ e : BitVec 128, (∃ s : State, ((getCar s c.val).running = true) ∧ (fatal s = false) ∧ (k < 14) ∧ (ccTdd s c.val = false) ∧ ((getUl s c.val n).cpSent.contains k = false) ∧ (symStart s c.val n k ≤ nowGrid s + cpLead s c.val) ∧ (exOf s c.val 0 false = [(i, e)]) ∧ (exAt s i = e) ∧ (linkUp s (exMac e) = true) ∧ (s.net.egress = []))))))) ∧
    (∃ c : CarrierId, (∃ n : Nat, (∃ k : Nat, (∃ s : State, (nowGrid s + cpLead s c.val < symStart s c.val n k ∨ (getUl s c.val n).cpSent.contains k = true))))) ∧
    (∃ c : CarrierId, (∃ n : Nat, (∃ k : Nat, (∃ s : State, ((getCar s c.val).running = true) ∧ (fatal s = false) ∧ ((getUl s c.val n).prachSent.contains k = false))))) ∧
    (∃ c : CarrierId, (∃ n : Nat, (∃ l : Nat, (∃ s : State, ((getCar s c.val).running = true) ∧ (l < 14) ∧ (ccTdd s c.val = false) ∧ ((getUl s c.val n).closed.contains l = false) ∧ (rxWindowEnd s c.val n l + gridPerTick ≤ nowGrid s) ∧ ((getUl s c.val n).pdus = []) ∧ ((getUl s c.val n).preds = []) ∧ ((getUl s c.val n).dmrs = []) ∧ (isDmrs s c.val n l = false) ∧ (dieAwake s 0 = true) ∧ (dieAwake s 1 = true))))) ∧
    (∃ c : CarrierId, (∃ n : Nat, (∃ l : Nat, (∃ s : State, ((getCar s c.val).running = true) ∧ (l < 14) ∧ (ulSym s c.val n l = true) ∧ ((getUl s c.val n).closed.contains l = false) ∧ (rxWindowEnd s c.val n l + gridPerTick ≤ nowGrid s))))) ∧
    (∃ c : CarrierId, (∃ n : Nat, (∃ l : Nat, (∃ s : State, (nowGrid s < rxWindowEnd s c.val n l + gridPerTick ∨ (getUl s c.val n).closed.contains l = true))))) :=
  ⟨⟨0, 0, 0, 3, exA, { sC gps [] Carrier.init with net := { Net.init with eaxc := [(3, exA)] } }, by decide +kernel⟩,
   ⟨0, 1, 0, sC gps [] Carrier.init, by decide +kernel⟩,
   ⟨0, 0, 0, sC gps [] Carrier.init, by decide +kernel⟩,
   ⟨0, 0, 1, { sC (gps + 200 * unitsPerUs) [] { Carrier.init with ul := [(0, { UlSlot.init with cls := .onTime, req := some tReq, rx := [(49, 1)] })] } with mem := [(0, 5#8), (25, 6#8), (50, 7#8), (75, 9#8), (98, 9#8)] }, by decide +kernel⟩,
   ⟨0, 0, 0, sC (gps + 80 * unitsPerUs) [] { Carrier.init with ul := [(0, { UlSlot.init with rx := [(48, 1)] })] }, by decide +kernel⟩,
   ⟨0, 0, 0, sC gps [] Carrier.init, by decide +kernel⟩⟩

theorem test_witness_TheReceiverMeasures :
    (∃ c : CarrierId, (∃ n : Nat, (∃ s : State, (ccValid s c.val = true) ∧ (8 ≤ n) ∧ (slotStart s c.val (n - 1) ≤ nowGrid s) ∧ (nowGrid s < slotStart s c.val n) ∧ ((∀ m ∈ (getCar s c.val).ul.map (·.1), (getCar s c.val).nfNext ≤ m → m ≤ n - (if ccMu s c.val = 3 then 8 else 2) → nfReady s c.val m = true))))) ∧
    (∃ c : CarrierId, (∃ n : Nat, (∃ s : State, (ccValid s c.val = false ∨ nowGrid s < slotStart s c.val (n - 1) ∨ slotStart s c.val n ≤ nowGrid s)))) ∧
    (∃ c : CarrierId, (∃ n : Nat, (∃ m : Nat, (∃ s : State, (m ∈ (getCar s c.val).ul.map (·.1)) ∧ ((getCar s c.val).nfNext ≤ m) ∧ (m ≤ n - (if ccMu s c.val = 3 then 8 else 2)) ∧ (nfReady s c.val m = false))))) ∧
    (∃ r : PrachResult, (∃ o : PrachOcc, (∃ s : State, (findOcc (getUl s r.carrier.val r.slot) r.occ = some o) ∧ (o.searching = true) ∧ (s.power.hubOn.testBit 13 = true) ∧ ((getUl s r.carrier.val r.slot).expired = false)))) ∧
    (∃ r : PrachResult, (∃ o : PrachOcc, (∃ s : State, (findOcc (getUl s r.carrier.val r.slot) r.occ = some o) ∧ (o.searching = true) ∧ (s.power.hubOn.testBit 13 = true) ∧ ((getUl s r.carrier.val r.slot).expired = true) ∧ ((getUl s r.carrier.val r.slot).req = none)))) ∧
    (∃ r : PrachResult, (∃ s : State, (findOcc (getUl s r.carrier.val r.slot) r.occ = none))) :=
  ⟨⟨0, 8, { sC (gps + 7500 * unitsPerUs) [] { Carrier.init with nf := [(0, ⟨0x3F800000#32, 9, 3⟩)] } with mem := [(3, 7#8), (100, 4#8)] }, by decide +kernel⟩,
   ⟨0, 8, sC gps [] Carrier.init, by decide +kernel⟩,
   ⟨0, 8, 3, sC (gps + 7500 * unitsPerUs) [] { Carrier.init with ul := [(3, UlSlot.init)] }, by decide +kernel⟩,
   ⟨⟨0, 0, 0⟩, ⟨0, 0, true, false, false, []⟩, { sC gps [] { Carrier.init with ul := [(0, { UlSlot.init with occs := [⟨0, 0, true, false, false, []⟩] })] } with power := { Power.init with hubOn := 8192 } }, by decide +kernel⟩,
   ⟨⟨0, 0, 0⟩, ⟨0, 0, true, false, false, []⟩, { sC gps [] { Carrier.init with ul := [(0, { UlSlot.init with expired := true, occs := [⟨0, 0, true, false, false, []⟩] })] } with power := { Power.init with hubOn := 8192 } }, by decide +kernel⟩,
   ⟨⟨0, 0, 0⟩, State.reset, by decide +kernel⟩⟩

theorem test_witness_UplinkRequestsAreJudged :
    (∃ r : UlTti, (∃ s : State, (nbHears s r.hd.mac.val = false ∨ fromPeer s r.hd.srcIp r.hd.srcPort = false))) ∧
    (∃ r : UlTti, (∃ s : State, (nbHears s r.hd.mac.val = true) ∧ (fromPeer s r.hd.srcIp r.hd.srcPort = true) ∧ (nbCarrier s r.hd.phyId = none))) ∧
    (∃ r : UlTti, (∃ c : Nat, (∃ code : Nat, (∃ s : State, (nbHears s r.hd.mac.val = true) ∧ (fromPeer s r.hd.srcIp r.hd.srcPort = true) ∧ (nbCarrier s r.hd.phyId = some c) ∧ (rejectCode s r.hd c (slotNamed s c r.hd.sfn r.hd.slot) (ulChecks s r c (slotNamed s c r.hd.sfn r.hd.slot)) = some code))))) ∧
    (∃ r : UlTti, (∃ c : Nat, (∃ n : Nat, (∃ s : State, (nbHears s r.hd.mac.val = true) ∧ (fromPeer s r.hd.srcIp r.hd.srcPort = true) ∧ (nbCarrier s r.hd.phyId = some c) ∧ (n = slotNamed s c r.hd.sfn r.hd.slot) ∧ (rejectCode s r.hd c n (ulChecks s r c n) = none) ∧ (earlierOpen s c n = false) ∧ ((getUl s c n).expired = false) ∧ (nowGrid s < completionDeadline s c n) ∧ (nowGrid s < ulCutoff s c n) ∧ ((getUl s c n).pdus = []) ∧ (s.ecc.single = []) ∧ (s.ecc.bad = []))))) ∧
    (∃ r : UlTti, (∃ c : Nat, (∃ n : Nat, (∃ s : State, (nbHears s r.hd.mac.val = true) ∧ (fromPeer s r.hd.srcIp r.hd.srcPort = true) ∧ (nbCarrier s r.hd.phyId = some c) ∧ (n = slotNamed s c r.hd.sfn r.hd.slot) ∧ (rejectCode s r.hd c n (ulChecks s r c n) = none) ∧ (earlierOpen s c n = true))))) ∧
    (∃ r : UlTti, (∃ c : Nat, (∃ n : Nat, (∃ s : State, (nbHears s r.hd.mac.val = true) ∧ (fromPeer s r.hd.srcIp r.hd.srcPort = true) ∧ (nbCarrier s r.hd.phyId = some c) ∧ (n = slotNamed s c r.hd.sfn r.hd.slot) ∧ (rejectCode s r.hd c n (ulChecks s r c n) = none) ∧ (earlierOpen s c n = false) ∧ ((getUl s c n).expired = false) ∧ (nowGrid s < completionDeadline s c n) ∧ (ulCutoff s c n ≤ nowGrid s) ∧ ((∀ kv ∈ (getCar s c).ul, kv.2.held = none)))))) ∧
    (∃ r : UlTti, (∃ c : Nat, (∃ n : Nat, (∃ s : State, (nbHears s r.hd.mac.val = true) ∧ (fromPeer s r.hd.srcIp r.hd.srcPort = true) ∧ (nbCarrier s r.hd.phyId = some c) ∧ (n = slotNamed s c r.hd.sfn r.hd.slot) ∧ (rejectCode s r.hd c n (ulChecks s r c n) = none) ∧ (earlierOpen s c n = false) ∧ (completionDeadline s c n ≤ nowGrid s) ∧ ((∀ kv ∈ (getCar s c).ul, kv.2.held = none)))))) :=
  ⟨⟨tReq, State.reset, by decide +kernel⟩,
   ⟨{ tReq with hd := { tHd with phyId := 5 } }, sN gps [] Carrier.init, by decide +kernel⟩,
   ⟨{ tReq with hd := { tHd with fieldBad := true } }, 0, 7, sN gps [] Carrier.init, by decide +kernel⟩,
   ⟨ulAt 1, 0, 1, sN gps [] Carrier.init, by decide +kernel⟩,
   ⟨ulAt 2, 0, 2, sN gps [] Carrier.init, by decide +kernel⟩,
   ⟨ulAt 0, 0, 0, sN gps [] Carrier.init, by decide +kernel⟩,
   ⟨ulAt 0, 0, 0, sN gps [] { Carrier.init with ul := [(0, { UlSlot.init with t0 := some 0 })] }, by decide +kernel⟩⟩

theorem test_witness_UplinkSlotsEnd :
    (∃ c : CarrierId, (∃ n : Nat, (∃ s : State, ((getCar s c.val).running = true) ∧ ((getUl s c.val n).cls = .open) ∧ ((getUl s c.val n).held = none) ∧ (ccTdd s c.val = false) ∧ (ulCutoff s c.val n ≤ nowGrid s)))) ∧
    (∃ c : CarrierId, (∃ n : Nat, (∃ s : State, ((getUl s c.val n).cls ≠ .open ∨ nowGrid s < ulCutoff s c.val n)))) ∧
    (∃ c : CarrierId, (∃ n : Nat, (∃ s : State, ((getCar s c.val).running = true) ∧ ((getUl s c.val n).expired = false) ∧ ((getUl s c.val n).held = none) ∧ (ccTdd s c.val = false) ∧ (completionDeadline s c.val n ≤ nowGrid s) ∧ ((getUl s c.val n).req = none)))) ∧
    (∃ c : CarrierId, (∃ n : Nat, (∃ r : UlTti, (∃ s : State, ((getCar s c.val).running = true) ∧ ((getUl s c.val n).expired = false) ∧ ((getUl s c.val n).held = none) ∧ (ccTdd s c.val = false) ∧ (completionDeadline s c.val n ≤ nowGrid s) ∧ ((getUl s c.val n).req = some r))))) ∧
    (∃ c : CarrierId, (∃ n : Nat, (∃ s : State, ((getUl s c.val n).expired = true ∨ nowGrid s < completionDeadline s c.val n)))) :=
  ⟨⟨0, 0, sN gps [] { Carrier.init with ul := [(0, { UlSlot.init with preds := [tPred] })] }, by decide +kernel⟩,
   ⟨0, 1, sN gps [] Carrier.init, by decide +kernel⟩,
   ⟨0, 0, sN gps [] { Carrier.init with ul := [(0, { UlSlot.init with t0 := some 0, occs := [⟨0, 0, false, true, false, []⟩] })] }, by decide +kernel⟩,
   ⟨0, 0, tReq, sN gps [] { Carrier.init with ul := [(0, { UlSlot.init with t0 := some 0, cls := .onTime, req := some tReq, jnl := true, pdus := [UlPdu.new tPusch none 0 none] })] }, by decide +kernel⟩,
   ⟨0, 0, sN gps [] { Carrier.init with ul := [(0, { UlSlot.init with expired := true })] }, by decide +kernel⟩⟩

theorem test_witness_DownlinkRequestsAreJudged :
    (∃ r : DlTti, (∃ s : State, (nbHears s r.hd.mac.val = false ∨ fromPeer s r.hd.srcIp r.hd.srcPort = false))) ∧
    (∃ r : UlDci, (∃ s : State, (nbHears s r.hd.mac.val = false ∨ fromPeer s r.hd.srcIp r.hd.srcPort = false))) ∧
    (∃ r : TxData, (∃ s : State, (nbHears s r.hd.mac.val = false ∨ fromPeer s r.hd.srcIp r.hd.srcPort = false))) ∧
    (∃ r : DlTti, (∃ c : Nat, (∃ n : Nat, (∃ code : Nat, (∃ s : State, (nbHears s r.hd.mac.val = true) ∧ (fromPeer s r.hd.srcIp r.hd.srcPort = true) ∧ (nbCarrier s r.hd.phyId = some c) ∧ (n = slotNamed s c r.hd.sfn r.hd.slot) ∧ (rejectCode s r.hd c n (dlTtiChecks s r c n) = some code)))))) ∧
    (∃ r : DlTti, (∃ c : Nat, (∃ n : Nat, (∃ s : State, (nbHears s r.hd.mac.val = true) ∧ (fromPeer s r.hd.srcIp r.hd.srcPort = true) ∧ (nbCarrier s r.hd.phyId = some c) ∧ (n = slotNamed s c r.hd.sfn r.hd.slot) ∧ (rejectCode s r.hd c n (dlTtiChecks s r c n) = none) ∧ (nowGrid s < dlCutoff s c n))))) ∧
    (∃ r : DlTti, (∃ c : Nat, (∃ n : Nat, (∃ s : State, (nbHears s r.hd.mac.val = true) ∧ (fromPeer s r.hd.srcIp r.hd.srcPort = true) ∧ (nbCarrier s r.hd.phyId = some c) ∧ (n = slotNamed s c r.hd.sfn r.hd.slot) ∧ (rejectCode s r.hd c n (dlTtiChecks s r c n) = none) ∧ (dlCutoff s c n ≤ nowGrid s))))) ∧
    (∃ r : UlDci, (∃ c : Nat, (∃ n : Nat, (∃ s : State, (nbHears s r.hd.mac.val = true) ∧ (fromPeer s r.hd.srcIp r.hd.srcPort = true) ∧ (nbCarrier s r.hd.phyId = some c) ∧ (n = slotNamed s c r.hd.sfn r.hd.slot) ∧ (rejectCode s r.hd c n (ulDciChecks s r c n) = none) ∧ (nowGrid s < dlCutoff s c n))))) ∧
    (∃ r : UlDci, (∃ c : Nat, (∃ n : Nat, (∃ s : State, (nbHears s r.hd.mac.val = true) ∧ (fromPeer s r.hd.srcIp r.hd.srcPort = true) ∧ (nbCarrier s r.hd.phyId = some c) ∧ (n = slotNamed s c r.hd.sfn r.hd.slot) ∧ (rejectCode s r.hd c n (ulDciChecks s r c n) = none) ∧ (dlCutoff s c n ≤ nowGrid s))))) ∧
    (∃ r : TxData, (∃ c : Nat, (∃ n : Nat, (∃ s : State, (nbHears s r.hd.mac.val = true) ∧ (fromPeer s r.hd.srcIp r.hd.srcPort = true) ∧ (nbCarrier s r.hd.phyId = some c) ∧ (n = slotNamed s c r.hd.sfn r.hd.slot) ∧ (rejectCode s r.hd c n (txDataChecks s r c n) = none) ∧ (nowGrid s < dlCutoff s c n))))) ∧
    (∃ r : TxData, (∃ c : Nat, (∃ n : Nat, (∃ s : State, (nbHears s r.hd.mac.val = true) ∧ (fromPeer s r.hd.srcIp r.hd.srcPort = true) ∧ (nbCarrier s r.hd.phyId = some c) ∧ (n = slotNamed s c r.hd.sfn r.hd.slot) ∧ (rejectCode s r.hd c n (txDataChecks s r c n) = none) ∧ (dlCutoff s c n ≤ nowGrid s))))) ∧
    (∃ c : CarrierId, (∃ n : Nat, (∃ s : State, ((getCar s c.val).running = true) ∧ ((getDl s c.val n).cut = false) ∧ (ccTdd s c.val = false) ∧ (dlCutoff s c.val n ≤ nowGrid s) ∧ ((getDl s c.val n).tti = none)))) ∧
    (∃ c : CarrierId, (∃ n : Nat, (∃ r : DlTti, (∃ s : State, ((getCar s c.val).running = true) ∧ ((getDl s c.val n).cut = false) ∧ (ccTdd s c.val = false) ∧ (dlCutoff s c.val n ≤ nowGrid s) ∧ ((getDl s c.val n).tti = some r))))) ∧
    (∃ c : CarrierId, (∃ n : Nat, (∃ s : State, ((getDl s c.val n).cut = true ∨ nowGrid s < dlCutoff s c.val n)))) :=
  ⟨⟨dlAt 0, State.reset, by decide +kernel⟩,
   ⟨⟨tHd, []⟩, State.reset, by decide +kernel⟩,
   ⟨⟨tHd, []⟩, State.reset, by decide +kernel⟩,
   ⟨{ dlAt 0 with hd := { tHd with fieldBad := true } }, 0, 0, 7, sN gps [] Carrier.init, by decide +kernel⟩,
   ⟨{ dlAt 1 with pdsch := [tPdsch] }, 0, 1, sN gps [] Carrier.init, by decide +kernel⟩,
   ⟨dlAt 0, 0, 0, sN gps [] Carrier.init, by decide +kernel⟩,
   ⟨⟨hdAt 1, []⟩, 0, 1, sN gps [] Carrier.init, by decide +kernel⟩,
   ⟨⟨hdAt 0, []⟩, 0, 0, sN gps [] Carrier.init, by decide +kernel⟩,
   ⟨⟨hdAt 1, []⟩, 0, 1, sN gps [] Carrier.init, by decide +kernel⟩,
   ⟨⟨hdAt 0, []⟩, 0, 0, sN gps [] Carrier.init, by decide +kernel⟩,
   ⟨0, 0, sN gps [] Carrier.init, by decide +kernel⟩,
   ⟨0, 0, { dlAt 0 with pdsch := [tPdsch] }, sN gps [] { Carrier.init with dl := [(0, { DlSlot.init with tti := some { dlAt 0 with pdsch := [tPdsch] }, works := [⟨none, false, 0, none, false⟩] })] }, by decide +kernel⟩,
   ⟨0, 1, sN gps [] Carrier.init, by decide +kernel⟩⟩

theorem test_witness_DownlinkSymbolsAreSent :
    (∃ c : CarrierId, (∃ n : Nat, (∃ k : Nat, (∃ i : Nat, (∃ e : BitVec 128, (∃ r : DlTti, (∃ s : State, ((getDl s c.val n).tti = some r) ∧ ((getCar s c.val).running = true) ∧ (fatal s = false) ∧ (k < 14) ∧ (ccTdd s c.val = false) ∧ (symState (getDl s c.val n) k = .waiting) ∧ (dlCpAt s c.val n k ≤ nowGrid s) ∧ (dlSparse s c.val = false) ∧ (exOf s c.val 1 false = [(i, e)]) ∧ (exAt s i = e) ∧ (linkUp s (exMac e) = true) ∧ (s.net.egress = [])))))))) ∧
    (∃ c : CarrierId, (∃ n : Nat, (∃ k : Nat, (∃ i : Nat, (∃ e : BitVec 128, (∃ r : DlTti, (∃ s : State, ((getDl s c.val n).tti = some r) ∧ ((getCar s c.val).running = true) ∧ (fatal s = false) ∧ (k < 14) ∧ (ccTdd s c.val = false) ∧ (symState (getDl s c.val n) k = .waiting) ∧ (dlCpAt s c.val n k ≤ nowGrid s) ∧ (dlSparse s c.val = true) ∧ (rbgMask s c.val r k ≠ 0) ∧ (exOf s c.val 1 false = [(i, e)]) ∧ (exAt s i = e) ∧ (linkUp s (exMac e) = true) ∧ (s.net.egress = [])))))))) ∧
    (∃ c : CarrierId, (∃ n : Nat, (∃ k : Nat, (∃ r : DlTti, (∃ s : State, ((getDl s c.val n).tti = some r) ∧ ((getCar s c.val).running = true) ∧ (fatal s = false) ∧ (k < 14) ∧ (ccTdd s c.val = false) ∧ (symState (getDl s c.val n) k = .waiting) ∧ (dlCpAt s c.val n k ≤ nowGrid s) ∧ (dlSparse s c.val = true) ∧ (rbgMask s c.val r k = 0)))))) ∧
    (∃ c : CarrierId, (∃ n : Nat, (∃ k : Nat, (∃ s : State, ((getDl s c.val n).tti = none ∨ nowGrid s < dlCpAt s c.val n k))))) ∧
    (∃ c : CarrierId, (∃ n : Nat, (∃ k : Nat, (∃ r : DlTti, (∃ s : State, ((getDl s c.val n).tti = some r) ∧ ((getCar s c.val).running = true) ∧ (fatal s = false) ∧ (symState (getDl s c.val n) k = .cplane) ∧ (markRead s c.val n k = true) ∧ (getLe s (dlMark s c.val n k) 8 = readyTag s c.val n k)))))) ∧
    (∃ c : CarrierId, (∃ n : Nat, (∃ k : Nat, (∃ s : State, (symState (getDl s c.val n) k ≠ .cplane ∨ markRead s c.val n k = false ∨
      getLe s (dlMark s c.val n k) 8 ≠ readyTag s c.val n k))))) ∧
    (∃ c : CarrierId, (∃ n : Nat, (∃ k : Nat, (∃ r : DlTti, (∃ s : State, ((getDl s c.val n).tti = some r) ∧ ((getCar s c.val).running = true) ∧ (k < 14) ∧ (ccTdd s c.val = false) ∧ (symState (getDl s c.val n) k = .cplane ∨ symState (getDl s c.val n) k = .waiting) ∧ ((getDl s c.val n).lost.contains k = false)))))) ∧
    (∃ c : CarrierId, (∃ n : Nat, (∃ k : Nat, (∃ r : DlTti, (∃ s : State, ((getDl s c.val n).tti = some r) ∧ ((getCar s c.val).running = true) ∧ (k < 14) ∧ (ccTdd s c.val = false) ∧ (symState (getDl s c.val n) k = .sending) ∧ (dlBound s c.val n k < nowGrid s) ∧ (symLeaving s c.val n k = true)))))) :=
  ⟨⟨0, 0, 0, 3, exD, dlAt 0, sDl gps [] { DlSlot.init with tti := some (dlAt 0) }, by decide +kernel⟩,
   ⟨0, 0, 0, 3, exD, dlAt 0, sDl gps [(Reg.FHX_CC_DLCFG 0, 0x800001#32)] { DlSlot.init with tti := some (dlAt 0) }, by decide +kernel⟩,
   ⟨0, 0, 1, dlAt 0, sDl (gps + 80 * unitsPerUs) [(Reg.FHX_CC_DLCFG 0, 0x800001#32)] { DlSlot.init with tti := some (dlAt 0) }, by decide +kernel⟩,
   ⟨0, 0, 0, sDl gps [] DlSlot.init, by decide +kernel⟩,
   ⟨0, 0, 0, dlAt 0, { sDl gps [] { DlSlot.init with tti := some (dlAt 0), syms := [(0, .cplane)] } with mem := [(65415, 0x80#8)] }, by decide +kernel⟩,
   ⟨0, 0, 0, sDl gps [] DlSlot.init, by decide +kernel⟩,
   ⟨0, 0, 0, dlAt 0, sDl gps [] { DlSlot.init with tti := some (dlAt 0), syms := [(0, .cplane)] }, by decide +kernel⟩,
   ⟨0, 0, 0, dlAt 0, { sDl (gps + unitsPerUs) [] { DlSlot.init with tti := some (dlAt 0), syms := [(0, .sending)] } with net := { Net.init with eaxc := [(3, exD)], egress := [{ mac := 0, queue := 3, bytes := 64, dst := 0, msg := .uplane 3 0 0 0 0 0 [] }] } }, by decide +kernel⟩⟩

theorem test_witness_CodeBlocksAreDecoded :
    (∃ r : CbRef, (∃ p : UlPdu, (∃ s : State, (pduAt s r.carrier.val r.slot r.pdu = some p) ∧ (p.live = true) ∧ (p.pdu.ulsch = true) ∧ (p.cbs[r.cb]?.map (·.stage) = some .waiting) ∧ (s.ecc.single = []) ∧ (s.ecc.bad = [])))) ∧
    (∃ r : CbRef, (∃ k : Nat, (∃ s : State, (s.coding.release.find? (cbTurn s) = some r) ∧ (s.coding.slices.length = 4) ∧ ((List.range 4).find? (fun k => (nth none s.coding.slices k).isNone && s.power.hubOn.testBit (8 + k)) = some k)))) ∧
    (∃ s : State, ((∀ r ∈ s.coding.release, cbTurn s r = false) ∨ (∀ k, k < 4 → (nth none s.coding.slices k).isSome = true))) ∧
    (∃ k : Fin 4, (∃ r : CbRef, (∃ p : UlPdu, (∃ b : CbState, (∃ s : State, (nth none s.coding.slices k.val = some r) ∧ (pduAt s r.carrier.val r.slot r.pdu = some p) ∧ (p.cbs[r.cb]? = some b)))))) ∧
    (∃ k : Fin 4, (∃ s : State, (nth none s.coding.slices k.val = none))) :=
  ⟨⟨cb0, tPdu, sP tPdu, by decide +kernel⟩,
   ⟨cb0, 3, { sP tPdu with power := { Power.init with hubOn := 2048 }, coding := { Coding.init with release := [cb0] } }, by decide +kernel⟩,
   ⟨State.reset, by decide +kernel⟩,
   ⟨3, cb0, { tPdu with cbs := [{ CbState.waiting with stage := .decoding, soft := List.replicate 100 5 }] }, { CbState.waiting with stage := .decoding, soft := List.replicate 100 5 }, { sP { tPdu with cbs := [{ CbState.waiting with stage := .decoding, soft := List.replicate 100 5 }] } with coding := { Coding.init with slices := [none, none, none, some cb0] } }, by decide +kernel⟩,
   ⟨0, State.reset, by decide +kernel⟩⟩

theorem test_witness_ControlIsDecodedAndDataEncoded :
    (∃ r : UciRef, (∃ rest : List UciRef, (∃ a : Nat, (∃ l : List Int, (∃ x : CtlRes, (∃ s : State, (s.coding.uciQ = r :: rest) ∧ (s.power.hubOn.testBit 12 = true) ∧ (r.kind = 0) ∧ (uciInput s r = some (a, l)) ∧ ((getUl s r.carrier.val r.slot).pucch[r.pdu]? = some x) ∧ (x.done = false))))))) ∧
    (∃ r : UciRef, (∃ rest : List UciRef, (∃ a : Nat, (∃ l : List Int, (∃ p : UlPdu, (∃ s : State, (s.coding.uciQ = r :: rest) ∧ (s.power.hubOn.testBit 12 = true) ∧ (r.kind = 1) ∧ (uciInput s r = some (a, l)) ∧ (pduAt s r.carrier.val r.slot r.pdu = some p) ∧ (p.uciOut[r.part]? = some none))))))) ∧
    (∃ s : State, (s.coding.uciQ = [] ∨ s.power.hubOn.testBit 12 = false)) ∧
    (∃ r : CwRef, (∃ p : PdschPdu, (∃ x : TxPdu, (∃ s : State, (cwWaiting s r.carrier.val r.slot r.pdu r.cw = some (p, x)))))) ∧
    (∃ r : CwRef, (∃ s : State, (cwWaiting s r.carrier.val r.slot r.pdu r.cw = none))) :=
  ⟨⟨⟨0, 0, 0, 0, 0⟩, [], 4, ((uciInput sUci0 ⟨0, 0, 0, 0, 0⟩).getD (0, [])).2, CtlRes.new none 0, sUci0, ⟨by decide +kernel, by decide +kernel, by decide +kernel, someFst (by decide +kernel), by decide +kernel⟩⟩,
   ⟨⟨0, 0, 1, 0, 0⟩, [], 4, ((uciInput sUci1 ⟨0, 0, 1, 0, 0⟩).getD (0, [])).2, pUci, sUci1, ⟨by decide +kernel, by decide +kernel, by decide +kernel, someFst (by decide +kernel), by decide +kernel⟩⟩,
   ⟨State.reset, by decide +kernel⟩,
   ⟨⟨0, 0, 0, 0⟩, tPdsch, tTx, sDl gps [] dlFull, by decide +kernel⟩,
   ⟨⟨0, 0, 0, 0⟩, State.reset, by decide +kernel⟩⟩

theorem test_witness_BuffersAreReleased :
    (∃ h : Nat, (∃ n : Nat, (∃ s : State, (harqValid s h = true) ∧ (harqBusy s h = false) ∧ (lastAccepted s (hGet s h 3 1 % 32) = some n) ∧ (harqExpired s (hGet s h 3 1 % 32) n h = true)))) ∧
    (∃ h : Nat, (∃ s : State, (harqValid s h = false ∨ harqBusy s h = true))) ∧
    (∃ c : CarrierId, (∃ rnti : Nat, (∃ u : Nat, (∃ s : State, (s.coding.relPend = [(c.val, rnti)]) ∧ (s.coding.flushPend = []) ∧ (s.net.eaxcPend = []) ∧ (ueFind s c.val rnti = some u) ∧ (ueBusy s u = false))))) ∧
    (∃ c : CarrierId, (∃ rnti : Nat, (∃ u : Nat, (∃ s : State, (s.coding.relPend = [(c.val, rnti)]) ∧ (s.coding.flushPend = []) ∧ (s.net.eaxcPend = []) ∧ (ueFind s c.val rnti = some u) ∧ (ueBusy s u = true))))) ∧
    (∃ c : CarrierId, (∃ u : Nat, (∃ s : State, (s.coding.relPend = []) ∧ (s.coding.flushPend = [(u, none)]) ∧ (s.net.eaxcPend = []) ∧ (u < 65536) ∧ (ueFlag s u 0 = true) ∧ (uGet s u 2 1 % 32 = c.val) ∧ (ueBusy s u = false)))) ∧
    (∃ c : CarrierId, (∃ u : Nat, (∃ j : Nat, (∃ h : Nat, (∃ s : State, (s.coding.relPend = []) ∧ (s.coding.flushPend = [(u, some j)]) ∧ (s.net.eaxcPend = []) ∧ (u < 65536) ∧ (j < 16) ∧ (ueFlag s u 0 = true) ∧ (uGet s u 2 1 % 32 = c.val) ∧ (ueBusy s u = false) ∧ ((harqMap s u j).testBit 23 = true) ∧ (h = harqMap s u j % 2 ^ 17)))))) ∧
    (∃ u : Nat, (∃ i : Option Nat, (∃ s : State, (s.coding.relPend = []) ∧ (s.coding.flushPend = [(u, i)]) ∧ (s.net.eaxcPend = []) ∧ (ueFlag s u 0 = true) ∧ (ueBusy s u = true)))) ∧
    (∃ c : CarrierId, (∃ rnti : Nat, (∃ s : State, (s.coding.relPend = [(c.val, rnti)]) ∧ (s.coding.flushPend = []) ∧ (s.net.eaxcPend = []) ∧ (ueFind s c.val rnti = none)))) ∧
    (∃ u : Nat, (∃ i : Option Nat, (∃ s : State, (s.coding.relPend = []) ∧ (s.coding.flushPend = [(u, i)]) ∧ (s.net.eaxcPend = []) ∧ (ueFlag s u 0 = false)))) :=
  ⟨⟨0, 1, { sC gps [(Reg.HARQ_CFG, 1#32)] { Carrier.init with ul := [(1, { UlSlot.init with cls := .onTime })] } with mem := [(5, 3#8), (ctxCoreBase + 22, 0x80#8), (harqAt 0 + 2, 0x20#8), (harqAt 0 + 31, 9#8), (harqAt 0 + 32, 9#8)] }, by decide +kernel⟩,
   ⟨0, State.reset, by decide +kernel⟩,
   ⟨0, 7, 0, { State.reset with mem := ueMem, coding := { Coding.init with relPend := [(0, 7)] } }, by decide +kernel⟩,
   ⟨0, 7, 0, { State.reset with mem := ueMem, coding := { Coding.init with relPend := [(0, 7)] }, carriers := [(1, { Carrier.init with running := true, ul := [(0, { UlSlot.init with pdus := [{ tPdu with ue := some 0 }] })] })] }, by decide +kernel⟩,
   ⟨0, 0, { State.reset with mem := [(ctxCoreBase, 7#8), (ctxCoreBase + 3, 1#8), (ctxCoreBase + 22, 0x80#8), (harqAt 0 + 2, 0x20#8)], coding := { Coding.init with flushPend := [(0, none)] } }, by decide +kernel⟩,
   ⟨0, 0, 0, 0, { State.reset with mem := [(ctxCoreBase, 7#8), (ctxCoreBase + 3, 1#8), (ctxCoreBase + 22, 0x80#8), (harqAt 0 + 2, 0x20#8), (harqAt 0 + 32, 9#8)], coding := { Coding.init with flushPend := [(0, some 0)] } }, by decide +kernel⟩,
   ⟨0, none, { State.reset with mem := ueMem, coding := { Coding.init with flushPend := [(0, none)] }, carriers := [(1, { Carrier.init with running := true, ul := [(0, { UlSlot.init with pdus := [{ tPdu with ue := some 0 }] })] })] }, by decide +kernel⟩,
   ⟨0, 9, { State.reset with mem := ueMem, coding := { Coding.init with relPend := [(0, 9)] } }, by decide +kernel⟩,
   ⟨4, some 2, { State.reset with mem := ueMem, coding := { Coding.init with flushPend := [(4, some 2)] } }, by decide +kernel⟩⟩

theorem test_witness_CarriersRunAndLoad :
    (∃ s : State, (mapRising s.net.eaxcPend = true)) ∧
    (∃ c : CarrierId, (∃ n : Nat, (∃ s : State, (s.coding.relPend = []) ∧ (s.coding.flushPend = []) ∧ (s.net.eaxcPend = []) ∧ (n = slotNow s c.val) ∧ ((getCar s c.val).running = true) ∧ (ccTdd s c.val = false) ∧ ((getUl s c.val n).cls = .open) ∧ ((getUl s c.val n).held = none) ∧ ((getUl s c.val n).predicted = false)))) ∧
    (∃ c : CarrierId, (∃ s : State, ((getCar s c.val).runReq = some false) ∧ ((getCar s c.val).running = true))) ∧
    (∃ c : CarrierId, (∃ s : State, ((getCar s c.val).runReq = some true) ∧ (quiesced s = false) ∧ (getB s (Reg.NB_CC_CTL c.val) 30 = false) ∧ (getB s (Reg.NB_CC_CTL c.val) 29 = false))) ∧
    (∃ c : CarrierId, (∃ s : State, ((getCar s c.val).runReq = some true) ∧ (getB s (Reg.NB_CC_CTL c.val) 30 = true ∨ quiesced s = true))) ∧
    (∃ c : CarrierId, (∃ a : Nat, (∃ b : Byte, (∃ s : State, ((getCar s c.val).runReq = none) ∧ ((getCar s c.val).cgPend = [(a, b)]))))) ∧
    (∃ c : CarrierId, (∃ s : State, ((getCar s c.val).running = false))) ∧
    (∃ c : CarrierId, (∃ s : State, (getB s (Reg.NB_CC_CTL c.val) 30 = true))) ∧
    (∃ c : CarrierId, (∃ s : State, (getB s (Reg.NB_CC_CTL c.val) 30 = false))) ∧
    (∃ a : Nat, (0x00160000 ≤ a) ∧ (a < 0x00180000) ∧ (a % 4 = 0)) ∧
    (∃ c : CarrierId, (∃ i : Nat, (∃ j : Nat, (∃ e : BitVec 128, (∃ s : State, (mapRising s.net.eaxcPend = true) ∧ (mapFind s.net.eaxcPend i = some e) ∧ (rewriteCarrier s i e = c.val) ∧ (i ≠ j)))))) ∧
    (∃ i : Nat, (∃ j : Nat, (∃ e : BitVec 128, (∃ f : BitVec 128, (∃ key : Nat × Nat × Nat × Nat, (∃ s : State, (mapWf 0#128 s.net.eaxc = true) ∧ (exFind s key = some (i, e)) ∧ ((j, f) ∈ s.net.eaxc) ∧ (exValid f = true) ∧ (exKey f = key))))))) :=
  ⟨⟨{ sN gps [] Carrier.init with net := { Net.init with eaxc := [(3, exB)], eaxcPend := [(3, exA)] } }, by decide +kernel⟩,
   ⟨0, 0, sN gps [] Carrier.init, by decide +kernel⟩,
   ⟨0, { sP tPdu with carriers := [(0, { Carrier.init with running := true, runReq := some false, ul := [(0, UlSlot.init)] })], coding := { Coding.init with release := [cb0] } }, by decide +kernel⟩,
   ⟨0, sN gps [] { Carrier.init with runReq := some true }, by decide +kernel⟩,
   ⟨0, { sN gps [(Reg.NB_CC_CTL 0, 0x40000000#32)] Carrier.init with carriers := [(0, { Carrier.init with runReq := some true })] }, by decide +kernel⟩,
   ⟨0, 77, 5#8, sN gps [] { Carrier.init with cgPend := [(77, 5#8)] }, by decide +kernel⟩,
   ⟨31, State.reset, by decide +kernel⟩,
   ⟨0, sR [(Reg.NB_CC_CTL 0, 0x40000000#32)], by decide +kernel⟩,
   ⟨0, State.reset, by decide +kernel⟩,
   ⟨0x00160034, by decide +kernel⟩,
   ⟨0, 7, 3, exA, { State.reset with net := { Net.init with eaxc := [(3, exA)], eaxcPend := [(7, exA)] } }, by decide +kernel⟩,
   ⟨3, 7, exA, exA, exKey exA, { State.reset with net := { Net.init with eaxc := [(3, exA), (7, exA)] } }, by decide +kernel⟩⟩

theorem test_witness_CyclesAndEntriesFallDue :
    (∃ s : State, (s.boot.swap = false) ∧ (cycleDue s = true)) ∧
    (∃ s : State, (cycleDue s = false) ∧ (s.boot.swap = false)) ∧
    (∃ p : PartId, (∃ n : Nat, (∃ e : PlanEntry, (∃ s : State, (entryAt s p.val n = some e) ∧ (running s = true) ∧ (schArmed s = true) ∧ (plannedStart s p.val n e ≤ s.time.dev + 2 * unitsPerUs) ∧ ((getP s p.val).woken.contains n = false))))) ∧
    (∃ p : PartId, (∃ n : Nat, (∃ e : PlanEntry, (∃ s : State, (entryAt s p.val n = some e) ∧ (s.time.dev + 2 * unitsPerUs < plannedStart s p.val n e))))) ∧
    (∃ p : PartId, (∃ n : Nat, (∃ e : PlanEntry, (∃ s : State, (entryAt s p.val n = some e) ∧ (running s = true) ∧ (schArmed s = true) ∧ ((getP s p.val).nextDue = n) ∧ (s.sched.cycleStart + e.start * 65536 ≤ s.time.dev) ∧ (e.ctx < 128) ∧ (fatal s = false) ∧ ((∀ tl ∈ tilesOf e.tiles, dieAwake s (dieOf tl) = true ∧ tileAvail s tl = true)) ∧ ((getC s e.ctx).st = .idle) ∧ ((getC s e.ctx).inst = none) ∧ ((getC s e.ctx).queued = []) ∧ ((getC s e.ctx).recvLost = []) ∧ ((getC s e.ctx).recv = []))))) ∧
    (∃ p : PartId, (∃ n : Nat, (∃ e : PlanEntry, (∃ s : State, (entryAt s p.val n = some e) ∧ (running s = true) ∧ (schArmed s = true) ∧ ((getP s p.val).nextDue = n) ∧ (s.sched.cycleStart + e.start * 65536 ≤ s.time.dev) ∧ (e.ctx < 128) ∧ (fatal s = false) ∧ ((∀ tl ∈ tilesOf e.tiles, dieAwake s (dieOf tl) = true ∧ tileAvail s tl = true)) ∧ ((getC s e.ctx).st = .running) ∧ (((getC s e.ctx).inst.toList ++ (getC s e.ctx).queued).any (fun j => decide (j.entry = n)) = true))))) ∧
    (∃ p : PartId, (∃ n : Nat, (∃ e : PlanEntry, (∃ s : State, (entryAt s p.val n = some e) ∧ (running s = true) ∧ (schArmed s = true) ∧ ((getP s p.val).nextDue = n) ∧ (s.sched.cycleStart + e.start * 65536 ≤ s.time.dev) ∧ (e.ctx < 128) ∧ (fatal s = false) ∧ ((∀ tl ∈ tilesOf e.tiles, dieAwake s (dieOf tl) = true)) ∧ ((getC s e.ctx).st = .idle) ∧ ((∃ tl ∈ tilesOf e.tiles, tileAvail s tl = false)))))) ∧
    (∃ p : PartId, (∃ n : Nat, (∃ e : PlanEntry, (∃ s : State, (entryAt s p.val n = some e) ∧ (running s = true) ∧ (schArmed s = true) ∧ ((getP s p.val).nextDue = n) ∧ (s.sched.cycleStart + e.start * 65536 ≤ s.time.dev) ∧ (e.ctx < 128) ∧ (fatal s = false) ∧ ((∃ tl ∈ tilesOf e.tiles, dieAwake s (dieOf tl) = false)))))) ∧
    (∃ p : PartId, (∃ n : Nat, (∃ e : PlanEntry, (∃ s : State, (entryAt s p.val n = some e) ∧ ((getP s p.val).nextDue ≠ n ∨ s.time.dev < s.sched.cycleStart + e.start * 65536))))) :=
  ⟨⟨{ sE 0 [] [] [] with parts := [(0, { Part.init with nextDue := 1 })] }, by decide +kernel⟩,
   ⟨State.reset, by decide +kernel⟩,
   ⟨0, 0, tEntry, sE 0 [] [] [], by decide +kernel⟩,
   ⟨0, 0, tEntry, { sE 0 [] [] [] with sched := { State.reset.sched with permitted := true, armed := true, cycleStart := 131072001 } }, by decide +kernel⟩,
   ⟨0, 0, tEntry, sE 0 [] [] [(0, tAwake)], by decide +kernel⟩,
   ⟨0, 0, tEntry, sE 0 [] [(0, tCtx)] [(0, tTile)], by decide +kernel⟩,
   ⟨0, 0, tEntry, sE 0 [(Reg.PHYS_TILE_AVAIL 0, 0#32)] [] [], by decide +kernel⟩,
   ⟨0, 0, tEntry, { sE 0 [] [] [] with power := { Power.init with dies := [.dormant, .awake] } }, by decide +kernel⟩,
   ⟨0, 0, tEntry, { sE 0 [] [] [] with parts := [(0, { Part.init with nextDue := 1 })] }, by decide +kernel⟩⟩

theorem test_witness_ExposuresStart :
    (∃ c : CtxId, (∃ e : PlanEntry, (∃ i : ExpInst, (∃ d : Decl, (∃ pr : Program, (∃ s : State, (running s = true) ∧ (fatal s = false) ∧ ((getC s c.val).st = .waiting) ∧ (instEntry s c.val = some e) ∧ ((getC s c.val).inst = some i) ∧ (declOf s c.val = some d) ∧ (programOf s c.val = some pr) ∧ (goesFirst s c.val = false) ∧ ((∀ tl ∈ tilesOf e.tiles, (getT s tl).power = .awake)) ∧ (startableTiles s c.val ≠ []) ∧ ((getC s c.val).recvLost = []) ∧ ((getC s c.val).recv = []))))))) ∧
    (∃ s : State, (running s = false)) ∧
    (∃ c : CtxId, (∃ i : ExpInst, (∃ dl : Nat, (∃ s : State, ((getC s c.val).inst = some i) ∧ (i.missed = false) ∧ (i.deadline = some dl) ∧ (dl < s.time.dev) ∧ (ctxPart s c.val < 16))))) ∧
    (∃ c : CtxId, (∃ i : ExpInst, (∃ s : State, ((getC s c.val).inst = some i) ∧ (i.missed = true ∨ i.deadline = none)))) ∧
    (∃ c : CtxId, (∃ b : Nat, (∃ rel : Nat, (∃ s : State, ((getC s c.val).barRel.find? (fun x => decide (x.1 = b)) = some (b, rel)) ∧ (isRunning (getC s c.val) = true) ∧ (rel ≤ s.now) ∧ ((((getC s c.val).barArr.filter (fun x => decide (x.1 = b))).map (·.2)).Nodup))))) ∧
    (∃ c : CtxId, (∃ s : State, ((getC s c.val).barRel = []))) :=
  ⟨⟨0, tEntry, { tInst with started := [] }, tDecl, tProg, sE 0 [] [(0, { tCtx with st := .waiting, inst := some { tInst with started := [] } })] [(0, tAwake)], by decide +kernel⟩,
   ⟨State.reset, by decide +kernel⟩,
   ⟨0, { tInst with deadline := some 5 }, 5, sE 6 [] [(0, { tCtx with inst := some { tInst with deadline := some 5 } })] [(0, tTile)], by decide +kernel⟩,
   ⟨0, tInst, tS, by decide +kernel⟩,
   ⟨0, 3, 5, { tS with now := 5, ctxs := [(0, { tCtx with barArr := [(3, 0)], barRel := [(3, 5)] })], tiles := [(0, { tTile with barWait := some 3, seq := .waiting })] }, by decide +kernel⟩,
   ⟨0, tS, by decide +kernel⟩⟩

theorem test_witness_TheShutterStopsAndResumes :
    (∃ v : Word, (∃ c : Nat, (∃ s : State, (fieldOf v 31 30 = 1) ∧ (fieldOf v 29 7 = 0) ∧ (fieldOf v 6 0 = c) ∧ (getB s Reg.SCH_SHUTTER_STATUS 31 = false) ∧ (planCtx s c = true) ∧ ((getC s c).st = .running) ∧ ((getC s c).stopReq = none) ∧ (ctxPart s c < 16)))) ∧
    (∃ v : Word, (fieldOf v 31 30 ≠ 1)) ∧
    (∃ v : Word, (∃ s : State, (fieldOf v 31 30 = 1) ∧ (fieldOf v 29 7 = 0) ∧ (getB s Reg.SCH_SHUTTER_STATUS 31 = true))) ∧
    (∃ c : CtxId, (∃ k : Nat, (∃ s : State, ((getC s c.val).stopReq = some k) ∧ (isRunning (getC s c.val) = true) ∧ (holdsShared s c.val = false) ∧ ((getC s c.val).barArr = []) ∧ ((getC s c.val).barRel = [])))) ∧
    (∃ c : CtxId, (∃ s : State, ((getC s c.val).stopReq = none ∨ holdsShared s c.val = true))) ∧
    (∃ c : CtxId, (∃ tl : TileId, (∃ s : State, ((getT s tl.val).dma.all (fun ch => ch.inFlight.isEmpty) = true) ∧ ((getC s c.val).st = .stopped) ∧ ((getC s c.val).stopping.contains tl.val = true)))) ∧
    (∃ c : CtxId, (∃ tl : TileId, (∃ s : State, ((getC s c.val).st ≠ .stopped ∨ (getC s c.val).stopping.contains tl.val = false)))) ∧
    (∃ c : CtxId, (∃ tl : Nat, (∃ g : Negative, (∃ s : State, ((getC s c.val).stopping = []) ∧ ((getC s c.val).negs = [(tl, g)]) ∧ ((getC s c.val).negHbm = []) ∧ (Memory.wf s = true) ∧ ((negRegion s c.val tl + g.bytes ≤ negSlot s c.val tl ∨ negSlot s c.val tl + g.bytes ≤ negRegion s c.val tl)) ∧ ((∀ k, k < 6 → getB s (Reg.TILE_SP_SLEEP tl) k = false)))))) ∧
    (∃ c : CtxId, (∃ s : State, ((getC s c.val).stopping ≠ []))) ∧
    (∃ v : Word, (∃ c : Nat, (∃ s : State, (fieldOf v 31 30 = 2) ∧ (fieldOf v 29 7 = 0) ∧ (fieldOf v 6 0 = c) ∧ (getB s Reg.SCH_SHUTTER_STATUS 31 = false) ∧ (planCtx s c = true)))) ∧
    (∃ v : Word, (fieldOf v 31 30 ≠ 2)) ∧
    (∃ c : CtxId, (∃ tl : Nat, (∃ g : Negative, (∃ pr : Program, (∃ s : State, (running s = true) ∧ (fatal s = false) ∧ ((getC s c.val).st = .stopped) ∧ ((getC s c.val).driverStop = false) ∧ ((getC s c.val).stopping = []) ∧ (setFree s c.val = true) ∧ (goesFirst s c.val = false) ∧ ((getC s c.val).negs = [(tl, g)]) ∧ ((getT s tl).power = .awake) ∧ (dieAwake s (dieOf tl) = true) ∧ (programOf s c.val = some pr) ∧ (s.ecc.bad = []) ∧ ((getC s c.val).recvLost = []) ∧ ((getC s c.val).recv = []) ∧ ((getC s c.val).spill = [])))))) ∧
    (∃ c : CtxId, (∃ s : State, (running s = false ∨ (getC s c.val).st ≠ .stopped ∨ (getC s c.val).driverStop = true))) :=
  ⟨⟨0x40000000#32, 0, sE 0 [] [(0, tCtx)] [(0, tTile)], by decide +kernel⟩,
   ⟨0#32, by decide +kernel⟩,
   ⟨0x40000000#32, sE 0 [(Reg.SCH_SHUTTER_STATUS, 0x80000000#32)] [(0, tCtx)] [(0, tTile)], by decide +kernel⟩,
   ⟨0, 1, sE 9 [] [(0, { tCtx with stopReq := some 1 })] [(0, tTile)], by decide +kernel⟩,
   ⟨0, tS, by decide +kernel⟩,
   ⟨0, 0, sE 9 [(Reg.TILE_RING_CFG 0 1, 5#32)] [(0, { tCtx with st := .stopped, stopping := [0], stopCause := 1 })] [(0, { tTile with seq := .stopped, dev := tDev, p := [(1, 5#48)] })], by decide +kernel⟩,
   ⟨0, 0, tS, by decide +kernel⟩,
   ⟨0, 0, tNeg, { sE 9 [] [(0, { tCtx with st := .stopped, negs := [(0, tNeg)] })] [(0, tAwake)] with mem := [(spBase 0 + 5, 9#8), (spBase 0 + 65535, 8#8), (spBase 0 + 65536, 7#8)] }, by decide +kernel⟩,
   ⟨0, sE 9 [] [(0, { tCtx with st := .stopped, stopping := [0] })] [(0, tAwake)], by decide +kernel⟩,
   ⟨0x80000000#32, 0, sE 9 [] [(0, { tCtx with st := .stopped, driverStop := true })] [], by decide +kernel⟩,
   ⟨0x40000000#32, by decide +kernel⟩,
   ⟨0, 0, tNeg, tProg, sE 9 [] [(0, { tCtx with st := .stopped, negs := [(0, tNeg)] })] [(0, tAwake)], by decide +kernel⟩,
   ⟨0, tS, by decide +kernel⟩⟩

theorem test_witness_ContextFaultsAreContained :
    (∃ c : CtxId, (∃ tl : TileId, (∃ k : Nat, (∃ d : Decl, (∃ s : State, ((getT s tl.val).run = some c) ∧ (1 ≤ k) ∧ (k ≤ 11) ∧ (declOf s c.val = some d) ∧ (d.part < 16)))))) ∧
    (∃ c : CtxId, (∃ tl : TileId, (∃ s : State, ((getT s tl.val).run ≠ some c)))) ∧
    (∃ c : CtxId, (∃ m : Fin 256, (∃ since : Nat, (∃ most : Nat, (∃ s : State, ((getC s c.val).sems.find? (fun x => decide (x.1 = m.val)) = some (m.val, since)) ∧ (holdMax s c.val m.val = some most) ∧ (most < runTime s c.val - since)))))) ∧
    (∃ c : CtxId, (∃ m : Fin 256, (∃ since : Nat, (∃ most : Nat, (∃ s : State, ((getC s c.val).sems.find? (fun x => decide (x.1 = m.val)) = some (m.val, since)) ∧ (holdMax s c.val m.val = some most) ∧ (runTime s c.val - since ≤ most)))))) ∧
    (∃ tl : TileId, (∃ c : CtxId, (∃ since : Nat, (∃ n : Nat, (∃ rest : List Nat, (∃ d : Decl, (∃ s : State, ((getT s tl.val).run = some c) ∧ ((getT s tl.val).wdSince = some since) ∧ (blockedRings s tl.val c.val = n :: rest) ∧ (inRingWait (getT s tl.val) = true) ∧ (since + 16000 ≤ runTime s c.val) ∧ (declOf s c.val = some d) ∧ ((getC s c.val).spill = []) ∧ (64 + (ringAt s tl.val n).size ≤ d.ovfPages * 1024) ∧ (areaMapped s c.val d.ovfVa (d.ovfPages * 65536) = true)))))))) ∧
    (∃ tl : TileId, (∃ c : CtxId, (∃ since : Nat, (∃ n : Nat, (∃ rest : List Nat, (∃ d : Decl, (∃ s : State, ((getT s tl.val).run = some c) ∧ ((getT s tl.val).wdSince = some since) ∧ (blockedRings s tl.val c.val = n :: rest) ∧ (inRingWait (getT s tl.val) = true) ∧ (since + 16000 ≤ runTime s c.val) ∧ (declOf s c.val = some d) ∧ (d.ovfPages = 0)))))))) ∧
    (∃ tl : TileId, (∃ s : State, ((getT s tl.val).wdSince = none ∨ inRingWait (getT s tl.val) = false))) ∧
    (∃ page : Nat, (∃ s : State, (s.foreignDirty.contains page = true) ∧ (s.scrubWant = [] ∨ s.scrubWant.head? = some page) ∧ (pageReady s page = true) ∧ (s.carriers = []) ∧ (s.peer.recv = []))) ∧
    (∃ page : Nat, (∃ c : CtxId, (∃ s : State, (s.foreignDirty.contains page = true) ∧ (s.scrubWant = []) ∧ (pageReady s page = true) ∧ (s.peer.recv = []) ∧ (s.ctxs = [(c.val, getC s c.val)]) ∧ ((getC s c.val).st = .scrubbing) ∧ ((getC s c.val).scrub = [page])))) ∧
    (∃ page : Nat, (∃ other : Nat, (∃ s : State, (s.scrubWant.head? = some other) ∧ (page ≠ other)))) ∧
    (∃ page : Nat, (∃ s : State, ((s.foreignDirty.contains page = false ∧ s.alloc.dirty.contains (page * 0x10000) = false) ∨ pageReady s page = false))) :=
  ⟨⟨0, 0, 11, tDecl, { sE 9 [] [(0, { tCtx with sems := [(3, 0)] })] [(0, tTile)] with foreignDirty := [9] }, by decide +kernel⟩,
   ⟨1, 0, tS, by decide +kernel⟩,
   ⟨0, 3, 0, 8000, { sE 9 [] [(0, { tCtx with sems := [(3, 0)] })] [(0, tTile)] with now := 8001 }, by decide +kernel⟩,
   ⟨0, 3, 0, 8000, { sE 9 [] [(0, { tCtx with sems := [(3, 0)] })] [(0, tTile)] with now := 8000 }, by decide +kernel⟩,
   ⟨0, 0, 0, 2, [], { tDecl with ovfPages := 1 }, { tX tBlocked with regs := rg tFull, mem := tPt, plan := some (planD { tDecl with ovfPages := 1 }), now := 16000 }, by decide +kernel⟩,
   ⟨0, 0, 0, 2, [], tDecl, { tX tBlocked with regs := rg tFull, now := 16000 }, by decide +kernel⟩,
   ⟨0, tS, by decide +kernel⟩,
   ⟨5, { tS with foreignDirty := [5, 6], mem := [(0x4FFFF, 1#8), (0x50000, 2#8), (0x5FFFF, 3#8), (0x60000, 4#8)] }, by decide +kernel⟩,
   ⟨5, 0, { tS with foreignDirty := [5], ctxs := [(0, { tCtx with st := .scrubbing, inst := none, scrub := [5] })] }, by decide +kernel⟩,
   ⟨5, 6, { tS with foreignDirty := [5, 6], scrubWant := [6] }, by decide +kernel⟩,
   ⟨5, State.reset, by decide +kernel⟩⟩

theorem test_witness_VectorArithmetic :
    (∃ t : TileId, (∃ w : Word64, (∃ c : Nat, (∃ s : State, (TileReady s t c 1) ∧ (isV (DevWord.of w).vd = true ∧ isV (DevWord.of w).vs1 = true))))) :=
  ⟨0, dw 3 1 2 0x30 0, 0, dS, by constructor <;> decide +kernel, by decide +kernel⟩

theorem test_witness_FunctionsConversionsAndMasks :
    (∃ t : TileId, (∃ w : Word64, (∃ c : Nat, (∃ s : State, (TileReady s t c 1) ∧ (isV (DevWord.of w).vd = true ∧ isV (DevWord.of w).vs1 = true))))) ∧
    (∃ t : TileId, (∃ w : Word64, (∃ c : Nat, (∃ s : State, (TileReady s t c 1) ∧ (((fun w => isV w.vd = true ∧ isV w.vs1 = true) : DevWord → Prop) (DevWord.of w)))))) ∧
    (∃ t : TileId, (∃ w : Word64, (∃ c : Nat, (∃ s : State, (TileReady s t c 1) ∧ (((fun w => isV w.vd = true ∧ isV w.vs1 = true ∧ w.vs3 < 8) : DevWord → Prop) (DevWord.of w)))))) ∧
    (∃ t : TileId, (∃ w : Word64, (∃ c : Nat, (∃ s : State, (TileReady s t c 1) ∧ (((fun w => isV w.vd = true ∧ isV w.vs1 = true ∧ w.i 31 28 = 6 ∧ w.i 27 24 = 9 ∧ -64 ≤ signed 8 (w.i 23 16) ∧
      signed 8 (w.i 23 16) ≤ 63) : DevWord → Prop) (DevWord.of w)))))) ∧
    (∃ t : TileId, (∃ w : Word64, (∃ c : Nat, (∃ s : State, (TileReady s t c 1) ∧ (((fun w => isV w.vd = true ∧ isV w.vs1 = true ∧ w.i 31 28 = 9 ∧ w.i 27 24 = 6 ∧ -64 ≤ signed 8 (w.i 23 16) ∧
      signed 8 (w.i 23 16) ≤ 63) : DevWord → Prop) (DevWord.of w)))))) ∧
    (∃ t : TileId, (∃ w : Word64, (∃ c : Nat, (∃ s : State, (TileReady s t c 1) ∧ (((fun w => isV w.vd = true ∧ isV w.vs1 = true ∧ w.i 31 28 = 6 ∧ w.i 27 24 = 6 ∧ -64 ≤ signed 8 (w.i 23 16) ∧
      signed 8 (w.i 23 16) ≤ 63) : DevWord → Prop) (DevWord.of w)))))) ∧
    (∃ t : TileId, (∃ w : Word64, (∃ c : Nat, (∃ s : State, (TileReady s t c 1) ∧ (((fun w => isV w.vd = true ∧ isPair w.vs1 = true ∧ w.i 31 28 = 8 ∧ w.i 27 24 = 10 ∧ -64 ≤ signed 8 (w.i 23 16) ∧
      signed 8 (w.i 23 16) ≤ 63) : DevWord → Prop) (DevWord.of w)))))) ∧
    (∃ t : TileId, (∃ w : Word64, (∃ c : Nat, (∃ s : State, (TileReady s t c 1) ∧ (((fun w => isPair w.vd = true ∧ isV w.vs1 = true ∧ w.i 31 28 = 10 ∧ w.i 27 24 = 8 ∧ -64 ≤ signed 8 (w.i 23 16) ∧
      signed 8 (w.i 23 16) ≤ 63) : DevWord → Prop) (DevWord.of w)))))) ∧
    (∃ t : TileId, (∃ w : Word64, (∃ c : Nat, (∃ s : State, (TileReady s t c 1) ∧ (((fun w => signed 8 (w.i 23 16) < -64 ∨ 63 < signed 8 (w.i 23 16)) : DevWord → Prop) (DevWord.of w)))))) ∧
    (∃ t : TileId, (∃ w : Word64, (∃ c : Nat, (∃ s : State, (TileReady s t c 1) ∧ (isM (DevWord.of w).vd = true ∧ isV (DevWord.of w).vs1 = true ∧ (DevWord.of w).i 2 0 < 7))))) ∧
    (∃ t : TileId, (∃ w : Word64, (∃ c : Nat, (∃ s : State, (TileReady s t c 1) ∧ (isM (DevWord.of w).vd = true ∧ isV (DevWord.of w).vs1 = true ∧ (DevWord.of w).i 2 0 < 6))))) ∧
    (∃ t : TileId, (∃ w : Word64, (∃ c : Nat, (∃ s : State, (TileReady s t c 1) ∧ (isM (DevWord.of w).vd = true ∧ isM (DevWord.of w).vs1 = true ∧ isM (DevWord.of w).vs2 = true))))) ∧
    (∃ t : TileId, (∃ w : Word64, (∃ c : Nat, (∃ s : State, (TileReady s t c 1) ∧ (((fun w => isS w.vd = true ∧ isM w.vs1 = true) : DevWord → Prop) (DevWord.of w)))))) ∧
    (∃ t : TileId, (∃ w : Word64, (∃ c : Nat, (∃ s : State, (TileReady s t c 1) ∧ (((fun w => w.i 2 0 = 7) : DevWord → Prop) (DevWord.of w)))))) ∧
    (∃ t : TileId, (∃ w : Word64, (∃ c : Nat, (∃ s : State, (TileReady s t c 1) ∧ (((fun w => 6 ≤ w.i 2 0) : DevWord → Prop) (DevWord.of w)))))) :=
  ⟨⟨0, dw 3 1 2 0x20 0, 0, dS, by constructor <;> decide +kernel, by decide +kernel⟩,
   ⟨0, dw 3 1 2 33 0, 0, dS, by constructor <;> decide +kernel, by decide +kernel⟩,
   ⟨0, dw 3 1 2 3 0, 0, dS, by constructor <;> decide +kernel, by decide +kernel⟩,
   ⟨0, dw 3 1 0 0 0x69FF0000, 0, dS, by constructor <;> decide +kernel, by decide +kernel⟩,
   ⟨0, dw 3 1 0 0 0x963F0000, 0, dS, by constructor <;> decide +kernel, by decide +kernel⟩,
   ⟨0, dw 3 1 0 0 0x66C00000, 0, dS, by constructor <;> decide +kernel, by decide +kernel⟩,
   ⟨0, dw 3 2 0 0x20 0x8A010000, 0, dS, by constructor <;> decide +kernel, by decide +kernel⟩,
   ⟨0, dw 4 1 0 0x38 0xA8010000, 0, dS, by constructor <;> decide +kernel, by decide +kernel⟩,
   ⟨0, dw 4 1 0 0 0x69400000, 0, dS, by constructor <;> decide +kernel, by decide +kernel⟩,
   ⟨0, dw 3 1 2 0x30 6, 0, dS, by constructor <;> decide +kernel, by decide +kernel⟩,
   ⟨0, dw 3 1 2 0x20 5, 0, dS, by constructor <;> decide +kernel, by decide +kernel⟩,
   ⟨0, dw 3 0 1 0 0, 0, dS, by constructor <;> decide +kernel, by decide +kernel⟩,
   ⟨0, dw 33 0 0 0 0, 0, dS, by constructor <;> decide +kernel, by decide +kernel⟩,
   ⟨0, dw 3 1 2 0 7, 0, dS, by constructor <;> decide +kernel, by decide +kernel⟩,
   ⟨0, dw 3 1 2 0 6, 0, dS, by constructor <;> decide +kernel, by decide +kernel⟩⟩

theorem test_witness_ComplexAndAccumulators :
    (∃ t : TileId, (∃ w : Word64, (∃ c : Nat, (∃ s : State, (TileReady s t c 1) ∧ (isPair (DevWord.of w).vd = true ∧ isPair (DevWord.of w).vs1 = true ∧ isPair (DevWord.of w).vs2 = true))))) ∧
    (∃ t : TileId, (∃ w : Word64, (∃ c : Nat, (∃ s : State, (TileReady s t c 1) ∧ (((fun w => isV w.vd = true ∧ isPair w.vs1 = true) : DevWord → Prop) (DevWord.of w)))))) ∧
    (∃ t : TileId, (∃ w : Word64, (∃ c : Nat, (∃ s : State, (TileReady s t c 1) ∧ (((fun w => isAcc w.vd = true ∧ isV w.vs1 = true) : DevWord → Prop) (DevWord.of w)))))) ∧
    (∃ t : TileId, (∃ w : Word64, (∃ c : Nat, (∃ s : State, (TileReady s t c 1) ∧ (((fun _ => True) : DevWord → Prop) (DevWord.of w)))))) ∧
    (∃ t : TileId, (∃ w : Word64, (∃ c : Nat, (∃ s : State, (TileReady s t c 1) ∧ (((fun w => isV w.vd = true ∧ isAcc w.vs1 = true ∧ -16 ≤ signed 6 (w.i 5 0)) : DevWord → Prop) (DevWord.of w)))))) ∧
    (∃ t : TileId, (∃ w : Word64, (∃ c : Nat, (∃ s : State, (TileReady s t c 1) ∧ (((fun w => signed 6 (w.i 5 0) < -16) : DevWord → Prop) (DevWord.of w)))))) :=
  ⟨⟨0, dw 4 2 6 0x20 0, 0, dS, by constructor <;> decide +kernel, by decide +kernel⟩,
   ⟨0, dw 3 2 0 0x20 0, 0, dS, by constructor <;> decide +kernel, by decide +kernel⟩,
   ⟨0, dw 2 1 2 0 3, 0, dS, by constructor <;> decide +kernel, by decide +kernel⟩,
   ⟨0, dw 0 0 0 0 4, 0, dS, by constructor <;> decide +kernel, by decide +kernel⟩,
   ⟨0, dw 3 2 0 0 0x25B0, 0, dS, by constructor <;> decide +kernel, by decide +kernel⟩,
   ⟨0, dw 3 2 0 0 0x20, 0, dS, by constructor <;> decide +kernel, by decide +kernel⟩⟩

theorem test_witness_PermutationsAndScans :
    (∃ t : TileId, (∃ w : Word64, (∃ c : Nat, (∃ s : State, (TileReady s t c 1) ∧ (isV (DevWord.of w).vd = true ∧ isV (DevWord.of w).vs1 = true) ∧ (((fun w => isV w.vs2 = true) : DevWord → Prop) (DevWord.of w)))))) ∧
    (∃ t : TileId, (∃ w : Word64, (∃ c : Nat, (∃ s : State, (TileReady s t c 1) ∧ (isV (DevWord.of w).vd = true ∧ isV (DevWord.of w).vs1 = true) ∧ (((fun _ => True) : DevWord → Prop) (DevWord.of w)))))) ∧
    (∃ t : TileId, (∃ w : Word64, (∃ c : Nat, (∃ s : State, (TileReady s t c 1) ∧ (((fun w => ScanType.ofCode (w.i 5 3) = some ScanType.fp32 ∧ scanLegal ScanType.fp32 (w.i 1 0) = true ∧ isV w.vd = true ∧ isV w.vs1 = true) : DevWord → Prop) (DevWord.of w)))))) ∧
    (∃ t : TileId, (∃ w : Word64, (∃ c : Nat, (∃ s : State, (TileReady s t c 1) ∧ (((fun w => ScanType.ofCode (w.i 5 3) = some ScanType.int32 ∧ scanLegal ScanType.int32 (w.i 1 0) = true ∧ isV w.vd = true ∧ isV w.vs1 = true) : DevWord → Prop) (DevWord.of w)))))) ∧
    (∃ t : TileId, (∃ w : Word64, (∃ c : Nat, (∃ s : State, (TileReady s t c 1) ∧ (((fun w => ScanType.ofCode (w.i 5 3) = some ScanType.q15 ∧ scanLegal ScanType.q15 (w.i 1 0) = true ∧ isV w.vd = true ∧ isV w.vs1 = true) : DevWord → Prop) (DevWord.of w)))))) ∧
    (∃ t : TileId, (∃ w : Word64, (∃ c : Nat, (∃ s : State, (TileReady s t c 1) ∧ (((fun w => w.i 5 3 = 2 ∧ w.i 1 0 = 0 ∧ isPair w.vd = true ∧ isPair w.vs1 = true) : DevWord → Prop) (DevWord.of w)))))) ∧
    (∃ t : TileId, (∃ w : Word64, (∃ c : Nat, (∃ s : State, (TileReady s t c 1) ∧ (((fun w => ScanType.ofCode (w.i 5 3) = some ScanType.fp32 ∧ scanLegal ScanType.fp32 (w.i 1 0) = true ∧ isS w.vd = true ∧ isV w.vs1 = true) : DevWord → Prop) (DevWord.of w)))))) ∧
    (∃ t : TileId, (∃ w : Word64, (∃ c : Nat, (∃ s : State, (TileReady s t c 1) ∧ (((fun w => ScanType.ofCode (w.i 5 3) = some ScanType.int32 ∧ scanLegal ScanType.int32 (w.i 1 0) = true ∧ isS w.vd = true ∧ isV w.vs1 = true) : DevWord → Prop) (DevWord.of w)))))) ∧
    (∃ t : TileId, (∃ w : Word64, (∃ c : Nat, (∃ s : State, (TileReady s t c 1) ∧ (((fun w => ScanType.ofCode (w.i 5 3) = some ScanType.q15 ∧ scanLegal ScanType.q15 (w.i 1 0) = true ∧ isS w.vd = true ∧ isV w.vs1 = true) : DevWord → Prop) (DevWord.of w)))))) ∧
    (∃ t : TileId, (∃ w : Word64, (∃ c : Nat, (∃ s : State, (TileReady s t c 1) ∧ (((fun w => w.i 5 3 = 2 ∧ w.i 1 0 = 0 ∧ isS w.vd = true ∧ w.vd % 2 = 0 ∧ isPair w.vs1 = true) : DevWord → Prop) (DevWord.of w)))))) ∧
    (∃ t : TileId, (∃ w : Word64, (∃ c : Nat, (∃ s : State, (TileReady s t c 1) ∧ (isV (DevWord.of w).vd = true) ∧ (isV (DevWord.of w).vs1 = true) ∧ ((getD s t.val).vlen ≠ 0))))) ∧
    (∃ t : TileId, (∃ w : Word64, (∃ c : Nat, (∃ s : State, (TileReady s t c 1) ∧ (isV (DevWord.of w).vd = true) ∧ (isV (DevWord.of w).vs1 = true) ∧ ((getD s t.val).vlen = 0))))) :=
  ⟨⟨0, dw 3 1 2 0 0, 0, dS, by constructor <;> decide +kernel, by decide +kernel⟩,
   ⟨0, dw 3 1 2 0 1, 0, dS, by constructor <;> decide +kernel, by decide +kernel⟩,
   ⟨0, dw 3 1 0 0x21 4, 0, dS, by constructor <;> decide +kernel, by decide +kernel⟩,
   ⟨0, dw 3 1 0 0 9, 0, dS, by constructor <;> decide +kernel, by decide +kernel⟩,
   ⟨0, dw 1 1 0 0x20 24, 0, dS, by constructor <;> decide +kernel, by decide +kernel⟩,
   ⟨0, dw 4 2 0 0x21 20, 0, dS, by constructor <;> decide +kernel, by decide +kernel⟩,
   ⟨0, dw 33 1 0 0x20 2, 0, dS, by constructor <;> decide +kernel, by decide +kernel⟩,
   ⟨0, dw 33 1 0 0 10, 0, dS, by constructor <;> decide +kernel, by decide +kernel⟩,
   ⟨0, dw 33 1 0 0x20 24, 0, dS, by constructor <;> decide +kernel, by decide +kernel⟩,
   ⟨0, dw 34 2 0 0x20 16, 0, dS, by constructor <;> decide +kernel, by decide +kernel⟩,
   ⟨0, dw 3 1 0 0x29 0, 0, dS, by constructor <;> decide +kernel, by decide +kernel⟩,
   ⟨0, dw 3 1 0 0 0, 0, tD { tDev with vlen := 0 }, by constructor <;> decide +kernel, by decide +kernel⟩⟩

theorem test_witness_DeveloperControl :
    (∃ t : TileId, (∃ w : Word64, (∃ c : Nat, (∃ s : State, (TileReady s t c 1) ∧ (((fun _ => True) : DevWord → Prop) (DevWord.of w)))))) ∧
    (∃ t : TileId, (∃ w : Word64, (∃ c : Nat, (∃ s : State, (TileReady s t c 1) ∧ (((fun w => isS w.vd = true ∧ (w.i 31 31 = 1 ∨ isS w.vs1 = true)) : DevWord → Prop) (DevWord.of w)))))) ∧
    (∃ t : TileId, (∃ w : Word64, (∃ c : Nat, (∃ s : State, (TileReady s t c 1) ∧ (((fun w => isS w.vd = true) : DevWord → Prop) (DevWord.of w)))))) ∧
    (∃ t : TileId, (∃ w : Word64, (∃ c : Nat, (∃ s : State, (TileReady s t c 1) ∧ (((fun w => isS w.vd = true ∧ isS w.vs1 = true ∧ isS w.vs2 = true) : DevWord → Prop) (DevWord.of w)))))) ∧
    (∃ t : TileId, (∃ w : Word64, (∃ c : Nat, (∃ s : State, (TileReady s t c 1) ∧ (((fun w => isS w.vd = true ∧ isV w.vs1 = true ∧ isS w.vs2 = true) : DevWord → Prop) (DevWord.of w)))))) ∧
    (∃ t : TileId, (∃ w : Word64, (∃ c : Nat, (∃ s : State, (TileReady s t c 1) ∧ (isS (DevWord.of w).vs1 = true) ∧ (isS (DevWord.of w).vs2 = true) ∧ ((sGet (getD s t.val) ((DevWord.of w).vs1 - 32)).toNat % 4 = 0) ∧ ((sGet (getD s t.val) ((DevWord.of w).vs2 - 32)).toNat % 4 = 0) ∧ ((sGet (getD s t.val) ((DevWord.of w).vs2 - 32)).toNat ≠ 0) ∧ ((sGet (getD s t.val) ((DevWord.of w).vs1 - 32)).toNat + (sGet (getD s t.val) ((DevWord.of w).vs2 - 32)).toNat ≤ spBytes))))) ∧
    (∃ t : TileId, (∃ w : Word64, (∃ c : Nat, (∃ s : State, (TileReady s t c 1) ∧ ((sGet (getD s t.val) ((DevWord.of w).vs1 - 32)).toNat % 4 ≠ 0 ∨ (sGet (getD s t.val) ((DevWord.of w).vs2 - 32)).toNat % 4 ≠ 0 ∨
      sGet (getD s t.val) ((DevWord.of w).vs2 - 32) = 0#32 ∨
      spBytes < (sGet (getD s t.val) ((DevWord.of w).vs1 - 32)).toNat + (sGet (getD s t.val) ((DevWord.of w).vs2 - 32)).toNat))))) :=
  ⟨⟨0, dw 3 1 0 0 0, 0, dS, by constructor <;> decide +kernel, by decide +kernel⟩,
   ⟨0, dw 33 0 0 0 0x8000012C, 0, dS, by constructor <;> decide +kernel, by decide +kernel⟩,
   ⟨0, dw 33 0 0 0 0xDEADBEEF, 0, dS, by constructor <;> decide +kernel, by decide +kernel⟩,
   ⟨0, dw 33 32 37 0 0, 0, dS, by constructor <;> decide +kernel, by decide +kernel⟩,
   ⟨0, dw 33 1 37 0 0, 0, dS, by constructor <;> decide +kernel, by decide +kernel⟩,
   ⟨0, dw 0 32 33 0 2, 0, dS, by constructor <;> decide +kernel, by decide +kernel⟩,
   ⟨0, dw 0 32 34 0 2, 0, dS, by constructor <;> decide +kernel, by decide +kernel⟩⟩

theorem test_witness_MalformedDeveloperWordsFault :
    (∃ t : TileId, (∃ w : Word64, (∃ c : Nat, (∃ s : State, (TileReady s t c 1) ∧ (((fun w => isV w.vd = false ∨ isV w.vs1 = false) : DevWord → Prop) (DevWord.of w)))))) ∧
    (∃ t : TileId, (∃ w : Word64, (∃ c : Nat, (∃ s : State, (TileReady s t c 1) ∧ (((fun w => isS w.vd = false) : DevWord → Prop) (DevWord.of w)))))) ∧
    (∃ t : TileId, (∃ w : Word64, (∃ c : Nat, (∃ s : State, (TileReady s t c 1) ∧ (((fun w => isM w.vd = false) : DevWord → Prop) (DevWord.of w)))))) ∧
    (∃ t : TileId, (∃ w : Word64, (∃ c : Nat, (∃ s : State, (TileReady s t c 1) ∧ (((fun w => isPair w.vd = false ∨ isPair w.vs1 = false ∨ isPair w.vs2 = false) : DevWord → Prop) (DevWord.of w)))))) ∧
    (∃ t : TileId, (∃ w : Word64, (∃ c : Nat, (∃ s : State, (TileReady s t c 1) ∧ (((fun w => isAcc w.vd = false) : DevWord → Prop) (DevWord.of w)))))) ∧
    (∃ t : TileId, (∃ w : Word64, (∃ c : Nat, (∃ s : State, (TileReady s t c 1) ∧ (((fun w => isAcc w.vs1 = false ∨ signed 6 (w.i 5 0) < -16) : DevWord → Prop) (DevWord.of w)))))) ∧
    (∃ t : TileId, (∃ w : Word64, (∃ c : Nat, (∃ s : State, (TileReady s t c 1) ∧ (((fun w => 8 ≤ w.vs3) : DevWord → Prop) (DevWord.of w)))))) ∧
    (∃ t : TileId, (∃ w : Word64, (∃ c : Nat, (∃ s : State, (TileReady s t c 1) ∧ (((fun w => ScanType.ofCode (w.i 5 3) = none ∨ w.i 1 0 = 3) : DevWord → Prop) (DevWord.of w)))))) ∧
    (∃ t : TileId, (∃ w : Word64, (∃ c : Nat, (∃ s : State, (TileReady s t c 1) ∧ (((fun w => isPair w.vs1 = false) : DevWord → Prop) (DevWord.of w)))))) :=
  ⟨⟨0, dw 40 1 0 0 0, 0, dS, by constructor <;> decide +kernel, by decide +kernel⟩,
   ⟨0, dw 3 1 0 0 0, 0, dS, by constructor <;> decide +kernel, by decide +kernel⟩,
   ⟨0, dw 8 1 0 0 0, 0, dS, by constructor <;> decide +kernel, by decide +kernel⟩,
   ⟨0, dw 4 2 1 0 0, 0, dS, by constructor <;> decide +kernel, by decide +kernel⟩,
   ⟨0, dw 1 1 0 0 0, 0, dS, by constructor <;> decide +kernel, by decide +kernel⟩,
   ⟨0, dw 3 2 0 0 0x2F, 0, dS, by constructor <;> decide +kernel, by decide +kernel⟩,
   ⟨0, dw 3 2 0 8 0, 0, dS, by constructor <;> decide +kernel, by decide +kernel⟩,
   ⟨0, dw 3 2 0 0 3, 0, dS, by constructor <;> decide +kernel, by decide +kernel⟩,
   ⟨0, dw 3 1 0 0 0, 0, dS, by constructor <;> decide +kernel, by decide +kernel⟩⟩

theorem test_witness_DeveloperMemory :
    (∃ t : TileId, (∃ w : Word64, (∃ c : Nat, (∃ p : MemPlan, (∃ s : State, (TileReady s t c 1) ∧ (SpFree s t) ∧ (vldPlan (getD s t.val) (DevWord.of w) = some p) ∧ (isS (DevWord.of w).vs1 = true) ∧ (memOk p (getD s t.val).vlen = true) ∧ (regType p.fmt ≠ .cf32) ∧ (isV (DevWord.of w).vd = true)))))) ∧
    (∃ t : TileId, (∃ w : Word64, (∃ c : Nat, (∃ p : MemPlan, (∃ s : State, (TileReady s t c 1) ∧ (SpFree s t) ∧ (vldPlan (getD s t.val) (DevWord.of w) = some p) ∧ (isS (DevWord.of w).vs1 = true) ∧ (memOk p (getD s t.val).vlen = true) ∧ (regType p.fmt = .cf32) ∧ (isPair (DevWord.of w).vd = true)))))) ∧
    (∃ t : TileId, (∃ w : Word64, (∃ c : Nat, (∃ p : MemPlan, (∃ s : State, (TileReady s t c 1) ∧ (vldPlan (getD s t.val) (DevWord.of w) = some p) ∧ (isS (DevWord.of w).vs1 = true) ∧ (isPair (DevWord.of w).vd = true) ∧ (memOk p (getD s t.val).vlen = false)))))) ∧
    (∃ t : TileId, (∃ w : Word64, (∃ c : Nat, (∃ p : MemPlan, (∃ s : State, (TileReady s t c 1) ∧ (SpFree s t) ∧ (vstPlan (getD s t.val) (DevWord.of w) = some p) ∧ (Fmt.ofCode ((DevWord.of w).i 27 24) = some (regType p.fmt)) ∧ (p.stride ≠ 0) ∧ (isS (DevWord.of w).vs2 = true) ∧ ((if regType p.fmt = .cf32 then isPair (DevWord.of w).vs1 = true else isV (DevWord.of w).vs1 = true)) ∧ (memOk p (getD s t.val).vlen = true)))))) ∧
    (∃ t : TileId, (∃ w : Word64, (∃ c : Nat, (∃ s : State, (TileReady s t c 1) ∧ (isPair (DevWord.of w).vd = true) ∧ ((DevWord.of w).i 11 0 + (if (DevWord.of w).i 31 31 = 1 then 64 else 1) * ((getD s t.val).vlen - 1) ≤ 4095) ∧ ((DevWord.of w).i 18 16 + 2 ≤ fbqFinished (getT s t.val)))))) ∧
    (∃ t : TileId, (∃ w : Word64, (∃ c : Nat, (∃ s : State, (TileReady s t c 1) ∧ ((DevWord.of w).i 2 0 + 1 ≤ fbqFinished (getT s t.val)))))) ∧
    (∃ t : TileId, (∃ w : Word64, (∃ c : Nat, (∃ s : State, (TileReady s t c 1) ∧ (SpFree s t) ∧ (isV (DevWord.of w).vd = true) ∧ (isS (DevWord.of w).vs2 = true) ∧ (circOk (getD s t.val) ((DevWord.of w).i 2 0) ((DevWord.of w).vs2 - 32) = true))))) ∧
    (∃ t : TileId, (∃ w : Word64, (∃ c : Nat, (∃ s : State, (TileReady s t c 1) ∧ (SpFree s t) ∧ (isV (DevWord.of w).vs1 = true) ∧ (isS (DevWord.of w).vs2 = true) ∧ (circOk (getD s t.val) ((DevWord.of w).i 2 0) ((DevWord.of w).vs2 - 32) = true))))) :=
  ⟨⟨0, dw 3 32 0 0x20 0x10010000, 0, ⟨.int8, 8, 1⟩, { dS with mem := [(spBase 0 + 8, 0x85#8), (spBase 0 + 10, 0x7F#8)] }, by constructor <;> decide +kernel, by constructor <;> decide +kernel, by decide +kernel⟩,
   ⟨0, dw 4 32 0 0x30 0x70010000, 0, ⟨.cx16, 8, 1⟩, { dS with mem := [(spBase 0 + 8, 0x85#8), (spBase 0 + 10, 0x7F#8)] }, by constructor <;> decide +kernel, by constructor <;> decide +kernel, by decide +kernel⟩,
   ⟨0, dw 4 33 0 0 0x10010000, 0, ⟨.int8, 1572864, 1⟩, tD { tDev with s := [(1, 0x180000#32)] }, by constructor <;> decide +kernel, by decide +kernel⟩,
   ⟨0, dw 0 1 32 0x20 0x09010000, 0, ⟨.int4, 8, 1⟩, { dS with mem := [(spBase 0 + 8, 0x85#8), (spBase 0 + 9, 0x7F#8)] }, by constructor <;> decide +kernel, by constructor <;> decide +kernel, by decide +kernel⟩,
   ⟨0, dw 4 0 0 0 0x40000000, 0, tX { tTile with dev := tDev, enl := { Enlarger.first with fbq := [tFbq, tFbq2] } }, by constructor <;> decide +kernel, by decide +kernel⟩,
   ⟨0, dw 4 0 0 0 0, 0, tX { tTile with dev := tDev, enl := { Enlarger.first with fbq := [tFbq, tFbq2] } }, by constructor <;> decide +kernel, by decide +kernel⟩,
   ⟨0, dw 3 0 33 0x30 0x10100, 0, { dS with mem := [(spBase 0 + 132, 0x85#8), (spBase 0 + 140, 0x7F#8)] }, by constructor <;> decide +kernel, by constructor <;> decide +kernel, by decide +kernel⟩,
   ⟨0, dw 0 1 33 0 0x17000, 0, { dS with mem := [(spBase 0 + 132, 0x85#8), (spBase 0 + 140, 0x7F#8)] }, by constructor <;> decide +kernel, by constructor <;> decide +kernel, by decide +kernel⟩⟩

theorem test_witness_ProgramsSequence :
    (∃ t : TileId, (∃ w : Word64, (∃ c : Nat, (∃ s : State, (TileReady s t c 1) ∧ (onlyFields w [] = true))))) ∧
    (∃ t : TileId, (∃ w : Word64, (∃ c : Nat, (∃ s : State, (TileReady s t c 1) ∧ (onlyFields w [(55, 52), (31, 0)] = true))))) ∧
    (∃ t : TileId, (∃ w : Word64, (∃ c : Nat, (∃ s : State, (TileReady s t c 1) ∧ (onlyFields w [(55, 52), (15, 0)] = true))))) ∧
    (∃ t : TileId, (∃ w : Word64, (∃ c : Nat, (∃ s : State, (TileReady s t c 1) ∧ (onlyFields w [(55, 52), (51, 48), (31, 0)] = true))))) ∧
    (∃ t : TileId, (∃ w : Word64, (∃ c : Nat, (∃ s : State, (TileReady s t c 1) ∧ (onlyFields w [(55, 52), (23, 0)] = true) ∧ (0 ≤ ((getT s t.val).pc : Int) + signed 24 (fieldOf w 23 0)) ∧ (fetchOk s c (((getT s t.val).pc : Int) + signed 24 (fieldOf w 23 0)).toNat 1 = true))))) ∧
    (∃ t : TileId, (∃ w : Word64, (∃ c : Nat, (∃ s : State, (TileReady s t c 1) ∧ (onlyFields w [(23, 0)] = true) ∧ (0 ≤ ((getT s t.val).pc : Int) + signed 24 (fieldOf w 23 0)) ∧ (fetchOk s c (((getT s t.val).pc : Int) + signed 24 (fieldOf w 23 0)).toNat 1 = true))))) ∧
    (∃ t : TileId, (∃ w : Word64, (∃ c : Nat, (∃ s : State, (TileReady s t c 1) ∧ (onlyFields w [(23, 0)] = true) ∧ (((getT s t.val).pc : Int) + signed 24 (fieldOf w 23 0) < 0 ∨
      fetchOk s c (((getT s t.val).pc : Int) + signed 24 (fieldOf w 23 0)).toNat 1 = false))))) ∧
    (∃ t : TileId, (∃ w : Word64, (∃ c : Nat, (∃ s : State, (TileReady s t c 1) ∧ (onlyFields w [(51, 48), (4, 0)] = true))))) ∧
    (∃ t : TileId, (∃ w : Word64, (∃ c : Nat, (∃ s : State, (TileReady s t c 1) ∧ (onlyFields w [] = false))))) ∧
    (∃ t : TileId, (∃ c : Nat, (∃ s : State, (issuing s t.val = some c) ∧ (fetchOk s c (getT s t.val).pc 1 = false)))) ∧
    (∃ t : TileId, (∃ s : State, ((getT s t.val).run = none))) ∧
    (∃ t : TileId, (∃ w : Word64, (∃ c : Nat, (∃ s : State, (TileReady s t c 1) ∧ (onlyFields w [(55, 52), (31, 0)] = false))))) ∧
    (∃ t : TileId, (∃ w : Word64, (∃ c : Nat, (∃ s : State, (TileReady s t c 1) ∧ (onlyFields w [(55, 52), (15, 0)] = false))))) ∧
    (∃ t : TileId, (∃ w : Word64, (∃ c : Nat, (∃ s : State, (TileReady s t c 1) ∧ (onlyFields w [(55, 52), (51, 48), (31, 0)] = false))))) ∧
    (∃ t : TileId, (∃ w : Word64, (∃ c : Nat, (∃ s : State, (TileReady s t c 1) ∧ (onlyFields w [(55, 52), (23, 0)] = false))))) ∧
    (∃ t : TileId, (∃ w : Word64, (∃ c : Nat, (∃ s : State, (TileReady s t c 1) ∧ (onlyFields w [(23, 0)] = false))))) ∧
    (∃ t : TileId, (∃ w : Word64, (∃ c : Nat, (∃ s : State, (TileReady s t c 1) ∧ (onlyFields w [(51, 48), (4, 0)] = false))))) ∧
    (∃ t : TileId, (∃ w : Word64, (∃ c : Nat, (∃ s : State, (TileReady s t c 1) ∧ (onlyFields w [(55, 55), (52, 48), (47, 44)] = false))))) ∧
    (∃ t : TileId, (∃ w : Word64, (∃ c : Nat, (∃ s : State, (TileReady s t c 1) ∧ (onlyFields w [(7, 0)] = false))))) :=
  ⟨⟨0, 0#64, 0, tS, by constructor <;> decide +kernel, by decide +kernel⟩,
   ⟨0, w64 (2 * 2 ^ 52 + 0xFFFFFFFF), 0, tS, by constructor <;> decide +kernel, by decide +kernel⟩,
   ⟨0, w64 (2 * 2 ^ 52 + 0xABCD), 0, tX { tTile with p := [(2, 0x111122223333#48)] }, by constructor <;> decide +kernel, by decide +kernel⟩,
   ⟨0, w64 (3 * 2 ^ 52 + 2 * 2 ^ 48 + 0xFFFFFFFF), 0, tX { tTile with p := [(2, 7#48)] }, by constructor <;> decide +kernel, by decide +kernel⟩,
   ⟨0, w64 (2 * 2 ^ 52 + 0xFFFFFD), 0, tX { tTile with p := [(2, 1#48)] }, by constructor <;> decide +kernel, by decide +kernel⟩,
   ⟨0, w64 0xFFFFF6, 0, tS, by constructor <;> decide +kernel, by decide +kernel⟩,
   ⟨0, w64 0xFFFFF5, 0, tS, by constructor <;> decide +kernel, by decide +kernel⟩,
   ⟨0, w64 (2 * 2 ^ 48 + 31), 0, tX { tTile with p := [(2, 0x123456789ABC#48)] }, by constructor <;> decide +kernel, by decide +kernel⟩,
   ⟨0, w64 (2 ^ 40), 0, tS, by constructor <;> decide +kernel, by decide +kernel⟩,
   ⟨0, 0, tX { tTile with pc := 100 }, by decide +kernel⟩,
   ⟨0, State.reset, by decide +kernel⟩,
   ⟨0, w64 (2 ^ 40), 0, tS, by constructor <;> decide +kernel, by decide +kernel⟩,
   ⟨0, w64 (2 ^ 40), 0, tS, by constructor <;> decide +kernel, by decide +kernel⟩,
   ⟨0, w64 (2 ^ 40), 0, tS, by constructor <;> decide +kernel, by decide +kernel⟩,
   ⟨0, w64 (2 ^ 40), 0, tS, by constructor <;> decide +kernel, by decide +kernel⟩,
   ⟨0, w64 (2 ^ 40), 0, tS, by constructor <;> decide +kernel, by decide +kernel⟩,
   ⟨0, w64 (2 ^ 40), 0, tS, by constructor <;> decide +kernel, by decide +kernel⟩,
   ⟨0, w64 (2 ^ 40), 0, tS, by constructor <;> decide +kernel, by decide +kernel⟩,
   ⟨0, w64 (2 ^ 40), 0, tS, by constructor <;> decide +kernel, by decide +kernel⟩⟩

theorem test_witness_RingsAndStrips :
    (∃ t : TileId, (∃ w : Word64, (∃ c : Nat, (∃ s : State, (TileReady s t c 1) ∧ (onlyFields w [(55, 55), (52, 48), (47, 44)] = true) ∧ ((ringAt s t.val (fieldOf w 52 48)).en = true) ∧ ((if bitOf w 55 then fieldOf w 47 44 + 1 + (ringAt s t.val (fieldOf w 52 48)).occ ≤ (ringAt s t.val (fieldOf w 52 48)).slots
      else fieldOf w 47 44 + 1 ≤ (ringAt s t.val (fieldOf w 52 48)).occ)))))) ∧
    (∃ t : TileId, (∃ w : Word64, (∃ c : Nat, (∃ s : State, (TileReady s t c 1) ∧ (onlyFields w [(55, 55), (52, 48), (47, 44)] = true) ∧ ((ringAt s t.val (fieldOf w 52 48)).en = true) ∧ ((if bitOf w 55 then (ringAt s t.val (fieldOf w 52 48)).slots < fieldOf w 47 44 + 1 + (ringAt s t.val (fieldOf w 52 48)).occ
      else (ringAt s t.val (fieldOf w 52 48)).occ < fieldOf w 47 44 + 1)))))) ∧
    (∃ t : TileId, (∃ w : Word64, (∃ c : Nat, (∃ s : State, (TileReady s t c 1) ∧ (onlyFields w [(55, 55), (52, 48), (47, 44)] = true) ∧ ((ringAt s t.val (fieldOf w 52 48)).en = false))))) ∧
    (∃ t : TileId, (∃ w : Word64, (∃ c : Nat, (∃ s : State, (TileReady s t c 1) ∧ (onlyFields w [(55, 55), (52, 48), (47, 44)] = true) ∧ ((ringAt s t.val (fieldOf w 52 48)).en = true) ∧ ((getC s c).spill = []) ∧ ((if bitOf w 55 then (ringAt s t.val (fieldOf w 52 48)).occ + fieldOf w 47 44 + 1 ≤ (ringAt s t.val (fieldOf w 52 48)).slots
      else fieldOf w 47 44 + 1 ≤ (ringAt s t.val (fieldOf w 52 48)).occ)))))) ∧
    (∃ t : TileId, (∃ w : Word64, (∃ c : Nat, (∃ s : State, (TileReady s t c 1) ∧ (onlyFields w [(55, 55), (52, 48), (47, 44)] = true) ∧ ((ringAt s t.val (fieldOf w 52 48)).en = true) ∧ ((getC s c).spill = []) ∧ ((if bitOf w 55 then (ringAt s t.val (fieldOf w 52 48)).slots < (ringAt s t.val (fieldOf w 52 48)).occ + fieldOf w 47 44 + 1
      else (ringAt s t.val (fieldOf w 52 48)).occ < fieldOf w 47 44 + 1)))))) ∧
    (∃ r : RemoteAdv, (∃ a : RingTransit, (∃ c : CtxId, (∃ s : State, (s.advances.find? (fun a => decide (a.tile = r.tile.val ∧ a.ring = r.ring.val ∧ a.tail = r.tail ∧ a.count = r.count)) = some a) ∧ ((getT s r.tile.val).run = some c) ∧ (c.val = a.ctx) ∧ ((ringAt s r.tile.val r.ring.val).en = true) ∧ ((getC s c.val).spill = []) ∧ (hasQueued (getT s r.tile.val) = false) ∧ ((if r.tail then (ringAt s r.tile.val r.ring.val).occ + r.count ≤ (ringAt s r.tile.val r.ring.val).slots
      else r.count ≤ (ringAt s r.tile.val r.ring.val).occ)))))) ∧
    (∃ s : State, (s.advances = [])) ∧
    (∃ t : TileId, (∃ w : Word64, (∃ c : Nat, (∃ p : Program, (∃ s : State, (TileReady s t c 1) ∧ (onlyFields w [(55, 52), (23, 0)] = true) ∧ (fieldOf w 55 52 ≤ 13) ∧ ((getT s t.val).held.length < 16) ∧ (programOf s c = some p) ∧ (let strip := (getT s t.val).stripNext * (tilesOf p.tiles).length + ((tilesOf p.tiles).filter (fun x => decide (x < t.val))).length
      (256 * strip < p.threads))))))) ∧
    (∃ t : TileId, (∃ w : Word64, (∃ c : Nat, (∃ p : Program, (∃ s : State, (TileReady s t c 1) ∧ (onlyFields w [(55, 52), (23, 0)] = true) ∧ (fieldOf w 55 52 ≤ 13) ∧ ((getT s t.val).held.length < 16) ∧ (programOf s c = some p) ∧ (p.threads ≤ 256 * ((getT s t.val).stripNext * (tilesOf p.tiles).length + ((tilesOf p.tiles).filter (fun x => decide (x < t.val))).length)) ∧ (0 ≤ ((getT s t.val).pc : Int) + signed 24 (fieldOf w 23 0)) ∧ (fetchOk s c (((getT s t.val).pc : Int) + signed 24 (fieldOf w 23 0)).toNat 1 = true)))))) ∧
    (∃ t : TileId, (∃ c : Nat, (∃ s : State, (TileReady s t c 1) ∧ (16 ≤ (getT s t.val).held.length)))) ∧
    (∃ t : TileId, (∃ w : Word64, (∃ c : Nat, (∃ h : Nat, (∃ l : List Nat, (∃ s : State, (TileReady s t c 1) ∧ (onlyFields w [] = true) ∧ ((getT s t.val).held = h :: l))))))) ∧
    (∃ t : TileId, (∃ c : Nat, (∃ s : State, (TileReady s t c 1) ∧ ((getT s t.val).held = [])))) :=
  ⟨⟨0, w64 (2 * 2 ^ 48 + 2 ^ 44), 0, sRing, by constructor <;> decide +kernel, by decide +kernel⟩,
   ⟨0, w64 (2 * 2 ^ 48 + 2 * 2 ^ 44), 0, sRing, by constructor <;> decide +kernel, by decide +kernel⟩,
   ⟨0, w64 (3 * 2 ^ 48), 0, sRing, by constructor <;> decide +kernel, by decide +kernel⟩,
   ⟨0, w64 (2 * 2 ^ 48 + 2 ^ 44), 0, sRing, by constructor <;> decide +kernel, by decide +kernel⟩,
   ⟨0, w64 (2 * 2 ^ 48 + 2 * 2 ^ 44), 0, sRing, by constructor <;> decide +kernel, by decide +kernel⟩,
   ⟨⟨0, 2, true, 2⟩, ⟨0, 0, 2, true, 2⟩, 0, { sRing with advances := [⟨0, 0, 2, true, 2⟩] }, by decide +kernel⟩,
   ⟨tS, by decide +kernel⟩,
   ⟨0, w64 (13 * 2 ^ 52 + 5), 0, tProg, { tX { tTile with stripNext := 1, held := [0] } with regs := [(Reg.TILE_STRIP_BASE 0 1, 128#32)] }, by constructor <;> decide +kernel, by decide +kernel⟩,
   ⟨0, w64 (2 * 2 ^ 52 + 5), 0, tProg, tX { tTile with stripNext := 2 }, by constructor <;> decide +kernel, by decide +kernel⟩,
   ⟨0, 0, tX { tTile with held := List.range 16 }, by constructor <;> decide +kernel, by decide +kernel⟩,
   ⟨0, 0#64, 0, 4, [5], tX { tTile with held := [4, 5] }, by constructor <;> decide +kernel, by decide +kernel⟩,
   ⟨0, 0, tS, by constructor <;> decide +kernel, by decide +kernel⟩⟩

theorem test_witness_BarriersSemaphoresAndEnds :
    (∃ t : TileId, (∃ w : Word64, (∃ c : Nat, (∃ s : State, (TileReady s t c 1) ∧ (onlyFields w [(7, 0)] = true) ∧ (fieldOf w 7 0 < 224) ∧ ((fieldOf w 7 0, t.val) ∉ (getC s c).barArr))))) ∧
    (∃ t : TileId, (∃ w : Word64, (∃ c : Nat, (∃ mask : Nat, (∃ s : State, (TileReady s t c 1) ∧ (onlyFields w [(7, 0)] = true) ∧ (224 ≤ fieldOf w 7 0) ∧ (barMask s (fieldOf w 7 0) = some mask) ∧ ((∀ x ∈ instTiles s c, x = t.val ∨ (fieldOf w 7 0, x) ∈ (getC s c).barArr)) ∧ (isManager s = true) ∧ (let arrived := (((s.peer.bars.find? (fun x => decide (x.num = fieldOf w 7 0))).map (·.arrived)).getD 0 ||| 2 ^ ctxSeat s c) &&& mask
      (arrived ≠ mask))))))) ∧
    (∃ t : TileId, (∃ w : Word64, (∃ c : Nat, (∃ s : State, (TileReady s t c 1) ∧ (224 ≤ fieldOf w 7 0) ∧ (barMask s (fieldOf w 7 0) = none))))) ∧
    (∃ t : TileId, (∃ w : Word64, (∃ c : Nat, (∃ s : State, (TileReady s t c 1) ∧ (onlyFields w [(7, 0)] = true) ∧ (semDeclared s c (fieldOf w 7 0) = true) ∧ ((∀ x ∈ (getC s c).sems, x.1 ≠ fieldOf w 7 0)) ∧ (semHolder s (ctxPart s c) (fieldOf w 7 0) = none) ∧ ((getC s c).stopReq = none) ∧ ((getP s (ctxPart s c)).waiters = []))))) ∧
    (∃ t : TileId, (∃ w : Word64, (∃ c : Nat, (∃ d : Nat, (∃ s : State, (TileReady s t c 1) ∧ (onlyFields w [(7, 0)] = true) ∧ (semDeclared s c (fieldOf w 7 0) = true) ∧ ((∀ x ∈ (getC s c).sems, x.1 ≠ fieldOf w 7 0)) ∧ (semHolder s (ctxPart s c) (fieldOf w 7 0) = some d) ∧ ((getC s c).stopReq = none)))))) ∧
    (∃ t : TileId, (∃ w : Word64, (∃ c : Nat, (∃ s : State, (TileReady s t c 1) ∧ (onlyFields w [(7, 0)] = true) ∧ (semDeclared s c (fieldOf w 7 0) = true) ∧ ((∀ x ∈ (getC s c).sems, x.1 ≠ fieldOf w 7 0)) ∧ ((getC s c).stopReq ≠ none) ∧ (semShared s (ctxPart s c) (fieldOf w 7 0) = true))))) ∧
    (∃ t : TileId, (∃ w : Word64, (∃ c : Nat, (∃ s : State, (TileReady s t c 1) ∧ (semDeclared s c (fieldOf w 7 0) = false ∨ (∃ x ∈ (getC s c).sems, x.1 = fieldOf w 7 0)))))) ∧
    (∃ t : TileId, (∃ w : Word64, (∃ c : Nat, (∃ s : State, (TileReady s t c 1) ∧ (onlyFields w [(7, 0)] = true) ∧ (semDeclared s c (fieldOf w 7 0) = true) ∧ ((∃ x ∈ (getC s c).sems, x.1 = fieldOf w 7 0)) ∧ ((∀ x ∈ (getP s (ctxPart s c)).waiters, x.sem ≠ fieldOf w 7 0)))))) ∧
    (∃ t : TileId, (∃ w : Word64, (∃ c : Nat, (∃ y : SemWait, (∃ s : State, (TileReady s t c 1) ∧ (onlyFields w [(7, 0)] = true) ∧ (semDeclared s c (fieldOf w 7 0) = true) ∧ ((∃ x ∈ (getC s c).sems, x.1 = fieldOf w 7 0)) ∧ ((getP s (ctxPart s c)).waiters = [y]) ∧ (y.sem = fieldOf w 7 0) ∧ (y.ctx ≠ c) ∧ (y.tile ≠ t.val) ∧ (y.tile < 256) ∧ ((getC s y.ctx).stopReq = none) ∧ ((∀ kv ∈ s.ctxs, kv.1 ≠ c → ∀ z ∈ kv.2.sems, z.1 ≠ fieldOf w 7 0))))))) ∧
    (∃ t : TileId, (∃ w : Word64, (∃ c : Nat, (∃ s : State, (TileReady s t c 1) ∧ (semDeclared s c (fieldOf w 7 0) = false ∨ (∀ x ∈ (getC s c).sems, x.1 ≠ fieldOf w 7 0)))))) ∧
    (∃ t : TileId, (∃ w : Word64, (∃ c : Nat, (∃ i : ExpInst, (∃ s : State, (TileReady s t c 1) ∧ (onlyFields w [] = true) ∧ (tileQuiet (getT s t.val) = true) ∧ ((getC s c).inst = some i) ∧ ((∃ x ∈ instTiles s c, x ≠ t.val ∧ x ∉ i.ended))))))) ∧
    (∃ t : TileId, (∃ w : Word64, (∃ c : Nat, (∃ i : ExpInst, (∃ s : State, (TileReady s t c 1) ∧ (onlyFields w [] = true) ∧ (tileQuiet (getT s t.val) = true) ∧ ((getC s c).inst = some i) ∧ ((∀ x ∈ instTiles s c, x = t.val ∨ x ∈ i.ended)) ∧ ((getC s c).queued = [])))))) ∧
    (∃ t : TileId, (∃ w : Word64, (∃ c : Nat, (∃ s : State, (TileReady s t c 1) ∧ (onlyFields w [] = true) ∧ (tileQuiet (getT s t.val) = false))))) :=
  ⟨⟨0, w64 223, 0, tS, by constructor <;> decide +kernel, by decide +kernel⟩,
   ⟨0, w64 230, 0, 3, tS, by constructor <;> decide +kernel, by decide +kernel⟩,
   ⟨0, w64 231, 0, tS, by constructor <;> decide +kernel, by decide +kernel⟩,
   ⟨0, w64 3, 0, tS, by constructor <;> decide +kernel, by decide +kernel⟩,
   ⟨0, w64 3, 0, 1, { tS with ctxs := [(0, tCtx), (1, { tCtx with sems := [(3, 0)] })] }, by constructor <;> decide +kernel, by decide +kernel⟩,
   ⟨0, w64 3, 0, { tS with ctxs := [(0, { tCtx with stopReq := some 0 }), (1, tCtx)] }, by constructor <;> decide +kernel, by decide +kernel⟩,
   ⟨0, w64 9, 0, tS, by constructor <;> decide +kernel, by decide +kernel⟩,
   ⟨0, w64 3, 0, { tS with ctxs := [(0, { tCtx with sems := [(3, 0)] })] }, by constructor <;> decide +kernel, by decide +kernel⟩,
   ⟨0, w64 3, 0, ⟨3, 1, 1, 0⟩, { tS with ctxs := [(0, { tCtx with sems := [(3, 0)] }), (1, tCtx)], parts := [(0, { Part.init with waiters := [⟨3, 1, 1, 0⟩] })], tiles := [(0, tTile), (1, { tTile with run := some 1, seq := .waiting, waitOp := 0xCC })] }, by constructor <;> decide +kernel, by decide +kernel⟩,
   ⟨0, w64 3, 0, tS, by constructor <;> decide +kernel, by decide +kernel⟩,
   ⟨0, 0#64, 0, tInst, { tS with plan := some tPlan2 }, by constructor <;> decide +kernel, by decide +kernel⟩,
   ⟨0, 0#64, 0, tInst, tS, by constructor <;> decide +kernel, by decide +kernel⟩,
   ⟨0, 0#64, 0, tX { tTile with dma := [{ DmaChan.idle with busy := true }, DmaChan.idle, DmaChan.idle, DmaChan.idle] }, by constructor <;> decide +kernel, by decide +kernel⟩⟩

theorem test_witness_DmaChannelsRun :
    (∃ t : TileId, (∃ w : Word128, (∃ c : Nat, (∃ s : State, (TileReady s t c 2) ∧ (fieldOf w 79 64 = 0) ∧ (fieldOf w 48 47 = 0) ∧ (fieldOf w 31 31 = 0) ∧ (fieldOf w 13 0 = 0) ∧ (fieldOf w 15 14 ≠ 3) ∧ (let va := if bitOf w 53 then ((pGet s t.val (fieldOf w 52 49)).toNat + fieldOf w 127 80) % 2 ^ 48 else fieldOf w 127 80
      (va % 64 = 0) ∧ ((fieldOf w 30 16 = 0 ∨ fieldOf w 46 32 + fieldOf w 30 16 ≤ 24576)) ∧ ((chanOf s t.val (fieldOf w 55 54)).busy = false) ∧ ((getT s t.val).dma.length = 4)))))) ∧
    (∃ t : TileId, (∃ w : Word128, (∃ c : Nat, (∃ s : State, (TileReady s t c 2) ∧ (fieldOf w 79 64 = 0) ∧ (fieldOf w 48 47 = 0) ∧ (fieldOf w 31 31 = 0) ∧ (fieldOf w 13 0 = 0) ∧ (fieldOf w 15 14 ≠ 3) ∧ (bitOf w 53 = false) ∧ (fieldOf w 127 80 % 64 = 0) ∧ (fieldOf w 30 16 = 0) ∧ ((chanOf s t.val (fieldOf w 55 54)).busy = true))))) ∧
    (∃ t : TileId, (∃ w : Word128, (∃ c : Nat, (∃ s : State, (TileReady s t c 2) ∧ (fieldOf w 79 64 ≠ 0 ∨ fieldOf w 48 47 ≠ 0 ∨ fieldOf w 31 31 ≠ 0 ∨ fieldOf w 13 0 ≠ 0 ∨ fieldOf w 15 14 = 3))))) ∧
    (∃ t : TileId, (∃ w : Word128, (∃ c : Nat, (∃ s : State, (TileReady s t c 2) ∧ (fieldOf w 79 64 = 0) ∧ (fieldOf w 48 47 = 0) ∧ (fieldOf w 31 31 = 0) ∧ (fieldOf w 13 0 = 0) ∧ (fieldOf w 15 14 ≠ 3) ∧ (bitOf w 53 = false) ∧ (fieldOf w 127 80 % 64 ≠ 0))))) ∧
    (∃ t : TileId, (∃ ch : Fin 4, (∃ c : Nat, (∃ bs : List Byte, (∃ s : State, (∃ m : State, (dmaCtx s t.val = some c) ∧ ((chanOf s t.val ch.val).busy = true) ∧ ((chanOf s t.val ch.val).fetchDone = false) ∧ ((chanOf s t.val ch.val).fetched.length ≤ 4) ∧ (virtRead s t.val c 0 (chanOf s t.val ch.val).nextFetch (64 * ((512 - (chanOf s t.val ch.val).nextFetch % 512) / 64)) = .ok bs m) ∧ (chanHeld s t.val ch.val = false) ∧ (hasQueued (getT m t.val) = false) ∧ (ch.val < (getT m t.val).dma.length) ∧ (((⟨(chanOf s t.val ch.val).nextFetch, leNat (bs.take 64)⟩ : Desc).last = true ∨
      ((⟨(chanOf s t.val ch.val).nextFetch, leNat (bs.take 64)⟩ : Desc).link = true ∧
      (⟨(chanOf s t.val ch.val).nextFetch, leNat (bs.take 64)⟩ : Desc).linkAddr % 64 = 0))) ∧ (512 - (chanOf s t.val ch.val).nextFetch % 512 ≥ 64))))))) ∧
    (∃ t : TileId, (∃ ch : Fin 4, (∃ s : State, ((chanOf s t.val ch.val).busy = false ∨ (chanOf s t.val ch.val).fetchDone = true ∨
      4 < (chanOf s t.val ch.val).fetched.length ∨ dmaCtx s t.val = none)))) ∧
    (∃ t : TileId, (∃ ch : Fin 4, (∃ c : Nat, (∃ d : Desc, (∃ l : List Desc, (∃ s : State, (dmaCtx s t.val = some c) ∧ (hasQueued (getT s t.val) = false) ∧ ((chanOf s t.val ch.val).fetched = d :: l) ∧ (chanHeld s t.val ch.val = false) ∧ (d.legal = true) ∧ (ringsOk s t.val c d = true) ∧ (waitOk s t.val c d = true) ∧ ((getC s c).spill = []) ∧ (ch.val < (getT s t.val).dma.length))))))) ∧
    (∃ t : TileId, (∃ ch : Fin 4, (∃ c : Nat, (∃ a : Nat, (∃ d : Desc, (∃ l : List Desc, (∃ s : State, (dmaCtx s t.val = some c) ∧ (hasQueued (getT s t.val) = false) ∧ ((chanOf s t.val ch.val).fetched = d :: l) ∧ (chanHeld s t.val ch.val = false) ∧ (d.legal = true) ∧ (ringsOk s t.val c d = true) ∧ (waitOk s t.val c d = true) ∧ ((getC s c).spill = []) ∧ (ch.val < (getT s t.val).dma.length) ∧ (d.cache ≠ 0) ∧ (d.op = 0) ∧ (d.srcSpace = 0) ∧ (d.count1 = 1) ∧ (d.count2 = 1) ∧ (hbmAt s c d.src = some a) ∧ (d.src % 65536 + d.len0 ≤ 65536) ∧ (a % 512 + d.len0 ≤ 512)))))))) ∧
    (∃ t : TileId, (∃ ch : Fin 4, (∃ c : Nat, (∃ d : Desc, (∃ l : List Desc, (∃ s : State, (dmaCtx s t.val = some c) ∧ ((chanOf s t.val ch.val).fetched = d :: l) ∧ (chanHeld s t.val ch.val = false) ∧ (d.legal = false ∨ ringsOk s t.val c d = false))))))) ∧
    (∃ t : TileId, (∃ ch : Fin 4, (∃ c : Nat, (∃ d : Desc, (∃ l : List Desc, (∃ s : State, (dmaCtx s t.val = some c) ∧ (hasQueued (getT s t.val) = false) ∧ ((chanOf s t.val ch.val).fetched = d :: l) ∧ (chanHeld s t.val ch.val = false) ∧ (d.legal = true) ∧ (ringsOk s t.val c d = true) ∧ (waitOk s t.val c d = false))))))) ∧
    (∃ t : TileId, (∃ ch : Fin 4, (∃ c : Nat, (∃ d : Desc, (∃ l : List Desc, (∃ s : State, (dmaCtx s t.val = some c) ∧ (hasQueued (getT s t.val) = false) ∧ ((chanOf s t.val ch.val).fetched = d :: l) ∧ (chanHeld s t.val ch.val = true))))))) ∧
    (∃ t : TileId, (∃ s : State, (dmaCtx s t.val = none))) ∧
    (∃ t : TileId, (∃ ch : Fin 4, (∃ c : CtxId, (∃ d : Desc, (∃ l : List DescRun, (∃ s : State, ((getT s t.val).run = some c) ∧ (hasQueued (getT s t.val) = false) ∧ (SpFree s t) ∧ (ctxSpec s c.val = false) ∧ (ch.val < (getT s t.val).dma.length) ∧ ((chanOf s t.val ch.val).inFlight = ⟨d, 0, 0, 0, 0, []⟩ :: l) ∧ (d.op = 1) ∧ (d.dstSpace = 1) ∧ (d.count1 = 1) ∧ (d.count2 = 1) ∧ (d.advKind = 0) ∧ (d.dst + d.len0 ≤ spBytes))))))) ∧
    (∃ t : TileId, (∃ ch : Fin 4, (∃ c : CtxId, (∃ d : Desc, (∃ l : List DescRun, (∃ s : State, ((getT s t.val).run = some c) ∧ (hasQueued (getT s t.val) = false) ∧ (SpFree s t) ∧ (ctxSpec s c.val = false) ∧ (ch.val < (getT s t.val).dma.length) ∧ ((chanOf s t.val ch.val).inFlight = ⟨d, 0, 0, 0, 0, []⟩ :: l) ∧ (d.op = 0) ∧ (d.srcSpace = 1) ∧ (d.dstSpace = 1) ∧ (d.count1 = 1) ∧ (d.count2 = 1) ∧ (d.advKind = 0) ∧ (d.dst + d.len0 ≤ spBytes) ∧ (d.src + d.len0 ≤ spBytes))))))) ∧
    (∃ t : TileId, (∃ ch : Fin 4, (∃ c : CtxId, (∃ r : DescRun, (∃ l : List DescRun, (∃ s : State, (∃ m : State, ((getT s t.val).run = some c) ∧ ((chanOf s t.val ch.val).inFlight = r :: l) ∧ (runSteps (r.desc.steps - r.step) s t.val ch.val c.val = .wait m) ∧ (hasQueued (getT m t.val) = false)))))))) ∧
    (∃ t : TileId, (∃ ch : Fin 4, (∃ c : CtxId, (∃ r : DescRun, (∃ l : List DescRun, (∃ s : State, ((getT s t.val).run = some c) ∧ (hasQueued (getT s t.val) = false) ∧ ((chanOf s t.val ch.val).inFlight = r :: l) ∧ (r.desc.steps ≤ r.step) ∧ (ch.val < (getT s t.val).dma.length) ∧ ((r.desc.advKind = 0 ∨ r.desc.advRemote = true)))))))) ∧
    (∃ t : TileId, (∃ ch : Fin 4, (∃ c : CtxId, (∃ r : DescRun, (∃ l : List DescRun, (∃ s : State, ((getT s t.val).run = some c) ∧ (hasQueued (getT s t.val) = false) ∧ ((chanOf s t.val ch.val).inFlight = r :: l) ∧ (r.desc.steps ≤ r.step) ∧ (r.desc.advRemote = false) ∧ (r.desc.advKind = 2) ∧ ((ringAt s t.val r.desc.advRing).en = true) ∧ ((getC s c.val).spill = []) ∧ ((ringAt s t.val r.desc.advRing).occ + r.desc.advN ≤ (ringAt s t.val r.desc.advRing).slots))))))) ∧
    (∃ t : TileId, (∃ s : State, ((getT s t.val).run = none))) :=
  ⟨⟨0, w128 (192 * 2 ^ 80 + 2 ^ 54 + 5 * 2 ^ 32 + 4 * 2 ^ 16 + 2 ^ 14), 0, tS, by constructor <;> decide +kernel, by decide +kernel⟩,
   ⟨0, w128 (192 * 2 ^ 80), 0, tX (tCh chF), by constructor <;> decide +kernel, by decide +kernel⟩,
   ⟨0, w128 (192 * 2 ^ 80 + 1), 0, tS, by constructor <;> decide +kernel, by decide +kernel⟩,
   ⟨0, w128 (193 * 2 ^ 80), 0, tS, by constructor <;> decide +kernel, by decide +kernel⟩,
   ⟨0, 0, 0, rBytes (virtRead { tX (tCh chF) with mem := tPtL } 0 0 0 448 64), { tX (tCh chF) with mem := tPtL }, rState (virtRead { tX (tCh chF) with mem := tPtL } 0 0 0 448 64), ⟨by decide +kernel, by decide +kernel, by decide +kernel, by decide +kernel, rOk (by decide +kernel), by decide +kernel⟩⟩,
   ⟨0, 0, tS, by decide +kernel⟩,
   ⟨0, 0, 0, dFill, [], tX (tCh (chS dFill)), by decide +kernel⟩,
   ⟨0, 0, 0, 128, dCached, [], { tX (tCh (chS dCached)) with mem := tPt }, by decide +kernel⟩,
   ⟨0, 0, 0, ⟨448, 0⟩, [], tX (tCh (chS ⟨448, 0⟩)), by decide +kernel⟩,
   ⟨0, 0, 0, dWait, [], { tX (tCh (chS dWait)) with regs := rg tFull }, by decide +kernel⟩,
   ⟨0, 0, 0, dFill, [], tX chHeldT, by decide +kernel⟩,
   ⟨0, State.reset, by decide +kernel⟩,
   ⟨0, 0, 0, dFill, [], tX (tCh (chC dFill)), by decide +kernel, by decide +kernel, by constructor <;> decide +kernel, by decide +kernel⟩,
   ⟨0, 0, 0, dCopy, [], { tX (tCh (chC dCopy)) with mem := [(spBase 0 + 64, 1#8), (spBase 0 + 79, 2#8)] }, by decide +kernel, by decide +kernel, by constructor <;> decide +kernel, by decide +kernel⟩,
   ⟨0, 0, 0, ⟨dFill, 0, 0, 0, 0, []⟩, [], sWaking, (runSteps 1 sWaking 0 0 0).state, ⟨by decide +kernel, by decide +kernel, tWaits (by decide +kernel), by decide +kernel⟩⟩,
   ⟨0, 0, 0, ⟨dsc (2 ^ 370), 0, 0, 0, 1, []⟩, [], tX (tCh (chD (dsc (2 ^ 370)))), by decide +kernel⟩,
   ⟨0, 0, 0, ⟨dsc (66 * 2 ^ 344), 0, 0, 0, 1, []⟩, [], { tX (tCh (chD (dsc (66 * 2 ^ 344)))) with regs := rg tRing }, by decide +kernel⟩,
   ⟨0, State.reset, by decide +kernel⟩⟩

theorem test_witness_SleepScrubAndPatrol :
    (∃ s : State, ((∀ kv ∈ s.ctxs, kv.2.negs = []))) ∧
    (∃ t : TileId, (∃ v : Word, (∃ g : Nat, (∃ s : State, (g < 6) ∧ (bitOf v g = true) ∧ ((getT s t.val).asleep.contains g = false) ∧ (negHeld s t.val none (g * 0x40000) 0x40000 = true))))) ∧
    (∃ t : TileId, (∃ g : Fin 6, (∃ s : State, ((getT s t.val).wakingG.contains g.val = true) ∧ (hasQueued (getT s t.val) = false) ∧ (s.peer.recv = [])))) ∧
    (∃ t : TileId, (∃ g : Fin 6, (∃ s : State, ((getT s t.val).wakingG.contains g.val = false)))) ∧
    (∃ t : TileId, (∃ s : State, ((getT s t.val).power = .awake) ∧ (getB s (Reg.TILE_SP_SCRUB t.val) 31 = true) ∧ (getF s (Reg.TILE_SP_SCRUB t.val) 7 0 ≠ 0) ∧ (s.ecc.single = []) ∧ (s.ecc.bad = []))) ∧
    (∃ t : TileId, (∃ b : Nat, (∃ j : Nat, (∃ s : State, ((getT s t.val).power = .awake) ∧ (getB s (Reg.TILE_SP_SCRUB t.val) 31 = true) ∧ (getF s (Reg.TILE_SP_SCRUB t.val) 7 0 ≠ 0) ∧ (b < 24) ∧ (j < 8) ∧ ((getT s t.val).patrolRow < 1024) ∧ (s.ecc.single = [spBase t.val / 8 + (b * 1024 + (getT s t.val).patrolRow) * 8 + j]) ∧ (s.ecc.bad = []) ∧ ((getT s t.val).asleep.contains (b / 4) = false) ∧ ((getT s t.val).wakingG.contains (b / 4) = false) ∧ ((scrubRows s t.val).length < 16))))) ∧
    (∃ t : TileId, (∃ s : State, ((getT s t.val).power ≠ .awake ∨ getB s (Reg.TILE_SP_SCRUB t.val) 31 = false ∨
      getF s (Reg.TILE_SP_SCRUB t.val) 7 0 = 0))) ∧
    (∃ t : TileId, (∃ row : Nat, (∃ l : List Nat, (∃ s : State, (scrubRows s t.val = row :: l) ∧ (row ∉ l))))) ∧
    (∃ t : TileId, (∃ s : State, (scrubRows s t.val = []))) ∧
    (∃ k : Fin 2, (∃ s : State, (getB s Reg.ERR_HBM_PATROL 31 = true) ∧ (getF s Reg.ERR_HBM_PATROL 7 0 ≠ 0) ∧ (dieAwake s k.val = true) ∧ (s.patrol.length = 2))) ∧
    (∃ k : Fin 2, (∃ s : State, (getB s Reg.ERR_HBM_PATROL 31 = false ∨ getF s Reg.ERR_HBM_PATROL 7 0 = 0 ∨ dieAwake s k.val = false))) ∧
    (∃ s : State, (s.wc.inv = true) ∧ ((∀ kv ∈ s.tiles, ∀ ch ∈ kv.2.dma, ∀ r ∈ ch.inFlight, r.fills = []))) ∧
    (∃ s : State, (s.wc.inv = false)) :=
  ⟨⟨{ tX { tTile with asleep := [0, 1] } with mem := [(spBase 0 + 0x40000, 1#8), (spBase 0 + 0x80000, 2#8)] }, by decide +kernel⟩,
   ⟨0, 1#32, 0, { tS with ctxs := [(0, tCtx), (1, { tCtx with st := .stopped, negs := [(0, tNeg)] })] }, by decide +kernel⟩,
   ⟨0, 1, { tX { tTile with wakingG := [1, 2] } with mem := [(spBase 0 + 0x40000, 1#8), (spBase 0 + 0x80000, 2#8)] }, by decide +kernel⟩,
   ⟨0, 1, tS, by decide +kernel⟩,
   ⟨0, { tS with regs := rg [(Reg.TILE_SP_SCRUB 0, 0x80000010#32)] }, by decide +kernel⟩,
   ⟨0, 5, 3, { tS with regs := rg [(Reg.TILE_SP_SCRUB 0, 0x80000010#32)], ecc := { Ecc.init with single := [spBase 0 / 8 + (5 * 1024) * 8 + 3] } }, by decide +kernel⟩,
   ⟨0, { tS with regs := rg [(Reg.TILE_SP_SCRUB 0, 0x80000000#32)] }, by decide +kernel⟩,
   ⟨0, 5, [], { tS with ecc := { Ecc.init with single := [spBase 0 / 8 + 5 * 8 + 3], scrubQ := [⟨0, 5, 0⟩] } }, by decide +kernel⟩,
   ⟨0, tS, by decide +kernel⟩,
   ⟨0, sR [(Reg.ERR_HBM_PATROL, 0x80000018#32)], by decide +kernel⟩,
   ⟨0, sR [(Reg.ERR_HBM_PATROL, 0x18#32)], by decide +kernel⟩,
   ⟨{ sR [(Reg.MEM_WC_CTL, 0x8000000F#32)] with wc := ⟨[(0, [(0, ⟨0, []⟩)]), (1, [(0, ⟨1, []⟩)])], [], true⟩ }, by decide +kernel⟩,
   ⟨State.reset, by decide +kernel⟩⟩

theorem test_witness_EnlargerLoadsAndPasses :
    (∃ t : TileId, (∃ w : Word128, (∃ c : Nat, (∃ s : State, (TileReady s t c 2) ∧ ((getT s t.val).enl.loading = none) ∧ ((LoadsCmd.of w).legal = true))))) ∧
    (∃ t : TileId, (∃ w : Word128, (∃ c : Nat, (∃ s : State, (TileReady s t c 2) ∧ ((getT s t.val).enl.loading = none) ∧ ((LoadsCmd.of w).legal = false))))) ∧
    (∃ t : TileId, (∃ c : Nat, (∃ s : State, (TileReady s t c 2) ∧ ((getT s t.val).enl.loading.isSome = true)))) ∧
    (∃ t : TileId, (∃ c : CtxId, (∃ p : LoadProg, (∃ s : State, ((getT s t.val).enl.loading = some p) ∧ ((getT s t.val).run = some c) ∧ ((getT s t.val).seq ≠ .stopped) ∧ (hasQueued (getT s t.val) = false) ∧ (SpFree s t) ∧ ((LoadsCmd.of p.cmd).legal = true))))) ∧
    (∃ t : TileId, (∃ s : State, ((getT s t.val).enl.loading = none))) ∧
    (∃ t : TileId, (∃ c : Nat, (∃ s : State, (TileReady s t c 2) ∧ ((getT s t.val).enl.loading = none)))) ∧
    (∃ t : TileId, (∃ w : Word128, (∃ c : Nat, (∃ k : EnlClass, (∃ s : State, (TileReady s t c 2) ∧ (SpFree s t) ∧ ((PassCmd.of w).legal (getT s t.val).enl = true) ∧ ((PassCmd.of w).cls = some k) ∧ (k ≠ .cx16) ∧ ((PassCmd.of w).flow ≠ 1) ∧ ((PassCmd.of w).chain = 0) ∧ ((PassCmd.of w).count ≤ 64) ∧ ((getT s t.val).enl.level = 4) ∧ ((getT s t.val).enl.phase ≠ .rampUp) ∧ ((getT s t.val).enl.waveUntil = none) ∧ ((getT s t.val).enl.fbq.length < 8)))))) ∧
    (∃ t : TileId, (∃ w : Word128, (∃ c : Nat, (∃ s : State, (TileReady s t c 2) ∧ (SpFree s t) ∧ ((PassCmd.of w).legal (getT s t.val).enl = true) ∧ ((getT s t.val).enl.level < 4) ∧ ((getT s t.val).enl.phase ≠ .rampUp) ∧ ((getT s t.val).enl.waveUntil = none) ∧ ((getT s t.val).enl.fbq.length + (PassCmd.of w).perBlock ≤ 8))))) ∧
    (∃ t : TileId, (∃ w : Word128, (∃ c : Nat, (∃ s : State, (TileReady s t c 2) ∧ (SpFree s t) ∧ ((PassCmd.of w).legal (getT s t.val).enl = true) ∧ ((PassCmd.of w).chain < 2) ∧ (8 < (getT s t.val).enl.fbq.length + (PassCmd.of w).perBlock))))) ∧
    (∃ t : TileId, (∃ w : Word128, (∃ c : Nat, (∃ s : State, (TileReady s t c 2) ∧ ((PassCmd.of w).legal (getT s t.val).enl = false))))) ∧
    (∃ t : TileId, (∃ tl : PassTail, (∃ l : List PassTail, (∃ s : State, ((getT s t.val).enl.tails = tl :: l) ∧ (hasQueued (getT s t.val) = false))))) ∧
    (∃ t : TileId, (∃ s : State, ((getT s t.val).enl.tails = []) ∧ ((getT s t.val).run = none))) :=
  ⟨⟨0, wLoads, 0, tE tEnl, by constructor <;> decide +kernel, by decide +kernel⟩,
   ⟨0, w128 (2 ^ 112 + 6 * 2 ^ 52), 0, tE tEnl, by constructor <;> decide +kernel, by decide +kernel⟩,
   ⟨0, 0, tE { tEnl with loading := some ⟨0, wLoads, 0, 0⟩ }, by constructor <;> decide +kernel, by decide +kernel⟩,
   ⟨0, 0, ⟨0, wLoads, 0, 0⟩, tE { tEnl with loading := some ⟨0, wLoads, 0, 0⟩ }, by decide +kernel, by decide +kernel, by decide +kernel, by decide +kernel, by constructor <;> decide +kernel, by decide +kernel⟩,
   ⟨0, tS, by decide +kernel⟩,
   ⟨0, 0, tE { tEnl with shadowLoaded := true }, by constructor <;> decide +kernel, by decide +kernel⟩,
   ⟨0, wPass, 0, .int, tE tEnl, by constructor <;> decide +kernel, by constructor <;> decide +kernel, by decide +kernel⟩,
   ⟨0, wPass, 0, tE { tEnl with level := 2 }, by constructor <;> decide +kernel, by constructor <;> decide +kernel, by decide +kernel⟩,
   ⟨0, wPass, 0, tE { tEnl with fbq := List.replicate 8 tFbq }, by constructor <;> decide +kernel, by constructor <;> decide +kernel, by decide +kernel⟩,
   ⟨0, w128 (2 ^ 112 + 4 * 2 ^ 48 + 2 ^ 44), 0, tE tEnl, by constructor <;> decide +kernel, by decide +kernel⟩,
   ⟨0, ⟨1, true, 18, none⟩, [], tE { tEnl with tails := [⟨1, true, 18, none⟩], fbq := [{ tFbq with finished := false }] }, by decide +kernel⟩,
   ⟨0, State.reset, by decide +kernel⟩⟩

theorem test_witness_EnlargerActivity :
    (∃ t : TileId, (∃ c : Nat, (∃ s : State, (TileReady s t c 2) ∧ ((getT s t.val).enl.waveUntil = none) ∧ ((getT s t.val).enl.phase ≠ .rampUp)))) ∧
    (∃ t : TileId, (∃ c : Nat, (∃ s : State, (TileReady s t c 2) ∧ ((getT s t.val).enl.waveUntil.isSome = true)))) ∧
    (∃ t : TileId, (∃ c : Nat, (∃ s : State, (TileReady s t c 2)))) ∧
    (∃ t : TileId, (∃ c : Nat, (∃ s : State, (TileReady s t c 2) ∧ ((getT s t.val).enl.loading = none) ∧ ((getT s t.val).enl.tails = [])))) ∧
    (∃ t : TileId, (∃ c : Nat, (∃ s : State, (TileReady s t c 2) ∧ ((getT s t.val).enl.loading.isSome = true ∨ (getT s t.val).enl.tails ≠ [])))) ∧
    (∃ t : TileId, (∃ s : State, (hasQueued (getT s t.val) = false) ∧ ((getT s t.val).enl.phase = .rampUp) ∧ ((getT s t.val).enl.waveUntil = none))) ∧
    (∃ t : TileId, (∃ s : State, (hasQueued (getT s t.val) = false) ∧ ((getT s t.val).enl.phase = .rampUp) ∧ ((getT s t.val).enl.waveUntil.isSome = true) ∧ ((getT s t.val).enl.level < 4))) ∧
    (∃ t : TileId, (∃ s : State, (hasQueued (getT s t.val) = false) ∧ ((getT s t.val).enl.phase = .gap))) ∧
    (∃ t : TileId, (∃ s : State, (hasQueued (getT s t.val) = false) ∧ ((getT s t.val).enl.phase = .rampDown))) ∧
    (∃ t : TileId, (∃ s : State, ((getT s t.val).enl.phase ≠ .gap) ∧ ((getT s t.val).run = none))) ∧
    (∃ t : TileId, (∃ d : Nat, (∃ s : State, (hasQueued (getT s t.val) = false) ∧ ((getT s t.val).enl.waveUntil = some d) ∧ (d ≤ s.now * 1250)))) ∧
    (∃ t : TileId, (∃ s : State, ((∀ d, (getT s t.val).enl.waveUntil = some d → s.now * 1250 < d)))) :=
  ⟨⟨0, 0, tE { tEnl with level := 2, phase := .rampDown }, by constructor <;> decide +kernel, by decide +kernel⟩,
   ⟨0, 0, tE { tEnl with level := 2, phase := .gap, waveUntil := some 50 }, by constructor <;> decide +kernel, by decide +kernel⟩,
   ⟨0, 0, tE tEnl, by constructor <;> decide +kernel⟩,
   ⟨0, 0, tE tEnl, by constructor <;> decide +kernel, by decide +kernel⟩,
   ⟨0, 0, tE { tEnl with loading := some ⟨0, wLoads, 0, 0⟩ }, by constructor <;> decide +kernel, by decide +kernel⟩,
   ⟨0, tE { tEnl with level := 2, phase := .rampUp }, by decide +kernel⟩,
   ⟨0, tE { tEnl with level := 2, phase := .rampUp, waveUntil := some 50 }, by decide +kernel⟩,
   ⟨0, tE { tEnl with level := 4, fill := 2 }, by decide +kernel⟩,
   ⟨0, tE { tEnl with level := 3, phase := .rampDown }, by decide +kernel⟩,
   ⟨0, State.reset, by decide +kernel⟩,
   ⟨0, 5000, { tE { tEnl with level := 2, phase := .gap, waveUntil := some 5000, wakeHeld := true } with now := 4 }, by decide +kernel⟩,
   ⟨0, tE { tEnl with level := 2, phase := .gap, waveUntil := some 5000 }, by decide +kernel⟩⟩

theorem test_witness_FixerConverts :
    (∃ t : TileId, (∃ w : Word128, (∃ c : Nat, (∃ s : State, (TileReady s t c 2) ∧ ((FixCmd.of w).legal = true) ∧ ((FixCmd.of w).fromFbq = false))))) ∧
    (∃ t : TileId, (∃ w : Word128, (∃ c : Nat, (∃ s : State, (TileReady s t c 2) ∧ ((FixCmd.of w).legal = true) ∧ ((FixCmd.of w).fromFbq = true) ∧ ((FixCmd.of w).entries ≤ fbqPositions (getT s t.val)) ∧ (fbqFinished (getT s t.val) < (FixCmd.of w).entries))))) ∧
    (∃ t : TileId, (∃ w : Word128, (∃ c : Nat, (∃ s : State, (TileReady s t c 2) ∧ ((FixCmd.of w).legal = false))))) ∧
    (∃ t : TileId, (∃ c : CtxId, (∃ j : FixJob, (∃ f : FixCmd, (∃ dst : Fmt, (∃ s : State, ((getT s t.val).fix = some j) ∧ (f = FixCmd.of j.cmd) ∧ (j.waiting = false) ∧ (j.converting = true) ∧ (j.group = 0) ∧ ((getT s t.val).run = some c) ∧ ((getT s t.val).seq ≠ .stopped) ∧ (hasQueued (getT s t.val) = false) ∧ (SpFree s t) ∧ (f.legal = true) ∧ (f.fromFbq = false) ∧ (f.dst = some dst) ∧ (f.scaleSrc = 2) ∧ ((f.srcOff * 64 + elemBytes (f.src.getD .fp32) (f.count * f.elems) ≤ f.dstOff * 64 ∨
      f.dstOff * 64 + elemBytes dst (f.count * f.elems) ≤ f.srcOff * 64)))))))) ∧
    (∃ t : TileId, (∃ c : CtxId, (∃ j : FixJob, (∃ s : State, ((getT s t.val).fix = some j) ∧ (fixDone j = true) ∧ ((getT s t.val).run = some c) ∧ ((getT s t.val).seq ≠ .stopped) ∧ (hasQueued (getT s t.val) = false))))) ∧
    (∃ t : TileId, (∃ s : State, ((∀ j, (getT s t.val).fix = some j → j.waiting = true)))) :=
  ⟨⟨0, wFix, 0, tE tEnl, by constructor <;> decide +kernel, by decide +kernel⟩,
   ⟨0, wFixQ, 0, tE { tEnl with tails := [⟨1, true, 18, none⟩], fbq := [{ tFbq with finished := false }] }, by constructor <;> decide +kernel, by decide +kernel⟩,
   ⟨0, w128 (2 ^ 40 + 2 ^ 24), 0, tE tEnl, by constructor <;> decide +kernel, by decide +kernel⟩,
   ⟨0, 0, jFix, FixCmd.of wFix, .int8, { tE tEnl with tiles := [(0, { tTile with fix := some jFix, enl := tEnl })] }, by decide +kernel, by decide +kernel, by decide +kernel, by decide +kernel, by decide +kernel, by decide +kernel, by decide +kernel, by decide +kernel, by constructor <;> decide +kernel, by decide +kernel⟩,
   ⟨0, 0, { jFix with group := 64 }, tX { tTile with fix := some { jFix with group := 64 } }, by decide +kernel⟩,
   ⟨0, tS, by decide +kernel⟩⟩

theorem test_witness_PeerLinksCarryFrames :
    (∃ l : LinkId, (∃ s : State, (peerUp s l.val = false))) ∧
    (∃ l : LinkId, (∃ f : PeerFrame, (∃ s : State, (peerUp s l.val = true) ∧ (f.crcOk = false ∨ f.seq ≠ (getL s l.val).rxNext) ∧ (silent s = false) ∧ ((getL s l.val).waiting = []) ∧ ((getL s l.val).replay.length < 512)))) ∧
    (∃ l : LinkId, (∃ f : PeerFrame, (∃ s : State, (peerUp s l.val = true) ∧ (f.crcOk = true) ∧ (f.seq = (getL s l.val).rxNext) ∧ (f.nack = false) ∧ (f.kind = 1) ∧ (f.body = .ack) ∧ (f.ackValid = true) ∧ (f.ack = (getL s l.val).txSeq) ∧ ((∀ k ∈ (getL s l.val).replay, k.frame.seq ≠ f.ack)) ∧ ((getL s l.val).waiting = []) ∧ (silent s = false)))) ∧
    (∃ l : LinkId, (∃ f : PeerFrame, (∃ m : Nat, (∃ bs : List Byte, (∃ s : State, (peerUp s l.val = true) ∧ (f.crcOk = true) ∧ (f.seq = (getL s l.val).rxNext) ∧ (f.nack = false) ∧ (f.ackValid = false) ∧ (f.body = .data bs) ∧ (f.dst ≠ ownMember s) ∧ (f.hops < 7) ∧ (routeTo s f.dst = some m) ∧ (m ≠ l.val) ∧ (peerUp s m = true) ∧ ((getL s m).replay.length < 512) ∧ ((getL s m).waiting = []) ∧ (silent s = false)))))) ∧
    (∃ l : LinkId, (∃ f : PeerFrame, (∃ s : State, (peerUp s l.val = true) ∧ (f.crcOk = true) ∧ (f.seq = (getL s l.val).rxNext) ∧ (f.nack = false) ∧ (f.ackValid = false) ∧ (¬ (f.kind = 1 ∧ f.body = .ack)) ∧ (f.dst ≠ ownMember s) ∧ (7 ≤ f.hops)))) ∧
    (∃ l : LinkId, (∃ f : PeerFrame, (∃ s : State, (peerUp s l.val = true) ∧ (f.crcOk = true) ∧ (f.seq = (getL s l.val).rxNext) ∧ (f.nack = false) ∧ (f.ackValid = false) ∧ (f.dst = ownMember s) ∧ (epochChecked f.body = true) ∧ (f.epoch ≠ epochOf s % 256)))) ∧
    (∃ l : LinkId, (∃ f : PeerFrame, (∃ st : Stream, (∃ bs : List Byte, (∃ s : State, (peerUp s l.val = true) ∧ (f.crcOk = true) ∧ (f.seq = (getL s l.val).rxNext) ∧ (f.nack = false) ∧ (f.ackValid = false) ∧ (f.dst = ownMember s) ∧ (f.epoch = epochOf s % 256) ∧ (f.body = .data bs) ∧ (streamOf s f.stream = some st) ∧ (runsOn s st.dstCtx st.dstTile = true) ∧ ((ringAt s st.dstTile st.dstRing).en = true) ∧ ((ringAt s st.dstTile st.dstRing).occ < (ringAt s st.dstTile st.dstRing).slots) ∧ (slotBytes (ringAt s st.dstTile st.dstRing) = bs.length) ∧ (f.offset % bs.length = 0) ∧ (s.peer.recv = []) ∧ (s.peer.partial' = []) ∧ (st.dstTile < 256) ∧ ((getT s st.dstTile).asleep = []) ∧ ((getT s st.dstTile).wakingG = []) ∧ (s.foreignDirty = [])))))) ∧
    (∃ l : LinkId, (∃ k : Kept, (∃ r : List Kept, (∃ s : State, ((getL s l.val).replay = k :: r) ∧ (peerUp s l.val = true) ∧ (k.at' + 3200 ≤ s.now) ∧ (k.sends < 8))))) ∧
    (∃ l : LinkId, (∃ k : Kept, (∃ r : List Kept, (∃ s : State, ((getL s l.val).replay = k :: r) ∧ (peerUp s l.val = true) ∧ (k.at' + 3200 ≤ s.now) ∧ (8 ≤ k.sends) ∧ (inFlightOn s l.val = []))))) ∧
    (∃ l : LinkId, (∃ k : Kept, (∃ r : List Kept, (∃ h : Nat × List Nat, (∃ st : Stream, (∃ s : State, ((getL s l.val).replay = k :: r) ∧ (peerUp s l.val = true) ∧ (k.at' + 3200 ≤ s.now) ∧ (8 ≤ k.sends) ∧ (inFlightOn s l.val = [h]) ∧ (ownMember s ∈ h.2) ∧ (streamOf s h.1 = some st) ∧ (ownSeat s st.srcSeat = true) ∧ (dstSeatHere s st = none) ∧ ((getC s st.srcCtx).st ≠ .scrubbing) ∧ ((getC s st.srcCtx).st ≠ .held))))))) ∧
    (∃ l : LinkId, (∃ s : State, ((getL s l.val).replay = [] ∨ peerUp s l.val = false ∨
      (∃ k r, (getL s l.val).replay = k :: r ∧ s.now < k.at' + 3200)))) ∧
    (∃ l : LinkId, (∃ v : Word, (∃ s : State, (bitOf v 0 = true) ∧ (linkState s l.val ≠ 0)))) ∧
    (∃ v : Word, (bitOf v 0 = false)) ∧
    (∃ l : LinkId, (∃ s : State, (linkState s l.val = 1 ∨ linkState s l.val = 3) ∧ ((getL s l.val).replay = []) ∧ ((getL s l.val).waiting = []))) ∧
    (∃ l : LinkId, (∃ k : Kept, (∃ s : State, (linkState s l.val = 3) ∧ ((getL s l.val).replay = [k]) ∧ ((getL s l.val).waiting = [])))) ∧
    (∃ l : LinkId, (∃ s : State, (linkState s l.val = 1 ∨ linkState s l.val = 3))) ∧
    (∃ l : LinkId, (∃ s : State, (linkState s l.val ≠ 1) ∧ (linkState s l.val ≠ 3))) ∧
    (∃ m : Nat, (∃ l : Nat, (∃ s : State, (m = ownMember s) ∧ (isManager s = false) ∧ ((peerServo s).isSome = true) ∧ (exchangeDue s = true) ∧ (routeTo s 0 = some l) ∧ (peerUp s l = true) ∧ ((getL s l).replay.length < 512) ∧ ((getL s l).waiting = []) ∧ (silent s = false)))) ∧
    (∃ m : Nat, (∃ s : State, (m ≠ ownMember s ∨ isManager s = true ∨ peerServo s = none ∨ exchangeDue s = false))) :=
  ⟨⟨0, State.reset, by decide +kernel⟩,
   ⟨0, { fr .ack 1 0 with crcOk := false }, sG 0 [] pI tCtx, by decide +kernel⟩,
   ⟨0, { fr .ack 1 0 with kind := 1, ackValid := true }, sG 0 [] pI tCtx, by decide +kernel⟩,
   ⟨0, fr (.data [1#8, 2#8]) 0 3, 1, [1#8, 2#8], sG 1 [(Reg.PEER_ROUTE 3, 0x80000001#32), (Reg.PEER_L_STATUS 1, 0x40000000#32)] pI tCtx, by decide +kernel⟩,
   ⟨0, { fr (.data [1#8]) 0 3 with hops := 7 }, sG 1 [] pI tCtx, by decide +kernel⟩,
   ⟨0, { fr (.data [1#8]) 0 1 with epoch := 4 }, sG 1 [] pI tCtx, by decide +kernel⟩,
   ⟨0, fr (.data dat64) 0 1, tStream, dat64, sG 1 tRing pI tCtx, by decide +kernel⟩,
   ⟨0, kp 2, [kp 1], { sG 0 [] (sLk { PeerLink.init with replay := [kp 2, kp 1], txSeq := 2 }) tCtx with now := 3200 }, by decide +kernel⟩,
   ⟨0, kp 8, [], { sG 0 [] (sLk { PeerLink.init with replay := [kp 8], txSeq := 1 }) tCtx with now := 3200 }, by decide +kernel⟩,
   ⟨0, kp 8, [], (0, [0, 1]), tStream, { sG 0 [] { sLk { PeerLink.init with replay := [kp 8], txSeq := 1 } with tx := [(0, txOut)] } tCtx with now := 3200 }, by decide +kernel⟩,
   ⟨0, State.reset, Or.inl (by decide +kernel)⟩,
   ⟨0, 1#32, sG 0 [] (sLk { PeerLink.init with replay := [kp 2] }) tCtx, by decide +kernel⟩,
   ⟨0#32, by decide +kernel⟩,
   ⟨0, sR [(Reg.PEER_L_STATUS 0, 0x20000000#32)], by decide +kernel⟩,
   ⟨0, kp 2, sG 0 [(Reg.PEER_L_STATUS 0, 0x60000000#32)] (sLk { PeerLink.init with replay := [kp 2], txSeq := 9, rxNext := 8 }) tCtx, by decide +kernel⟩,
   ⟨0, sR [(Reg.PEER_L_STATUS 0, 0x60000100#32)], by decide +kernel⟩,
   ⟨0, sG 0 [] pI tCtx, by decide +kernel⟩,
   ⟨1, 0, sG 1 [(Reg.TIME_S_CFG 1, 0xA0000000#32)] pI tCtx, by decide +kernel⟩,
   ⟨3, State.reset, by decide +kernel⟩⟩

theorem test_witness_GroupsFormByRollCall :
    (∃ s : State, (isManager s = true) ∧ (s.plan.isSome = true) ∧ (s.peer.roll = none) ∧ (groupSize s ≠ 0)) ∧
    (∃ s : State, (isManager s = false ∨ s.plan = none ∨ s.peer.roll.isSome = true ∨ groupSize s = 0)) ∧
    (∃ s : State, (s.peer.lastRoll + rollPeriod s ≤ s.now)) ∧
    (∃ s : State, (isManager s = true) ∧ (s.plan.isSome = true) ∧ (s.peer.roll = none) ∧ (groupSize s ≠ 0) ∧ (s.peer.lastRoll + rollPeriod s ≤ s.now)) ∧
    (∃ s : State, (s.now < s.peer.lastRoll + rollPeriod s)) ∧
    (∃ r : RollCall, (∃ s : State, (s.peer.roll = some r) ∧ (r.start + 8000000 ≤ s.now) ∧ (r.ok < 2 ^ 64))) ∧
    (∃ s : State, ((∀ r, s.peer.roll = some r → s.now < r.start + 8000000))) ∧
    (∃ s : State, (isManager s = false) ∧ (s.peer.formed = true) ∧ (s.peer.lost = false) ∧ (s.peer.lastRoll + 3 * rollPeriod s ≤ s.now)) ∧
    (∃ s : State, (isManager s = true ∨ s.peer.formed = false ∨ s.peer.lost = true ∨ s.now < s.peer.lastRoll + 3 * rollPeriod s)) ∧
    (∃ l : LinkId, (∃ f : PeerFrame, (∃ n : Nat, (∃ s : State, (peerUp s l.val = true) ∧ (f.crcOk = true) ∧ (f.seq = (getL s l.val).rxNext) ∧ (f.nack = false) ∧ (f.ackValid = false) ∧ (f.dst = ownMember s) ∧ (f.body = .nonce n) ∧ (s.peer.recv = []))))) ∧
    (∃ l : LinkId, (∃ f : PeerFrame, (∃ s : State, (peerUp s l.val = true) ∧ (f.crcOk = true) ∧ (f.seq = (getL s l.val).rxNext) ∧ (f.nack = false) ∧ (f.ackValid = false) ∧ (f.dst = ownMember s) ∧ (f.body = .accepted true) ∧ (s.peer.recv = []) ∧ (s.peer.armAt = none)))) :=
  ⟨⟨sG 0 [] pI tCtx, by decide +kernel⟩,
   ⟨sG 1 [] pI tCtx, by decide +kernel⟩,
   ⟨{ sG 0 [] pI tCtx with now := 8000000 }, by decide +kernel⟩,
   ⟨{ sG 0 [] pI tCtx with now := 8000000 }, by decide +kernel⟩,
   ⟨sG 0 [] pI tCtx, by decide +kernel⟩,
   ⟨⟨7, 0, 3, 0⟩, { sG 0 [] { pI with roll := some ⟨7, 0, 3, 0⟩ } tCtx with now := 8000000 }, by decide +kernel⟩,
   ⟨sG 0 [] pI tCtx, by decide +kernel⟩,
   ⟨{ sG 1 [] { pI with formed := true } tCtx with now := 24000000 }, by decide +kernel⟩,
   ⟨State.reset, by decide +kernel⟩,
   ⟨0, fr (.nonce 77) 0 1, 77, sG 1 [] { pI with lost := true } tCtx, by decide +kernel⟩,
   ⟨0, fr (.accepted true) 0 1, sG 1 [] pI tCtx, by decide +kernel⟩⟩

theorem test_witness_StreamsAndGroupBarriers :
    (∃ n : Nat, (∃ j : Nat, (∃ x : Stream, (∃ s : State, (streamOf s n = some x) ∧ (nextBurst s x = some (.ring j)) ∧ (running s = true) ∧ ((∀ l ∈ burstLinks s x.dstSeats, rrTurn s l x.vc = true ∧ peerUp s l = true)) ∧ (burstRoom s x x.dstSeats = true) ∧ ((getTx s n).fresh = false) ∧ (s.ecc.single = []) ∧ (s.ecc.bad = []) ∧ (s.peer.recv = []) ∧ ((getC s x.srcCtx).spill = []) ∧ ((∀ seat ∈ bits64 x.dstSeats, seatMember s seat ≠ ownMember s)))))) ∧
    (∃ n : Nat, (∃ l : Nat, (∃ k : NextBurst, (∃ x : Stream, (∃ s : State, (streamOf s n = some x) ∧ (nextBurst s x = some k) ∧ (running s = true) ∧ ((∀ l ∈ burstLinks s (burstSeats s x k), rrTurn s l x.vc = true)) ∧ (l ∈ burstLinks s (burstSeats s x k)) ∧ (peerUp s l = false)))))) ∧
    (∃ n : Nat, (∃ k : NextBurst, (∃ x : Stream, (∃ s : State, (streamOf s n = some x) ∧ (nextBurst s x = some k) ∧ (burstRoom s x (burstSeats s x k) = false) ∧ ((∀ l ∈ burstLinks s (burstSeats s x k), peerUp s l = true)))))) ∧
    (∃ n : Nat, (∃ s : State, (streamOf s n = none ∨ running s = false ∨ (∃ x, streamOf s n = some x ∧ nextBurst s x = none)))) ∧
    (∃ n : Nat, (∃ t : Nat, (∃ b : Burst, (∃ s : State, (n < 256) ∧ ((getTx s n).heldAt = some t) ∧ (t + 16000 < s.now) ∧ ((getTx s n).out.find? (fun y => !y.uni) = some b) ∧ (8 ≤ ((getTx s n).out.filter (fun y => !y.uni)).length) ∧ (b.seats < 2 ^ 64))))) ∧
    (∃ n : Nat, (∃ s : State, ((getTx s n).heldAt = none ∨ (∃ t, (getTx s n).heldAt = some t ∧ s.now ≤ t + 16000)))) ∧
    (∃ b : Nat, (∃ seat : Nat, (∃ when' : Nat, (∃ c : Nat, (∃ late : Bool, (∃ s : State, (s.peer.rel = [(b, seat, when', late)]) ∧ ((if late then when' ≤ s.now else when' ≤ s.time.dev)) ∧ (barCtx s b seat = some c) ∧ ((getC s c).st ≠ .stopped) ∧ ((((getC s c).barArr.filter (fun x => decide (x.1 = b))).map (·.2)).Nodup) ∧ (s.peer.coll.length < 64))))))) ∧
    (∃ b : Nat, (∃ s : State, ((∀ r ∈ s.peer.rel, r.1 ≠ b)))) :=
  ⟨⟨0, 0, tStream, { sG 0 tRing { pI with tx := [(0, { StreamTx.init with fresh := false })] } cCred with mem := [(spBase 0 + 64, 5#8)] }, by decide +kernel⟩,
   ⟨0, 0, .ring 0, tStream, sG 0 (tRing ++ [(Reg.PEER_L_STATUS 0, 0x60000000#32)]) { pI with tx := [(0, { StreamTx.init with fresh := false })] } cCred, by decide +kernel⟩,
   ⟨0, .ring 0, tStream, { sG 0 tRing { pI with links := [(0, { PeerLink.init with waiting := [fr .ack 1 0] })], tx := [(0, { StreamTx.init with fresh := false })] } cCred with mem := [(spBase 0 + 64, 5#8)] }, by decide +kernel⟩,
   ⟨0, State.reset, by decide +kernel⟩,
   ⟨0, 0, ⟨0, 2, false⟩, { sG 0 [] { pI with tx := [(0, tx8)] } tCtx with now := 16001 }, by decide +kernel⟩,
   ⟨0, State.reset, by decide +kernel⟩,
   ⟨230, 0, 0, 0, true, { sG 0 [] { pI with rel := [(230, 0, 0, true)], spans := [(0, ⟨some 0, 0, 0⟩)] } { tCtx with barArr := [(230, 0)] } with now := 1600, tiles := [(0, { tTile with barWait := some 230, seq := .waiting, waitOp := 0xCA })] }, by decide +kernel⟩,
   ⟨230, State.reset, by decide +kernel⟩⟩

end Slice0Tests
end

section
/-!
PROOFS. The Developer's registers: what each write reads back and keeps (05 R160, R162), and the element-wise forms (05 R163).
-/
namespace Sys2Proof

open Sys2Proof.Machine

/-! ### Registers of the Developer -/

theorem vGet_vSet (d : Developer) (n i : Nat) (x : Word) {m j : Nat} (hi : i < 256) (hj : j < 256) :
    vGet (vSet d n i x) m j = if m = n ∧ j = i then x else vGet d m j := by
  simp only [vGet, vSet, mapGet_mapSet, show 256 * m + j = 256 * n + i ↔ m = n ∧ j = i by omega]

theorem aGet_aSet (d : Developer) (n i : Nat) {x : Int} {m j : Nat} (hi : i < 256) (hj : j < 256) (hlo : -2 ^ 47 ≤ x) (hhi : x < 2 ^ 47) :
    aGet (aSet d n i x) m j = if m = n ∧ j = i then x else aGet d m j := by
  simp only [aGet, aSet, mapGet_mapSet, show 256 * m + j = 256 * n + i ↔ m = n ∧ j = i by omega]
  split
  · exact BitVec.toInt_ofInt_eq_self (by decide) hlo hhi
  · rfl

theorem aGet_aSet_other (d : Developer) (n i : Nat) (x : Int) {m j : Nat} (hi : i < 256) (hj : j < 256) (h : ¬ (m = n ∧ j = i)) :
    aGet (aSet d n i x) m j = aGet d m j := by
  simp only [aGet, aSet, mapGet_mapSet, if_neg (show ¬ 256 * m + j = 256 * n + i by omega)]

/-- An accumulator element is a 48-bit integer (05 R160). -/
theorem aGet_bounds (d : Developer) (n i : Nat) : -2 ^ 47 ≤ aGet d n i ∧ aGet d n i < 2 ^ 47 :=
  ⟨BitVec.le_toInt _, BitVec.toInt_lt⟩

theorem sGet_sSet (d : Developer) (n : Nat) (x : Word) (m : Nat) : sGet (sSet d n x) m = if m = n then x else sGet d m :=
  mapGet_mapSet ..

/-! ### What a write of one register keeps -/

theorem Kept.refl (d : Developer) (vs ss ms accs : List Nat) : Kept d d vs ss ms accs :=
  ⟨fun _ _ _ _ => rfl, fun _ _ => rfl, fun _ _ => rfl, fun _ _ _ _ => rfl, rfl, rfl, rfl⟩

theorem Kept.trans {a b c : Developer} {vs ss ms accs : List Nat} (h : Kept a b vs ss ms accs) (k : Kept b c vs ss ms accs) :
    Kept a c vs ss ms accs :=
  ⟨fun n i hn hi => (k.v n i hn hi).trans (h.v n i hn hi), fun n hn => (k.sc n hn).trans (h.sc n hn),
   fun n hn => (k.m n hn).trans (h.m n hn), fun n i hn hi => (k.acc n i hn hi).trans (h.acc n i hn hi),
   k.vlen.trans h.vlen, k.cbb.trans h.cbb, k.cbl.trans h.cbl⟩

theorem kept_vSet (d : Developer) {n i : Nat} (x : Word) {vs : List Nat} (ss ms accs : List Nat) (hn : n ∈ vs) (hi : i < 256) :
    Kept d (vSet d n i x) vs ss ms accs where
  v m j hm hj := by rw [vGet_vSet d n i x hi hj, if_neg]; rintro ⟨rfl, -⟩; exact hm hn
  sc _ _ := rfl
  m _ _ := rfl
  acc _ _ _ _ := rfl
  vlen := rfl
  cbb := rfl
  cbl := rfl

theorem kept_aSet (d : Developer) {n i : Nat} (x : Int) (vs ss ms : List Nat) {accs : List Nat} (hn : n ∈ accs) (hi : i < 256) :
    Kept d (aSet d n i x) vs ss ms accs where
  v _ _ _ _ := rfl
  sc _ _ := rfl
  m _ _ := rfl
  acc _ _ hm hj := aGet_aSet_other d n i x hi hj (by rintro ⟨rfl, -⟩; exact hm hn)
  vlen := rfl
  cbb := rfl
  cbl := rfl

theorem kept_sSet (d : Developer) {n : Nat} (x : Word) (vs : List Nat) {ss : List Nat} (ms accs : List Nat) (hn : n ∈ ss) :
    Kept d (sSet d n x) vs ss ms accs where
  v _ _ _ _ := rfl
  sc m hm := by rw [sGet_sSet, if_neg]; rintro rfl; exact hm hn
  m _ _ := rfl
  acc _ _ _ _ := rfl
  vlen := rfl
  cbb := rfl
  cbl := rfl

/-- A larger list of registers allows more to change. -/
theorem Kept.mono {a b : Developer} {vs ss ms accs vs' ss' ms' accs' : List Nat} (h : Kept a b vs ss ms accs) (hv : vs ⊆ vs') (hs : ss ⊆ ss')
    (hm : ms ⊆ ms') (ha : accs ⊆ accs') : Kept a b vs' ss' ms' accs' :=
  ⟨fun n i hn => h.v n i (fun e => hn (hv e)), fun n hn => h.sc n (fun e => hn (hs e)), fun n hn => h.m n (fun e => hn (hm e)),
   fun n i hn => h.acc n i (fun e => hn (ha e)), h.vlen, h.cbb, h.cbl⟩

/-! ### Element by element (05 R163) -/

/-- A fold over positions, by what holds after each of them. -/
theorem foldl_range_induct {β : Type} {P : Nat → β → Prop} (step : β → Nat → β) (n : Nat)
    (hstep : ∀ b j, j < n → P j b → P (j + 1) (step b j)) {b : β} (h0 : P 0 b) : P n ((List.range n).foldl step b) := by
  induction n with
  | zero => exact h0
  | succ n ih =>
    rw [List.range_succ, List.foldl_append, List.foldl_cons, List.foldl_nil]
    exact hstep _ _ (Nat.lt_succ_self n) (ih (fun b j hj => hstep b j (by omega)))

/-- What every position's step keeps, the fold over positions keeps. -/
theorem foldl_range_keep {β : Type} {P : β → Prop} (step : β → Nat → β) (n : Nat) (hstep : ∀ b j, j < n → P b → P (step b j)) {b : β}
    (h0 : P b) : P ((List.range n).foldl step b) :=
  foldl_range_induct (P := fun _ => P) step n hstep h0

/-- A fold over positions, read through `g`: only the step of position `i` changes what `g` reads. -/
theorem foldl_range_read {α β : Type} (g : β → α) (h : α → α) (step : β → Nat → β) (i n : Nat)
    (hother : ∀ b j, j < n → j ≠ i → g (step b j) = g b) (hself : ∀ b, g (step b i) = h (g b)) (b : β) :
    g ((List.range n).foldl step b) = if i < n then h (g b) else g b := by
  refine foldl_range_induct (P := fun k r => g r = if i < k then h (g b) else g b) step n (fun r j hj hr => ?_) rfl
  by_cases hji : j = i
  · subst hji
    rw [hself, hr, if_neg (Nat.lt_irrefl j), if_pos (Nat.lt_succ_self j)]
  · rw [hother r j hj hji, hr]
    simp only [show i < j + 1 ↔ i < j by omega]

section
variable (d : Developer) (vs3 : Nat) (f : Nat → Developer → Developer × Nat) (z : Nat → Developer → Developer)

theorem eachElem_keep {P : Developer → Prop} (h0 : P d) (hf : ∀ i r, i < d.vlen → P r → P (f i r).1)
    (hz : ∀ i r, i < d.vlen → P r → P (z i r)) : P (eachElem d vs3 f z).1 := by
  refine foldl_range_keep (P := fun r : Developer × Nat => P r.1) _ _ (fun r i hi hr => ?_) h0
  dsimp only
  split
  · exact hf i r.1 hi hr
  · split
    · exact hz i r.1 hi hr
    · exact hr

/-- What only element i's writes change reads as R163 says of that element. -/
theorem eachElem_read {α : Type} (get : Developer → α) (i : Nat) (new zero : α)
    (hother : ∀ j r, j < d.vlen → j ≠ i → get (f j r).1 = get r ∧ get (z j r) = get r) (hnew : ∀ r, get (f i r).1 = new)
    (hzero : ∀ r, get (z i r) = zero) : get (eachElem d vs3 f z).1 = elemAfter d vs3 i new zero (get d) := by
  refine foldl_range_read (fun r : Developer × Nat => get r.1)
    (fun old => if active d vs3 i then new else if zeroing vs3 then zero else old) _ i d.vlen (fun r j hj hji => ?_) (fun r => ?_) (d, 0)
  · obtain ⟨hf, hz⟩ := hother j r.1 hj hji
    dsimp only
    split
    · exact hf
    · split
      · exact hz
      · rfl
  · dsimp only
    split
    · exact hnew r.1
    · split
      · exact hzero r.1
      · rfl

theorem eachElem_flags (g : Nat → Nat) (hf : ∀ i r, (f i r).2 = g i) : (eachElem d vs3 f z).2 = flagsOf d vs3 g := by
  refine (List.foldl_hom Prod.snd (fun r i => ?_)).symm
  by_cases ha : active d vs3 i = true
  · simp [ha, hf]
  · by_cases hz : zeroing vs3 = true <;> simp [ha, hz]

end

/-! ### The Developer's element-wise forms

Each writes elements 0 to VLEN − 1 of its destination and keeps every other register. -/

section
variable (d : Developer) (vd vs3 : Nat) (hv : d.vlen ≤ 256)

section V
variable (f : Nat → Word × Nat)

theorem elemV_flags : (elemV d vd vs3 f).2 = flagsOf d vs3 (fun i => (f i).2) := eachElem_flags _ _ _ _ _ (fun _ _ => rfl)

theorem elemV_queue : (elemV d vd vs3 f).1.queue = d.queue :=
  eachElem_keep (P := fun r => r.queue = d.queue) _ _ _ _ rfl (fun _ _ _ h => h) (fun _ _ _ h => h)

include hv

theorem elemV_read {i : Nat} (hi : i < 256) : vGet (elemV d vd vs3 f).1 vd i = elemAfter d vs3 i (f i).1 0#32 (vGet d vd i) := by
  refine eachElem_read _ _ _ _ (fun r => vGet r vd i) i _ _ (fun j r hj hji => ?_) (fun r => ?_) (fun r => ?_)
  · exact ⟨by rw [vGet_vSet _ _ _ _ (by omega) hi, if_neg (by omega)], by rw [vGet_vSet _ _ _ _ (by omega) hi, if_neg (by omega)]⟩
  · rw [vGet_vSet _ _ _ _ hi hi, if_pos ⟨rfl, rfl⟩]
  · rw [vGet_vSet _ _ _ _ hi hi, if_pos ⟨rfl, rfl⟩]

theorem elemV_kept : Kept d (elemV d vd vs3 f).1 [vd] [] [] [] :=
  eachElem_keep (P := fun r => Kept d r [vd] [] [] []) _ _ _ _ (.refl ..)
    (fun _ r _ h => h.trans (kept_vSet r _ _ _ _ (by simp) (by omega))) (fun _ r _ h => h.trans (kept_vSet r _ _ _ _ (by simp) (by omega)))

end V

section Pair
variable (f : Nat → Word × Word × Nat)

/-- The write of one element of a CF32 pair, read back in either half. -/
theorem vGet_vSet_pair (r : Developer) (n j : Nat) (x y : Word) {i : Nat} (hj : j < 256) (hi : i < 256) :
    vGet (vSet (vSet r n j x) (n + 1) j y) n i = (if i = j then x else vGet r n i) ∧
    vGet (vSet (vSet r n j x) (n + 1) j y) (n + 1) i = if i = j then y else vGet r (n + 1) i := by
  simp [vGet_vSet, hi, hj]

theorem elemPair_flags : (elemPair d vd vs3 f).2 = flagsOf d vs3 (fun i => (f i).2.2) := eachElem_flags _ _ _ _ _ (fun _ _ => rfl)

theorem elemPair_queue : (elemPair d vd vs3 f).1.queue = d.queue :=
  eachElem_keep (P := fun r => r.queue = d.queue) _ _ _ _ rfl (fun _ _ _ h => h) (fun _ _ _ h => h)

include hv

theorem elemPair_re {i : Nat} (hi : i < 256) : vGet (elemPair d vd vs3 f).1 vd i = elemAfter d vs3 i (f i).1 0#32 (vGet d vd i) := by
  refine eachElem_read _ _ _ _ (fun r => vGet r vd i) i _ _ (fun j r hj hji => ?_) (fun r => ?_) (fun r => ?_)
  · simp [(vGet_vSet_pair r vd j _ _ (show j < 256 by omega) hi).1, Ne.symm hji]
  · simp [(vGet_vSet_pair r vd i _ _ hi hi).1]
  · simp [(vGet_vSet_pair r vd i _ _ hi hi).1]

theorem elemPair_im {i : Nat} (hi : i < 256) :
    vGet (elemPair d vd vs3 f).1 (vd + 1) i = elemAfter d vs3 i (f i).2.1 0#32 (vGet d (vd + 1) i) := by
  refine eachElem_read _ _ _ _ (fun r => vGet r (vd + 1) i) i _ _ (fun j r hj hji => ?_) (fun r => ?_) (fun r => ?_)
  · simp [(vGet_vSet_pair r vd j _ _ (show j < 256 by omega) hi).2, Ne.symm hji]
  · simp [(vGet_vSet_pair r vd i _ _ hi hi).2]
  · simp [(vGet_vSet_pair r vd i _ _ hi hi).2]

theorem elemPair_kept : Kept d (elemPair d vd vs3 f).1 [vd, vd + 1] [] [] [] := by
  have write : ∀ j r x y, j < d.vlen → Kept d r [vd, vd + 1] [] [] [] → Kept d (vSet (vSet r vd j x) (vd + 1) j y) [vd, vd + 1] [] [] [] :=
    fun j r x y hj h => (h.trans (kept_vSet _ _ _ _ _ (by simp) (by omega))).trans (kept_vSet _ _ _ _ _ (by simp) (by omega))
  exact eachElem_keep (P := fun r => Kept d r [vd, vd + 1] [] [] []) _ _ _ _ (.refl ..)
    (fun j r hj h => write j r _ _ hj h) (fun j r hj h => write j r _ _ hj h)

end Pair

section Acc
variable (f : Nat → Int × Int × Nat)

/-- The write of one element of an accumulator pair, read back in either half: its values are 48-bit integers. -/
theorem aGet_aSet_pair (r : Developer) (n j : Nat) {x y : Int} {i : Nat} (hj : j < 256) (hi : i < 256)
    (hx : -2 ^ 47 ≤ x ∧ x < 2 ^ 47) (hy : -2 ^ 47 ≤ y ∧ y < 2 ^ 47) :
    aGet (aSet (aSet r n j x) (n + 1) j y) n i = (if i = j then x else aGet r n i) ∧
    aGet (aSet (aSet r n j x) (n + 1) j y) (n + 1) i = if i = j then y else aGet r (n + 1) i := by
  obtain ⟨hx, hx'⟩ := hx
  obtain ⟨hy, hy'⟩ := hy
  rw [aGet_aSet _ _ _ hj hi hy hy', aGet_aSet _ _ _ hj hi hx hx', aGet_aSet _ _ _ hj hi hy hy', aGet_aSet _ _ _ hj hi hx hx']
  simp

theorem elemAcc_flags : (elemAcc d vd vs3 f).2 = flagsOf d vs3 (fun i => (f i).2.2) := eachElem_flags _ _ _ _ _ (fun _ _ => rfl)

theorem elemAcc_queue : (elemAcc d vd vs3 f).1.queue = d.queue :=
  eachElem_keep (P := fun r => r.queue = d.queue) _ _ _ _ rfl (fun _ _ _ h => h) (fun _ _ _ h => h)

include hv

theorem elemAcc_kept : Kept d (elemAcc d vd vs3 f).1 [] [] [] [vd, vd + 1] := by
  have write : ∀ j r x y, j < d.vlen → Kept d r [] [] [] [vd, vd + 1] → Kept d (aSet (aSet r vd j x) (vd + 1) j y) [] [] [] [vd, vd + 1] :=
    fun j r x y hj h => (h.trans (kept_aSet _ _ _ _ _ (by simp) (by omega))).trans (kept_aSet _ _ _ _ _ (by simp) (by omega))
  exact eachElem_keep (P := fun r => Kept d r [] [] [] [vd, vd + 1]) _ _ _ _ (.refl ..)
    (fun j r hj h => write j r _ _ hj h) (fun j r hj h => write j r _ _ hj h)

variable (hf : ∀ i, (-2 ^ 47 ≤ (f i).1 ∧ (f i).1 < 2 ^ 47) ∧ -2 ^ 47 ≤ (f i).2.1 ∧ (f i).2.1 < 2 ^ 47)
include hf

theorem elemAcc_re {i : Nat} (hi : i < 256) : aGet (elemAcc d vd vs3 f).1 vd i = elemAfter d vs3 i (f i).1 0 (aGet d vd i) := by
  refine eachElem_read _ _ _ _ (fun r => aGet r vd i) i _ _ (fun j r hj hji => ?_) (fun r => ?_) (fun r => ?_)
  · simp [(aGet_aSet_pair r vd j (show j < 256 by omega) hi (hf j).1 (hf j).2).1,
      (aGet_aSet_pair r vd j (x := 0) (y := 0) (show j < 256 by omega) hi (by decide) (by decide)).1, Ne.symm hji]
  · simp [(aGet_aSet_pair r vd i hi hi (hf i).1 (hf i).2).1]
  · simp [(aGet_aSet_pair r vd i (x := 0) (y := 0) hi hi (by decide) (by decide)).1]

theorem elemAcc_im {i : Nat} (hi : i < 256) :
    aGet (elemAcc d vd vs3 f).1 (vd + 1) i = elemAfter d vs3 i (f i).2.1 0 (aGet d (vd + 1) i) := by
  refine eachElem_read _ _ _ _ (fun r => aGet r (vd + 1) i) i _ _ (fun j r hj hji => ?_) (fun r => ?_) (fun r => ?_)
  · simp [(aGet_aSet_pair r vd j (show j < 256 by omega) hi (hf j).1 (hf j).2).2,
      (aGet_aSet_pair r vd j (x := 0) (y := 0) (show j < 256 by omega) hi (by decide) (by decide)).2, Ne.symm hji]
  · simp [(aGet_aSet_pair r vd i hi hi (hf i).1 (hf i).2).2]
  · simp [(aGet_aSet_pair r vd i (x := 0) (y := 0) hi hi (by decide) (by decide)).2]

end Acc
end

end Sys2Proof
end

section
/-!
PROOFS. The issue, dispatch and end of a Developer instruction on a ready tile (05 R161, R165, R168; 07 R241): the command is the execution
of its instruction on the Developer as it was, and nothing outside the Developer changes but the counters and the sticky flags.
-/
namespace Sys2Proof

open Sys2Proof.Machine

/-! ### What a Developer instruction leaves alone outside the Developer -/

/-- What the issue, the dispatch and the end of a Developer instruction of tile t leave alone: every byte, every register but the two
counters and the sticky flags, the other tiles, and the other units of its own. -/
structure DevFrame (s u : State) (t : Nat) : Prop where
  others : ∀ x, x ≠ t → getT u x = getT s x
  run : (getT u t).run = (getT s t).run
  imem : (getT u t).imem = (getT s t).imem
  power : (getT u t).power = (getT s t).power
  enl : (getT u t).enl = (getT s t).enl
  fix : (getT u t).fix = (getT s t).fix
  dma : (getT u t).dma = (getT s t).dma
  p : (getT u t).p = (getT s t).p
  advQ : (getT u t).advQ = (getT s t).advQ
  regs : regsBut [Reg.TILE_SEQ_ISSUE t, Reg.TILE_DEV_INSTR t, Reg.TILE_DEV_FLAGS t] s u
  mem : u.mem = s.mem
  ctxs : u.ctxs = s.ctxs
  plan : u.plan = s.plan
  carriers : u.carriers = s.carriers
  peer : u.peer = s.peer
  otp : u.otp = s.otp

theorem DevFrame.trans {s u v : State} {t : Nat} (h : DevFrame s u t) (k : DevFrame u v t) : DevFrame s v t :=
  ⟨fun x hx => (k.others x hx).trans (h.others x hx), k.run.trans h.run, k.imem.trans h.imem, k.power.trans h.power, k.enl.trans h.enl,
   k.fix.trans h.fix, k.dma.trans h.dma, k.p.trans h.p, k.advQ.trans h.advQ, fun a ha => (k.regs a ha).trans (h.regs a ha),
   k.mem.trans h.mem, k.ctxs.trans h.ctxs, k.plan.trans h.plan, k.carriers.trans h.carriers, k.peer.trans h.peer, k.otp.trans h.otp⟩

theorem DevFrame.refl (s : State) (t : Nat) : DevFrame s s t :=
  ⟨fun _ _ => rfl, rfl, rfl, rfl, rfl, rfl, rfl, rfl, rfl, fun _ _ => rfl, rfl, rfl, rfl, rfl, rfl, rfl⟩

theorem DevFrame.devPass {s u : State} {t : TileId} (h : DevFrame s u t.val) (hfix : (getT s t.val).fix = none)
    (hpc : (getT u t.val).pc = (getT s t.val).pc + 1) (hq : (getT u t.val).dev.queue = []) : DevPass s u t :=
  ⟨hpc, hq, h.enl, h.fix.trans hfix, h.dma, h.p, h.others, h.run, h.imem, h.power, h.regs, h.ctxs, h.plan, h.carriers, h.peer, h.otp⟩

/-- A change of tile t that leaves its other units alone. -/
theorem devFrame_modT (s : State) (t : Nat) (f : Tile → Tile) (run : (f (getT s t)).run = (getT s t).run)
    (imem : (f (getT s t)).imem = (getT s t).imem) (power : (f (getT s t)).power = (getT s t).power)
    (enl : (f (getT s t)).enl = (getT s t).enl) (fix : (f (getT s t)).fix = (getT s t).fix) (dma : (f (getT s t)).dma = (getT s t).dma)
    (p : (f (getT s t)).p = (getT s t).p) (advQ : (f (getT s t)).advQ = (getT s t).advQ) : DevFrame s (modT s t f) t := by
  have self : getT (modT s t f) t = f (getT s t) := by rw [getT_modT, if_pos rfl]
  refine ⟨fun x hx => by rw [getT_modT, if_neg hx], ?_, ?_, ?_, ?_, ?_, ?_, ?_, ?_, fun _ _ => rfl, rfl, rfl, rfl, rfl, rfl, rfl⟩ <;>
    rw [self] <;> assumption

/-- A write of one of the tile's two instruction counters or of its sticky flags. -/
theorem devFrame_setR (s : State) {t a : Nat} (v : Word) (ha : a ∈ [Reg.TILE_SEQ_ISSUE t, Reg.TILE_DEV_INSTR t, Reg.TILE_DEV_FLAGS t]) :
    DevFrame s (setR s a v) t :=
  ⟨fun _ _ => rfl, rfl, rfl, rfl, rfl, rfl, rfl, rfl, rfl,
   fun b hb => getR_setR_other s v (by rintro rfl; exact hb ha), rfl, rfl, rfl, rfl, rfl, rfl⟩

theorem devFrame_setD (s : State) (t : Nat) (d : Developer) : DevFrame s (setD s t d) t :=
  devFrame_modT s t (fun x => { x with dev := d }) rfl rfl rfl rfl rfl rfl rfl rfl

theorem devFrame_raise (s : State) (t f : Nat) : DevFrame s (raise s t f) t := devFrame_setR s _ (by simp)

theorem devFrame_countIssue (s : State) (t n : Nat) : DevFrame s (incR s (Reg.TILE_SEQ_ISSUE t) n) t := devFrame_setR s _ (by simp)

theorem devFrame_countInstr (s : State) (t n : Nat) : DevFrame s (incR s (Reg.TILE_DEV_INSTR t) n) t := devFrame_setR s _ (by simp)

theorem devFrame_sbTidy (s : State) (t : Nat) : DevFrame s (sbTidy s t) t := devFrame_modT _ _ _ rfl rfl rfl rfl rfl rfl rfl rfl

/-! ### The scoreboard's release and the watchdog's window: what else they keep -/

@[simp] theorem getT_incR (s : State) (a n t : Nat) : getT (incR s a n) t = getT s t := rfl

theorem getT_sbTidy (s : State) (t : Nat) : getT (sbTidy s t) t = { getT s t with sb := (getT s t).sb.filter (sbLive (getT s t)) } := by
  rw [sbTidy, getT_modT, if_pos rfl]

@[simp] theorem getD_sbTidy (s : State) (t : Nat) : getD (sbTidy s t) t = getD s t := by rw [getD, getT_sbTidy]; rfl
@[simp] theorem getR_sbTidy (s : State) (t a : Nat) : getR (sbTidy s t) a = getR s a := rfl
@[simp] theorem sbTidy_pc (s : State) (t : Nat) : (getT (sbTidy s t) t).pc = (getT s t).pc := by rw [getT_sbTidy]
@[simp] theorem sbTidy_dev (s : State) (t : Nat) : (getT (sbTidy s t) t).dev = (getT s t).dev := by rw [getT_sbTidy]

/-- The window is all of a tile that the watchdog's look changes, and no register. -/
theorem watchWindow_eq (s : State) (t : Nat) : watchWindow s t = s ∨ ∃ w, watchWindow s t = setT s t { getT s t with wdSince := w } := by
  unfold watchWindow
  split
  · dsimp only
    split
    · split
      · exact .inr ⟨_, rfl⟩
      · exact .inl rfl
    · split
      · exact .inr ⟨_, rfl⟩
      · exact .inl rfl
  · exact .inl rfl

theorem devFrame_watchWindow (s : State) (t : Nat) : DevFrame s (watchWindow s t) t := by
  obtain h | ⟨w, h⟩ := watchWindow_eq s t <;> rw [h]
  · exact DevFrame.refl s t
  · exact devFrame_modT s t (fun x => { x with wdSince := w }) rfl rfl rfl rfl rfl rfl rfl rfl

@[simp] theorem getR_watchWindow (s : State) (t a : Nat) : getR (watchWindow s t) a = getR s a := by
  obtain h | ⟨w, h⟩ := watchWindow_eq s t <;> rw [h]
  rfl

@[simp] theorem watchWindow_pc (s : State) (t : Nat) : (getT (watchWindow s t) t).pc = (getT s t).pc := by
  obtain h | ⟨w, h⟩ := watchWindow_eq s t <;> rw [h]
  rw [getT_setT_self]

@[simp] theorem watchWindow_dev (s : State) (t : Nat) : (getT (watchWindow s t) t).dev = (getT s t).dev := by
  obtain h | ⟨w, h⟩ := watchWindow_eq s t <;> rw [h]
  rw [getT_setT_self]

@[simp] theorem watchWindow_ctxs (s : State) (t : Nat) : (watchWindow s t).ctxs = s.ctxs := (devFrame_watchWindow s t).ctxs

/-! ### The instruction word of a command -/

/-- The command's opcode replaces bits 63 to 56 alone, so the operand fields are the word's. -/
@[simp] theorem devWord_withOp (op : Nat) (w : Word64) : DevWord.of (withOp op w) = DevWord.of w := by
  simp only [DevWord.of, withOp]
  rw [fieldOf_setField_other, fieldOf_setField_other, fieldOf_setField_other, fieldOf_setField_other, fieldOf_setField_other] <;> omega

theorem opcode_withOp {op : Nat} (w : Word64) (h : op < 256) : fieldOf (withOp op w) 63 56 = op := by
  rw [withOp, fieldOf_setField _ _ (by decide)]
  exact Nat.mod_eq_of_lt h

/-- Only VLD, VST, LDC and STC touch scratchpad (06 R208). -/
theorem devEntry_none {d : Developer} {pos : Nat} {w : Word64} (h : fieldOf w 63 56 ∉ [0x40, 0x41, 0x87, 0x88]) : devEntry d pos w = none := by
  simp only [List.mem_cons, List.not_mem_nil, or_false, not_or] at h
  obtain ⟨hvld, hvst, hldc, hstc⟩ := h
  unfold devEntry devRange
  dsimp only
  split
  · next op => exact absurd op hvld
  · next op => exact absurd op hvst
  · next op => exact absurd op hldc
  · next op => exact absurd op hstc
  · rfl

/-! ### The issue of a Developer instruction (07 R241, 05 R161) -/

theorem fetchWords_clean {s : State} (t pc len : Nat) (hs : s.ecc.imemSingle = []) (hb : s.ecc.imemBad = []) :
    fetchWords s t pc len = (s, false) := by
  simp [fetchWords, hs, hb]

/-- What an instruction's issue comes to on a ready tile: the body runs on the state itself, and the program counter passes. -/
theorem seqIssue_next {s u : State} {t : TileId} {c op len : Nat} {body : State → Nat → SeqRes} (h : TileReady s t c len)
    (hb : body s c = .next u) :
    seqIssue s t.val op len body = (modT (incR u (Reg.TILE_SEQ_ISSUE t.val) 1) t.val (fun x => { x with
      pc := (getT s t.val).pc + len, seq := if x.seq = .waiting ∨ x.seq = .ending then .issuing else x.seq, waitOp := 0 }), none) := by
  simp [seqIssue, h.issues, fetchWords_clean _ _ _ h.imemSingle h.imemBad, h.fetch, h.opcode, hb]

/-- The state after a Developer instruction's issue on a tile whose queue was empty. -/
def devIssued (s : State) (t : Nat) (w : Word64) : State :=
  modT (incR (modT (nextPos s t).2 t (fun x => { x with dev := { x.dev with queue := x.dev.queue ++ [((getT s t).sbSeq, w)] } }))
    (Reg.TILE_SEQ_ISSUE t) 1) t (fun x => { x with
      pc := (getT s t).pc + 1, seq := if x.seq = .waiting ∨ x.seq = .ending then .issuing else x.seq, waitOp := 0 })

theorem seqIssue_issueDev {s : State} {t : TileId} {c : Nat} (op : Nat) (w : Word64) (h : TileReady s t c 1) :
    seqIssue s t.val op 1 (fun s _ => issueDev s t.val w) = (devIssued s t.val w, none) :=
  seqIssue_next h (by simp [issueDev, h.devQ]; rfl)

theorem getT_devIssued (s : State) (t : Nat) (w : Word64) : getT (devIssued s t w) t = { getT s t with
    pc := (getT s t).pc + 1, seq := if (getT s t).seq = .waiting ∨ (getT s t).seq = .ending then .issuing else (getT s t).seq, waitOp := 0,
    sbSeq := (getT s t).sbSeq + 1, dev := { (getT s t).dev with queue := (getT s t).dev.queue ++ [((getT s t).sbSeq, w)] } } := by
  simp [devIssued, nextPos, incR, getT_modT]

theorem devFrame_devIssued (s : State) (t : Nat) (w : Word64) : DevFrame s (devIssued s t w) t :=
  (((devFrame_modT s t _ rfl rfl rfl rfl rfl rfl rfl rfl).trans (devFrame_modT _ t _ rfl rfl rfl rfl rfl rfl rfl rfl)).trans
    (devFrame_countIssue _ t 1)).trans (devFrame_modT _ t _ rfl rfl rfl rfl rfl rfl rfl rfl)

/-- Issue counts one instruction and raises no flag. -/
theorem flags_devIssued (s : State) (t : Nat) (w : Word64) :
    getR (devIssued s t w) (Reg.TILE_DEV_FLAGS t) = getR s (Reg.TILE_DEV_FLAGS t) := by
  rw [devIssued, getR_modT, getR_incR, if_neg (by simp only [Reg.TILE_DEV_FLAGS, Reg.TILE_SEQ_ISSUE]; omega)]
  rfl

theorem TileReady.run {s : State} {t : TileId} {c len : Nat} (h : TileReady s t c len) :
    ∃ k : CtxId, (getT s t.val).run = some k ∧ k.val = c ∧ (getT s t.val).seq ≠ .stopped := by
  have issues := h.issues
  unfold issuing at issues
  dsimp only at issues
  split at issues
  · next k hk =>
    split at issues
    · next hseq => exact ⟨k, hk, by simpa using issues, by rcases hseq.1 with e | e | e <;> simp [e]⟩
    · simp at issues
  · simp at issues

/-! ### Letting the Developer's queue run -/

/-- Nothing waits in the units of a tile but its Developer. -/
structure OnlyDev (x : Tile) : Prop where
  enlQ : x.enl.queue = []
  pass : x.enl.pass = none
  fix : x.fix = none
  advQ : x.advQ = []

theorem OnlyDev.of_frame {s u : State} {t : Nat} (h : OnlyDev (getT s t)) (k : DevFrame s u t) : OnlyDev (getT u t) :=
  ⟨by rw [k.enl, h.enlQ], by rw [k.enl, h.pass], by rw [k.fix, h.fix], by rw [k.advQ, h.advQ]⟩

theorem TileReady.onlyDev {s : State} {t : TileId} {c len : Nat} (h : TileReady s t c len) : OnlyDev (getT s t.val) :=
  ⟨h.enlQ, h.pass, h.fix, h.adv⟩

theorem enlPump_quiet {s : State} {t : Nat} (c n : Nat) (h : OnlyDev (getT s t)) : enlPump n s t c = (s, none) := by
  cases n with
  | zero => rfl
  | succ n => simp [enlPump, passPump, h.pass, h.enlQ]

theorem fixPump_quiet {s : State} {t : Nat} (c : Nat) (h : OnlyDev (getT s t)) : fixPump s t c = (s, none) := by
  simp [fixPump, h.fix]

theorem advPump_quiet {s : State} {t : Nat} (c n : Nat) (h : OnlyDev (getT s t)) : advPump n s t c = (s, none) := by
  cases n with
  | zero => rfl
  | succ n => simp [advPump, h.advQ]

theorem devPump_nil {s : State} {t : Nat} (c n : Nat) (h : (getT s t).dev.queue = []) : devPump n s t c = (s, none) := by
  cases n with
  | zero => rfl
  | succ n => simp [devPump, h]

/-- The state in which the last queued instruction executes: the queue is empty behind it. -/
def devStart (s : State) (t : Nat) (w : Word64) : State :=
  sbTidy (setT s t { getT s t with dev := { (getT s t).dev with queue := [], lastOp := fieldOf w 63 56 } }) t

theorem devFrame_devStart (s : State) (t : Nat) (w : Word64) : DevFrame s (devStart s t w) t :=
  (devFrame_modT s t (fun x => { x with dev := { x.dev with queue := [], lastOp := fieldOf w 63 56 } })
    rfl rfl rfl rfl rfl rfl rfl rfl).trans (devFrame_sbTidy _ _)

theorem getD_devStart (s : State) (t : Nat) (w : Word64) :
    getD (devStart s t w) t = { getD s t with queue := [], lastOp := fieldOf w 63 56 } := by
  rw [devStart, getD_sbTidy, getD, getT_setT_self]; rfl

@[simp] theorem getR_devStart (s : State) (t : Nat) (w : Word64) (a : Nat) : getR (devStart s t w) a = getR s a := rfl

theorem devStart_pc (s : State) (t : Nat) (w : Word64) : (getT (devStart s t w) t).pc = (getT s t).pc := by
  rw [devStart, sbTidy_pc, getT_setT_self]

section
variable {s : State} {t c pos n : Nat} {w : Word64} (hq : (getT s t).dev.queue = [(pos, w)])
  (hmem : fieldOf w 63 56 ∉ [0x40, 0x41, 0x87, 0x88])
include hq hmem

/-- The only queued instruction, which no scoreboard range holds, executes. -/
theorem devPump_ok {u : State} (hx : devExec (devStart s t w) t c w = .ok u) (hu : (getT u t).dev.queue = []) :
    devPump (n + 1) s t c = (incR u (Reg.TILE_DEV_INSTR t) 1, none) := by
  simp only [devPump, hq, devEntry_none hmem, Bool.false_eq_true, if_false]
  rw [← devStart, hx]
  exact devPump_nil c n hu

theorem devPump_fault {u : State} {r : ErrRec} (hx : devExec (devStart s t w) t c w = .fault u r) :
    devPump (n + 1) s t c = (u, some r) := by
  simp only [devPump, hq, devEntry_none hmem, Bool.false_eq_true, if_false]
  rw [← devStart, hx]

end

/-- The scoreboard's release runs before the Fixer's and the Developer's turn of a round. -/
def tidied (s : State) (t : Nat) : State := sbTidy (sbTidy s t) t

theorem devFrame_tidied (s : State) (t : Nat) : DevFrame s (tidied s t) t := (devFrame_sbTidy s t).trans (devFrame_sbTidy _ t)

@[simp] theorem tidied_dev (s : State) (t : Nat) : (getT (tidied s t) t).dev = (getT s t).dev := by simp [tidied]
@[simp] theorem tidied_pc (s : State) (t : Nat) : (getT (tidied s t) t).pc = (getT s t).pc := by simp [tidied]
@[simp] theorem getR_tidied (s : State) (t a : Nat) : getR (tidied s t) a = getR s a := rfl

/-- A round over a tile with work in its Developer alone. -/
theorem settleOnce_onlyDev {s : State} {t : Nat} (c : Nat) (h : OnlyDev (getT s t)) :
    settleOnce s t c = thenStep (devPump 8 (tidied s t) t c) (fun s => advPump 32 (sbTidy s t) t c) := by
  simp only [settleOnce, enlPump_quiet c 5 h, thenStep, fixPump_quiet c (h.of_frame (devFrame_sbTidy s t))]
  rfl

section
variable {s : State} {t c pos n : Nat} {w : Word64} (h : OnlyDev (getT s t)) (hq : (getT s t).dev.queue = [(pos, w)])
  (hmem : fieldOf w 63 56 ∉ [0x40, 0x41, 0x87, 0x88])
include h hq hmem

/-- Queued work settles: the only instruction executes and is counted, and nothing is left. -/
theorem settle_ok {u : State} (hx : devExec (devStart (tidied s t) t w) t c w = .ok u) (hu : OnlyDev (getT u t))
    (huq : (getT u t).dev.queue = []) : settle (n + 2) s t c = (tidied (incR u (Reg.TILE_DEV_INSTR t) 1) t, none) := by
  have after := (devFrame_countInstr u t 1).trans (devFrame_sbTidy _ t)
  have quiet := hu.of_frame after
  have empty : (getT (sbTidy (incR u (Reg.TILE_DEV_INSTR t) 1) t) t).dev.queue = [] := by rw [sbTidy_dev]; exact huq
  have round : settleOnce s t c = (sbTidy (incR u (Reg.TILE_DEV_INSTR t) 1) t, none) := by
    rw [settleOnce_onlyDev c h, devPump_ok (by simpa using hq) hmem hx huq]
    exact advPump_quiet c 32 quiet
  have queued : hasQueued (getT s t) = true := by simp [hasQueued, hq]
  have done : hasQueued (getT (sbTidy (incR u (Reg.TILE_DEV_INSTR t) 1) t) t) = false := by
    simp only [hasQueued, empty, quiet.enlQ, quiet.pass, quiet.fix, quiet.advQ]
    rfl
  have shorter : (getT s t).dev.queue.length ≠ (getT (sbTidy (incR u (Reg.TILE_DEV_INSTR t) 1) t) t).dev.queue.length := by
    simp [hq, empty, -sbTidy_dev]
  rw [settle, if_pos queued, round]
  dsimp only
  rw [if_neg (fun e => shorter e.1), settle, done]
  rfl

theorem settle_fault {u : State} {r : ErrRec} (hx : devExec (devStart (tidied s t) t w) t c w = .fault u r) :
    settle (n + 1) s t c = (u, some r) := by
  have queued : hasQueued (getT s t) = true := by simp [hasQueued, hq]
  rw [settle, if_pos queued, settleOnce_onlyDev c h, devPump_fault (by simpa using hq) hmem hx]
  rfl

end

/-! ### A Developer command on a ready tile -/

/-- The state in which a ready tile's Developer command executes. -/
def devAt (s : State) (t op : Nat) (w : Word64) : State := devStart (tidied (devIssued s t (withOp op w)) t) t (withOp op w)

theorem devFrame_devAt (s : State) (t op : Nat) (w : Word64) : DevFrame s (devAt s t op w) t :=
  ((devFrame_devIssued s t _).trans (devFrame_tidied _ t)).trans (devFrame_devStart _ t _)

theorem flags_devAt (s : State) (t op : Nat) (w : Word64) :
    getR (devAt s t op w) (Reg.TILE_DEV_FLAGS t) = getR s (Reg.TILE_DEV_FLAGS t) := by
  rw [devAt, getR_devStart, getR_tidied, flags_devIssued]

theorem devAt_pc (s : State) (t op : Nat) (w : Word64) : (getT (devAt s t op w) t).pc = (getT s t).pc + 1 := by
  rw [devAt, devStart_pc, tidied_pc, getT_devIssued]

section
variable {s : State} {t : TileId} {c op : Nat} {w : Word64} (h : TileReady s t c 1)
include h

/-- Issue and settling as one: the command is the settling of its instruction, issued. -/
theorem devCmd_eq : devCmd op t w s = watchWindow (orFault (settle 64 (devIssued s t.val (withOp op w)) t.val c)) t.val := by
  obtain ⟨k, hrun, rfl, hseq⟩ := h.run
  have run : (getT (devIssued s t.val (withOp op w)) t.val).run = some k := (devFrame_devIssued s t.val _).run.trans hrun
  have live : ¬ (getT (devIssued s t.val (withOp op w)) t.val).seq = .stopped := by
    rw [getT_devIssued]
    dsimp only
    split <;> simp [hseq]
  rw [devCmd, tileStep, seqIssue_issueDev op _ h]
  simp only [andSettle, run, if_neg live]

theorem devIssued_queue : (getT (devIssued s t.val w) t.val).dev.queue = [((getT s t.val).sbSeq, w)] := by
  rw [getT_devIssued]
  simp [h.devQ]

theorem devIssued_onlyDev : OnlyDev (getT (devIssued s t.val w) t.val) := h.onlyDev.of_frame (devFrame_devIssued s t.val w)

variable (hop : op < 256)
include hop

/-- The instruction executes on the Developer as it was, but for the opcode noted as the last. -/
theorem getD_devAt : getD (devAt s t.val op w) t.val = { getD s t.val with lastOp := op } := by
  rw [devAt, getD_devStart, opcode_withOp w hop, getD, tidied_dev, getT_devIssued]
  simp [getD, h.devQ]

variable {f : State → Nat → Nat → DevWord → TRes} (hf : devOp op = some f) (hmem : op ∉ [0x40, 0x41, 0x87, 0x88])

omit h in
include hf in
theorem devExec_devAt : devExec (devAt s t.val op w) t.val c (withOp op w) = f (devAt s t.val op w) t.val c (DevWord.of w) := by
  simp only [devExec, opcode_withOp w hop, hf, devWord_withOp]

include hf hmem

theorem devCmd_ok {u : State} (hx : f (devAt s t.val op w) t.val c (DevWord.of w) = .ok u) (hu : OnlyDev (getT u t.val))
    (huq : (getT u t.val).dev.queue = []) : devCmd op t w s = watchWindow (tidied (incR u (Reg.TILE_DEV_INSTR t.val) 1) t.val) t.val := by
  rw [devCmd_eq h, settle_ok (devIssued_onlyDev h) (devIssued_queue h) (by rwa [opcode_withOp w hop]) ((devExec_devAt hop hf).trans hx) hu huq]
  rfl

theorem devCmd_fault {u : State} {r : ErrRec} (hx : f (devAt s t.val op w) t.val c (DevWord.of w) = .fault u r) :
    devCmd op t w s = watchWindow (contextFault u r.ctx r) t.val := by
  rw [devCmd_eq h, settle_fault (devIssued_onlyDev h) (devIssued_queue h) (by rwa [opcode_withOp w hop]) ((devExec_devAt hop hf).trans hx)]
  rfl

/-- An instruction that ends as usual: it has passed, its Developer state stands, and its flags are among the sticky ones. -/
theorem devCmd_devDone {r : Developer × Nat} (hx : f (devAt s t.val op w) t.val c (DevWord.of w) = devDone (devAt s t.val op w) t.val r)
    (hq : r.1.queue = []) : DevDone s (devCmd op t w s) t r.2 ∧ getD (devCmd op t w s) t.val = r.1 := by
  have done := (devFrame_devAt s t.val op w).trans ((devFrame_setD _ t.val r.1).trans (devFrame_raise _ t.val r.2))
  have dev : (getT (raise (setD (devAt s t.val op w) t.val r.1) t.val r.2) t.val).dev = r.1 := by
    simp [raise, setD, getT_modT]
  have pc : (getT (raise (setD (devAt s t.val op w) t.val r.1) t.val r.2) t.val).pc = (getT s t.val).pc + 1 := by
    simp [raise, setD, getT_modT, devAt_pc]
  have flags : Flagged s (raise (setD (devAt s t.val op w) t.val r.1) t.val r.2) t r.2 := by
    rw [Flagged, raise, getR_setR_self, setD, getR_modT, flags_devAt]
  have eq := devCmd_ok h hop hf hmem hx (h.onlyDev.of_frame done) (by rw [dev, hq])
  generalize raise (setD (devAt s t.val op w) t.val r.1) t.val r.2 = v at done dev pc flags eq
  have dev' : (getT (devCmd op t w s) t.val).dev = r.1 := by rw [eq]; simpa using dev
  have all := ((done.trans (devFrame_countInstr _ t.val 1)).trans (devFrame_tidied _ t.val)).trans (devFrame_watchWindow _ t.val)
  rw [← eq] at all
  refine ⟨⟨all.devPass h.fix (by rw [eq]; simpa using pc) (by rw [dev', hq]), ?_, getByte_of_mem all.mem⟩, dev'⟩
  rw [Flagged, eq, getR_watchWindow, getR_tidied, getR_incR, if_neg (by simp only [Reg.TILE_DEV_FLAGS, Reg.TILE_DEV_INSTR]; omega), flags]

end

end Sys2Proof
end

section
/-!
PROOFS. What a context fault leaves of its context (08 R292, Table 08.8), and so what an illegal Developer instruction comes to.
-/
namespace Sys2Proof

open Sys2Proof.Machine

/-! ### The contexts stand while a fault's hit work is decided and slots' indications are sent (09 R314, R315; 02 R58) -/

@[simp] theorem modUl_ctxs (s : State) (c n : Nat) (f : UlSlot → UlSlot) : (modUl s c n f).ctxs = s.ctxs := rfl
@[simp] theorem modDl_ctxs (s : State) (c n : Nat) (f : DlSlot → DlSlot) : (modDl s c n f).ctxs = s.ctxs := rfl
@[simp] theorem modPdu_ctxs (s : State) (c n k : Nat) (f : UlPdu → UlPdu) : (modPdu s c n k f).ctxs = s.ctxs := rfl
@[simp] theorem uSet_ctxs (s : State) (u off n x : Nat) : (uSet s u off n x).ctxs = s.ctxs := rfl

@[simp] theorem enqueue_ctxs (s : State) (f : TxFrame) : (enqueue s f).ctxs = s.ctxs := by
  unfold enqueue
  split
  · rfl
  · dsimp only
    split <;> rfl

@[simp] theorem sendInd_ctxs (s : State) (c msgId sfn slot : Nat) (items : List IndItem) : (sendInd s c msgId sfn slot items).ctxs = s.ctxs := by
  unfold sendInd
  split
  · rfl
  · exact forEach_field State.ctxs _ _ _ (fun x _ u => enqueue_ctxs u _)

@[simp] theorem harqRelease_ctxs (s : State) (h : Nat) : (harqRelease s h).ctxs = s.ctxs := by
  unfold harqRelease
  split
  · dsimp only
    rw [setBytes_ctxs]
    split <;> rfl
  · rfl

@[simp] theorem releasePassed_ctxs (s : State) (p : UlPdu) : (releasePassed s p).ctxs = s.ctxs := by
  unfold releasePassed
  split
  · split
    · rfl
    · exact harqRelease_ctxs s _
  · rfl

@[simp] theorem bindApply_ctxs (s : State) (c fd : Nat) (d : Preamble) : (bindApply s c fd d).ctxs = s.ctxs := by
  unfold bindApply
  split
  · rfl
  · split
    · rfl
    · dsimp only
      split <;> split <;> simp

@[simp] theorem sendRach_ctxs (s : State) (c n : Nat) (r : UlTti) : (sendRach s c n r).ctxs = s.ctxs := by
  refine (forEach_field State.ctxs _ _ _ (fun p _ u => ?_)).trans (sendInd_ctxs ..)
  split
  · exact forEach_field State.ctxs _ _ _ (fun d _ v => bindApply_ctxs v _ _ d)
  · rfl

/-- A message type that is empty changes nothing, and one whose content is complete is sent. -/
theorem sentIf_ctxs {s u v : State} {empty complete : Prop} [Decidable empty] [Decidable complete]
    (h : (if empty then some s else if complete then some v else none) = some u) (hv : v.ctxs = s.ctxs) : u.ctxs = s.ctxs := by
  split at h
  · cases h; rfl
  · split at h
    · cases h; exact hv
    · cases h

theorem sendStep_ctxs {s u : State} {c n k : Nat} {r : UlTti} (h : sendStep s c n r k = some u) : u.ctxs = s.ctxs := by
  unfold sendStep at h
  split at h
  · exact sentIf_ctxs h (sendInd_ctxs ..)
  · exact sentIf_ctxs h (sendRach_ctxs ..)
  · exact sentIf_ctxs h (sendInd_ctxs ..)
  · refine sentIf_ctxs h ((forEach_field State.ctxs _ _ _ (fun p _ v => releasePassed_ctxs v p)).trans ?_)
    split <;> split <;> simp
  · cases h
    split
    · rfl
    · exact sendInd_ctxs ..
  · cases h

@[simp] theorem slotEnds_ctxs (s : State) (c n : Nat) : (slotEnds s c n).ctxs = s.ctxs := by
  unfold slotEnds
  dsimp only
  split <;> rfl

@[simp] theorem sendReady_ctxs (s : State) (c n : Nat) : (sendReady s c n).ctxs = s.ctxs := by
  unfold sendReady
  dsimp only
  split
  · split
    · rfl
    · rw [slotEnds_ctxs]
      refine List.foldlRecOn (motive := fun a : State × Bool => a.1.ctxs = s.ctxs) _ _ rfl (fun a ha k _ => ?_)
      split
      · exact ha
      · split
        · next h => exact (sendStep_ctxs h).trans ha
        · exact ha
  · rfl

@[simp] theorem reportHit_ctxs (s : State) (h : Hit) : (reportHit s h).ctxs = s.ctxs := by
  unfold reportHit
  dsimp only
  split <;> rfl

@[simp] theorem replayHit_ctxs (s : State) (h : Hit) (x : Nat) : (replayHit s h x).ctxs = s.ctxs := by
  unfold replayHit
  dsimp only
  split <;> rfl

@[simp] theorem decideHit_ctxs (s : State) (x : Nat) (h : Hit) : (decideHit s x h).ctxs = s.ctxs := by
  unfold decideHit
  dsimp only
  split
  · simp
  · split
    · simp
    · split <;> simp

@[simp] theorem dropPredictions_ctxs (s : State) (x : Nat) : (dropPredictions s x).ctxs = s.ctxs :=
  forEach_field State.ctxs _ _ _ (fun cn _ u => by dsimp only; split <;> rfl)

@[simp] theorem decideHits_ctxs (s : State) (x : Nat) (spec : Bool) (bad : Option Nat) : (decideHits s x spec bad).ctxs = s.ctxs := by
  have drop : ∀ b : Bool, (if b then dropPredictions s x else s).ctxs = s.ctxs := fun b => by cases b <;> simp
  refine (forEach_field State.ctxs _ _ _ (fun cn _ u => sendReady_ctxs u _ _)).trans ?_
  rw [apply_ite State.ctxs]
  exact (ite_self _).trans ((forEach_field State.ctxs _ _ _ (fun h _ u => decideHit_ctxs u x h)).trans (drop spec))

/-! ### A context fault (08 R292, Table 08.8) -/

@[simp] theorem shutterDone_ctxs (s : State) (c : Nat) : (shutterDone s c).ctxs = s.ctxs := by
  unfold shutterDone
  split <;> rfl

@[simp] theorem opRequests_ctxs (s : State) : (opRequests s).ctxs = s.ctxs := rfl

theorem faulted_of_ctxs {u v : State} {c k : Nat} (h : u.ctxs = v.ctxs) (hv : Faulted v c k) : Faulted u c k := by
  rwa [Faulted, getC_of_ctxs h]

/-- A fault leaves its context held, or waiting for its scrub, with the record's cause, and its exposure is gone. -/
theorem contextFault_faulted (s : State) (c : Nat) (r : ErrRec) : Faulted (contextFault s c r) c r.cause := by
  refine faulted_of_ctxs (opRequests_ctxs _) (faulted_of_ctxs (decideHits_ctxs ..) (faulted_of_ctxs (incR_ctxs ..)
    (faulted_of_ctxs (logError_ctxs ..) (faulted_of_ctxs (shutterDone_ctxs ..) ?_))))
  rw [Faulted, getC_modC, if_pos rfl]
  dsimp only
  refine ⟨?_, rfl, rfl⟩
  split
  · exact .inl rfl
  · exact .inr rfl

/-- An instruction that is illegal faults its context with cause 1 (05 R175, 09 Table 09.2). -/
theorem devCmd_illegal {s u : State} {t : TileId} {c op : Nat} {w : Word64} {f : State → Nat → Nat → DevWord → TRes} (h : TileReady s t c 1)
    (hop : op < 256) (hf : devOp op = some f) (hmem : op ∉ [0x40, 0x41, 0x87, 0x88])
    (hx : f (devAt s t.val op w) t.val c (DevWord.of w) = illegal u t.val c) : Faulted (devCmd op t w s) c 1 := by
  rw [devCmd_fault h hop hf hmem hx]
  exact faulted_of_ctxs (watchWindow_ctxs ..) (contextFault_faulted u c _)

end Sys2Proof
end

section
/-!
PROOFS. Developer instructions from their meanings, and the complex pairs and Q15 accumulators (05 R160, R170, R189, R190).
-/
namespace Sys2Proof

open Sys2Proof.Machine

/-! ### From an instruction's meaning to its command (05 Table 05.5) -/

/-- A command of a Developer instruction that touches no scratchpad: its opcode and its meaning. -/
structure DevInstr (mk : TileId → Word64 → Instr) (op : Nat) (f : State → Nat → Nat → DevWord → TRes) : Prop where
  runs : ∀ t w s, exec (mk t w) s = .next (devCmd op t w s)
  lt : op < 256
  code : devOp op = some f
  mem : op ∉ [0x40, 0x41, 0x87, 0x88]

/-- The Developer with its last opcode noted. -/
def noteOp (d : Developer) (op : Nat) : Developer := { d with lastOp := op }

/-- No register is the last opcode, so what is kept of the one Developer is kept of the other. -/
theorem kept_of_noteOp {d r : Developer} {op : Nat} {vs ss ms accs : List Nat} (h : Kept (noteOp d op) r vs ss ms accs) :
    Kept d r vs ss ms accs := ⟨h.v, h.sc, h.m, h.acc, h.vlen, h.cbb, h.cbl⟩

section
variable {mk : TileId → Word64 → Instr} {op : Nat} {f : State → Nat → Nat → DevWord → TRes} (hi : DevInstr mk op f)
  {legal : DevWord → Prop}
include hi

/-- An instruction whose meaning is a change of the Developer alone has on a ready tile the effect that the change gives. -/
theorem runs_of_devDone {effect : State → State → TileId → DevWord → Prop} (g : Developer → DevWord → Developer × Nat)
    (hrun : ∀ s t c w, legal w → f s t c w = devDone s t (g (getD s t) w)) (hq : ∀ d w, (g d w).1.queue = d.queue)
    (heffect : ∀ s u t w, legal w → (noteOp (getD s t.val) op).vlen ≤ 256 → DevDone s u t (g (noteOp (getD s t.val) op) w).2 →
      getD u t.val = (g (noteOp (getD s t.val) op) w).1 → effect s u t w) : Runs mk legal effect := by
  intro t w c s h hl
  have start : getD (devAt s t.val op w) t.val = noteOp (getD s t.val) op := getD_devAt h hi.lt
  have queue : (g (noteOp (getD s t.val) op) (DevWord.of w)).1.queue = [] := (hq _ _).trans h.devQ
  rw [← start] at queue
  obtain ⟨done, dev⟩ := devCmd_devDone h hi.lt hi.code hi.mem (hrun _ _ c _ hl) queue
  rw [start] at done dev
  exact ⟨_, hi.runs t w s, heffect s _ t _ hl h.vlen done dev⟩

theorem faults_of_illegal (hrun : ∀ s t c w, legal w → f s t c w = illegal s t c) : Faults mk legal :=
  fun t w _ s h hl => ⟨_, hi.runs t w s, devCmd_illegal h hi.lt hi.code hi.mem (hrun _ _ _ _ hl)⟩

/-- Element-wise work into one V register. -/
theorem runs_elemV (vs3 : DevWord → Nat) (x : Developer → DevWord → Nat → Word × Nat) (hx : ∀ d w, x (noteOp d op) w = x d w)
    (hrun : ∀ s t c w, legal w → f s t c w = devDone s t (elemV (getD s t) w.vd (vs3 w) (x (getD s t) w))) :
    Runs mk legal (fun s u t w => WroteV s u t w.vd (vs3 w) (x (getD s t.val) w)) := by
  refine runs_of_devDone hi (fun d w => elemV d w.vd (vs3 w) (x d w)) hrun (fun _ _ => elemV_queue ..) (fun s u t w _ hv done dev => ?_)
  rw [elemV_flags, hx] at done
  rw [hx] at dev
  exact ⟨done, fun i h => by rw [dev]; exact elemV_read _ _ _ hv _ h, by rw [dev]; exact kept_of_noteOp (elemV_kept _ _ _ hv _)⟩

/-- Element-wise work into a CF32 pair. -/
theorem runs_elemPair (x : Developer → DevWord → Nat → Word × Word × Nat) (hx : ∀ d w, x (noteOp d op) w = x d w)
    (hrun : ∀ s t c w, legal w → f s t c w = devDone s t (elemPair (getD s t) w.vd w.vs3 (x (getD s t) w))) :
    Runs mk legal (fun s u t w => WrotePair s u t w.vd w.vs3 (x (getD s t.val) w)) := by
  refine runs_of_devDone hi (fun d w => elemPair d w.vd w.vs3 (x d w)) hrun (fun _ _ => elemPair_queue ..) (fun s u t w _ hv done dev => ?_)
  rw [elemPair_flags, hx] at done
  rw [hx] at dev
  exact ⟨done, fun i h => by rw [dev]; exact elemPair_re _ _ _ hv _ h, fun i h => by rw [dev]; exact elemPair_im _ _ _ hv _ h,
    by rw [dev]; exact kept_of_noteOp (elemPair_kept _ _ _ hv _)⟩

/-- Element-wise work into an accumulator pair, whose results are 48-bit integers. -/
theorem runs_elemAcc (x : Developer → DevWord → Nat → Int × Int × Nat) (hx : ∀ d w, x (noteOp d op) w = x d w)
    (hfit : ∀ d w i, (-2 ^ 47 ≤ (x d w i).1 ∧ (x d w i).1 < 2 ^ 47) ∧ -2 ^ 47 ≤ (x d w i).2.1 ∧ (x d w i).2.1 < 2 ^ 47)
    (hrun : ∀ s t c w, legal w → f s t c w = devDone s t (elemAcc (getD s t) w.vd w.vs3 (x (getD s t) w))) :
    Runs mk legal (fun s u t w => WroteA s u t w.vd w.vs3 (x (getD s t.val) w)) := by
  refine runs_of_devDone hi (fun d w => elemAcc d w.vd w.vs3 (x d w)) hrun (fun _ _ => elemAcc_queue ..) (fun s u t w _ hv done dev => ?_)
  rw [elemAcc_flags, hx] at done
  rw [hx] at dev
  exact ⟨done, fun i h => by rw [dev]; exact elemAcc_re _ _ _ hv _ (hfit _ w) h, fun i h => by rw [dev]; exact elemAcc_im _ _ _ hv _ (hfit _ w) h,
    by rw [dev]; exact kept_of_noteOp (elemAcc_kept _ _ _ hv _)⟩

end

theorem runsPair_of_devPairBin {mk : TileId → Word64 → Instr} {op : Nat} {x : Word → Word → Word → Word → Word × Word × Nat}
    (hi : DevInstr mk op (devPairBin x)) : RunsPair mk x := by
  refine runs_elemPair hi (fun d w i => x (vGet d w.vs1 i) (vGet d (w.vs1 + 1) i) (vGet d w.vs2 i) (vGet d (w.vs2 + 1) i))
    (fun _ _ => rfl) (fun s t c w hl => ?_)
  obtain ⟨hvd, hvs1, hvs2⟩ := hl
  simp [devPairBin, hvd, hvs1, hvs2]

/-! ### The accumulators (05 R189, R190; 03 R97, R98) -/

/-- A sum that saturates is the nearest 48-bit integer, and is noted where the exact sum is none. -/
theorem satAcc_eq (a : Int) : satAcc a = (max (-2 ^ 47) (min (2 ^ 47 - 1) a), decide (a < -2 ^ 47 ∨ 2 ^ 47 - 1 < a)) := by
  unfold satAcc
  split
  · simp only [Prod.mk.injEq]
    exact ⟨by omega, by simp; omega⟩
  · split
    · simp only [Prod.mk.injEq]
      exact ⟨by omega, by simp; omega⟩
    · simp only [Prod.mk.injEq]
      exact ⟨by omega, by simp; omega⟩

theorem signed16_bounds (x : Nat) : -32768 ≤ signed 16 x ∧ signed 16 x < 32768 := by
  unfold signed
  dsimp only
  split <;> omega

theorem signed6_le (x : Nat) : signed 6 x ≤ 31 := by
  unfold signed
  dsimp only
  split <;> omega

theorem intEncode16_fits (neg : Bool) (n d : Nat) (h : rneDiv n d ≤ 32767) : (intEncode 16 (.fin neg n d)).clipped = false := by
  have range : -32768 ≤ rneInt neg n d ∧ rneInt neg n d ≤ 32767 := by
    unfold rneInt
    split <;> omega
  unfold intEncode
  dsimp only
  rw [if_neg (by omega), if_neg (by omega)]

/-- At shift 31 every 48-bit value converts without saturation: it is 2^47 at most, and 2^-46 of that rounds to 2 (05 R190). -/
theorem q15OfAcc_31_fits (a : Int) (hlo : -2 ^ 47 ≤ a) (hhi : a < 2 ^ 47) : (q15OfAcc a 31).clipped = false := by
  have small : rneDiv a.natAbs (1 * 2 ^ 46) ≤ 32767 := by
    unfold rneDiv
    dsimp only
    split
    · omega
    · split
      · omega
      · split <;> omega
  exact intEncode16_fits (decide (a < 0)) _ _ small

theorem accFits_31 (d : Developer) (p : Nat) : accFits d p 31 = true := by
  refine List.all_eq_true.mpr (fun i _ => ?_)
  obtain ⟨hre, hre'⟩ := aGet_bounds d p i
  obtain ⟨him, him'⟩ := aGet_bounds d (p + 1) i
  simp [q15OfAcc_31_fits _ hre hre', q15OfAcc_31_fits _ him him']

/-- The automatic shift is the smallest from the floor on at which every part converts, where one that does lies in reach (05 R190). -/
theorem autoShift_least (d : Developer) (p n : Nat) (k : Int) (hfit : accFits d p (k + n) = true) :
    k ≤ autoShift d p n k ∧ autoShift d p n k ≤ k + n ∧ accFits d p (autoShift d p n k) = true ∧
      ∀ j, k ≤ j → j < autoShift d p n k → accFits d p j = false := by
  induction n generalizing k with
  | zero => exact ⟨le_refl k, by simp [autoShift], by simpa [autoShift] using hfit, fun j h1 h2 => absurd h1 (by simpa [autoShift] using h2)⟩
  | succ n ih =>
    rw [autoShift]
    split
    · next fits => exact ⟨le_refl k, by omega, fits, fun j h1 h2 => absurd h1 (by omega)⟩
    · next unfit =>
      obtain ⟨lo, hi, fits, least⟩ := ih (k + 1) (by rw [← hfit]; congr 1; push_cast; omega)
      refine ⟨by omega, by push_cast; omega, fits, fun j h1 h2 => ?_⟩
      rcases eq_or_lt_of_le h1 with rfl | h1
      · simpa using unfit
      · exact least j (by omega) h2

theorem devInstr_cadd : DevInstr .cadd 0x60 devCadd := ⟨fun _ _ _ => rfl, by decide, rfl, by decide⟩
theorem devInstr_cmul : DevInstr .cmul 0x61 devCmul := ⟨fun _ _ _ => rfl, by decide, rfl, by decide⟩
theorem devInstr_cmulc : DevInstr .cmulc 0x62 devCmulc := ⟨fun _ _ _ => rfl, by decide, rfl, by decide⟩
theorem devInstr_cmag2 : DevInstr .cmag2 0x63 devCmag2 := ⟨fun _ _ _ => rfl, by decide, rfl, by decide⟩
theorem devInstr_dspCmac : DevInstr .dspCmac 0x80 devCmac := ⟨fun _ _ _ => rfl, by decide, rfl, by decide⟩
theorem devInstr_dspAclr : DevInstr .dspAclr 0x81 devAclr := ⟨fun _ _ _ => rfl, by decide, rfl, by decide⟩
theorem devInstr_dspMovq : DevInstr .dspMovq 0x82 devMovq := ⟨fun _ _ _ => rfl, by decide, rfl, by decide⟩
theorem devInstr_dspLda : DevInstr .dspLda 0x83 devLda := ⟨fun _ _ _ => rfl, by decide, rfl, by decide⟩

/-! ### CMAG2, DSP.CMAC and DSP.LDA: element by element -/

theorem runs_cmag2 : Runs .cmag2 (fun w => isV w.vd = true ∧ isPair w.vs1 = true) (fun s u t w => WroteV s u t w.vd w.vs3 (fun i =>
    cfMag2 (vGet (getD s t.val) w.vs1 i) (vGet (getD s t.val) (w.vs1 + 1) i))) := by
  refine runs_elemV devInstr_cmag2 DevWord.vs3 (fun d w i => cfMag2 (vGet d w.vs1 i) (vGet d (w.vs1 + 1) i)) (fun _ _ => rfl)
    (fun s t c w hl => ?_)
  obtain ⟨hvd, hvs1⟩ := hl
  simp [devCmag2, hvd, hvs1]

/-- The sums of R189 for one element: the accumulators plus or minus the exact product, saturated, with acc_sat where either saturates. -/
def macElem (d : Developer) (w : DevWord) (i : Nat) : Int × Int × Nat :=
  let x := srcGet d w.vs1 i
  let y := srcGet d w.vs2 i
  let yi : Int := if w.i 0 0 = 1 then -q15Im y else q15Im y
  let k : Int := if w.i 1 1 = 1 then -1 else 1
  let re : Int := aGet d w.vd i + k * (q15Re x * q15Re y - q15Im x * yi)
  let im : Int := aGet d (w.vd + 1) i + k * (q15Re x * yi + q15Im x * q15Re y)
  (max (-2 ^ 47) (min (2 ^ 47 - 1) re), max (-2 ^ 47) (min (2 ^ 47 - 1) im),
   if re < -2 ^ 47 ∨ 2 ^ 47 - 1 < re ∨ im < -2 ^ 47 ∨ 2 ^ 47 - 1 < im then fAccSat else 0)

theorem macElem_fits (d : Developer) (w : DevWord) (i : Nat) :
    (-2 ^ 47 ≤ (macElem d w i).1 ∧ (macElem d w i).1 < 2 ^ 47) ∧ -2 ^ 47 ≤ (macElem d w i).2.1 ∧ (macElem d w i).2.1 < 2 ^ 47 := by
  unfold macElem
  dsimp only
  omega

theorem devCmac_eq {s : State} {t c : Nat} {w : DevWord} (hvd : isAcc w.vd = true) (hvs1 : isV w.vs1 = true) :
    devCmac s t c w = devDone s t (elemAcc (getD s t) w.vd w.vs3 (macElem (getD s t) w)) := by
  simp only [devCmac, hvd, hvs1, Bool.and_self, if_true]
  congr 2
  funext i
  simp only [satAcc_eq, q15Prod, macElem, decide_eq_true_eq, ← Bool.decide_or, or_assoc]

theorem runs_dspCmac : Runs .dspCmac (fun w => isAcc w.vd = true ∧ isV w.vs1 = true) (fun s u t w =>
    WroteA s u t w.vd w.vs3 (macElem (getD s t.val) w)) :=
  runs_elemAcc devInstr_dspCmac macElem (fun _ _ => rfl) macElem_fits (fun _ _ _ _ hl => devCmac_eq hl.1 hl.2)

theorem runs_dspLda : Runs .dspLda (fun w => isAcc w.vd = true ∧ isV w.vs1 = true) (fun s u t w => WroteA s u t w.vd w.vs3 (fun i =>
    (q15Re (vGet (getD s t.val) w.vs1 i) * 32768, q15Im (vGet (getD s t.val) w.vs1 i) * 32768, 0))) := by
  refine runs_elemAcc devInstr_dspLda (fun d w i => (q15Re (vGet d w.vs1 i) * 32768, q15Im (vGet d w.vs1 i) * 32768, 0)) (fun _ _ => rfl)
    (fun d w i => ?_) (fun s t c w hl => ?_)
  · have re := signed16_bounds (fieldOf (vGet d w.vs1 i) 15 0)
    have im := signed16_bounds (fieldOf (vGet d w.vs1 i) 31 16)
    simp only [q15Re, q15Im]
    omega
  · obtain ⟨hvd, hvs1⟩ := hl
    simp [devLda, hvd, hvs1]

/-! ### DSP.ACLR -/

theorem nbits_one_iff_testBit (x n : Nat) : nbits x n n = 1 ↔ x.testBit n = true := by
  simp only [nbits, show n + 1 - n = 1 by omega, Nat.testBit_eq_decide_div_mod_eq, Nat.shiftRight_eq_div_pow, pow_one, decide_eq_true_eq]

/-- Elements 0 to VLEN − 1 of one accumulator cleared. -/
def clearAcc (d : Developer) (n : Nat) : Developer := (List.range d.vlen).foldl (fun d i => aSet d n i 0) d

theorem clearAcc_read {d : Developer} (hv : d.vlen ≤ 256) (n : Nat) {m i : Nat} (hi : i < 256) :
    aGet (clearAcc d n) m i = if m = n ∧ i < d.vlen then 0 else aGet d m i := by
  have read := foldl_range_read (fun r => aGet r m i) (fun old => if m = n then 0 else old) (fun r j => aSet r n j 0) i d.vlen
    (fun r j hj hji => aGet_aSet_other r n j 0 (by omega) hi (by omega))
    (fun r => by rw [aGet_aSet r n i hi hi (by decide) (by decide)]; simp) d
  rw [clearAcc, read]
  by_cases h : i < d.vlen <;> simp [h]

theorem clearAcc_kept {d : Developer} (hv : d.vlen ≤ 256) {n : Nat} (hn : n < 4) : Kept d (clearAcc d n) [] [] [] [0, 1, 2, 3] :=
  foldl_range_keep (P := fun r => Kept d r [] [] [] [0, 1, 2, 3]) _ _
    (fun r j _ h => h.trans (kept_aSet r 0 _ _ _ (by simp; omega) (by omega))) (.refl ..)

theorem clearAcc_queue (d : Developer) (n : Nat) : (clearAcc d n).queue = d.queue :=
  foldl_range_keep (P := fun r : Developer => r.queue = d.queue) (fun r i => aSet r n i 0) _ (fun _ _ _ h => h) rfl

/-- The accumulators that the immediate names, cleared in turn (Table 05.5, DSP.ACLR). -/
def clearAccs (d : Developer) (w : DevWord) : Developer :=
  (List.range 4).foldl (fun d n => if nbits w.imm n n = 1 then clearAcc d n else d) d

theorem clearAccs_queue (d : Developer) (w : DevWord) : (clearAccs d w).queue = d.queue := by
  refine foldl_range_keep (P := fun r : Developer => r.queue = d.queue) _ _ (fun r n _ h => ?_) rfl
  split
  · exact (clearAcc_queue r n).trans h
  · exact h

/-- After the first k accumulators: those named among them are clear below VLEN, and nothing else has changed. -/
def ClearedTo (d : Developer) (w : DevWord) (k : Nat) (r : Developer) : Prop :=
  Kept d r [] [] [] [0, 1, 2, 3] ∧
  ∀ m i, i < 256 → aGet r m i = if m < k ∧ w.imm.testBit m = true ∧ i < d.vlen then 0 else aGet d m i

theorem clearAccs_cleared {d : Developer} (hv : d.vlen ≤ 256) (w : DevWord) : ClearedTo d w 4 (clearAccs d w) := by
  refine foldl_range_induct _ 4 (fun r n hn h => ?_) ⟨.refl .., fun m i _ => by simp⟩
  obtain ⟨kept, read⟩ := h
  have hvr : r.vlen ≤ 256 := kept.vlen.trans_le hv
  split
  · next set =>
    have bit := (nbits_one_iff_testBit w.imm n).mp set
    refine ⟨kept.trans (clearAcc_kept hvr hn), fun m i hi => ?_⟩
    rw [clearAcc_read hvr n hi, read m i hi, kept.vlen]
    by_cases hm : m = n
    · subst hm
      simp [bit]
    · simp only [hm, false_and, if_false, show m < n + 1 ↔ m < n by omega]
  · next unset =>
    have bit : ¬ w.imm.testBit n = true := fun e => unset ((nbits_one_iff_testBit w.imm n).mpr e)
    refine ⟨kept, fun m i hi => ?_⟩
    rw [read m i hi]
    by_cases hm : m = n
    · subst hm
      simp [bit]
    · simp only [show m < n + 1 ↔ m < n by omega]

theorem runs_dspAclr : Runs .dspAclr (fun _ => True) (fun s u t w => DevDone s u t 0 ∧
    (∀ n i, n < 4 → i < 256 → aGet (getD u t.val) n i =
      if w.imm.testBit n = true ∧ i < (getD s t.val).vlen then 0 else aGet (getD s t.val) n i) ∧
    Kept (getD s t.val) (getD u t.val) [] [] [] [0, 1, 2, 3]) := by
  refine runs_of_devDone devInstr_dspAclr (fun d w => (clearAccs d w, 0)) (fun _ _ _ _ _ => rfl) (fun d w => clearAccs_queue d w)
    (fun s u t w _ hv done dev => ?_)
  obtain ⟨kept, read⟩ := clearAccs_cleared hv w
  dsimp only at dev
  rw [← dev] at kept read
  refine ⟨done, fun n i hn hi => ?_, kept_of_noteOp kept⟩
  rw [read n i hi]
  simp only [hn, true_and]
  rfl

/-! ### DSP.MOVQ -/

/-- The shift of a move: the immediate's, or the smallest from it on at which every part converts (05 R190). -/
def moveShift (d : Developer) (w : DevWord) : Int :=
  if w.i 7 7 = 1 then autoShift d w.vs1 (31 - signed 6 (w.i 5 0)).toNat (signed 6 (w.i 5 0)) else signed 6 (w.i 5 0)

theorem moveShift_auto (d : Developer) {w : DevWord} (h : w.i 7 7 = 1) :
    signed 6 (w.i 5 0) ≤ moveShift d w ∧ moveShift d w ≤ 31 ∧ accFits d w.vs1 (moveShift d w) = true ∧
      ∀ j, signed 6 (w.i 5 0) ≤ j → j < moveShift d w → accFits d w.vs1 j = false := by
  have floor := signed6_le (w.i 5 0)
  have reach : signed 6 (w.i 5 0) + ((31 - signed 6 (w.i 5 0)).toNat : Int) = 31 := by omega
  have least := autoShift_least d w.vs1 (31 - signed 6 (w.i 5 0)).toNat (signed 6 (w.i 5 0)) (by rw [reach]; exact accFits_31 d _)
  rw [reach] at least
  rwa [moveShift, if_pos h]

/-- An element as it moves: both parts at one shift. -/
def moveElem (d : Developer) (w : DevWord) (sh : Int) (i : Nat) : Word × Nat :=
  q15Pack (q15OfAcc (aGet d w.vs1 i) sh) (q15OfAcc (aGet d (w.vs1 + 1) i) sh)

/-- The move of an accumulator pair: its elements, and the shift in S[imm[12:8]] where bit 13 asks for it. -/
def moveAcc (d : Developer) (w : DevWord) : Developer × Nat :=
  let r := elemV d w.vd w.vs3 (moveElem d w (moveShift d w))
  (if w.i 13 13 = 1 ∧ d.vlen ≠ 0 then sSet r.1 (w.i 12 8) (BitVec.ofInt 32 (moveShift d w)) else r.1, r.2)

theorem devMovq_eq {s : State} {t c : Nat} {w : DevWord} (hvd : isV w.vd = true) (hvs1 : isAcc w.vs1 = true)
    (hk : -16 ≤ signed 6 (w.i 5 0)) : devMovq s t c w = devDone s t (moveAcc (getD s t) w) := by
  simp only [devMovq, hvd, hvs1, hk, decide_true, Bool.and_self, if_true]
  rfl

theorem devMovq_illegal {s : State} {t c : Nat} {w : DevWord} (hk : signed 6 (w.i 5 0) < -16) : devMovq s t c w = illegal s t c := by
  simp [devMovq, hk]

theorem moveAcc_queue (d : Developer) (w : DevWord) : (moveAcc d w).1.queue = d.queue := by
  unfold moveAcc
  dsimp only
  split
  · exact elemV_queue ..
  · exact elemV_queue ..

theorem vGet_moveAcc {d : Developer} (hv : d.vlen ≤ 256) (w : DevWord) {i : Nat} (hi : i < 256) :
    vGet (moveAcc d w).1 w.vd i = elemAfter d w.vs3 i (moveElem d w (moveShift d w) i).1 0#32 (vGet d w.vd i) := by
  rw [← elemV_read d w.vd w.vs3 hv _ hi]
  unfold moveAcc
  dsimp only
  split <;> rfl

theorem sGet_elemV (d : Developer) (vd vs3 : Nat) (f : Nat → Word × Nat) (n : Nat) : sGet (elemV d vd vs3 f).1 n = sGet d n :=
  eachElem_keep (P := fun r => sGet r n = sGet d n) _ _ _ _ rfl (fun _ _ _ h => h) (fun _ _ _ h => h)

theorem sGet_moveAcc (d : Developer) (w : DevWord) : sGet (moveAcc d w).1 (w.i 12 8) =
    if w.i 13 13 = 1 ∧ d.vlen ≠ 0 then BitVec.ofInt 32 (moveShift d w) else sGet d (w.i 12 8) := by
  unfold moveAcc
  dsimp only
  split
  · rw [sGet_sSet, if_pos rfl]
  · exact sGet_elemV ..

theorem moveAcc_kept {d : Developer} (hv : d.vlen ≤ 256) (w : DevWord) : Kept d (moveAcc d w).1 [w.vd] [w.i 12 8] [] [] := by
  have elems : Kept d (elemV d w.vd w.vs3 (moveElem d w (moveShift d w))).1 [w.vd] [w.i 12 8] [] [] :=
    (elemV_kept d w.vd w.vs3 hv _).mono (by simp) (by simp) (by simp) (by simp)
  unfold moveAcc
  dsimp only
  split
  · exact elems.trans (kept_sSet _ _ _ _ _ (by simp))
  · exact elems

theorem runs_dspMovq : Runs .dspMovq (fun w => isV w.vd = true ∧ isAcc w.vs1 = true ∧ -16 ≤ signed 6 (w.i 5 0)) (fun s u t w =>
    ∃ sh : Int, (w.i 7 7 = 0 → sh = signed 6 (w.i 5 0)) ∧
      (w.i 7 7 = 1 → signed 6 (w.i 5 0) ≤ sh ∧ sh ≤ 31 ∧ accFits (getD s t.val) w.vs1 sh = true ∧
        (∀ j, signed 6 (w.i 5 0) ≤ j → j < sh → accFits (getD s t.val) w.vs1 j = false)) ∧
      DevDone s u t (flagsOf (getD s t.val) w.vs3 (fun i => (moveElem (getD s t.val) w sh i).2)) ∧
      (∀ i, i < 256 → vGet (getD u t.val) w.vd i = elemAfter (getD s t.val) w.vs3 i (moveElem (getD s t.val) w sh i).1 0#32
        (vGet (getD s t.val) w.vd i)) ∧
      (w.i 13 13 = 1 → (getD s t.val).vlen ≠ 0 → sGet (getD u t.val) (w.i 12 8) = BitVec.ofInt 32 sh) ∧
      (w.i 13 13 = 0 ∨ (getD s t.val).vlen = 0 → sGet (getD u t.val) (w.i 12 8) = sGet (getD s t.val) (w.i 12 8)) ∧
      Kept (getD s t.val) (getD u t.val) [w.vd] [w.i 12 8] [] []) := by
  refine runs_of_devDone devInstr_dspMovq moveAcc (fun s t c w hl => devMovq_eq hl.1 hl.2.1 hl.2.2) moveAcc_queue
    (fun s u t w _ hv done dev => ?_)
  have shift := sGet_moveAcc (noteOp (getD s t.val) 0x82) w
  rw [← dev] at shift
  refine ⟨moveShift (noteOp (getD s t.val) 0x82) w, fun h => ?_, fun h => moveShift_auto (noteOp (getD s t.val) 0x82) h, ?_, fun i h => ?_,
    fun h hn => ?_, fun h => ?_, ?_⟩
  · rw [moveShift, if_neg (by omega)]
  · rw [moveAcc, elemV_flags] at done
    exact done
  · rw [dev]
    exact vGet_moveAcc hv w h
  · rw [shift, if_pos ⟨h, hn⟩]
  · rw [shift, if_neg]
    · rfl
    · rintro ⟨h1, hn⟩
      rcases h with h | h
      · omega
      · exact hn h
  · rw [dev]
    exact kept_of_noteOp (moveAcc_kept hv w)

/-- Settles O45: each command is its instruction's execution on the ready tile, and each meaning is element-wise work on one destination; the
automatic shift is the least because at 31 every 48-bit value converts. -/
theorem complexAndAccumulators : Obligations.ComplexAndAccumulators :=
  ⟨runsPair_of_devPairBin devInstr_cadd, runsPair_of_devPairBin devInstr_cmul, runsPair_of_devPairBin devInstr_cmulc, runs_cmag2, runs_dspCmac,
   runs_dspAclr, runs_dspMovq, faults_of_illegal devInstr_dspMovq (fun _ _ _ _ hk => devMovq_illegal hk), runs_dspLda⟩

end Sys2Proof
end

section
/-!
PROOFS. A sequencer instruction on a ready tile (07 R241, R244): it passes, waits or faults, and what the issue, the settling of queued
work and the watchdog's look leave alone.
-/
namespace Sys2Proof

open Sys2Proof.Machine

/-! ### The instruction word of a sequencer command -/

theorem getLsbD_foldl_or {fs : List (Nat × Nat)} {m : Word64} {i : Nat} (h : m.getLsbD i = true) :
    (fs.foldl (fun m f => m ||| maskOf 64 f.1 f.2) m).getLsbD i = true := by
  induction fs generalizing m with
  | nil => exact h
  | cons f fs ih => exact ih (by simp [h])

/-- The opcode's bits are never reserved, so the command's opcode leaves the check of reserved bits as it is. -/
@[simp] theorem onlyFields_withOp (op : Nat) (w : Word64) (fs : List (Nat × Nat)) : onlyFields (withOp op w) fs = onlyFields w fs := by
  unfold onlyFields
  congr 2
  refine BitVec.eq_of_getLsbD_eq fun i hi => ?_
  rw [BitVec.getLsbD_and, BitVec.getLsbD_and, BitVec.getLsbD_not]
  by_cases hop : 56 ≤ i
  · have opcode : (maskOf 64 63 56).getLsbD i = true := by
      rw [maskOf_bit]
      simp [hi, hop]
    rw [getLsbD_foldl_or opcode]
    simp
  · rw [withOp, setField_bit _ _ _ _ _ hi, if_neg (by omega)]

theorem fieldOf_withOp (op : Nat) (w : Word64) {hi : Nat} (lo : Nat) (h : hi < 56) : fieldOf (withOp op w) hi lo = fieldOf w hi lo :=
  fieldOf_setField_other w op (.inl h) (by omega)

theorem bitOf_withOp (op : Nat) (w : Word64) {i : Nat} (h : i < 56) : bitOf (withOp op w) i = bitOf w i := by
  rw [bitOf, withOp, setField_bit _ _ _ _ _ (by omega), if_neg (by omega), bitOf]

/-! ### What the tile's bookkeeping leaves alone -/

/-- From s to u only the named registers and tile t's scoreboard, pending advances and watchdog window have changed. -/
structure Bookkept (l : List Nat) (s u : State) (t : Nat) : Prop where
  tile : ∃ sb n high adv wd, getT u t = { getT s t with sb := sb, sbSeq := n, sbHigh := high, advQ := adv, wdSince := wd }
  others : ∀ x, x ≠ t → getT u x = getT s x
  regs : regsBut l s u
  mem : u.mem = s.mem
  ctxs : u.ctxs = s.ctxs
  plan : u.plan = s.plan
  advances : u.advances = s.advances

theorem regsBut.mono {l l' : List Nat} {s u : State} (h : regsBut l s u) (hl : l ⊆ l') : regsBut l' s u := fun a ha => h a (fun e => ha (hl e))

theorem regsBut.trans {l : List Nat} {s u v : State} (h : regsBut l s u) (k : regsBut l u v) : regsBut l s v :=
  fun a ha => (k a ha).trans (h a ha)

theorem Bookkept.refl (l : List Nat) (s : State) (t : Nat) : Bookkept l s s t :=
  ⟨⟨_, _, _, _, _, rfl⟩, fun _ _ => rfl, fun _ _ => rfl, rfl, rfl, rfl, rfl⟩

theorem Bookkept.trans {l : List Nat} {s u v : State} {t : Nat} (h : Bookkept l s u t) (k : Bookkept l u v t) : Bookkept l s v t := by
  obtain ⟨sb, n, high, adv, wd, hu⟩ := h.tile
  obtain ⟨sb', n', high', adv', wd', hv⟩ := k.tile
  exact ⟨⟨sb', n', high', adv', wd', by rw [hv, hu]⟩, fun x hx => (k.others x hx).trans (h.others x hx), h.regs.trans k.regs,
    k.mem.trans h.mem, k.ctxs.trans h.ctxs, k.plan.trans h.plan, k.advances.trans h.advances⟩

theorem Bookkept.mono {l l' : List Nat} {s u : State} {t : Nat} (h : Bookkept l s u t) (hl : l ⊆ l') : Bookkept l' s u t :=
  ⟨h.tile, h.others, h.regs.mono hl, h.mem, h.ctxs, h.plan, h.advances⟩

section
variable {l : List Nat} {s u : State} {t : Nat} (h : Bookkept l s u t)
include h

theorem Bookkept.run : (getT u t).run = (getT s t).run := by obtain ⟨_, _, _, _, _, e⟩ := h.tile; rw [e]
theorem Bookkept.seq : (getT u t).seq = (getT s t).seq := by obtain ⟨_, _, _, _, _, e⟩ := h.tile; rw [e]
theorem Bookkept.waitOp : (getT u t).waitOp = (getT s t).waitOp := by obtain ⟨_, _, _, _, _, e⟩ := h.tile; rw [e]
theorem Bookkept.pc : (getT u t).pc = (getT s t).pc := by obtain ⟨_, _, _, _, _, e⟩ := h.tile; rw [e]
theorem Bookkept.p : (getT u t).p = (getT s t).p := by obtain ⟨_, _, _, _, _, e⟩ := h.tile; rw [e]
theorem Bookkept.held : (getT u t).held = (getT s t).held := by obtain ⟨_, _, _, _, _, e⟩ := h.tile; rw [e]
theorem Bookkept.stripNext : (getT u t).stripNext = (getT s t).stripNext := by obtain ⟨_, _, _, _, _, e⟩ := h.tile; rw [e]
theorem Bookkept.dev : (getT u t).dev = (getT s t).dev := by obtain ⟨_, _, _, _, _, e⟩ := h.tile; rw [e]
theorem Bookkept.enl : (getT u t).enl = (getT s t).enl := by obtain ⟨_, _, _, _, _, e⟩ := h.tile; rw [e]
theorem Bookkept.fix : (getT u t).fix = (getT s t).fix := by obtain ⟨_, _, _, _, _, e⟩ := h.tile; rw [e]

end

/-- A change of tile t's bookkeeping alone. -/
theorem bookkept_modT (s : State) (t : Nat) (f : Tile → Tile)
    (h : ∃ sb n high adv wd, f (getT s t) = { getT s t with sb := sb, sbSeq := n, sbHigh := high, advQ := adv, wdSince := wd }) :
    Bookkept [] s (modT s t f) t := by
  refine ⟨?_, fun x hx => by rw [getT_modT, if_neg hx], fun _ _ => rfl, rfl, rfl, rfl, rfl⟩
  rw [getT_modT, if_pos rfl]
  exact h

theorem bookkept_sbTidy (s : State) (t : Nat) : Bookkept [] s (sbTidy s t) t := bookkept_modT _ _ _ ⟨_, _, _, _, _, rfl⟩

theorem bookkept_watchWindow (s : State) (t : Nat) : Bookkept [] s (watchWindow s t) t := by
  obtain h | ⟨w, h⟩ := watchWindow_eq s t <;> rw [h]
  · exact .refl ..
  · exact bookkept_modT s t (fun x => { x with wdSince := w }) ⟨_, _, _, _, _, rfl⟩

/-- Where nothing is queued, an attempt's end is bookkeeping. -/
theorem tileStep_quiet {s : State} {t : Nat} (h : hasQueued (getT s t) = false) : Bookkept [] s (tileStep t (s, none)) t := by
  refine Bookkept.trans ?_ (bookkept_watchWindow _ t)
  unfold andSettle
  dsimp only
  split
  · split
    · exact .refl ..
    · rw [settle, h]
      exact bookkept_sbTidy s t
  · exact .refl ..

theorem tileStep_fault (s : State) (t : Nat) (r : ErrRec) : Faulted (tileStep t (s, some r)) r.ctx r.cause :=
  faulted_of_ctxs (watchWindow_ctxs ..) (contextFault_faulted s r.ctx r)

/-! ### The issue of a sequencer instruction (07 R241) -/

/-- The state of a tile whose instruction has passed to a program counter. -/
def seqPassed (s : State) (t pc : Nat) : State :=
  modT (incR s (Reg.TILE_SEQ_ISSUE t) 1) t (fun x => { x with
    pc := pc, seq := if x.seq = .waiting ∨ x.seq = .ending then .issuing else x.seq, waitOp := 0 })

/-- The state of a tile whose instruction waits. -/
def seqHeld (s : State) (t op : Nat) : State :=
  incR (modT s t (fun x => { x with seq := if op = 0xCE then .ending else .waiting, waitOp := op })) (Reg.TILE_SEQ_STALL t) 1

theorem getT_seqPassed (s : State) (t pc : Nat) : getT (seqPassed s t pc) t = { getT s t with
    pc := pc, seq := if (getT s t).seq = .waiting ∨ (getT s t).seq = .ending then .issuing else (getT s t).seq, waitOp := 0 } := by
  rw [seqPassed, getT_modT, if_pos rfl, getT_incR]

theorem getT_seqPassed_other (s : State) {t x : Nat} (pc : Nat) (h : x ≠ t) : getT (seqPassed s t pc) x = getT s x := by
  rw [seqPassed, getT_modT, if_neg h, getT_incR]

theorem regsBut_seqPassed (s : State) (t pc : Nat) : regsBut [Reg.TILE_SEQ_ISSUE t] s (seqPassed s t pc) :=
  fun _ ha => getR_setR_other s _ (by simpa using ha)

theorem getT_seqHeld (s : State) (t op : Nat) :
    getT (seqHeld s t op) t = { getT s t with seq := if op = 0xCE then .ending else .waiting, waitOp := op } := by
  rw [seqHeld, getT_incR, getT_modT, if_pos rfl]

section
variable {s v : State} {t : TileId} {c op : Nat} {f : Word64 → Nat → State → Nat → SeqRes} {w : Word64} (h : TileReady s t c 1)
include h

theorem TileReady.seq : (getT s t.val).seq = .issuing ∨ (getT s t.val).seq = .waiting ∨ (getT s t.val).seq = .ending := by
  have issues := h.issues
  unfold issuing at issues
  dsimp only at issues
  split at issues
  · split at issues
    · next hseq => exact hseq.1
    · cases issues
  · cases issues

theorem seqCmd_passed (hb : f (withOp op w) t.val s c = .next v) :
    seqCmd op f t w s = tileStep t.val (seqPassed v t.val ((getT s t.val).pc + 1), none) := by
  rw [seqCmd, seqIssue_next h hb]
  rfl

theorem seqCmd_jumped {off : Int} (hb : f (withOp op w) t.val s c = .jump v off) (h0 : 0 ≤ ((getT s t.val).pc : Int) + off)
    (hf : fetchOk v c (((getT s t.val).pc : Int) + off).toNat 1 = true) :
    seqCmd op f t w s = tileStep t.val (seqPassed v t.val (((getT s t.val).pc : Int) + off).toNat, none) := by
  simp [seqCmd, seqIssue, h.issues, fetchWords_clean _ _ _ h.imemSingle h.imemBad, h.fetch, h.opcode, hb, h0, hf, seqPassed]

theorem seqCmd_held (hb : f (withOp op w) t.val s c = .wait v) : seqCmd op f t w s = tileStep t.val (seqHeld v t.val op, none) := by
  simp [seqCmd, seqIssue, h.issues, fetchWords_clean _ _ _ h.imemSingle h.imemBad, h.fetch, h.opcode, hb, seqHeld]

theorem seqCmd_fault {r : ErrRec} (hb : f (withOp op w) t.val s c = .fault v r) : seqCmd op f t w s = tileStep t.val (v, some r) := by
  simp [seqCmd, seqIssue, h.issues, fetchWords_clean _ _ _ h.imemSingle h.imemBad, h.fetch, h.opcode, hb]

/-- A fault of the instruction's own context. -/
theorem seqCmd_faulted {r : ErrRec} (hb : f (withOp op w) t.val s c = .fault v r) (hc : r.ctx = c) : Faulted (seqCmd op f t w s) c r.cause := by
  rw [seqCmd_fault h hb, ← hc]
  exact tileStep_fault ..

theorem seqCmd_illegal (hb : f (withOp op w) t.val s c = illegalSeq v t.val c) : Faulted (seqCmd op f t w s) c 1 :=
  seqCmd_faulted h hb rfl

end

/-! ### The ends of a sequencer instruction -/

/-- What the body of a sequencer instruction of tile t leaves alone. -/
structure UnitsKept (s v : State) (t : Nat) : Prop where
  run : (getT v t).run = (getT s t).run
  seq : (getT v t).seq = (getT s t).seq
  dev : (getT v t).dev = (getT s t).dev
  enl : (getT v t).enl = (getT s t).enl
  fix : (getT v t).fix = (getT s t).fix
  others : ∀ x, x ≠ t → getT v x = getT s x
  plan : v.plan = s.plan
  mem : v.mem = s.mem

theorem UnitsKept.refl (s : State) (t : Nat) : UnitsKept s s t := ⟨rfl, rfl, rfl, rfl, rfl, fun _ _ => rfl, rfl, rfl⟩

theorem Bookkept.unitsKept {l : List Nat} {s v : State} {t : Nat} (h : Bookkept l s v t) : UnitsKept s v t :=
  ⟨h.run, h.seq, h.dev, h.enl, h.fix, h.others, h.plan, h.mem⟩

section
variable {s v u : State} {t : TileId} {c : Nat} (h : TileReady s t c 1) {l : List Nat} {pc : Nat}
include h

theorem hasQueued_of_unitsKept (hv : UnitsKept s v t.val) (hadv : (getT v t.val).advQ = []) : hasQueued (getT v t.val) = false := by
  simp [hasQueued, hv.enl, hv.fix, hv.dev, hadv, h.enlQ, h.pass, h.fix, h.devQ]

/-- The instruction has passed once its bookkeeping is done. -/
theorem seqDone_of_passed (hv : UnitsKept s v t.val) (hu : Bookkept l (seqPassed v t.val pc) u t.val) : SeqDone s u t pc where
  pc := by rw [hu.pc, getT_seqPassed]
  seq := by
    rw [hu.seq, getT_seqPassed, hv.seq]
    obtain e | e | e := h.seq <;> simp [e]
  dev := by rw [hu.dev, getT_seqPassed]; exact hv.dev
  enl := by rw [hu.enl, getT_seqPassed]; exact hv.enl
  fix := by rw [hu.fix, getT_seqPassed]; exact hv.fix.trans h.fix
  others x hx := by rw [hu.others x hx, getT_seqPassed_other _ _ hx, hv.others x hx]
  plan := hu.plan.trans hv.plan
  mem := getByte_of_mem (hu.mem.trans hv.mem)

theorem bookkept_passed (hv : UnitsKept s v t.val) (hadv : (getT v t.val).advQ = []) :
    Bookkept [] (seqPassed v t.val pc) (tileStep t.val (seqPassed v t.val pc, none)) t.val := by
  refine tileStep_quiet ?_
  rw [getT_seqPassed]
  exact hasQueued_of_unitsKept h hv hadv

/-- An instruction that waits leaves everything but its own state and the count of attempts. -/
theorem bookkept_held (op : Nat) : Bookkept [] (seqHeld s t.val op) (tileStep t.val (seqHeld s t.val op, none)) t.val := by
  refine tileStep_quiet ?_
  rw [getT_seqHeld]
  exact hasQueued_of_unitsKept h (.refl ..) h.adv

omit h in
theorem seqWaits_of_held {op : Nat} (hu : Bookkept [] (seqHeld s t.val op) u t.val) :
    SeqWaits s u t op ∧ regsBut [Reg.TILE_SEQ_STALL t.val] s u := by
  refine ⟨⟨?_, ?_, ?_, ?_, fun x hx => ?_, getByte_of_mem hu.mem⟩, fun a ha => ?_⟩
  · rw [hu.pc, getT_seqHeld]
  · rw [hu.seq, getT_seqHeld]
  · rw [hu.waitOp, getT_seqHeld]
  · rw [hu.regs _ (by simp), seqHeld, getR_incR, if_pos rfl, getR_modT]
  · rw [hu.others x hx, seqHeld, getT_incR, getT_modT, if_neg hx]
  · rw [hu.regs a (by simp), seqHeld, getR_incR, if_neg (by simpa using ha), getR_modT]

variable {op : Nat} {f : Word64 → Nat → State → Nat → SeqRes} {w : Word64}

/-- An instruction whose body passes, and what its bookkeeping leaves of the body's state. -/
theorem seqCmd_done (hb : f (withOp op w) t.val s c = .next v) (hv : UnitsKept s v t.val) (hadv : (getT v t.val).advQ = []) :
    SeqDone s (seqCmd op f t w s) t ((getT s t.val).pc + 1) ∧
    Bookkept [] (seqPassed v t.val ((getT s t.val).pc + 1)) (seqCmd op f t w s) t.val := by
  rw [seqCmd_passed h hb]
  exact ⟨seqDone_of_passed h hv (bookkept_passed h hv hadv), bookkept_passed h hv hadv⟩

/-- A taken branch. -/
theorem seqCmd_branched {off : Int} (hb : f (withOp op w) t.val s c = .jump s off) (h0 : 0 ≤ ((getT s t.val).pc : Int) + off)
    (hf : fetchOk s c (((getT s t.val).pc : Int) + off).toNat 1 = true) :
    SeqDone s (seqCmd op f t w s) t (((getT s t.val).pc : Int) + off).toNat ∧
    Bookkept [] (seqPassed s t.val (((getT s t.val).pc : Int) + off).toNat) (seqCmd op f t w s) t.val := by
  rw [seqCmd_jumped h hb h0 hf]
  exact ⟨seqDone_of_passed h (.refl ..) (bookkept_passed h (.refl ..) h.adv), bookkept_passed h (.refl ..) h.adv⟩

theorem seqCmd_waits (hb : f (withOp op w) t.val s c = .wait s) :
    SeqWaits s (seqCmd op f t w s) t op ∧ regsBut [Reg.TILE_SEQ_STALL t.val] s (seqCmd op f t w s) := by
  rw [seqCmd_held h hb]
  exact seqWaits_of_held (bookkept_held h op)

end

end Sys2Proof
end

section
/-!
PROOFS. Ring advances (06 R212, R214): what one changes, when it overruns its ring, and its way through the tile's queue.
-/
namespace Sys2Proof

open Sys2Proof.Machine

/-! ### Rings and their registers -/

theorem ringAt_of_regsBut {l : List Nat} {s u : State} {t n : Nat} (h : regsBut l s u) (hcfg : Reg.TILE_RING_CFG t n ∉ l)
    (hptr : Reg.TILE_RING_PTR t n ∉ l) : ringAt u t n = ringAt s t n := by
  rw [ringAt, ringAt, h _ hcfg, h _ hptr]

/-- A tile's counters are none of its ring registers (Tables 06.11, 06.12, 07.9). -/
theorem ringAt_seqPassed (s : State) (t pc : Nat) {n : Nat} (hn : n < 32) : ringAt (seqPassed s t pc) t n = ringAt s t n :=
  ringAt_of_regsBut (regsBut_seqPassed s t pc) (by simp only [Reg.TILE_RING_CFG, Reg.TILE_SEQ_ISSUE, List.mem_singleton]; omega)
    (by simp only [Reg.TILE_RING_PTR, Reg.TILE_SEQ_ISSUE, List.mem_singleton]; omega)

/-- A ring whose head or tail has advanced by a count (R212). -/
def ringMoved (r : Ring) (tail : Bool) (k : Nat) : Ring :=
  if tail then { r with tail := (r.tail + k) % 65536 } else { r with head := (r.head + k) % 65536 }

theorem ringMoved_tail (r : Ring) (tail : Bool) (k : Nat) :
    (ringMoved r tail k).tail = if tail then (r.tail + k) % 65536 else r.tail := by cases tail <;> rfl

theorem ringMoved_head (r : Ring) (tail : Bool) (k : Nat) :
    (ringMoved r tail k).head = if tail then r.head else (r.head + k) % 65536 := by cases tail <;> rfl

/-- Whether an advance by k keeps the occupancy within 0 to S (R214). -/
def advFits (r : Ring) (tail : Bool) (k : Nat) : Prop := if tail then r.occ + k ≤ r.slots else k ≤ r.occ

theorem not_advFits (r : Ring) (tail : Bool) (k : Nat) : ¬ advFits r tail k ↔ if tail then r.slots < r.occ + k else r.occ < k := by
  cases tail <;> simp [advFits]

theorem ringMove_tile (s : State) (t n : Nat) (tail : Bool) (k : Nat) :
    ∃ wd, getT (ringMove s t n tail k) t = { getT s t with wdSince := wd } := by
  unfold ringMove
  dsimp only
  split <;> exact ⟨_, by rw [setF, getT_setR, getT_modT, if_pos rfl]⟩

theorem hasQueued_ringMove (s : State) (t n : Nat) (tail : Bool) (k : Nat) :
    hasQueued (getT (ringMove s t n tail k) t) = hasQueued (getT s t) := by
  obtain ⟨wd, tile⟩ := ringMove_tile s t n tail k
  rw [tile]
  rfl

theorem bookkept_ringMove (s : State) (t n : Nat) (tail : Bool) (k : Nat) :
    Bookkept [Reg.TILE_RING_PTR t n] s (ringMove s t n tail k) t := by
  obtain ⟨wd, tile⟩ := ringMove_tile s t n tail k
  refine ⟨⟨_, _, _, _, wd, tile⟩, fun x hx => ?_, fun a ha => ?_, ?_, ?_, ?_, ?_⟩ <;> unfold ringMove <;> dsimp only
  · split <;> rw [setF, getT_setR, getT_modT, if_neg hx]
  · split <;> rw [getR_setF, if_neg (by simpa using ha), getR_modT]
  all_goals split <;> rfl

theorem ringAt_ringMove (s : State) (t n : Nat) (tail : Bool) (k : Nat) :
    ringAt (ringMove s t n tail k) t n = ringMoved (ringAt s t n) tail k := by
  have cfg : getR (ringMove s t n tail k) (Reg.TILE_RING_CFG t n) = getR s (Reg.TILE_RING_CFG t n) :=
    (bookkept_ringMove s t n tail k).regs _ (by simp only [Reg.TILE_RING_CFG, Reg.TILE_RING_PTR, List.mem_singleton]; omega)
  rw [ringAt, cfg, ringMove]
  cases tail
  · simp only [Bool.false_eq_true, if_false, getR_setF, if_true, getR_modT]
    rw [Ring.of, fieldOf_setField _ _ (by decide), fieldOf_setField_other _ _ (by omega) (by decide)]
    simp [ringMoved, ringAt, Ring.of, getF]
  · simp only [if_true, getR_setF, getR_modT]
    rw [Ring.of, fieldOf_setField _ _ (by decide), fieldOf_setField_other _ _ (by omega) (by decide)]
    simp [ringMoved, ringAt, Ring.of, getF]

/-! ### An advance of a ring that is not spilled (06 R214) -/

section
variable {s : State} {t c n : Nat} (hspill : (getC s c).spill = [])
include hspill

theorem spilled_of_nil : spilled s t c n = false := by simp [spilled, ringRuns, hspill]

theorem ringLimit_of_nil (r : Ring) : ringLimit s t c n r = r.slots := by
  unfold ringLimit
  split
  · rw [spilled_of_nil hspill]
    rfl
  · rfl

variable {tail : Bool} {k : Nat}

theorem ringAdvance_ok (hen : (ringAt s t n).en = true) (hfit : advFits (ringAt s t n) tail k) :
    ringAdvance s t c n tail k = .ok (ringMove s t n tail k) := by
  have within : (if tail then decide ((ringAt s t n).slots < (ringAt s t n).occ + k) else decide ((ringAt s t n).occ < k)) = false := by
    cases tail <;> simpa [advFits] using hfit
  have after : (getC (ringMove s t n tail k) c).spill = [] := by rw [getC_of_ctxs (bookkept_ringMove s t n tail k).ctxs, hspill]
  simp [ringAdvance, ringLimit_of_nil hspill, hen, within, spilled_of_nil after]

theorem ringAdvance_beyond (hover : ¬ advFits (ringAt s t n) tail k) :
    ringAdvance s t c n tail k = .fault s { faultRec 6 t c 0 with detail := n } := by
  have beyond : (if tail then decide ((ringAt s t n).slots < (ringAt s t n).occ + k) else decide ((ringAt s t n).occ < k)) = true := by
    cases tail <;> simpa [advFits] using hover
  simp [ringAdvance, ringLimit_of_nil hspill, beyond]

end

/-! ### A tile whose only queued work is one ring advance -/

/-- Nothing waits in the tile's units but one ring advance, whose entry is all that the scoreboard holds. -/
structure OneAdv (x : Tile) (a : RingAdv) : Prop where
  enlQ : x.enl.queue = []
  pass : x.enl.pass = none
  fix : x.fix = none
  devQ : x.dev.queue = []
  advQ : x.advQ = [a]
  sb : ∀ e ∈ x.sb, e.pos = a.pos

theorem OneAdv.sbTidy {s : State} {t : Nat} {a : RingAdv} (h : OneAdv (getT s t) a) : OneAdv (getT (sbTidy s t) t) a := by
  rw [getT_sbTidy]
  exact ⟨h.enlQ, h.pass, h.fix, h.devQ, h.advQ, fun e he => h.sb e (List.mem_of_mem_filter he)⟩

/-- The state in which the only pending advance takes effect: neither it nor its scoreboard entry is there any more. -/
def advStart (s : State) (t : Nat) (a : RingAdv) : State :=
  setT s t { getT s t with advQ := [], sb := (getT s t).sb.filter (fun e => decide (e.pos ≠ a.pos)) }

theorem bookkept_advStart (s : State) (t : Nat) (a : RingAdv) : Bookkept [] s (advStart s t a) t :=
  bookkept_modT s t (fun x => { x with advQ := [], sb := x.sb.filter (fun e => decide (e.pos ≠ a.pos)) }) ⟨_, _, _, _, _, rfl⟩

/-- The state in which the advance takes effect in a round: the scoreboard's releases of the round come before it. -/
def advTurn (s : State) (t : Nat) (a : RingAdv) : State := advStart (sbTidy (tidied s t) t) t a

theorem bookkept_advTurn (s : State) (t : Nat) (a : RingAdv) : Bookkept [] s (advTurn s t a) t :=
  (((bookkept_sbTidy s t).trans (bookkept_sbTidy _ t)).trans (bookkept_sbTidy _ t)).trans (bookkept_advStart _ t a)

theorem advTurn_advQ (s : State) (t : Nat) (a : RingAdv) : (getT (advTurn s t a) t).advQ = [] := by
  rw [advTurn, advStart, getT_setT_self]

theorem ringAt_advTurn (s : State) (t : Nat) (a : RingAdv) (n : Nat) : ringAt (advTurn s t a) t n = ringAt s t n :=
  ringAt_of_regsBut (bookkept_advTurn s t a).regs (by simp) (by simp)

section
variable {s : State} {t : Nat} {a : RingAdv} (h : OneAdv (getT s t) a) (c n : Nat)
include h

theorem hasQueued_oneAdv : hasQueued (getT s t) = true := by simp [hasQueued, h.advQ]

/-- No entry is older than the advance's own, so nothing holds it (06 R209). -/
theorem oneAdv_unblocked :
    ((((getT s t).sb.find? (fun e => decide (e.pos = a.pos))).map (sbBlocks (sbAll (getT s t)))).getD false) = false := by
  have all : sbAll (getT s t) = (getT s t).sb := by simp [sbAll, devEntries, h.devQ]
  cases found : (getT s t).sb.find? (fun e => decide (e.pos = a.pos)) with
  | none => rfl
  | some e =>
    have young : ∀ o ∈ (getT s t).sb, ¬ o.pos < e.pos := fun o ho => by
      rw [h.sb o ho, h.sb e (List.mem_of_find?_eq_some found)]
      exact Nat.lt_irrefl _
    simp only [Option.map_some, Option.getD_some, all, sbBlocks, List.any_eq_false]
    intro o ho
    simp [young o ho]

theorem advPump_oneAdv_ok {u : State} (hx : ringAdvance (advStart s t a) t c a.ring a.tail a.count = .ok u)
    (hu : (getT u t).advQ = []) : advPump (n + 1) s t c = (u, none) := by
  simp only [advPump, h.advQ, oneAdv_unblocked h, Bool.false_eq_true, if_false]
  rw [← advStart, hx]
  cases n <;> simp [advPump, hu]

theorem advPump_oneAdv_fault {u : State} {r : ErrRec} (hx : ringAdvance (advStart s t a) t c a.ring a.tail a.count = .fault u r) :
    advPump (n + 1) s t c = (u, some r) := by
  simp only [advPump, h.advQ, oneAdv_unblocked h, Bool.false_eq_true, if_false]
  rw [← advStart, hx]

/-- A round over such a tile is the advance's turn. -/
theorem settleOnce_oneAdv : settleOnce s t c = advPump 32 (sbTidy (tidied s t) t) t c := by
  have enl : enlPump 5 s t c = (s, none) := by simp [enlPump, passPump, h.pass, h.enlQ]
  have fix : fixPump (sbTidy s t) t c = (sbTidy s t, none) := by simp [fixPump, h.sbTidy.fix]
  simp only [settleOnce, enl, thenStep, fix, devPump_nil c 8 h.sbTidy.sbTidy.devQ]
  rfl

variable {c n}

theorem settle_oneAdv_ok {u : State} (hx : ringAdvance (advTurn s t a) t c a.ring a.tail a.count = .ok u)
    (hu : hasQueued (getT u t) = false) : settle (n + 2) s t c = (sbTidy u t, none) := by
  have empty : (getT u t).advQ = [] := by
    simp only [hasQueued, Bool.or_eq_false_iff, Bool.not_eq_false', List.isEmpty_iff] at hu
    exact hu.2
  have round : settleOnce s t c = (u, none) := by
    rw [settleOnce_oneAdv h c]
    exact advPump_oneAdv_ok h.sbTidy.sbTidy.sbTidy c 31 hx empty
  rw [settle, if_pos (hasQueued_oneAdv h), round]
  dsimp only
  rw [if_neg (by simp [h.advQ, empty]), settle, hu]
  rfl

theorem settle_oneAdv_fault {u : State} {r : ErrRec} (hx : ringAdvance (advTurn s t a) t c a.ring a.tail a.count = .fault u r) :
    settle (n + 1) s t c = (u, some r) := by
  have round : settleOnce s t c = (u, some r) := by
    rw [settleOnce_oneAdv h c]
    exact advPump_oneAdv_fault h.sbTidy.sbTidy.sbTidy c 31 hx
  rw [settle, if_pos (hasQueued_oneAdv h), round]

variable {k : CtxId} (hrun : (getT s t).run = some k) (hseq : (getT s t).seq ≠ .stopped) (hspill : (getC s k.val).spill = [])
include hrun hseq hspill

/-- An advance that fits takes effect: its ring moves, and the rest is bookkeeping (06 R214). -/
theorem tileStep_oneAdv_ok (hen : (ringAt s t a.ring).en = true) (hfit : advFits (ringAt s t a.ring) a.tail a.count) :
    Bookkept [Reg.TILE_RING_PTR t a.ring] s (tileStep t (s, none)) t ∧
    ringAt (tileStep t (s, none)) t a.ring = ringMoved (ringAt s t a.ring) a.tail a.count := by
  have spill : (getC (advTurn s t a) k.val).spill = [] := by rw [getC_of_ctxs (bookkept_advTurn s t a).ctxs, hspill]
  have adv := ringAdvance_ok (tail := a.tail) (k := a.count) spill (by rwa [ringAt_advTurn]) (by rwa [ringAt_advTurn])
  have turn := bookkept_advTurn s t a
  have all := (turn.mono (by simp)).trans (bookkept_ringMove (advTurn s t a) t a.ring a.tail a.count)
  have quiet : hasQueued (getT (ringMove (advTurn s t a) t a.ring a.tail a.count) t) = false := by
    rw [hasQueued_ringMove]
    simp [hasQueued, turn.enl, turn.fix, turn.dev, advTurn_advQ, h.enlQ, h.pass, h.fix, h.devQ]
  have eq : tileStep t (s, none) = watchWindow (sbTidy (ringMove (advTurn s t a) t a.ring a.tail a.count) t) t := by
    simp only [tileStep, andSettle, hrun, if_neg hseq, settle_oneAdv_ok h adv quiet]
    rfl
  have tail := (bookkept_sbTidy (ringMove (advTurn s t a) t a.ring a.tail a.count) t).trans (bookkept_watchWindow _ t)
  rw [eq]
  refine ⟨all.trans (tail.mono (by simp)), ?_⟩
  rw [ringAt_of_regsBut tail.regs (by simp) (by simp), ringAt_ringMove, ringAt_advTurn]

/-- One that does not is a ring overrun. -/
theorem tileStep_oneAdv_beyond (hover : ¬ advFits (ringAt s t a.ring) a.tail a.count) : Faulted (tileStep t (s, none)) k.val 6 := by
  have spill : (getC (advTurn s t a) k.val).spill = [] := by rw [getC_of_ctxs (bookkept_advTurn s t a).ctxs, hspill]
  have adv := ringAdvance_beyond (tail := a.tail) (k := a.count) spill (by rwa [ringAt_advTurn])
  have eq : tileStep t (s, none) = tileStep t (advTurn s t a, some { faultRec 6 t k.val 0 with detail := a.ring }) := by
    simp only [tileStep, andSettle, hrun, if_neg hseq, settle_oneAdv_fault h adv]
  rw [eq]
  exact tileStep_fault (advTurn s t a) t _

end

end Sys2Proof
end

section
/-!
PROOFS. The driver's writes of a tile's ring configurations and strip bases (06 R213, 07 R262): the rows of a tile's registers, and what
a write leaves.
-/
namespace Sys2Proof

open Sys2Proof.Machine

/-! ### The rows of a tile's window: each tile's registers are placed alike (01 Table 01.7) -/

/-- How far beyond its first register an array reaches. -/
def dimsReach (dims : List (Nat × Nat)) : Nat := (dims.map (fun d => d.1 * (d.2 - 1))).sum

theorem dimsHold_bounds {dims : List (Nat × Nat)} {base a : Nat} (h : dimsHold dims base a = true) : base ≤ a ∧ a ≤ base + dimsReach dims := by
  induction dims generalizing base with
  | nil =>
    rw [of_decide_eq_true h]
    simp
  | cons d dims ih =>
    obtain ⟨stride, count⟩ := d
    simp only [dimsHold, Bool.and_eq_true, decide_eq_true_eq] at h
    obtain ⟨le, rest⟩ := h
    have inner := (ih rest).2
    have step : stride * min ((a - base) / stride) (count - 1) ≤ stride * (count - 1) := Nat.mul_le_mul_left _ (Nat.min_le_right _ _)
    simp only [dimsReach, List.map_cons, List.sum_cons] at inner ⊢
    omega

theorem dimsHold_add (dims : List (Nat × Nat)) (base a k : Nat) : dimsHold dims (base + k) (a + k) = dimsHold dims base a := by
  induction dims generalizing base with
  | nil => simp [dimsHold]
  | cons d dims ih =>
    obtain ⟨stride, count⟩ := d
    simp only [dimsHold, Nat.add_sub_add_right, Nat.add_le_add_iff_right]
    rw [Nat.add_right_comm base k, ih]

/-- The row of a register that every tile's window holds, within its 64 KiB. -/
def TileRow (r : RegRow) : Prop :=
  r.dims = (0x10000, 256) :: r.dims.tail ∧ 0x01000000 ≤ r.base ∧ r.base + dimsReach r.dims.tail < 0x01010000

/-- Tile t's window holds a register where tile 0's does. -/
theorem dimsHold_tile {r : RegRow} (h : TileRow r) {t off : Nat} (ht : t < 256) (hoff : off < 0x10000) :
    dimsHold r.dims r.base (0x01000000 + 0x10000 * t + off) = dimsHold r.dims r.base (0x01000000 + off) := by
  obtain ⟨dims, base, reach⟩ := h
  rw [dims]
  simp only [dimsHold]
  by_cases le : r.base ≤ 0x01000000 + off
  · have quotient : min ((0x01000000 + 0x10000 * t + off - r.base) / 0x10000) (256 - 1) = t := by omega
    have first : min ((0x01000000 + off - r.base) / 0x10000) (256 - 1) = 0 := by omega
    rw [quotient, first, show 0x01000000 + 0x10000 * t + off = 0x01000000 + off + 0x10000 * t by omega, dimsHold_add]
    simp [le, show r.base ≤ 0x01000000 + off + 0x10000 * t by omega]
  · rw [decide_eq_false le, Bool.false_and, Bool.eq_false_iff]
    intro held
    simp only [Bool.and_eq_true, decide_eq_true_eq] at held
    have bounds := dimsHold_bounds held.2
    omega

/-- The rows of Tables 03.9, 04.8, 05.8, 06.6, 07.9 and 15.11. -/
def tileRows : List RegRow := regs03_9 ++ regs04_8 ++ regs05_8 ++ regs06_6 ++ regs07_9 ++ regs15_11

theorem tileRow_of_mem : ∀ r ∈ tileRows, TileRow r := by
  unfold TileRow
  decide

theorem regRow_tile {t off : Nat} (ht : t < 256) (hoff : off < 0x10000) :
    regRow (0x01000000 + 0x10000 * t + off) = regRow (0x01000000 + off) := by
  have rows : ∀ a, 0x01000000 ≤ a → a < 0x02000000 → regRowsAt a = tileRows := fun a h1 h2 => if_pos ⟨h1, h2⟩
  rw [regRow, regRow, rows _ (by omega) (by omega), rows _ (by omega) (by omega)]
  exact List.find?_congr (fun r hr => dimsHold_tile (tileRow_of_mem r hr) ht hoff)

theorem regRow_ringCfg (t : TileId) (n : Fin 32) : regRow (Reg.TILE_RING_CFG t.val n.val) = some ⟨"TILE_RING_CFG", 0x01005100,
    [(0x10000, 256), (0x4, 32)], 0, [⟨"en", 31, 31, .rw, none⟩, ⟨"slots_m1", 28, 25, .rw, none⟩, ⟨"slot_size_m1", 24, 15, .rw, none⟩,
      ⟨"base", 14, 0, .rw, none⟩]⟩ := by
  have place : Reg.TILE_RING_CFG t.val n.val = 0x01000000 + 0x10000 * t.val + (0x5100 + 0x4 * n.val) := by
    simp only [Reg.TILE_RING_CFG]
    omega
  rw [place, regRow_tile t.isLt (by omega)]
  clear place
  revert n
  decide

theorem regRow_stripBase (t : TileId) (n : Fin 16) : regRow (Reg.TILE_STRIP_BASE t.val n.val) = some ⟨"TILE_STRIP_BASE", 0x01000040,
    [(0x10000, 256), (0x4, 16)], 0, [⟨"base", 20, 6, .rw, none⟩]⟩ := by
  have place : Reg.TILE_STRIP_BASE t.val n.val = 0x01000000 + 0x10000 * t.val + (0x40 + 0x4 * n.val) := by
    simp only [Reg.TILE_STRIP_BASE]
    omega
  rw [place, regRow_tile t.isLt (by omega)]
  clear place
  revert n
  decide

/-! ### Writes of read-write fields (00 R15) -/

theorem fieldOf_lt {n : Nat} (w : BitVec n) (hi lo : Nat) : fieldOf w hi lo < 2 ^ (hi + 1 - lo) := Nat.mod_lt _ (Nat.two_pow_pos _)

/-- A read-write field with no stated range takes the field of the value written. -/
theorem writeField_rw {a : Nat} (lock : Bool) (v : Word) (r : Written) {f : RegField} (ha : a ≠ Reg.TIME_PPS_OUT_OFS) (hacc : f.acc = .rw)
    (hrange : f.range = none) : writeField a lock v r f = { r with value := setField r.value f.hi f.lo (fieldOf v f.hi f.lo) } := by
  simp [writeField, hacc, fieldInRange, ha, hrange]

theorem writeValue_ringCfg (t : TileId) (n : Fin 32) (lock : Bool) (old v : Word) : (writeValue (Reg.TILE_RING_CFG t.val n.val) lock old v).value =
    setField (setField (setField (setField old 31 31 (fieldOf v 31 31)) 28 25 (fieldOf v 28 25)) 24 15 (fieldOf v 24 15)) 14 0
      (fieldOf v 14 0) := by
  have ha : Reg.TILE_RING_CFG t.val n.val ≠ Reg.TIME_PPS_OUT_OFS := by
    simp only [Reg.TILE_RING_CFG, Reg.TIME_PPS_OUT_OFS]
    omega
  simp [writeValue, regFields, regRow_ringCfg, writeField_rw _ _ _ ha]

theorem writeValue_stripBase (t : TileId) (n : Fin 16) (lock : Bool) (old v : Word) :
    (writeValue (Reg.TILE_STRIP_BASE t.val n.val) lock old v).value = setField old 20 6 (fieldOf v 20 6) := by
  have ha : Reg.TILE_STRIP_BASE t.val n.val ≠ Reg.TIME_PPS_OUT_OFS := by
    simp only [Reg.TILE_STRIP_BASE, Reg.TIME_PPS_OUT_OFS]
    omega
  simp [writeValue, regFields, regRow_stripBase, writeField_rw _ _ _ ha]

theorem ringCfg_ne_hostStatus (t n : Nat) : Reg.TILE_RING_CFG t n ≠ Reg.ERR_HOST_STATUS := by
  simp only [Reg.TILE_RING_CFG, Reg.ERR_HOST_STATUS]
  omega

theorem stripBase_ne_hostStatus (t n : Nat) : Reg.TILE_STRIP_BASE t n ≠ Reg.ERR_HOST_STATUS := by
  simp only [Reg.TILE_STRIP_BASE, Reg.ERR_HOST_STATUS]
  omega

/-- What a register write leaves alone. -/
structure RegisterWrite (s u : State) (a : Nat) : Prop where
  regs : regsBut [a, Reg.ERR_HOST_STATUS] s u
  mem : sameBytes s u
  units : SameUnits s u

theorem registerWrite_regWrite (s : State) (a : Nat) (v : Word) : RegisterWrite s (regWrite s a v) a := by
  have regs := regBut_regWrite s a v
  obtain ⟨m, h⟩ := putReg_eq s a (deployed s) v
  rw [regWrite, h] at regs ⊢
  exact ⟨regs, fun _ => rfl, rfl, rfl, rfl, rfl, rfl, rfl⟩

/-- A further write of the register or of ERR_HOST_STATUS. -/
theorem RegisterWrite.setR {s u : State} {a b : Nat} (h : RegisterWrite s u a) (v : Word) (hb : b ∈ [a, Reg.ERR_HOST_STATUS]) :
    RegisterWrite s (setR u b v) a :=
  ⟨fun x hx => (getR_setR_other u v (by rintro rfl; exact hx hb)).trans (h.regs x hx), h.mem,
   h.units.tiles, h.units.ctxs, h.units.plan, h.units.carriers, h.units.peer, h.units.otp⟩

theorem RegisterWrite.reservedWrite {s u : State} {a : Nat} (h : RegisterWrite s u a) : RegisterWrite s (reservedWrite u) a :=
  h.setR _ (by simp)

theorem RegisterWrite.setBitR {s u : State} {a : Nat} (h : RegisterWrite s u a) (i : Nat) (b : Bool) : RegisterWrite s (setBitR u a i b) a :=
  h.setR _ (by simp)

theorem getB_reservedWrite (s : State) : getB (reservedWrite s) Reg.ERR_HOST_STATUS 0 = true := by
  simp [reservedWrite, getB_flag]

/-! ### TILE_RING_CFG and TILE_STRIP_BASE -/

theorem registerWrite_ringCfgWrite (s : State) (t n : Nat) (v : Word) : RegisterWrite s (ringCfgWrite s t n v) (Reg.TILE_RING_CFG t n) := by
  have write := registerWrite_regWrite s (Reg.TILE_RING_CFG t n) v
  unfold ringCfgWrite
  split
  · exact write
  · exact (write.setBitR 31 false).reservedWrite

/-- An accepted configuration reads as the ring it describes. -/
theorem ringCfgWrite_accepted (s : State) (t : TileId) (n : Fin 32) {v : Word} (h : ringCfgOk v = true) (p : Word) :
    Ring.of (getR (ringCfgWrite s t.val n.val v) (Reg.TILE_RING_CFG t.val n.val)) p = Ring.of v p := by
  rw [ringCfgWrite, if_pos h, regWrite, getR_putReg_self _ _ _ _ (by rw [regRow_ringCfg]; rfl) (ringCfg_ne_hostStatus _ _),
    writeValue_ringCfg]
  generalize getR s _ = old
  have base := fieldOf_lt v 14 0
  have size := fieldOf_lt v 24 15
  have slots := fieldOf_lt v 28 25
  simp only [Ring.of, Ring.mk.injEq, and_true]
  refine ⟨?_, ?_, ?_, ?_⟩
  · have last : (31 : Nat) < 32 := by decide
    rw [bitOf, setField_bit _ _ _ _ _ last, if_neg (by omega), setField_bit _ _ _ _ _ last, if_neg (by omega),
      setField_bit _ _ _ _ _ last, if_neg (by omega), setField_bit _ _ _ _ _ last, if_pos (by omega), fieldOf_bit]
    simp [bitOf]
  · rw [fieldOf_setField_other _ _ (by omega) (by omega), fieldOf_setField_other _ _ (by omega) (by omega), fieldOf_setField _ _ (by omega),
      Nat.mod_eq_of_lt slots]
  · rw [fieldOf_setField_other _ _ (by omega) (by omega), fieldOf_setField _ _ (by omega), Nat.mod_eq_of_lt size]
  · rw [fieldOf_setField _ _ (by omega), Nat.mod_eq_of_lt base]

/-- A configuration beyond its limits leaves the ring disabled, and counts as a reserved write (06 R213). -/
theorem ringCfgWrite_refused (s : State) (t n : Nat) {v : Word} (h : ringCfgOk v = false) :
    (ringAt (ringCfgWrite s t n v) t n).en = false ∧ getB (ringCfgWrite s t n v) Reg.ERR_HOST_STATUS 0 = true := by
  rw [ringCfgWrite, if_neg (by simp [h])]
  refine ⟨?_, getB_reservedWrite _⟩
  simp only [ringAt, Ring.of, reservedWrite]
  rw [getR_flag, if_neg (ringCfg_ne_hostStatus t n), getR_setBitR, if_pos rfl, bitOf_setBit_self _ _ _ (by decide)]

theorem registerWrite_stripBaseWrite (s : State) (t n : Nat) (v : Word) :
    RegisterWrite s (stripBaseWrite s t n v) (Reg.TILE_STRIP_BASE t n) := by
  have nothing : RegisterWrite s s (Reg.TILE_STRIP_BASE t n) := ⟨fun _ _ => rfl, fun _ => rfl, rfl, rfl, rfl, rfl, rfl, rfl⟩
  unfold stripBaseWrite
  split
  · exact nothing.reservedWrite
  · exact registerWrite_regWrite s _ v

theorem stripBaseWrite_accepted (s : State) (t : TileId) (n : Fin 16) {v : Word} (h : fieldOf v 20 6 * 64 ≤ 0x17FFC0) :
    getF (stripBaseWrite s t.val n.val v) (Reg.TILE_STRIP_BASE t.val n.val) 20 6 = fieldOf v 20 6 := by
  rw [stripBaseWrite, if_neg (by omega), getF, regWrite, getR_putReg_self _ _ _ _ (by rw [regRow_stripBase]; rfl)
    (stripBase_ne_hostStatus _ _), writeValue_stripBase, fieldOf_setField _ _ (by omega)]
  exact Nat.mod_eq_of_lt (fieldOf_lt v 20 6)

/-- A base beyond the scratchpad leaves the register, and counts as a reserved write (07 R262). -/
theorem stripBaseWrite_refused (s : State) (t n : Nat) {v : Word} (h : 0x17FFC0 < fieldOf v 20 6 * 64) :
    getR (stripBaseWrite s t n v) (Reg.TILE_STRIP_BASE t n) = getR s (Reg.TILE_STRIP_BASE t n) ∧
    getB (stripBaseWrite s t n v) Reg.ERR_HOST_STATUS 0 = true := by
  rw [stripBaseWrite, if_pos h]
  exact ⟨getR_setR_other s _ (stripBase_ne_hostStatus t n), getB_reservedWrite s⟩

end Sys2Proof
end

section
/-!
PROOFS. RING.WAIT, RING.ADV, advances from other tiles, SEQ.STRIP and SEQ.SRET on a ready tile (06 R212 to R215; 07 R238, R239, R262).
-/
namespace Sys2Proof

open Sys2Proof.Machine

/-! ### RING.WAIT (06 R214) -/

theorem ringReady_eq_true (r : Ring) (free : Bool) (k : Nat) :
    ringReady r free k = true ↔ if free then k + r.occ ≤ r.slots else k ≤ r.occ := by cases free <;> simp [ringReady]

theorem ringReady_eq_false (r : Ring) (free : Bool) (k : Nat) :
    ringReady r free k = false ↔ if free then r.slots < k + r.occ else r.occ < k := by cases free <;> simp [ringReady]

theorem ringWait_withOp (op : Nat) (w : Word64) : ringWait (withOp op w) = ringWait w := by
  funext t s c
  simp only [ringWait, onlyFields_withOp, fieldOf_withOp _ _ _ (show 52 < 56 by decide), fieldOf_withOp _ _ _ (show 47 < 56 by decide),
    bitOf_withOp _ _ (show 55 < 56 by decide)]

section
variable {s : State} {t c : Nat} {w : Word64} (hw : onlyFields w [(55, 55), (52, 48), (47, 44)] = true)
include hw

theorem ringWait_enabled (hen : (ringAt s t (fieldOf w 52 48)).en = true) : ringWait w t s c =
    if ringReady (ringAt s t (fieldOf w 52 48)) (bitOf w 55) (fieldOf w 47 44 + 1) then .next s else .wait s := by
  simp [ringWait, hw, hen]

theorem ringWait_disabled (hen : (ringAt s t (fieldOf w 52 48)).en = false) :
    ringWait w t s c = .fault s { faultRec 6 t c 0 with detail := fieldOf w 52 48 } := by
  simp [ringWait, hw, hen]

end

/-! ### RING.ADV (06 R214) -/

/-- The body of RING.ADV, which takes a scoreboard entry (06 R208). -/
def ringAdvBody (w : Word64) (t : Nat) (s : State) (c : Nat) : SeqRes := sbGate t s (fun s => ringAdv w t s c)

theorem ringAdvBody_withOp (op : Nat) (w : Word64) : ringAdvBody (withOp op w) = ringAdvBody w := by
  funext t s c
  simp only [ringAdvBody, ringAdv, onlyFields_withOp, fieldOf_withOp _ _ _ (show 52 < 56 by decide),
    fieldOf_withOp _ _ _ (show 47 < 56 by decide), bitOf_withOp _ _ (show 55 < 56 by decide)]

theorem exec_ringAdv (t : TileId) (w : Word64) (s : State) : exec (.ringAdv t w) s = .next (seqCmd 0xC8 ringAdvBody t w s) := rfl

/-- The advance that a RING.ADV issues on tile t. -/
def advOf (s : State) (t : Nat) (w : Word64) : RingAdv := ⟨(getT s t).sbSeq, fieldOf w 52 48, bitOf w 55, fieldOf w 47 44 + 1⟩

/-- The state after the body of a RING.ADV: the advance is pending, with its scoreboard entry. -/
def advIssued (s : State) (t : Nat) (w : Word64) : State :=
  modT (modT (nextPos s t).2 t (fun x => sbEnter { x with advQ := x.advQ ++ [advOf s t w] }
    (advEntry s t (getT s t).sbSeq (fieldOf w 52 48) (bitOf w 55) (fieldOf w 47 44 + 1)))) t
    (fun x => { x with sbHigh := max x.sbHigh (sbInUse x) })

theorem bookkept_nextPos (s : State) (t : Nat) : Bookkept [] s (nextPos s t).2 t :=
  bookkept_modT s t (fun x => { x with sbSeq := x.sbSeq + 1 }) ⟨_, _, _, _, _, rfl⟩

theorem bookkept_advIssued (s : State) (t : Nat) (w : Word64) : Bookkept [] s (advIssued s t w) t := by
  unfold advIssued
  exact ((bookkept_nextPos s t).trans (bookkept_modT _ t _ ⟨_, _, _, _, _, rfl⟩)).trans (bookkept_modT _ t _ ⟨_, _, _, _, _, rfl⟩)

section
variable {s : State} {t : TileId} {c : Nat} {w : Word64} (h : TileReady s t c 1)
include h

theorem sbInUse_of_ready : sbInUse (getT s t.val) = 0 := by simp [sbInUse, sbAll, h.sb, devEntries, h.devQ]

theorem oneAdv_advIssued (pc : Nat) : OneAdv (getT (seqPassed (advIssued s t.val w) t.val pc) t.val) (advOf s t.val w) := by
  have kept := bookkept_advIssued s t.val w
  rw [getT_seqPassed]
  refine ⟨?_, ?_, ?_, ?_, ?_, ?_⟩ <;> dsimp only
  · rw [kept.enl, h.enlQ]
  · rw [kept.enl, h.pass]
  · rw [kept.fix, h.fix]
  · rw [kept.dev, h.devQ]
  · simp [advIssued, nextPos, sbEnter, getT_modT, h.adv]
  · simp [advIssued, nextPos, sbEnter, getT_modT, h.sb, advEntry, advOf]

variable (hw : onlyFields w [(55, 55), (52, 48), (47, 44)] = true)
include hw

theorem ringAdvBody_enabled (hen : (ringAt s t.val (fieldOf w 52 48)).en = true) : ringAdvBody w t.val s c = .next (advIssued s t.val w) := by
  simp only [ringAdvBody, sbGate, sbInUse_of_ready h, ringAdv, hw, hen]
  rfl

theorem ringAdvBody_disabled (hen : (ringAt s t.val (fieldOf w 52 48)).en = false) :
    ringAdvBody w t.val s c = .fault s { faultRec 6 t.val c 0 with detail := fieldOf w 52 48 } := by
  simp only [ringAdvBody, sbGate, sbInUse_of_ready h, ringAdv, hw, hen]
  rfl

/-- The tile that has issued a RING.ADV: it runs its context, and the ring is as it was. -/
theorem ringAdv_issues (hen : (ringAt s t.val (fieldOf w 52 48)).en = true) : ∃ (x : State) (k : CtxId),
    seqCmd 0xC8 ringAdvBody t w s = tileStep t.val (x, none) ∧ x = seqPassed (advIssued s t.val w) t.val ((getT s t.val).pc + 1) ∧
    k.val = c ∧ (getT x t.val).run = some k ∧ (getT x t.val).seq ≠ .stopped ∧ x.ctxs = s.ctxs ∧
    ringAt x t.val (fieldOf w 52 48) = ringAt s t.val (fieldOf w 52 48) := by
  have kept := bookkept_advIssued s t.val w
  obtain ⟨k, hrun, hk, -⟩ := h.run
  refine ⟨_, k, seqCmd_passed h (by rw [ringAdvBody_withOp]; exact ringAdvBody_enabled h hw hen), rfl, hk, ?_, ?_, kept.ctxs, ?_⟩
  · rw [getT_seqPassed]
    exact kept.run.trans hrun
  · rw [getT_seqPassed, kept.seq]
    obtain e | e | e := h.seq <;> simp [e]
  · rw [ringAt_seqPassed _ _ _ (fieldOf_lt w 52 48), ringAt_of_regsBut kept.regs (by simp) (by simp)]

end

/-! ### Advances from other tiles (06 R215) -/

/-- An advance of a ring of the context that runs on the tile moves the ring itself, and the rest is bookkeeping. -/
theorem advanceArrives_running {s : State} {a : RingTransit} (hrun : (getT s a.tile).run.map (·.val) = some a.ctx)
    (hen : (ringAt s a.tile a.ring).en = true) (hspill : (getC s a.ctx).spill = []) (hq : hasQueued (getT s a.tile) = false)
    (hfit : advFits (ringAt s a.tile a.ring) a.tail a.count) :
    Bookkept [Reg.TILE_RING_PTR a.tile a.ring] s (tileStep a.tile (advanceArrives s a)) a.tile ∧
    ringAt (tileStep a.tile (advanceArrives s a)) a.tile a.ring = ringMoved (ringAt s a.tile a.ring) a.tail a.count := by
  have arrives : advanceArrives s a = (ringMove s a.tile a.ring a.tail a.count, none) := by
    simp only [advanceArrives, hrun, true_or, if_true, ringAdvance_ok hspill hen hfit]
    rfl
  have rest := tileStep_quiet ((hasQueued_ringMove s a.tile a.ring a.tail a.count).trans hq)
  rw [arrives]
  exact ⟨(bookkept_ringMove ..).trans (rest.mono (by simp)), by rw [ringAt_of_regsBut rest.regs (by simp) (by simp), ringAt_ringMove]⟩

theorem exec_remoteRingAdvance {r : RemoteAdv} {a : RingTransit} {s : State}
    (hfind : s.advances.find? (fun a => decide (a.tile = r.tile.val ∧ a.ring = r.ring.val ∧ a.tail = r.tail ∧ a.count = r.count)) = some a) :
    exec (.remoteRingAdvance r) s = .next (tileStep r.tile.val (advanceArrives { s with advances := s.advances.erase a } a)) := by
  change execRemoteRingAdvance r s = _
  simp only [execRemoteRingAdvance, hfind]

/-! ### Strips (07 R238, R239, R262) -/

theorem pGet_pSet (s : State) (t n : Nat) (v : BitVec 48) (m : Nat) : pGet (pSet s t n v) t m = if m = n then v else pGet s t m := by
  rw [pGet, pSet, getT_modT, if_pos rfl, mapGet_mapSet]
  rfl

/-- The state of a tile that has taken a strip of a program: its number, its threads and the base of its slot stand in three pointers. -/
def stripTaken (s : State) (t pd strip threads : Nat) : State :=
  modT (pSet (pSet (pSet s t pd (BitVec.ofNat 48 strip)) t (pd + 1) (BitVec.ofNat 48 (min 256 (threads - 256 * strip)))) t (pd + 2)
    (BitVec.ofNat 48 (getN s (Reg.TILE_STRIP_BASE t ((getT s t).stripNext % 16))))) t
    (fun x => { x with held := x.held ++ [strip], stripNext := x.stripNext + 1 })

/-- The strip that the tile at its position among a program's tiles takes next (07 R239). -/
def nextStrip (s : State) (t : Nat) (p : Program) : Nat :=
  (getT s t).stripNext * (tilesOf p.tiles).length + ((tilesOf p.tiles).filter (fun x => decide (x < t))).length

theorem UnitsKept.trans {s u v : State} {t : Nat} (h : UnitsKept s u t) (k : UnitsKept u v t) : UnitsKept s v t :=
  ⟨k.run.trans h.run, k.seq.trans h.seq, k.dev.trans h.dev, k.enl.trans h.enl, k.fix.trans h.fix,
   fun x hx => (k.others x hx).trans (h.others x hx), k.plan.trans h.plan, k.mem.trans h.mem⟩

/-- A change of tile t's pointers and strips alone. -/
theorem unitsKept_modT (s : State) (t : Nat) (f : Tile → Tile)
    (h : ∃ p held next, f (getT s t) = { getT s t with p := p, held := held, stripNext := next }) : UnitsKept s (modT s t f) t := by
  obtain ⟨p, held, next, e⟩ := h
  refine ⟨?_, ?_, ?_, ?_, ?_, fun x hx => by rw [getT_modT, if_neg hx], rfl, rfl⟩ <;> rw [getT_modT, if_pos rfl, e]

theorem unitsKept_pSet (s : State) (t n : Nat) (v : BitVec 48) : UnitsKept s (pSet s t n v) t := unitsKept_modT s t _ ⟨_, _, _, rfl⟩

theorem unitsKept_stripTaken (s : State) (t pd strip threads : Nat) : UnitsKept s (stripTaken s t pd strip threads) t :=
  (((unitsKept_pSet s t _ _).trans (unitsKept_pSet _ t _ _)).trans (unitsKept_pSet _ t _ _)).trans (unitsKept_modT _ t _ ⟨_, _, _, rfl⟩)

theorem getT_stripTaken (s : State) (t pd strip threads : Nat) : ∃ p, getT (stripTaken s t pd strip threads) t =
    { getT s t with p := p, held := (getT s t).held ++ [strip], stripNext := (getT s t).stripNext + 1 } := by
  simp only [stripTaken, pSet, getT_modT, if_true]
  exact ⟨_, rfl⟩

theorem pGet_stripTaken (s : State) (t pd strip threads n : Nat) : pGet (stripTaken s t pd strip threads) t n =
    if n = pd + 2 then BitVec.ofNat 48 (getN s (Reg.TILE_STRIP_BASE t ((getT s t).stripNext % 16)))
    else if n = pd + 1 then BitVec.ofNat 48 (min 256 (threads - 256 * strip))
    else if n = pd then BitVec.ofNat 48 strip else pGet s t n := by
  rw [← pGet_pSet, ← pGet_pSet, ← pGet_pSet, stripTaken, pGet, getT_modT, if_pos rfl]
  rfl

theorem seqStrip_withOp (op : Nat) (w : Word64) : seqStrip (withOp op w) = seqStrip w := by
  funext t s c
  simp only [seqStrip, onlyFields_withOp, fieldOf_withOp _ _ _ (show 55 < 56 by decide), fieldOf_withOp _ _ _ (show 23 < 56 by decide)]

theorem seqSret_withOp (op : Nat) (w : Word64) : seqSret (withOp op w) = seqSret w := by
  funext t s c
  simp only [seqSret, onlyFields_withOp]

theorem seqStrip_full {s : State} {t : Nat} (c : Nat) (w : Word64) (hfull : 16 ≤ (getT s t).held.length) :
    seqStrip w t s c = illegalSeq s t c := by
  simp [seqStrip, hfull]

section
variable {s : State} {t c : Nat} {w : Word64} {p : Program} (hw : onlyFields w [(55, 52), (23, 0)] = true) (hpd : fieldOf w 55 52 ≤ 13)
  (hheld : (getT s t).held.length < 16) (hp : programOf s c = some p)
include hw hpd hheld hp

theorem seqStrip_takes (hleft : 256 * nextStrip s t p < p.threads) :
    seqStrip w t s c = .next (stripTaken s t (fieldOf w 55 52) (nextStrip s t p) p.threads) := by
  unfold nextStrip at hleft ⊢
  simp [seqStrip, hw, hp, Nat.not_lt.mpr hpd, Nat.not_le.mpr hheld, Nat.not_le.mpr hleft, stripTaken]

theorem seqStrip_ends (hnone : p.threads ≤ 256 * nextStrip s t p) : seqStrip w t s c = .jump s (signed 24 (fieldOf w 23 0)) := by
  unfold nextStrip at hnone
  simp [seqStrip, hw, hp, Nat.not_lt.mpr hpd, Nat.not_le.mpr hheld, hnone]

end

/-- The state of a tile that has retired its oldest strip. -/
def stripRetired (s : State) (t : Nat) (rest : List Nat) : State := modT s t (fun x => { x with held := rest })

theorem unitsKept_stripRetired (s : State) (t : Nat) (rest : List Nat) : UnitsKept s (stripRetired s t rest) t :=
  unitsKept_modT s t _ ⟨_, _, _, rfl⟩

theorem seqSret_retires {s : State} {t c h : Nat} {l : List Nat} {w : Word64} (hw : onlyFields w [] = true) (hheld : (getT s t).held = h :: l) :
    seqSret w t s c = .next (stripRetired s t l) := by
  simp only [seqSret, hheld, hw, if_true]
  rfl

theorem seqSret_empty {s : State} {t : Nat} (c : Nat) (w : Word64) (hheld : (getT s t).held = []) : seqSret w t s c = illegalSeq s t c := by
  simp only [seqSret, hheld]

end Sys2Proof
end

section
/-!
PROOFS. The clauses on rings and strips, and the statement they make up (06 R212 to R215; 07 R238, R239, R262).
-/
namespace Sys2Proof

open Sys2Proof.Machine

/-- A passing instruction whose body writes no register leaves the pointers its body leaves, and counts one issue. -/
theorem bookkept_passed_frame {s u v : State} {t : TileId} {pc : Nat} (hv : v.regs = s.regs)
    (hu : Bookkept [] (seqPassed v t.val pc) u t.val) :
    (getT u t.val).p = (getT v t.val).p ∧ regsBut [Reg.TILE_SEQ_ISSUE t.val] s u := by
  refine ⟨by rw [hu.p, getT_seqPassed], fun a ha => ?_⟩
  rw [hu.regs a (by simp), regsBut_seqPassed v t.val pc a ha, getR_of_regs hv]

/-! ### Rings -/

section
variable {s : State} {t : TileId} {c : Nat} {w : Word64} (h : TileReady s t c 1)
include h

variable (hw : onlyFields w [(55, 55), (52, 48), (47, 44)] = true)
include hw

theorem ringWait_passes (hen : (ringAt s t.val (fieldOf w 52 48)).en = true)
    (hready : ringReady (ringAt s t.val (fieldOf w 52 48)) (bitOf w 55) (fieldOf w 47 44 + 1) = true) :
    ∃ u : State, exec (.ringWait t w) s = .next u ∧ SeqDone s u t ((getT s t.val).pc + 1) ∧ (getT u t.val).p = (getT s t.val).p ∧
      regsBut [Reg.TILE_SEQ_ISSUE t.val] s u := by
  obtain ⟨done, kept⟩ := seqCmd_done (op := 0xC7) (f := ringWait) (w := w) h
    (by rw [ringWait_withOp, ringWait_enabled hw hen, if_pos hready]) (.refl ..) h.adv
  exact ⟨_, rfl, done, bookkept_passed_frame rfl kept⟩

theorem ringWait_waits (hen : (ringAt s t.val (fieldOf w 52 48)).en = true)
    (hready : ringReady (ringAt s t.val (fieldOf w 52 48)) (bitOf w 55) (fieldOf w 47 44 + 1) = false) :
    ∃ u : State, exec (.ringWait t w) s = .next u ∧ SeqWaits s u t 0xC7 ∧ regsBut [Reg.TILE_SEQ_STALL t.val] s u :=
  ⟨_, rfl, seqCmd_waits h (by rw [ringWait_withOp, ringWait_enabled hw hen, if_neg (by simp [hready])])⟩

theorem ring_disabled_faults (hen : (ringAt s t.val (fieldOf w 52 48)).en = false) :
    ∀ mk ∈ [Instr.ringWait, Instr.ringAdv], ∃ u : State, exec (mk t w) s = .next u ∧ Faulted u c 6 := by
  intro mk hmk
  simp only [List.mem_cons, List.not_mem_nil, or_false] at hmk
  obtain rfl | rfl := hmk
  · exact ⟨_, rfl, seqCmd_faulted (op := 0xC7) (f := ringWait) (w := w) h (by rw [ringWait_withOp]; exact ringWait_disabled hw hen) rfl⟩
  · exact ⟨_, exec_ringAdv .., seqCmd_faulted (op := 0xC8) (f := ringAdvBody) (w := w) h
      (by rw [ringAdvBody_withOp]; exact ringAdvBody_disabled h hw hen) rfl⟩

variable (hen : (ringAt s t.val (fieldOf w 52 48)).en = true) (hspill : (getC s c).spill = [])
include hen hspill

theorem ringAdv_moves (hfit : advFits (ringAt s t.val (fieldOf w 52 48)) (bitOf w 55) (fieldOf w 47 44 + 1)) :
    ∃ u : State, exec (.ringAdv t w) s = .next u ∧ SeqDone s u t ((getT s t.val).pc + 1) ∧
      ringAt u t.val (fieldOf w 52 48) = ringMoved (ringAt s t.val (fieldOf w 52 48)) (bitOf w 55) (fieldOf w 47 44 + 1) ∧
      regsBut [Reg.TILE_SEQ_ISSUE t.val, Reg.TILE_RING_PTR t.val (fieldOf w 52 48)] s u := by
  obtain ⟨x, k, hcmd, hx, rfl, hrun, hseq, hctxs, hring⟩ := ringAdv_issues h hw hen
  have issued := bookkept_advIssued s t.val w
  have one : OneAdv (getT x t.val) (advOf s t.val w) := hx ▸ oneAdv_advIssued h _
  obtain ⟨kept, moved⟩ := tileStep_oneAdv_ok one hrun hseq (by rw [getC_of_ctxs hctxs, hspill]) (hring ▸ hen) (hring ▸ hfit)
  refine ⟨_, exec_ringAdv .., ?_, ?_, ?_⟩ <;> rw [hcmd]
  · rw [hx] at kept ⊢
    exact seqDone_of_passed h issued.unitsKept kept
  · exact moved.trans (by rw [← hring]; rfl)
  · have passed : regsBut [Reg.TILE_SEQ_ISSUE t.val] s x := hx ▸ (issued.regs.mono (by simp)).trans (regsBut_seqPassed _ _ _)
    exact (passed.mono (by simp)).trans (kept.regs.mono (by simp [advOf]))

theorem ringAdv_overruns (hover : ¬ advFits (ringAt s t.val (fieldOf w 52 48)) (bitOf w 55) (fieldOf w 47 44 + 1)) :
    ∃ u : State, exec (.ringAdv t w) s = .next u ∧ Faulted u c 6 := by
  obtain ⟨x, k, hcmd, hx, rfl, hrun, hseq, hctxs, hring⟩ := ringAdv_issues h hw hen
  have one : OneAdv (getT x t.val) (advOf s t.val w) := hx ▸ oneAdv_advIssued h _
  refine ⟨_, exec_ringAdv .., ?_⟩
  rw [hcmd]
  exact tileStep_oneAdv_beyond one hrun hseq (by rw [getC_of_ctxs hctxs, hspill]) (hring ▸ hover)

end

/-- The oldest advance that a command describes takes effect on the tile that runs its context (06 R215). -/
theorem remoteRingAdvance_moves {r : RemoteAdv} {a : RingTransit} {c : CtxId} {s : State}
    (hfind : s.advances.find? (fun a => decide (a.tile = r.tile.val ∧ a.ring = r.ring.val ∧ a.tail = r.tail ∧ a.count = r.count)) = some a)
    (hrun : (getT s r.tile.val).run = some c) (hc : c.val = a.ctx) (hen : (ringAt s r.tile.val r.ring.val).en = true)
    (hspill : (getC s c.val).spill = []) (hq : hasQueued (getT s r.tile.val) = false)
    (hfit : advFits (ringAt s r.tile.val r.ring.val) r.tail r.count) :
    ∃ u : State, exec (.remoteRingAdvance r) s = .next u ∧ u.advances = s.advances.erase a ∧
      ringAt u r.tile.val r.ring.val = ringMoved (ringAt s r.tile.val r.ring.val) r.tail r.count ∧
      regsBut [Reg.TILE_RING_PTR r.tile.val r.ring.val] s u ∧ sameBytes s u := by
  have described := List.find?_some hfind
  simp only [decide_eq_true_eq] at described
  obtain ⟨htile, hring, htail, hcount⟩ := described
  rw [exec_remoteRingAdvance hfind]
  rw [← htile, ← hring, ← htail, ← hcount] at hfit
  rw [← htile] at hrun hq
  rw [← htile, ← hring] at hen
  rw [hc] at hspill
  rw [← htile, ← hring, ← htail, ← hcount]
  obtain ⟨kept, moved⟩ := advanceArrives_running (s := { s with advances := s.advances.erase a }) (a := a)
    (by rw [← hc]; exact congrArg (Option.map (·.val)) hrun) hen hspill hq hfit
  exact ⟨_, rfl, kept.advances, moved, kept.regs, getByte_of_mem kept.mem⟩

/-! ### Strips -/

section
variable {s : State} {t : TileId} {c : Nat} {w : Word64} (h : TileReady s t c 1)
include h

section
variable {p : Program} (hw : onlyFields w [(55, 52), (23, 0)] = true) (hpd : fieldOf w 55 52 ≤ 13) (hheld : (getT s t.val).held.length < 16)
  (hp : programOf s c = some p)
include hw hpd hheld hp

/-- SEQ.STRIP hands out the tile's next strip while the sheet has one. -/
theorem seqStrip_hands_out (hleft : 256 * nextStrip s t.val p < p.threads) :
    ∃ u : State, exec (.seqStrip t w) s = .next u ∧ SeqDone s u t ((getT s t.val).pc + 1) ∧
      (getT u t.val).held = (getT s t.val).held ++ [nextStrip s t.val p] ∧ (getT u t.val).stripNext = (getT s t.val).stripNext + 1 ∧
      pGet u t.val (fieldOf w 55 52) = BitVec.ofNat 48 (nextStrip s t.val p) ∧
      pGet u t.val (fieldOf w 55 52 + 1) = BitVec.ofNat 48 (min 256 (p.threads - 256 * nextStrip s t.val p)) ∧
      pGet u t.val (fieldOf w 55 52 + 2) = BitVec.ofNat 48 (getN s (Reg.TILE_STRIP_BASE t.val ((getT s t.val).stripNext % 16))) ∧
      (∀ n, n < fieldOf w 55 52 ∨ fieldOf w 55 52 + 2 < n → pGet u t.val n = pGet s t.val n) ∧ regsBut [Reg.TILE_SEQ_ISSUE t.val] s u := by
  obtain ⟨ptrs, tile⟩ := getT_stripTaken s t.val (fieldOf w 55 52) (nextStrip s t.val p) p.threads
  obtain ⟨done, kept⟩ := seqCmd_done (op := 0xC9) (f := seqStrip) (w := w) h
    (by rw [seqStrip_withOp]; exact seqStrip_takes hw hpd hheld hp hleft) (unitsKept_stripTaken ..) (by rw [tile]; exact h.adv)
  obtain ⟨pointers, regs⟩ := bookkept_passed_frame rfl kept
  have read := fun n => (congrArg (mapGet 0#48 · n) pointers).trans (pGet_stripTaken s t.val (fieldOf w 55 52) (nextStrip s t.val p) p.threads n)
  refine ⟨_, rfl, done, ?_, ?_, ?_, ?_, ?_, fun n hn => ?_, regs⟩
  · rw [kept.held, getT_seqPassed, tile]
  · rw [kept.stripNext, getT_seqPassed, tile]
  · exact (read _).trans (by simp)
  · exact (read _).trans (by simp)
  · exact (read _).trans (by simp)
  · refine (read n).trans ?_
    rw [if_neg (by omega), if_neg (by omega), if_neg (by omega)]

/-- Where none is left SEQ.STRIP branches. -/
theorem seqStrip_branches (hnone : p.threads ≤ 256 * nextStrip s t.val p)
    (h0 : 0 ≤ ((getT s t.val).pc : Int) + signed 24 (fieldOf w 23 0))
    (hf : fetchOk s c (((getT s t.val).pc : Int) + signed 24 (fieldOf w 23 0)).toNat 1 = true) :
    ∃ u : State, exec (.seqStrip t w) s = .next u ∧ SeqDone s u t (((getT s t.val).pc : Int) + signed 24 (fieldOf w 23 0)).toNat ∧
      (getT u t.val).p = (getT s t.val).p ∧ (getT u t.val).held = (getT s t.val).held := by
  obtain ⟨done, kept⟩ := seqCmd_branched (op := 0xC9) (f := seqStrip) (w := w) h
    (by rw [seqStrip_withOp]; exact seqStrip_ends hw hpd hheld hp hnone) h0 hf
  exact ⟨_, rfl, done, by rw [kept.p, getT_seqPassed], by rw [kept.held, getT_seqPassed]⟩

end

theorem seqSret_retires_oldest {x : Nat} {l : List Nat} (hw : onlyFields w [] = true) (hheld : (getT s t.val).held = x :: l) :
    ∃ u : State, exec (.seqSret t w) s = .next u ∧ SeqDone s u t ((getT s t.val).pc + 1) ∧ (getT u t.val).held = l ∧
      (getT u t.val).p = (getT s t.val).p ∧ regsBut [Reg.TILE_SEQ_ISSUE t.val] s u := by
  have tile : getT (stripRetired s t.val l) t.val = { getT s t.val with held := l } := by rw [stripRetired, getT_modT, if_pos rfl]
  obtain ⟨done, kept⟩ := seqCmd_done (op := 0xCA) (f := seqSret) (w := w) h
    (by rw [seqSret_withOp]; exact seqSret_retires hw hheld) (unitsKept_stripRetired ..) (by rw [tile]; exact h.adv)
  obtain ⟨pointers, regs⟩ := bookkept_passed_frame rfl kept
  exact ⟨_, rfl, done, by rw [kept.held, getT_seqPassed, tile], by rw [pointers, tile], regs⟩

theorem seqStrip_full_faults (hfull : 16 ≤ (getT s t.val).held.length) : ∃ u : State, exec (.seqStrip t w) s = .next u ∧ Faulted u c 1 :=
  ⟨_, rfl, seqCmd_illegal (op := 0xC9) (f := seqStrip) (w := w) h (by rw [seqStrip_withOp]; exact seqStrip_full c w hfull)⟩

theorem seqSret_empty_faults (hheld : (getT s t.val).held = []) : ∃ u : State, exec (.seqSret t w) s = .next u ∧ Faulted u c 1 :=
  ⟨_, rfl, seqCmd_illegal (op := 0xCA) (f := seqSret) (w := w) h (by rw [seqSret_withOp]; exact seqSret_empty c w hheld)⟩

end

/-! ### The statement -/

/-- Settles O51: each clause is its instruction on a ready tile, or one register write; an advance is the only queued work of its tile, so
it takes effect in the command that issues it. -/
theorem ringsAndStrips : Obligations.RingsAndStrips := by
  refine ⟨?_, ?_, ?_, ?_, ?_, ?_, ?_, ?_, ?_, ?_, ?_, ?_, ?_, ?_⟩
  · intro t w c s h hw hen hready
    exact ringWait_passes h hw hen ((ringReady_eq_true ..).mpr hready)
  · intro t w c s h hw hen hshort
    exact ringWait_waits h hw hen ((ringReady_eq_false ..).mpr hshort)
  · intro mk hmk t w c s h hw hen
    exact ring_disabled_faults h hw hen mk hmk
  · intro t w c s h hw hen hspill hfit
    obtain ⟨u, hu, done, moved, regs⟩ := ringAdv_moves h hw hen hspill hfit
    exact ⟨u, hu, done, by rw [moved, ringMoved_tail]; rfl, by rw [moved, ringMoved_head]; rfl, regs⟩
  · intro t w c s h hw hen hspill hover
    exact ringAdv_overruns h hw hen hspill ((not_advFits ..).mpr hover)
  · intro t n v s
    obtain ⟨regs, mem, units⟩ := registerWrite_ringCfgWrite s t.val n.val v
    exact ⟨_, rfl, ringCfgWrite_accepted s t n, ringCfgWrite_refused s t.val n.val, regs, mem, units⟩
  · intro t n v s
    obtain ⟨regs, mem, units⟩ := registerWrite_stripBaseWrite s t.val n.val v
    exact ⟨_, rfl, stripBaseWrite_accepted s t n, stripBaseWrite_refused s t.val n.val, regs, mem, units⟩
  · intro r a c s hfind hrun hc hen hspill hq hfit
    obtain ⟨u, hu, gone, moved, regs, mem⟩ := remoteRingAdvance_moves hfind hrun hc hen hspill hq hfit
    exact ⟨u, hu, gone, by rw [moved, ringMoved_tail], by rw [moved, ringMoved_head], regs, mem⟩
  · intro r s hnone
    change execRemoteRingAdvance r s = _
    simp [execRemoteRingAdvance, hnone]
  · intro t w c p s h hw hpd hheld hp strip hleft
    exact seqStrip_hands_out h hw hpd hheld hp hleft
  · intro t w c p s h hw hpd hheld hp hnone h0 hf
    exact seqStrip_branches h hw hpd hheld hp hnone h0 hf
  · intro t w c s h hfull
    exact seqStrip_full_faults h hfull
  · intro t w c x l s h hw hheld
    exact seqSret_retires_oldest h hw hheld
  · intro t w c s h hheld
    exact seqSret_empty_faults h hheld

end Sys2Proof
end

section
/-!
PROOFS. How an exposure starts on tiles (08 R270, R271; 07 R240, R243, R251): what the steps of a tile's start change, and that a start on
several tiles is its start on each.
-/
namespace Sys2Proof

open Sys2Proof.Machine

/-! ### The steps of a start (06 R205, R206; 07 R240, R251) -/

/-- From s to u no tile but t has changed, and no context. -/
structure OneTile (s u : State) (t : Nat) : Prop where
  others : ∀ x, x ≠ t → getT u x = getT s x
  ctxs : ∀ c, getC u c = getC s c

theorem OneTile.trans {s u v : State} {t : Nat} (h : OneTile s u t) (k : OneTile u v t) : OneTile s v t :=
  ⟨fun x hx => (k.others x hx).trans (h.others x hx), fun c => (k.ctxs c).trans (h.ctxs c)⟩

theorem oneTile_of_fields {s u : State} (t : Nat) (ht : u.tiles = s.tiles) (hc : u.ctxs = s.ctxs) : OneTile s u t :=
  ⟨fun x _ => getT_of_tiles ht x, getC_of_ctxs hc⟩

theorem oneTile_modT (s : State) (t : Nat) (f : Tile → Tile) : OneTile s (modT s t f) t :=
  ⟨fun x hx => by rw [getT_modT, if_neg hx], fun _ => rfl⟩

theorem oneTile_clearUnit (s : State) (t : Nat) : OneTile s (clearUnit s t) t :=
  (oneTile_modT s t (fun x => withUnit x Tile.init)).trans (oneTile_of_fields t rfl rfl)

theorem oneTile_loadSetup (s : State) (c t : Nat) : OneTile s (loadSetup s c t) t := by
  unfold loadSetup
  split
  · exact oneTile_of_fields t rfl rfl
  · have put : ∀ (u : State) (a : Nat) (l : List Word), OneTile u (forEach l.zipIdx u (fun x u => setR u (a + 4 * x.2) x.1)) t :=
      fun u a l => oneTile_of_fields t (forEach_field State.tiles _ _ _ (fun _ _ _ => rfl)) (forEach_field State.ctxs _ _ _ (fun _ _ _ => rfl))
    exact ((put _ _ _).trans (put _ _ _)).trans (put _ _ _)

/-- Such a change that leaves what tile t runs, and where it stands in its program. -/
structure SetUp (s u : State) (t : Nat) : Prop extends OneTile s u t where
  run : (getT u t).run = (getT s t).run
  seq : (getT u t).seq = (getT s t).seq
  pc : (getT u t).pc = (getT s t).pc

theorem SetUp.trans {s u v : State} {t : Nat} (h : SetUp s u t) (k : SetUp u v t) : SetUp s v t :=
  ⟨h.toOneTile.trans k.toOneTile, k.run.trans h.run, k.seq.trans h.seq, k.pc.trans h.pc⟩

theorem setUp_of_fields {s u : State} (t : Nat) (ht : u.tiles = s.tiles) (hc : ∀ c, getC u c = getC s c) : SetUp s u t :=
  ⟨⟨fun x _ => getT_of_tiles ht x, hc⟩, by rw [getT_of_tiles ht], by rw [getT_of_tiles ht], by rw [getT_of_tiles ht]⟩

theorem setUp_modT (s : State) (t : Nat) {f : Tile → Tile} (hrun : (f (getT s t)).run = (getT s t).run)
    (hseq : (f (getT s t)).seq = (getT s t).seq) (hpc : (f (getT s t)).pc = (getT s t).pc) : SetUp s (modT s t f) t := by
  refine ⟨oneTile_modT s t f, ?_, ?_, ?_⟩ <;> rw [getT_modT, if_pos rfl] <;> assumption

/-- Repeated changes of no tile and no context. -/
theorem setUp_forEach {α : Type} (l : List α) (s : State) (t : Nat) {f : α → State → State} (ht : ∀ x u, (f x u).tiles = u.tiles)
    (hc : ∀ x u, (f x u).ctxs = u.ctxs) : SetUp s (forEach l s f) t :=
  setUp_of_fields t (forEach_field State.tiles _ _ _ (fun x _ u => ht x u)) (getC_of_ctxs (forEach_field State.ctxs _ _ _ (fun x _ u => hc x u)))

theorem setUp_wakeList (s : State) (t : Nat) (l : List Nat) : SetUp s (wakeList s t l) t := by
  unfold wakeList
  dsimp only
  refine (setUp_forEach _ s t ?_ ?_).trans (setUp_modT _ t ?_ ?_ ?_) <;> intros <;> rfl

theorem setUp_wakeGroups (s : State) (t groups : Nat) : SetUp s (wakeGroups s t groups) t := by
  unfold wakeGroups
  dsimp only
  refine (setUp_forEach _ s t ?_ ?_).trans (setUp_wakeList _ t _) <;> intros <;> rfl

theorem setUp_loadPins (s : State) (t c : Nat) (pins : List Nat) : SetUp s (loadPins s t c pins) t := by
  unfold loadPins
  split
  · exact setUp_of_fields t rfl (fun _ => rfl)
  · exact setUp_modT s t rfl rfl rfl

/-- Where no arrival waits, none is copied and none is left behind (R289). -/
theorem takeArrivals_none {s : State} {c : Nat} (t : Nat) (h : (getC s c).recv = []) :
    ∃ u, takeArrivals s c t = (u, none) ∧ SetUp s u t := by
  refine ⟨modC s c (fun x => { x with recv := x.recv.filter (fun a => decide (a.tile ≠ t)) }), by simp [takeArrivals, h],
    setUp_of_fields t rfl (fun d => ?_)⟩
  rw [getC_modC]
  split
  · next e => rw [e, h, List.filter_nil, ← h]
  · rfl

/-! ### A start on tiles -/

/-- From s to u the tiles of l have come to run context c from an entry point on, and every other tile, and every context, is as before. -/
structure StartedOn (c : CtxId) (entry : Nat) (l : List Nat) (s u : State) : Prop where
  run : ∀ t ∈ l, (getT u t).run = some c
  seq : ∀ t ∈ l, (getT u t).seq = .issuing
  pc : ∀ t ∈ l, (getT u t).pc = entry
  others : ∀ t, t ∉ l → getT u t = getT s t
  ctxs : ∀ x, getC u x = getC s x

theorem StartedOn.nil (c : CtxId) (entry : Nat) (s : State) : StartedOn c entry [] s s :=
  ⟨by simp, by simp, by simp, fun _ _ => rfl, fun _ => rfl⟩

/-- A tile that the later start does not touch stays as the earlier one left it. -/
theorem StartedOn.cons {c : CtxId} {entry t : Nat} {l : List Nat} {s u v : State} (h : StartedOn c entry [t] s u)
    (k : StartedOn c entry l u v) : StartedOn c entry (t :: l) s v := by
  have either : ∀ P : Tile → Prop, (∀ x ∈ [t], P (getT u x)) → (∀ x ∈ l, P (getT v x)) → ∀ x ∈ t :: l, P (getT v x) := by
    intro P hu hv x hx
    by_cases hl : x ∈ l
    · exact hv x hl
    · rw [k.others x hl]
      exact hu x (by simpa [hl] using hx)
  refine ⟨either (·.run = some c) h.run k.run, either (·.seq = .issuing) h.seq k.seq, either (·.pc = entry) h.pc k.pc, fun x hx => ?_,
    fun x => (k.ctxs x).trans (h.ctxs x)⟩
  simp only [List.mem_cons, not_or] at hx
  rw [k.others x hx.2, h.others x (by simpa using hx.1)]

/-- A start on one tile: its setup leaves it at its program's entry point. -/
theorem startTile_starts {s : State} {c : CtxId} (t : Nat) (pr : Program) (d : Decl) (h : (getC s c.val).recv = []) :
    ∃ u, startTile s c t pr d = (u, none) ∧ StartedOn c pr.entry [t] s u := by
  have cleared : ∀ b : Bool, OneTile s (if b then s else loadSetup (clearUnit s t) c.val t) t := by
    rintro (_ | _)
    · exact (oneTile_clearUnit s t).trans (oneTile_loadSetup _ c.val t)
    · exact oneTile_of_fields t rfl rfl
  unfold startTile
  dsimp only
  generalize (!getB s (Reg.TILE_PWR_CTL t) 31 && decide ((getT s t).lastCtx = some c.val)) = carry
  specialize cleared carry
  generalize (if carry = true then s else loadSetup (clearUnit s t) c.val t) = v at cleared ⊢
  generalize hw : modT v t _ = w
  have placed : OneTile s w t := hw ▸ cleared.trans (oneTile_modT v t _)
  have entry : (getT w t).run = some c ∧ (getT w t).seq = .issuing ∧ (getT w t).pc = pr.entry := by
    rw [← hw, getT_modT, if_pos rfl]
    exact ⟨rfl, rfl, rfl⟩
  obtain ⟨hrun, hseq, hpc⟩ := entry
  have setup := (setUp_wakeGroups w t d.groups).trans (setUp_loadPins _ t c.val pr.pins)
  obtain ⟨u, hu, taken⟩ := takeArrivals_none t (by rw [setup.ctxs, placed.ctxs]; exact h)
  have done := setup.trans taken
  have all := placed.trans done.toOneTile
  exact ⟨u, hu, by simp [done.run, hrun], by simp [done.seq, hseq], by simp [done.pc, hpc], fun x hx => all.others x (by simpa using hx), all.ctxs⟩

/-- A start on a list of tiles, one after the other, which a fault ends (R271). -/
def startTiles (s : State) (c : CtxId) (l : List Nat) (pr : Program) (d : Decl) : Step' :=
  l.foldl (fun r t => match r with | (s, none) => startTile s c t pr d | r => r) (s, none)

theorem startTiles_starts {s : State} {c : CtxId} (l : List Nat) (pr : Program) (d : Decl) (h : (getC s c.val).recv = []) :
    ∃ u, startTiles s c l pr d = (u, none) ∧ StartedOn c pr.entry l s u := by
  induction l generalizing s with
  | nil => exact ⟨s, rfl, .nil ..⟩
  | cons t l ih =>
    obtain ⟨u, hu, first⟩ := startTile_starts t pr d h
    obtain ⟨v, hv, rest⟩ := ih (by rw [first.ctxs]; exact h)
    refine ⟨v, ?_, first.cons rest⟩
    rw [← hv, startTiles, List.foldl_cons, startTiles]
    exact congrArg (fun r => l.foldl _ r) hu

/-! ### The start of a waiting exposure -/

/-- A context whose exposure has started on tiles: it runs, and the first start's time is noted. -/
def begun (i : ExpInst) (tiles : List Nat) (now : Nat) (x : Ctx) : Ctx :=
  { x with
    st := if x.st = .waiting then .running else x.st
    inst := x.inst.map (fun j => { j with started := j.started ++ tiles, startAt := if i.started.isEmpty then now else j.startAt })
    lastEntry := i.entry
    runSince := some (x.runSince.getD now) }

/-- What an exposure's first start adds: its barriers are clear, its wait counts, and it takes its credits (R270, R457). -/
def firstStart (s : State) (c dueAt : Nat) : State :=
  grantCredits (incR (spanStart (modC s c (fun x => { x with barArr := [], barRel := [] })) c) (Reg.SCH_P_WAITED (ctxPart s c))
    ((s.now - dueAt) / 800)) c

/-- The state once the context runs. -/
def startNoted (s : State) (c : Nat) (i : ExpInst) (tiles : List Nat) (now : Nat) : State :=
  if i.started.isEmpty then firstStart (modC s c (begun i tiles now)) c i.dueAt else modC s c (begun i tiles now)

@[simp] theorem spanStart_tiles (s : State) (c : Nat) : (spanStart s c).tiles = s.tiles := by
  unfold spanStart
  split <;> rfl

@[simp] theorem spanStart_ctxs (s : State) (c : Nat) : (spanStart s c).ctxs = s.ctxs := by
  unfold spanStart
  split <;> rfl

theorem overflowRec_none {s : State} {c : Nat} (h : (getC s c).recvLost = []) (t : Nat) : overflowRec s c t = none := by
  simp [overflowRec, h]

/-- Credits change no tile, and of contexts only the credits held. -/
theorem grantCredits_keeps (s : State) (c : Nat) : (grantCredits s c).tiles = s.tiles ∧
    ∀ x, (getC (grantCredits s c) x).st = (getC s x).st ∧ (getC (grantCredits s c) x).inst = (getC s x).inst := by
  unfold grantCredits
  split
  · exact ⟨rfl, fun _ => ⟨rfl, rfl⟩⟩
  · refine List.foldlRecOn (motive := fun u : State => u.tiles = s.tiles ∧ ∀ x, (getC u x).st = (getC s x).st ∧ (getC u x).inst = (getC s x).inst)
      _ _ ⟨rfl, fun _ => ⟨rfl, rfl⟩⟩ (fun u hu v _ => ?_)
    obtain ⟨tiles, ctxs⟩ := hu
    refine ⟨tiles, fun x => ?_⟩
    rw [← (ctxs x).1, ← (ctxs x).2, getC_modC]
    split
    · next e => rw [e]; exact ⟨rfl, rfl⟩
    · exact ⟨rfl, rfl⟩

theorem firstStart_keeps (s : State) (c dueAt : Nat) : (firstStart s c dueAt).tiles = s.tiles ∧
    (getC (firstStart s c dueAt) c).st = (getC s c).st ∧ (getC (firstStart s c dueAt) c).inst = (getC s c).inst := by
  obtain ⟨tiles, ctxs⟩ := grantCredits_keeps (incR (spanStart (modC s c (fun x => { x with barArr := [], barRel := [] })) c)
    (Reg.SCH_P_WAITED (ctxPart s c)) ((s.now - dueAt) / 800)) c
  have cleared : getC (incR (spanStart (modC s c (fun x => { x with barArr := [], barRel := [] })) c) (Reg.SCH_P_WAITED (ctxPart s c))
      ((s.now - dueAt) / 800)) c = { getC s c with barArr := [], barRel := [] } :=
    (getC_of_ctxs ((incR_ctxs ..).trans (spanStart_ctxs ..)) c).trans (by rw [getC_modC, if_pos rfl])
  refine ⟨tiles.trans ((incR_tiles ..).trans (spanStart_tiles ..)), ?_, ?_⟩
  · rw [firstStart, (ctxs c).1, cleared]
  · rw [firstStart, (ctxs c).2, cleared]

theorem startNoted_keeps (s : State) (c : Nat) (i : ExpInst) (tiles : List Nat) (now : Nat) :
    (startNoted s c i tiles now).tiles = s.tiles ∧ (getC (startNoted s c i tiles now) c).st = (begun i tiles now (getC s c)).st ∧
    (getC (startNoted s c i tiles now) c).inst = (begun i tiles now (getC s c)).inst := by
  have ctx : getC (modC s c (begun i tiles now)) c = begun i tiles now (getC s c) := by rw [getC_modC, if_pos rfl]
  unfold startNoted
  rw [← ctx]
  split
  · exact firstStart_keeps ..
  · exact ⟨rfl, rfl, rfl⟩

/-- The end of a start: the context runs, and a fault on the way tears it down. -/
def startEnds (s : State) (c : CtxId) (i : ExpInst) (tiles : List Nat) (r : Step') : State :=
  opRequests (match r.2 with
    | some e => contextFault (startNoted r.1 c.val i tiles s.now) c.val e
    | none => startNoted r.1 c.val i tiles s.now)

section
variable {s : State} {c : CtxId} {e : PlanEntry} {i : ExpInst} {d : Decl} {pr : Program} (hfatal : fatal s = false)
  (hst : (getC s c.val).st = .waiting) (he : instEntry s c.val = some e) (hi : (getC s c.val).inst = some i) (hd : declOf s c.val = some d)
  (hp : programOf s c.val = some pr) (hfirst : goesFirst s c.val = false) (hawake : ∀ t ∈ tilesOf e.tiles, (getT s t).power = .awake)
  (htiles : startableTiles s c.val ≠ []) (hlost : (getC s c.val).recvLost = [])
include hfatal hst he hi hd hp hfirst hawake htiles hlost

/-- A waiting exposure with tiles to start on, none asleep, and no arrival lost, starts there (R270, R271). -/
theorem startExposure_waiting : startExposure s c = startEnds s c i (startableTiles s c.val) (startTiles s c (startableTiles s c.val) pr d) := by
  have asleep : (tilesOf e.tiles).filter (fun t => decide ((getT s t).power ≠ .awake)) = [] :=
    List.filter_eq_nil_iff.mpr (fun t ht => by simp [hawake t ht])
  have nonempty : (startableTiles s c.val).isEmpty = false := by simpa using htiles
  have noOverflow : (startableTiles s c.val).findSome? (overflowRec s c.val) = none :=
    List.findSome?_eq_none_iff.mpr (fun t _ => overflowRec_none hlost t)
  simp only [startExposure, he, hi, hd, hp, asleep, forEach_nil, hfatal, hst, hfirst, decide_true, Bool.true_or, Bool.not_true, Bool.or_false,
    Bool.false_eq_true, if_false, nonempty, noOverflow]
  rfl

/-- Each of its tiles then runs the program from its entry point, and the context runs (R240, R270). -/
theorem startExposure_starts (hrecv : (getC s c.val).recv = []) : ∃ u, StartedOn c pr.entry (startableTiles s c.val) s u ∧
    (startExposure s c).tiles = u.tiles ∧
    (getC (startExposure s c) c.val).st = .running ∧
    (getC (startExposure s c) c.val).inst = some { i with
      started := i.started ++ startableTiles s c.val, startAt := if i.started.isEmpty then s.now else i.startAt } := by
  obtain ⟨u, hu, started⟩ := startTiles_starts (startableTiles s c.val) pr d hrecv
  obtain ⟨tiles, st, inst⟩ := startNoted_keeps u c.val i (startableTiles s c.val) s.now
  have eq : startExposure s c = opRequests (startNoted u c.val i (startableTiles s c.val) s.now) := by
    rw [startExposure_waiting hfatal hst he hi hd hp hfirst hawake htiles hlost, hu]
    rfl
  rw [started.ctxs] at st inst
  refine ⟨u, started, by rw [eq]; exact tiles, ?_, ?_⟩ <;> rw [eq, getC_of_ctxs (opRequests_ctxs _)]
  · rw [st, begun, hst]
    rfl
  · rw [inst, begun, hi]
    rfl

end

end Sys2Proof
end

section
/-!
PROOFS. Deadlines, barriers and re-arming (08 R276, R277, R294, R296), and the statement that they make up with the start of exposures.
-/
namespace Sys2Proof

open Sys2Proof.Machine

/-! ### Deadlines (R276) -/

/-- The state once a passed deadline is noted in the exposure, counted in its partition and posted as an event. -/
def deadlineNoted (s : State) (c : Nat) (i : ExpInst) : State :=
  postEvent (incR (modC s c (fun x => { x with inst := some { i with missed := true } })) (Reg.SCH_P_DEADLINE (ctxPart s c)) 1)
    7 5 0xFF c i.entry

theorem getC_deadlineNoted (s : State) (c : Nat) (i : ExpInst) :
    getC (deadlineNoted s c i) c = { getC s c with inst := some { i with missed := true } } := by
  rw [deadlineNoted, getC_of_ctxs (postEvent_ctxs ..), getC_of_ctxs (incR_ctxs ..), getC_modC, if_pos rfl]

theorem deadlineNoted_events {s : State} (c : Nat) (i : ExpInst) (room : s.safe.events.length < 256) :
    (deadlineNoted s c i).safe.events.length = s.safe.events.length + 1 := by
  rw [deadlineNoted, postEvent_events]
  · exact List.length_append
  · exact room

theorem schPDeadline_ne_safe {p : Nat} (h : p < 16) :
    Reg.SCH_P_DEADLINE p ≠ Reg.SAFE_FLAGS ∧ Reg.SCH_P_DEADLINE p ≠ Reg.SAFE_EVT_LOST := by
  simp only [Reg.SCH_P_DEADLINE, Reg.SAFE_FLAGS, Reg.SAFE_EVT_LOST]
  omega

theorem deadlineNoted_count {s : State} {c : Nat} (i : ExpInst) (h : ctxPart s c < 16) :
    getR (deadlineNoted s c i) (Reg.SCH_P_DEADLINE (ctxPart s c)) = satAdd (getR s (Reg.SCH_P_DEADLINE (ctxPart s c))) 1 := by
  obtain ⟨flags, lost⟩ := schPDeadline_ne_safe h
  rw [deadlineNoted, getR_postEvent _ _ _ _ _ _ flags lost, getR_incR, if_pos rfl, getR_modC]

section
variable {s : State} {c : CtxId} {i : ExpInst} (hi : (getC s c.val).inst = some i)
include hi

theorem exec_exposureDeadline_passed {dl : Nat} (hm : i.missed = false) (hdl : i.deadline = some dl) (h : dl < s.time.dev) :
    exec (.exposureDeadline c) s = .next (deadlineNoted s c.val i) := by
  have due : (!i.missed && (i.deadline.map (fun d => decide (d < s.time.dev))).getD false) = true := by simp [hm, hdl, h]
  change execExposureDeadline c s = _
  simp only [execExposureDeadline, hi, due, if_true]
  rfl

theorem exec_exposureDeadline_idle (h : i.missed = true ∨ i.deadline = none) : exec (.exposureDeadline c) s = .next s := by
  change execExposureDeadline c s = _
  obtain h | h := h <;> simp [execExposureDeadline, hi, h]

end

/-! ### Barriers (R277) -/

/-- A change of one tile for each tile of a list without repetition: each listed tile has changed once, from what it was. -/
theorem getT_forEach_nodup {l : List Nat} (hl : l.Nodup) {f : Nat → State → State} {g : Nat → Tile → Tile}
    (h : ∀ t u x, getT (f t u) x = if x = t then g t (getT u t) else getT u x) (s : State) (x : Nat) :
    getT (forEach l s f) x = if x ∈ l then g x (getT s x) else getT s x := by
  induction l generalizing s with
  | nil => simp
  | cons t l ih =>
    obtain ⟨ht, hl⟩ := List.nodup_cons.mp hl
    rw [forEach_cons, ih hl, h]
    by_cases hx : x = t
    · subst hx
      simp [ht]
    · simp [hx]

/-- The tiles of a context that have arrived at a barrier. -/
def arrivedAt (x : Ctx) (b : Nat) : List Nat := (x.barArr.filter (fun y => decide (y.1 = b))).map (·.2)

theorem mem_arrivedAt (x : Ctx) (b t : Nat) : t ∈ arrivedAt x b ↔ (b, t) ∈ x.barArr := by
  simp [arrivedAt]

/-- A tile that has passed the barrier it waited at, released at T_rel = rel; its Enlarger follows in its wave (04 R149). -/
def barrierPassed (rel t : Nat) (x : Tile) : Tile :=
  { x with pc := x.pc + 1, seq := if x.seq = .waiting then .issuing else x.seq, waitOp := 0, barWait := none,
           enl := { x.enl with waveUntil := some (rel * 1250 + 16000 * (t / 16 % 8)) } }

/-- The state in which tile t has passed its barrier. -/
def passBarrier (rel t : Nat) (s : State) : State :=
  modT (passInstr s t) t (fun x => { x with enl := { x.enl with waveUntil := some (rel * 1250 + 16000 * (t / 16 % 8)) } })

theorem getT_passBarrier (rel t : Nat) (s : State) (x : Nat) :
    getT (passBarrier rel t s) x = if x = t then barrierPassed rel t (getT s t) else getT s x := by
  simp only [passBarrier, passInstr, getT_modT, getT_incR, if_true]
  split <;> rfl

/-- A context without its arrivals at a barrier and its release. -/
def leaveBarrier (b : Nat) (x : Ctx) : Ctx :=
  { x with barArr := x.barArr.filter (fun y => decide (y.1 ≠ b)), barRel := x.barRel.filter (fun y => decide (y.1 ≠ b)) }

theorem barRelease_eq (s : State) (c b rel : Nat) :
    barRelease s c b rel = modC (forEach (arrivedAt (getC s c) b) s (passBarrier rel)) c (leaveBarrier b) := rfl

theorem getT_barRelease {s : State} {c b : Nat} (rel : Nat) (h : (arrivedAt (getC s c) b).Nodup) (t : Nat) :
    getT (barRelease s c b rel) t = if (b, t) ∈ (getC s c).barArr then barrierPassed rel t (getT s t) else getT s t := by
  rw [barRelease_eq, getT_of_tiles (modC_tiles ..), getT_forEach_nodup h (getT_passBarrier rel)]
  simp only [mem_arrivedAt]

theorem getC_barRelease (s : State) (c b rel : Nat) : getC (barRelease s c b rel) c = leaveBarrier b (getC s c) := by
  have passed : (forEach (arrivedAt (getC s c) b) s (passBarrier rel)).ctxs = s.ctxs := forEach_field State.ctxs _ _ _ (fun _ _ _ => rfl)
  rw [barRelease_eq, getC_modC, if_pos rfl, getC_of_ctxs passed]

theorem barRelease_mem (s : State) (c b rel : Nat) : (barRelease s c b rel).mem = s.mem :=
  forEach_field State.mem _ _ _ (fun _ _ _ => rfl)

theorem exec_barrierRelease_due {s : State} {c : CtxId} {b rel : Nat}
    (hrel : (getC s c.val).barRel.find? (fun x => decide (x.1 = b)) = some (b, rel)) (hrun : isRunning (getC s c.val) = true) (hnow : rel ≤ s.now) :
    exec (.barrierRelease c b) s = .next (barRelease s c.val b rel) := by
  change execBarrierRelease c b s = _
  simp [execBarrierRelease, hrel, hrun, hnow]

theorem exec_barrierRelease_none {s : State} {c : CtxId} (b : Nat) (h : (getC s c.val).barRel = []) :
    exec (.barrierRelease c b) s = .next s := by
  change execBarrierRelease c b s = _
  simp [execBarrierRelease, h]

/-! ### Re-arming (R294, R296) -/

/-- A context as a write of its bit leaves it: one that is held starts afresh, with its last entry in view. -/
def rearmed (x : Ctx) : Ctx := if x.st = .held then { Ctx.init with lastEntry := x.lastEntry } else x

theorem rearmed_rearmed (x : Ctx) : rearmed (rearmed x) = rearmed x := by
  by_cases h : x.st = .held <;> simp [rearmed, h, Ctx.init]

theorem getC_rearm (s : State) (c x : Nat) : getC (rearm s c) x = if x = c then rearmed (getC s c) else getC s x := by
  unfold rearm rearmed
  split
  · exact getC_setC ..
  · split
    · next e => rw [e]
    · rfl

/-- A write of the bit of one context. -/
def rearmBit (c : Nat) (s : State) : State := if planCtx s c then rearm s c else reservedWrite s

/-- No field of the status registers that the plan's state rests on is in ERR_HOST_STATUS. -/
theorem planCtx_reservedWrite (s : State) (x : Nat) : planCtx (reservedWrite s) x = planCtx s x := by
  have time : getB (reservedWrite s) Reg.TIME_STATUS 31 = getB s Reg.TIME_STATUS 31 := by
    rw [getB, reservedWrite, getR_flag, if_neg (by decide), getB]
  have group : groupSize (reservedWrite s) = groupSize s := by
    rw [groupSize, getF, reservedWrite, getR_flag, if_neg (by decide), groupSize, getF]
  simp only [planCtx, schArmed, schReady, time, group]
  rfl

theorem planCtx_rearmBit (s : State) (c x : Nat) : planCtx (rearmBit c s) x = planCtx s x := by
  unfold rearmBit rearm
  split
  · split <;> rfl
  · exact planCtx_reservedWrite s x

theorem getC_rearmBit (s : State) (c x : Nat) :
    getC (rearmBit c s) x = if x = c ∧ planCtx s c = true then rearmed (getC s x) else getC s x := by
  unfold rearmBit
  split
  · next h =>
    rw [getC_rearm]
    by_cases hx : x = c
    · simp [hx, h]
    · simp [hx]
  · next h => simp [h, getC_of_ctxs (reservedWrite_ctxs s)]

/-- The write of the bits of several contexts. -/
def rearmBits (l : List Nat) (s : State) : State := forEach l s rearmBit

theorem getC_rearmBits (l : List Nat) (s : State) (x : Nat) :
    getC (rearmBits l s) x = if x ∈ l ∧ planCtx s x = true then rearmed (getC s x) else getC s x := by
  induction l generalizing s with
  | nil => simp [rearmBits]
  | cons c l ih =>
    rw [rearmBits, forEach_cons, ← rearmBits, ih, planCtx_rearmBit, getC_rearmBit]
    by_cases hx : x = c
    · subst hx
      by_cases hp : planCtx s x = true <;> simp [hp, rearmed_rearmed]
    · simp [hx]

/-- What the write of one bit leaves alone. -/
theorem rearmBit_frame (c : Nat) (s : State) : regsBut [Reg.ERR_HOST_STATUS] s (rearmBit c s) ∧ (rearmBit c s).tiles = s.tiles ∧
    (rearmBit c s).mem = s.mem := by
  unfold rearmBit rearm
  split
  · split
    · exact ⟨fun _ _ => rfl, rfl, rfl⟩
    · exact ⟨fun _ _ => rfl, rfl, rfl⟩
  · exact ⟨fun a ha => by rw [reservedWrite, getR_flag, if_neg (by simpa using ha)], rfl, rfl⟩

theorem rearmBits_frame (l : List Nat) (s : State) : regsBut [Reg.ERR_HOST_STATUS] s (rearmBits l s) ∧ (rearmBits l s).tiles = s.tiles ∧
    (rearmBits l s).mem = s.mem := by
  refine forEach_keep (P := fun u => regsBut [Reg.ERR_HOST_STATUS] s u ∧ u.tiles = s.tiles ∧ u.mem = s.mem) ⟨fun _ _ => rfl, rfl, rfl⟩
    (fun c _ u hu => ?_)
  obtain ⟨regs, tiles, mem⟩ := hu
  obtain ⟨regs', tiles', mem'⟩ := rearmBit_frame c u
  exact ⟨regs.trans regs', tiles'.trans tiles, mem'.trans mem⟩

/-- The reserved-write flag is sticky. -/
theorem rearmBit_reserved (c : Nat) {s : State} (h : getB s Reg.ERR_HOST_STATUS 0 = true) : getB (rearmBit c s) Reg.ERR_HOST_STATUS 0 = true := by
  unfold rearmBit rearm
  split
  · split <;> exact h
  · exact getB_reservedWrite s

/-- The bit of a context outside the armed plan sets the reserved-write flag. -/
theorem rearmBits_reserved {l : List Nat} {s : State} {c : Nat} (hc : c ∈ l) (hp : planCtx s c = false) :
    getB (rearmBits l s) Reg.ERR_HOST_STATUS 0 = true := by
  induction l generalizing s with
  | nil => cases hc
  | cons d l ih =>
    rw [rearmBits, forEach_cons]
    obtain rfl | hc := List.mem_cons.mp hc
    · refine forEach_keep (P := fun u => getB u Reg.ERR_HOST_STATUS 0 = true) ?_ (fun d _ _ hu => rearmBit_reserved d hu)
      rw [rearmBit, if_neg (by simp [hp])]
      exact getB_reservedWrite s
    · exact ih hc ((planCtx_rearmBit ..).trans hp)

/-- The contexts whose bits are set in a write of word k. -/
def rearmList (k : Nat) (v : Word) : List Nat := ((List.range 32).filter (fun j => bitOf v j)).map (32 * k + ·)

theorem mem_rearmList (k : Nat) (v : Word) (c : Nat) : c ∈ rearmList k v ↔ ∃ j, j < 32 ∧ bitOf v j = true ∧ 32 * k + j = c := by
  simp [rearmList, and_assoc]

theorem exec_schRearm (k : Fin 4) (v : Word) (s : State) : exec (.schRearm k v) s = .next (rearmBits (rearmList k.val v) s) := by
  change execSchRearm k v s = _
  rw [rearmBits, forEach, rearmList, List.foldl_map, execSchRearm, forEach]
  congr 2
  funext u j
  simp only [rearmBit]
  cases planCtx u (32 * k.val + j) <;> rfl

/-! ### The statement -/

/-- Settles O40: a start sets up one tile after the other, and each keeps what the others have come to; a release passes each arrived tile
once; a re-arming write acts on each context of its bits alone. -/
theorem exposuresStart : Obligations.ExposuresStart := by
  refine ⟨?_, ?_, ?_, ?_, ?_, ?_, ?_⟩
  · intro c e i d pr s hrun hfatal hst he hi hd hp hfirst hawake htiles hlost hrecv
    obtain ⟨u, started, tiles, st, inst⟩ := startExposure_starts hfatal hst he hi hd hp hfirst hawake htiles hlost hrecv
    refine ⟨startExposure s c, ?_, st, by rw [inst]; rfl, fun h => by rw [inst, h]; rfl, fun tl htl => ?_, fun tl htl => ?_⟩
    · change execExposureStart c s = _
      rw [execExposureStart, if_pos hrun]
    · rw [getT_of_tiles tiles]
      exact ⟨started.run tl htl, started.seq tl htl, started.pc tl htl⟩
    · rw [getT_of_tiles tiles, started.others tl htl]
  · intro c s hrun
    change execExposureStart c s = _
    rw [execExposureStart, if_neg (by simp [hrun])]
  · intro c i dl s hi hm hdl hlate hpart
    have ctx := getC_deadlineNoted s c.val i
    exact ⟨_, exec_exposureDeadline_passed hi hm hdl hlate, by rw [ctx], by rw [ctx], deadlineNoted_events c.val i, deadlineNoted_count i hpart,
      postEvent_evtSeq .., postEvent_tiles .., getByte_of_mem (postEvent_mem ..)⟩
  · intro c i s hi h
    exact exec_exposureDeadline_idle hi h
  · intro c b rel s hrel hrun hnow hnodup
    have tile := getT_barRelease rel hnodup
    refine ⟨_, exec_barrierRelease_due hrel hrun hnow, fun tl htl => ?_, fun tl htl => ?_, ?_, ?_, getByte_of_mem (barRelease_mem ..)⟩
    · rw [tile, if_pos htl]
      exact ⟨rfl, rfl⟩
    · rw [tile, if_neg htl]
    · rw [getC_barRelease]
      simp [leaveBarrier]
    · rw [getC_barRelease]
      simp [leaveBarrier]
  · intro c b s h
    exact exec_barrierRelease_none b h
  · intro k v s
    obtain ⟨regs, tiles, mem⟩ := rearmBits_frame (rearmList k.val v) s
    refine ⟨_, exec_schRearm k v s, fun j hj hbit hplan hheld => ?_, fun c hc => ?_, fun ⟨j, hj, hbit, hplan⟩ => ?_, regs, tiles, getByte_of_mem mem⟩
    · rw [getC_rearmBits, if_pos ⟨(mem_rearmList ..).mpr ⟨j, hj, hbit, rfl⟩, hplan⟩, rearmed, if_pos hheld]
    · rw [getC_rearmBits]
      split
      · next h =>
        obtain ⟨hmem, hplan⟩ := h
        obtain ⟨j, hj, hbit, rfl⟩ := (mem_rearmList ..).mp hmem
        rw [rearmed, if_neg (hc j hj hbit hplan rfl)]
      · rfl
    · exact rearmBits_reserved ((mem_rearmList ..).mpr ⟨j, hj, hbit, rfl⟩) hplan

end Sys2Proof
end

section
/-!
PROOFS. Reading a map whose keys rise strictly: what a selection of its entries lists, what its entries written into another map leave, and
that its first entry of a kind is the lowest-numbered one (12 R388).
-/
namespace Sys2Proof

open Sys2Proof.Machine

variable {V : Type}

theorem mem_of_mapFind {m : SMap V} {k : Nat} {v : V} (h : mapFind m k = some v) : (k, v) ∈ m := by
  induction m with
  | nil => cases h
  | cons p m ih =>
    obtain ⟨a, w⟩ := p
    rw [mapFind_cons] at h
    split at h
    · next e =>
      subst e
      cases h
      exact List.mem_cons_self
    · exact List.mem_cons_of_mem _ (ih h)

theorem any_key_eq_isSome (m : SMap V) (k : Nat) : m.any (fun kv => decide (kv.1 = k)) = (mapFind m k).isSome := by
  induction m with
  | nil => rfl
  | cons p m ih =>
    obtain ⟨a, w⟩ := p
    rw [List.any_cons, ih, mapFind_cons]
    by_cases h : k = a
    · simp [h]
    · simp [h, Ne.symm h]

theorem le_of_above {m : SMap V} {b : Nat} (h : above b m) {x : Nat × V} (hx : x ∈ m) : b ≤ x.1 := by
  induction m generalizing b with
  | nil => cases hx
  | cons p m ih =>
    obtain ⟨a, w⟩ := p
    obtain ⟨hb, hm⟩ := h
    obtain rfl | hx := List.mem_cons.mp hx
    · exact hb
    · have later := ih hm hx
      omega

/-- A selection by key and value lists at a key what the map lists there, where that is selected. -/
theorem mapFind_filter_rising {m : SMap V} {b : Nat} (h : above b m) (p : Nat × V → Bool) (k : Nat) :
    mapFind (m.filter p) k = (mapFind m k).filter (fun v => p (k, v)) := by
  induction m generalizing b with
  | nil => rfl
  | cons q m ih =>
    obtain ⟨a, w⟩ := q
    obtain ⟨-, hm⟩ := h
    by_cases hk : k = a
    · subst hk
      have single : mapFind (m.filter p) k = none := above_not_found (above_filter p hm) (Nat.lt_succ_self k)
      cases hp : p (k, w) <;> simp [hp, mapFind_cons, Option.filter, single]
    · cases hp : p (a, w) <;> simp [hp, mapFind_cons, hk, ih hm]

/-- A map's entries written into another: a key that the first lists reads as listed there, every other key as before. -/
theorem mapGet_foldl_mapSet [DecidableEq V] (d : V) {l : SMap V} {b : Nat} (h : above b l) (m : SMap V) (k : Nat) :
    mapGet d (l.foldl (fun m kv => mapSet d m kv.1 kv.2) m) k = (mapFind l k).getD (mapGet d m k) := by
  induction l generalizing m b with
  | nil => rfl
  | cons p l ih =>
    obtain ⟨a, w⟩ := p
    obtain ⟨-, hl⟩ := h
    rw [List.foldl_cons, ih hl, mapGet_mapSet, mapFind_cons]
    by_cases hk : k = a
    · subst hk
      simp [above_not_found hl (Nat.lt_succ_self k)]
    · simp [hk]

theorem le_of_find?_eq_some {m : SMap V} {b : Nat} (h : above b m) {p : Nat × V → Bool} {x y : Nat × V} (hx : m.find? p = some x)
    (hy : y ∈ m) (hp : p y = true) : x.1 ≤ y.1 := by
  induction m generalizing b with
  | nil => cases hy
  | cons q m ih =>
    obtain ⟨-, hm⟩ := h
    by_cases hq : p q = true
    · rw [List.find?_cons_of_pos hq] at hx
      cases hx
      obtain rfl | hy := List.mem_cons.mp hy
      · exact Nat.le_refl _
      · have later := le_of_above hm hy
        omega
    · rw [List.find?_cons_of_neg hq] at hx
      obtain rfl | hy := List.mem_cons.mp hy
      · exact absurd hp hq
      · exact ih hm hx hy

end Sys2Proof
end

section
/-!
PROOFS. A carrier's slot boundary, part by part: the rewrites of its eAxC entries (12 R388), the releases (10 R353), the prediction of the
slot that begins (02 R63).
-/
namespace Sys2Proof

open Sys2Proof.Machine

/-! ### Carriers and their slots -/

theorem getCar_modCar (s : State) (c : Nat) (f : Carrier → Carrier) (d : Nat) :
    getCar (modCar s c f) d = if d = c then f (getCar s c) else getCar s d := getCar_setCar ..

@[simp] theorem getCar_modCar_self (s : State) (c : Nat) (f : Carrier → Carrier) : getCar (modCar s c f) c = f (getCar s c) := by
  rw [getCar_modCar, if_pos rfl]

@[simp] theorem getUl_modUl_self (s : State) (c n : Nat) (f : UlSlot → UlSlot) : getUl (modUl s c n f) c n = f (getUl s c n) := by
  rw [getUl, modUl, getCar_modCar_self]
  simp [mapGet, getUl]

/-! ### Rewrites of eAxC entries -/

/-- The rewrites that take effect at a carrier's slot boundary. -/
def dueRewrites (s : State) (c : Nat) : SMap (BitVec 128) := s.net.eaxcPend.filter (fun kv => decide (rewriteCarrier s kv.1 kv.2 = c))

/-- The table and what still waits once they have. -/
def rewritesApplied (s : State) (c : Nat) : State :=
  { s with net := { s.net with
    eaxcPend := s.net.eaxcPend.filter (fun kv => !(dueRewrites s c).any (fun d => decide (d.1 = kv.1)))
    eaxc := (dueRewrites s c).foldl (fun m kv => mapSet 0#128 m kv.1 kv.2) s.net.eaxc } }

theorem eaxcDue_eq (s : State) (c : Nat) :
    eaxcDue s c = flagIf (rewritesApplied s c) ((dueRewrites s c).any (fun kv => dupKeys (rewritesApplied s c) kv.1)) Reg.FHX_FLAGS 1 := rfl

@[simp] theorem eaxcDue_net (s : State) (c : Nat) : (eaxcDue s c).net = (rewritesApplied s c).net := by rw [eaxcDue_eq, flagIf_net]

theorem eaxcDue_none {s : State} (h : s.net.eaxcPend = []) (c : Nat) : eaxcDue s c = s := by
  have due : dueRewrites s c = [] := by rw [dueRewrites, h, List.filter_nil]
  rw [eaxcDue_eq, rewritesApplied, due, h]
  change { s with net := { s.net with eaxcPend := [] } } = s
  rw [← h]

theorem mapFind_rewritesApplied_eaxcPend (s : State) (c i : Nat) :
    mapFind (rewritesApplied s c).net.eaxcPend i = if (mapFind (dueRewrites s c) i).isSome then none else mapFind s.net.eaxcPend i := by
  rw [rewritesApplied, mapFind_filter (p := fun k => !(dueRewrites s c).any (fun d => decide (d.1 = k))), any_key_eq_isSome]
  cases mapFind (dueRewrites s c) i <;> rfl

section
variable {s : State} (h : mapRising s.net.eaxcPend = true)
include h

theorem above_dueRewrites (c : Nat) : above 0 (dueRewrites s c) := above_filter _ ((mapRising_iff _).mp h)

theorem mapFind_dueRewrites (c i : Nat) :
    mapFind (dueRewrites s c) i = (mapFind s.net.eaxcPend i).filter (fun e => decide (rewriteCarrier s i e = c)) :=
  mapFind_filter_rising ((mapRising_iff _).mp h) _ i

theorem exAt_rewritesApplied (c i : Nat) : exAt (rewritesApplied s c) i = (mapFind (dueRewrites s c) i).getD (exAt s i) :=
  mapGet_foldl_mapSet 0#128 (above_dueRewrites h c) s.net.eaxc i

end

/-- Two different valid entries that share a key are found from either. -/
theorem dupKeys_of_shared {s : State} {i j : Nat} (hij : i ≠ j) (hi : exValid (exAt s i) = true) (hj : exValid (exAt s j) = true)
    (hkey : exKey (exAt s i) = exKey (exAt s j)) : dupKeys s i = true := by
  have listed : (j, exAt s j) ∈ s.net.eaxc := by
    refine mem_of_mapFind ?_
    rw [exAt, mapGet] at hj ⊢
    cases hf : mapFind s.net.eaxc j with
    | none =>
      rw [hf] at hj
      exact absurd hj (by decide)
    | some e => rfl
  simp only [dupKeys, hi, Bool.true_and, List.any_eq_true]
  exact ⟨_, listed, by simp [hj, hkey, Ne.symm hij]⟩

/-- A rewrite that makes two valid entries share a key sets FHX_FLAGS.dup_key (12 R388). -/
theorem eaxcDue_dupKey {s : State} {c i j : Nat} {e : BitVec 128} (hdue : mapFind (dueRewrites s c) i = some e) (hij : i ≠ j)
    (hi : exValid (exAt (rewritesApplied s c) i) = true) (hj : exValid (exAt (rewritesApplied s c) j) = true)
    (hkey : exKey (exAt (rewritesApplied s c) i) = exKey (exAt (rewritesApplied s c) j)) : getB (eaxcDue s c) Reg.FHX_FLAGS 1 = true := by
  have dup : (dueRewrites s c).any (fun kv => dupKeys (rewritesApplied s c) kv.1) = true :=
    List.any_eq_true.mpr ⟨_, mem_of_mapFind hdue, dupKeys_of_shared hij hi hj hkey⟩
  simp [eaxcDue_eq, dup, flagIf, getB_flag]

/-! ### Releases -/

/-- Nothing but memory, its error state and the coding units' own state has changed. -/
def TablesOnly (s u : State) : Prop := ∃ mem ecc coding, u = { s with mem := mem, ecc := ecc, coding := coding }

theorem TablesOnly.refl (s : State) : TablesOnly s s := ⟨_, _, _, rfl⟩

theorem TablesOnly.trans {s u v : State} (h : TablesOnly s u) (k : TablesOnly u v) : TablesOnly s v := by
  obtain ⟨_, _, _, rfl⟩ := h
  obtain ⟨_, _, _, rfl⟩ := k
  exact ⟨_, _, _, rfl⟩

theorem tablesOnly_forEach {α : Type} (l : List α) (s : State) {f : α → State → State} (h : ∀ x u, TablesOnly u (f x u)) :
    TablesOnly s (forEach l s f) :=
  forEach_keep (P := TablesOnly s) (.refl s) (fun x _ u hu => hu.trans (h x u))

theorem tablesOnly_setBytes (s : State) (a : Nat) (l : List Byte) : TablesOnly s (setBytes s a l) := ⟨_, _, _, rfl⟩

theorem tablesOnly_uSet (s : State) (u off n x : Nat) : TablesOnly s (uSet s u off n x) := tablesOnly_setBytes ..

theorem tablesOnly_coding (s : State) (coding : Coding) : TablesOnly s { s with coding := coding } := ⟨_, _, _, rfl⟩

theorem tablesOnly_harqRelease (s : State) (h : Nat) : TablesOnly s (harqRelease s h) := by
  unfold harqRelease
  dsimp only
  split
  · refine .trans (.trans ?_ (tablesOnly_setBytes ..)) (tablesOnly_coding ..)
    split
    · exact tablesOnly_uSet ..
    · exact .refl s
  · exact .refl s

theorem tablesOnly_harqReleaseMapped (s : State) (m : Nat) : TablesOnly s (if m.testBit 23 then harqRelease s (m % 2 ^ 17) else s) := by
  split
  · exact tablesOnly_harqRelease ..
  · exact .refl s

theorem tablesOnly_ueRelease (s : State) (u : Nat) : TablesOnly s (ueRelease s u) :=
  (tablesOnly_forEach _ s (fun i x => tablesOnly_harqReleaseMapped x (harqMap x u i))).trans (tablesOnly_uSet ..)

theorem tablesOnly_flushUe (s : State) (u : Nat) (i : Option Nat) : TablesOnly s (flushUe s u i) :=
  tablesOnly_forEach _ s (fun j x => tablesOnly_harqReleaseMapped x (harqMap x u j))

theorem tablesOnly_releasesDue (s : State) (c : Nat) : TablesOnly s (releasesDue s c) := by
  refine (tablesOnly_forEach _ s (fun x u => ?_)).trans (tablesOnly_forEach _ _ (fun x u => ?_))
  · split
    · exact tablesOnly_coding ..
    · split
      · exact .refl u
      · exact (tablesOnly_coding u _).trans (tablesOnly_ueRelease ..)
  · split
    · exact tablesOnly_coding ..
    · split
      · exact .refl u
      · exact (tablesOnly_coding u _).trans (tablesOnly_flushUe ..)

theorem releasesDue_none {s : State} (hr : s.coding.relPend = []) (hf : s.coding.flushPend = []) (c : Nat) : releasesDue s c = s := by
  simp [releasesDue, hr, hf]

/-! ### The prediction -/

theorem predict_eq (s : State) (c n : Nat) : ∃ cars, predict s c n = { s with carriers := cars } := by
  unfold predict
  dsimp only
  split <;> exact ⟨_, rfl⟩

theorem ulSyms_isEmpty {s : State} {c : Nat} (h : ccTdd s c = false) (n : Nat) : (ulSyms s c n).isEmpty = false := by
  have all : ulSym s c n = fun _ => true := by
    funext l
    simp [ulSym, h]
  rw [ulSyms, all]
  rfl

/-- An open slot that has an uplink, and neither a request nor a prediction, takes its prediction. -/
theorem predict_forms {s : State} {c n : Nat} (hcls : (getUl s c n).cls = .open) (hheld : (getUl s c n).held = none)
    (hpred : (getUl s c n).predicted = false) (hsyms : (ulSyms s c n).isEmpty = false) :
    (getUl (predict s c n) c n).predicted = true ∧ (getUl (predict s c n) c n).preds.map (·.alloc) = prediction s c n := by
  rw [predict, if_neg (by simp [hcls, hheld, hpred, hsyms]), getUl_modUl_self]
  refine ⟨rfl, ?_⟩
  rw [List.map_map]
  exact List.zipIdx_map_fst ..

/-! ### The boundary -/

/-- A running carrier's slot that begins is predicted. -/
def slotBegun (s : State) (c : Nat) : State := if (getCar s c).running then predict s c (slotNow s c) else s

/-- The state after a carrier's slot boundary. -/
def slotBoundary (s : State) (c : Nat) : State := slotBegun (releasesDue (eaxcDue s c) c) c

theorem exec_carrierSlotBoundary (c : CarrierId) (s : State) : exec (.carrierSlotBoundary c) s = .next (slotBoundary s c.val) := rfl

theorem slotBegun_eq (s : State) (c : Nat) : ∃ cars, slotBegun s c = { s with carriers := cars } := by
  unfold slotBegun
  split
  · exact predict_eq ..
  · exact ⟨_, rfl⟩

/-- What follows the rewrites touches neither the network's state nor a register. -/
theorem slotBoundary_keeps (s : State) (c : Nat) : (slotBoundary s c).net = (rewritesApplied s c).net ∧ (slotBoundary s c).regs = (eaxcDue s c).regs := by
  obtain ⟨_, begun⟩ := slotBegun_eq (releasesDue (eaxcDue s c) c) c
  obtain ⟨_, _, _, released⟩ := tablesOnly_releasesDue (eaxcDue s c) c
  rw [slotBoundary, begun, released]
  exact ⟨eaxcDue_net s c, rfl⟩

theorem exAt_slotBoundary (s : State) (c i : Nat) : exAt (slotBoundary s c) i = exAt (rewritesApplied s c) i := by
  rw [exAt, (slotBoundary_keeps s c).1, exAt]

theorem slotBoundary_predicts {s : State} {c : Nat} (hr : s.coding.relPend = []) (hf : s.coding.flushPend = []) (he : s.net.eaxcPend = [])
    (hrun : (getCar s c).running = true) : slotBoundary s c = predict s c (slotNow s c) := by
  rw [slotBoundary, eaxcDue_none he, releasesDue_none hr hf, slotBegun, if_pos hrun]

end Sys2Proof
end

section
/-!
PROOFS. A carrier's frame boundary, its control register and its P5 load (12 R402; 02 R64), and the eAxC table window (12 R388).
-/
namespace Sys2Proof

open Sys2Proof.Machine

/-! ### Rewrites of the configured-grant table (02 R64) -/

/-- The rewrites of a carrier's configured-grant table, applied. -/
def grantsApplied (s : State) (c : Nat) : State :=
  modCar (forEach (getCar s c).cgPend s (fun kv s => setBytes s kv.1 [kv.2])) c (fun x => { x with cgPend := [] })

theorem exec_carrierFrameBoundary (c : CarrierId) (s : State) :
    exec (.carrierFrameBoundary c) s = .next (runDue (grantsApplied s c.val) c.val) := rfl

/-- The rewrites are stores, and none waits any longer. -/
theorem grantsApplied_eq (s : State) (c : Nat) :
    ∃ mem ecc, grantsApplied s c = modCar { s with mem := mem, ecc := ecc } c (fun x => { x with cgPend := [] }) := by
  obtain ⟨mem, ecc, stored⟩ : ∃ mem ecc,
      forEach (getCar s c).cgPend s (fun kv s => setBytes s kv.1 [kv.2]) = { s with mem := mem, ecc := ecc } := by
    refine forEach_keep (P := fun u => ∃ mem ecc, u = { s with mem := mem, ecc := ecc }) ⟨_, _, rfl⟩ ?_
    rintro kv - u ⟨mem, ecc, rfl⟩
    exact ⟨_, _, rfl⟩
  exact ⟨mem, ecc, by rw [grantsApplied, stored]⟩

@[simp] theorem getCar_grantsApplied (s : State) (c : Nat) : getCar (grantsApplied s c) c = { getCar s c with cgPend := [] } := by
  obtain ⟨mem, ecc, h⟩ := grantsApplied_eq s c
  rw [h, getCar_modCar_self]
  rfl

@[simp] theorem getR_grantsApplied (s : State) (c a : Nat) : getR (grantsApplied s c) a = getR s a := by
  obtain ⟨mem, ecc, h⟩ := grantsApplied_eq s c
  rw [h]
  rfl

@[simp] theorem getB_grantsApplied (s : State) (c a i : Nat) : getB (grantsApplied s c) a i = getB s a i := by
  rw [getB, getR_grantsApplied, getB]

@[simp] theorem quiesced_grantsApplied (s : State) (c : Nat) : quiesced (grantsApplied s c) = quiesced s := by
  obtain ⟨mem, ecc, h⟩ := grantsApplied_eq s c
  rw [h]
  rfl

theorem getByte_grantsApplied_single {s : State} {c a : Nat} {b : Byte} (h : (getCar s c).cgPend = [(a, b)]) (x : Nat) :
    getByte (grantsApplied s c) x = if x = a then b else getByte s x := by
  rw [grantsApplied, h, getByte_of_mem (modCar_mem ..)]
  refine (getByte_setBytes s a [b] x).trans ?_
  by_cases hx : x = a
  · simp [hx]
  · rw [if_neg (by simp; omega), if_neg hx]

/-! ### A stop (12 R402) -/

/-- No tile and no context has changed. -/
def UnitsStand (s u : State) : Prop := u.tiles = s.tiles ∧ u.ctxs = s.ctxs

theorem UnitsStand.refl (s : State) : UnitsStand s s := ⟨rfl, rfl⟩

theorem UnitsStand.trans {s u v : State} (h : UnitsStand s u) (k : UnitsStand u v) : UnitsStand s v := ⟨k.1.trans h.1, k.2.trans h.2⟩

theorem unitsStand_forEach {α : Type} (l : List α) (s : State) {f : α → State → State} (h : ∀ x u, UnitsStand u (f x u)) :
    UnitsStand s (forEach l s f) :=
  forEach_keep (P := UnitsStand s) (.refl s) (fun x _ u hu => hu.trans (h x u))

theorem unitsStand_discardPair (s : State) (x : Option Nat) (pr : Nat) : UnitsStand s (discardPair s x pr) := by
  unfold discardPair
  split
  · exact .refl s
  · split <;> exact ⟨rfl, rfl⟩

/-- The pairs are whatever each step's state gives, so that the argument never looks at how they are found. -/
theorem unitsStand_discardPairs (gone : List (Pred × Nat)) (s : State) (pairs : Pred × Nat → State → List Nat) :
    UnitsStand s (forEach gone s (fun q s => forEach (pairs q s) s (fun pr s => discardPair s q.1.ctx pr))) :=
  unitsStand_forEach _ s (fun q u => unitsStand_forEach (pairs q u) u (fun pr v => unitsStand_discardPair v q.1.ctx pr))

theorem unitsStand_discardPreds (s : State) (c n : Nat) : UnitsStand s (discardPreds s c n) := by
  unfold discardPreds
  extract_lets gone u v
  have discarded : UnitsStand s u := unitsStand_discardPairs gone s (fun q s => workPairs s c n q.2 q.1.alloc)
  have marked : UnitsStand u v := ⟨rfl, rfl⟩
  refine (discarded.trans marked).trans ?_
  split
  · exact .refl v
  · exact ⟨incR_tiles .., incR_ctxs ..⟩

theorem unitsStand_grantsApplied (s : State) (c : Nat) : UnitsStand s (grantsApplied s c) := by
  obtain ⟨mem, ecc, h⟩ := grantsApplied_eq s c
  rw [h]
  exact ⟨rfl, rfl⟩

/-- What a stop leaves of its carrier, of the code blocks that wait for release, and of tiles and contexts. -/
theorem stopCarrier_stops (s : State) (c : Nat) :
    (∃ x : Carrier, getCar (stopCarrier s c) c = { x with running := false, ul := [], dl := [], history := [] }) ∧
    (∀ r ∈ (stopCarrier s c).coding.release, r.carrier.val ≠ c) ∧ UnitsStand s (stopCarrier s c) := by
  refine ⟨⟨_, getCar_modCar_self ..⟩, fun r hr => ?_, ?_⟩
  · rw [stopCarrier, modCar_coding] at hr
    exact of_decide_eq_true (List.mem_filter.mp hr).2
  · have discarded : UnitsStand s (forEach ((getCar s c).ul.map (·.1)) s
        (fun n s => if (getUl s c n).cls = .open then discardPreds s c n else s)) := by
      refine unitsStand_forEach _ s (fun n u => ?_)
      split
      · exact unitsStand_discardPreds u c n
      · exact .refl u
    exact discarded

/-! ### A change of run (12 R402) -/

section
variable {s : State} {c : Nat}

theorem runDue_none (h : (getCar s c).runReq = none) : runDue s c = s := by rw [runDue, h]

theorem runDue_waits (h : (getCar s c).runReq = some true) (hw : getB s (Reg.NB_CC_CTL c) 30 = true ∨ quiesced s = true) : runDue s c = s := by
  rw [runDue, h]
  exact if_pos (by obtain hw | hw := hw <;> simp [hw])

theorem runDue_starts (h : (getCar s c).runReq = some true) (hq : quiesced s = false) (hload : getB s (Reg.NB_CC_CTL c) 30 = false)
    (hbad : getB s (Reg.NB_CC_CTL c) 29 = false) : runDue s c = modCar s c (fun x => { x with runReq := none, running := true }) := by
  rw [runDue, h]
  exact if_neg (by simp [hq, hload, hbad])

theorem runDue_stops (h : (getCar s c).runReq = some false) (hrun : (getCar s c).running = true) :
    runDue s c = modCar (stopCarrier s c) c (fun x => { x with runReq := none }) := by
  rw [runDue, h, hrun]
  rfl

end

/-! ### NB_CC_CTL -/

theorem getB_setBitR (s : State) (a i j : Nat) (b : Bool) (hi : i < 32) : getB (setBitR s a i b) a j = if j = i then b else getB s a j := by
  rw [getB, getR_setBitR, if_pos rfl]
  split
  · next h => rw [h, bitOf_setBit_self _ _ _ hi]
  · next h => rw [bitOf_setBit_other _ _ h, getB]

/-- What a write of NB_CC_CTL does to its carrier and to its load bit, and what it leaves alone. -/
theorem ccCtlWrite_acts (s : State) (c : Nat) (v : Word) :
    (getCar (ccCtlWrite s c v) c).runReq = (if bitOf v 31 = (getCar s c).running then none else some (bitOf v 31)) ∧
    (getCar (ccCtlWrite s c v) c).running = (getCar s c).running ∧
    getB (ccCtlWrite s c v) (Reg.NB_CC_CTL c) 30 = (getB s (Reg.NB_CC_CTL c) 30 || (bitOf v 30 && !(getCar s c).running)) ∧
    regsBut [Reg.NB_CC_CTL c, Reg.ERR_HOST_STATUS] s (ccCtlWrite s c v) ∧ sameBytes s (ccCtlWrite s c v) := by
  obtain ⟨regs, mem, units⟩ := (registerWrite_regWrite s (Reg.NB_CC_CTL c) v).setBitR 30
    (getB s (Reg.NB_CC_CTL c) 30 || (bitOf v 30 && !(getCar s c).running))
  have car := getCar_of_carriers units.carriers c
  refine ⟨?_, ?_, ?_, regs, mem⟩
  · rw [ccCtlWrite, getCar_modCar_self, car]
  · rw [ccCtlWrite, getCar_modCar_self, car]
  · rw [ccCtlWrite, getB, getR_of_regs (modCar_regs ..), ← getB, getB_setBitR _ _ _ _ _ (by decide), if_pos rfl]

theorem exec_nbCcRun (c : CarrierId) (v : Word) (s : State) : exec (.nbCcRun c v) s = .next (ccCtlWrite s c.val v) := rfl

theorem exec_nbCcLoad (c : CarrierId) (s : State) :
    exec (.nbCcLoad c) s = .next (ccCtlWrite s c.val (setBit (getR s (Reg.NB_CC_CTL c.val)) 30 true)) := rfl

/-! ### The check of a P5 load -/

/-- A bit of a carrier's control register is no parameter of a carrier. -/
theorem getR_setBitR_ctl_ccCfg (s : State) (c : CarrierId) (i : Nat) (b : Bool) (d : Nat) :
    getR (setBitR s (Reg.NB_CC_CTL c.val) i b) (Reg.SCH_CC_CFG d 0) = getR s (Reg.SCH_CC_CFG d 0) := by
  rw [getR_setBitR, if_neg (by simp only [Reg.SCH_CC_CFG, Reg.NB_CC_CTL]; omega)]

theorem ccMu_setBitR_ctl (s : State) (c : CarrierId) (i : Nat) (b : Bool) (d : Nat) :
    ccMu (setBitR s (Reg.NB_CC_CTL c.val) i b) d = ccMu s d := by
  rw [ccMu, getF, getR_setBitR_ctl_ccCfg, ccMu, getF]

theorem p5Blocks_setBitR_ctl (s : State) (c : CarrierId) (i : Nat) (b : Bool) (d block : Nat) :
    p5Blocks (setBitR s (Reg.NB_CC_CTL c.val) i b) d block = p5Blocks s d block := by
  simp only [p5Blocks, getB, getR_setBitR_ctl_ccCfg, ccMu_setBitR_ctl, getCar_of_carriers (setBitR_carriers s _ i b)]

theorem p5Fits_setBitR_ctl (s : State) (c : CarrierId) (i : Nat) (b : Bool) (d block : Nat) :
    p5Fits (setBitR s (Reg.NB_CC_CTL c.val) i b) d block = p5Fits s d block := by
  rw [p5Fits, ccMu_setBitR_ctl, p5Blocks_setBitR_ctl, p5Fits]

/-- A load whose block has passed the check: the block is in force (12 R402). -/
def p5Taken (s : State) (c block : Nat) : State :=
  modCar (setBitR (setBitR s (Reg.NB_CC_CTL c) 30 false) (Reg.NB_CC_CTL c) 29 false) c (fun x => { x with p5 := block })

/-- A load whose block has failed it: the carrier's bad bit is set and an event posted. -/
def p5Refused (s : State) (c : Nat) : State :=
  let u := setBitR s (Reg.NB_CC_CTL c) 30 false
  postEvent (setBitR u (Reg.NB_CC_CTL c) 29 true) 6 2 c 0xFF (getN u Reg.NB_REJECT)

theorem exec_p5LoadChecked (c : CarrierId) (s : State) : exec (.p5LoadChecked c) s = .next
    (if getB s (Reg.NB_CC_CTL c.val) 30 = true then
      if p5Fits s c.val (p5Block s c.val) then p5Taken s c.val (p5Block s c.val) else p5Refused s c.val
    else s) := by
  change execP5LoadChecked c s = _
  rw [execP5LoadChecked]
  cases getB s (Reg.NB_CC_CTL c.val) 30
  · rfl
  · rw [if_pos rfl, ← p5Fits_setBitR_ctl s c 30 false]
    rfl

theorem p5Taken_acts (s : State) (c block : Nat) : (getCar (p5Taken s c block) c).p5 = block ∧
    getB (p5Taken s c block) (Reg.NB_CC_CTL c) 30 = false ∧ getB (p5Taken s c block) (Reg.NB_CC_CTL c) 29 = false ∧
    sameBytes s (p5Taken s c block) := by
  have bit : ∀ j, getB (p5Taken s c block) (Reg.NB_CC_CTL c) j =
      if j = 29 then false else if j = 30 then false else getB s (Reg.NB_CC_CTL c) j := fun j => by
      rw [p5Taken, getB, getR_of_regs (modCar_regs ..), ← getB, getB_setBitR _ _ _ _ _ (by decide), getB_setBitR _ _ _ _ _ (by decide)]
  exact ⟨by rw [p5Taken, getCar_modCar_self], bit 30, bit 29, fun _ => rfl⟩

theorem p5Refused_acts (s : State) (c : CarrierId) : (p5Refused s c.val).carriers = s.carriers ∧
    getB (p5Refused s c.val) (Reg.NB_CC_CTL c.val) 30 = false ∧ getB (p5Refused s c.val) (Reg.NB_CC_CTL c.val) 29 = true ∧
    sameBytes s (p5Refused s c.val) := by
  have bit : ∀ j, getB (p5Refused s c.val) (Reg.NB_CC_CTL c.val) j =
      if j = 29 then true else if j = 30 then false else getB s (Reg.NB_CC_CTL c.val) j := fun j => by
      rw [p5Refused, getB, getR_postEvent _ _ _ _ _ _ (by simp only [Reg.NB_CC_CTL, Reg.SAFE_FLAGS]; omega)
        (by simp only [Reg.NB_CC_CTL, Reg.SAFE_EVT_LOST]; omega), ← getB, getB_setBitR _ _ _ _ _ (by decide), getB_setBitR _ _ _ _ _ (by decide)]
  exact ⟨postEvent_carriers .., bit 30, bit 29, getByte_of_mem (postEvent_mem ..)⟩

/-! ### The eAxC table window (12 R388) -/

@[simp] theorem dropCapture_net (s : State) (a : Nat) : (dropCapture s a).net = s.net := by
  unfold dropCapture
  extract_lets mine
  clear_value mine
  split <;> rfl

@[simp] theorem hubOff_net (s : State) (i : Nat) : (hubOff s i).net = s.net := by
  unfold hubOff
  dsimp only
  split <;> rfl

@[simp] theorem afterWrite_net (s : State) : (afterWrite s).net = s.net :=
  (forEach_field State.net _ _ _ (fun i _ u => hubOff_net u i)).trans rfl

theorem performWrite_eaxcWindow (s : State) {a : Nat} (v : Word) (hlo : 0x00160000 ≤ a) (hhi : a < 0x00180000) :
    performWrite s a v = afterWrite (eaxcWrite (dropCapture s a) a v) := by
  have other : ∀ r, r < 0x00160000 ∨ 0x00180000 ≤ r → (a = r) = False := fun r hr => eq_false (by omega)
  have buf : ¬ (Reg.DEV_FLB_BUF 0 ≤ a ∧ a < Reg.DEV_FLB_BUF 1024) := by
    simp only [Reg.DEV_FLB_BUF]
    omega
  have tile : tileEffect (dropCapture s a) a v = none := by
    rw [tileEffect, if_pos (.inl (by omega))]
  have one : oneEffect (dropCapture s a) a v = some (eaxcWrite (dropCapture s a) a v) := by
    simp (disch := decide) only [oneEffect, other, buf, hlo, hhi, if_false, or_self, decide_false, Bool.or_self, Bool.and_false, Bool.false_eq_true,
      and_self, if_true]
  simp (disch := decide) only [performWrite, other, if_false, regEffect, tile, one]
  rfl

end Sys2Proof
end

section
/-!
PROOFS. The statement on carriers' boundaries, P5 loads and the eAxC table (12 R388, R402; 02 R63, R64).
-/
namespace Sys2Proof

open Sys2Proof.Machine

/-- A rewrite takes effect at its carrier's slot boundary, and waits through every other one (12 R388). -/
theorem slotBoundary_rewrites {s : State} (h : mapRising s.net.eaxcPend = true) (c i : Nat) :
    match mapFind s.net.eaxcPend i with
    | some e => if rewriteCarrier s i e = c then exAt (slotBoundary s c) i = e ∧ mapFind (slotBoundary s c).net.eaxcPend i = none
        else exAt (slotBoundary s c) i = exAt s i ∧ mapFind (slotBoundary s c).net.eaxcPend i = some e
    | none => exAt (slotBoundary s c) i = exAt s i ∧ mapFind (slotBoundary s c).net.eaxcPend i = none := by
  rw [exAt_slotBoundary, exAt_rewritesApplied h, (slotBoundary_keeps s c).1, mapFind_rewritesApplied_eaxcPend, mapFind_dueRewrites h]
  cases mapFind s.net.eaxcPend i with
  | none => exact ⟨rfl, rfl⟩
  | some e =>
    by_cases hc : rewriteCarrier s i e = c
    · simp [hc, Option.filter]
    · simp [hc, Option.filter]

/-- A rewrite that makes its entry share a key with another valid one sets FHX_FLAGS.dup_key. -/
theorem slotBoundary_dupKey {s : State} {c i j : Nat} {e : BitVec 128} (h : mapRising s.net.eaxcPend = true)
    (hpend : mapFind s.net.eaxcPend i = some e) (hc : rewriteCarrier s i e = c) (hij : i ≠ j)
    (hi : exValid (exAt (slotBoundary s c) i) = true) (hj : exValid (exAt (slotBoundary s c) j) = true)
    (hkey : exKey (exAt (slotBoundary s c) i) = exKey (exAt (slotBoundary s c) j)) : getB (slotBoundary s c) Reg.FHX_FLAGS 1 = true := by
  have due : mapFind (dueRewrites s c) i = some e := by
    rw [mapFind_dueRewrites h, hpend]
    simp [Option.filter, hc]
  simp only [exAt_slotBoundary] at hi hj hkey
  rw [getB, getR_of_regs (slotBoundary_keeps s c).2]
  exact eaxcDue_dupKey due hij hi hj hkey

/-- A lookup finds a valid entry of the key, and none that has it is lower-numbered. -/
theorem exFind_lowest {s : State} {key : Nat × Nat × Nat × Nat} {i j : Nat} {e f : BitVec 128} (h : mapWf 0#128 s.net.eaxc = true)
    (hfind : exFind s key = some (i, e)) (hmem : (j, f) ∈ s.net.eaxc) (hvalid : exValid f = true) (hkey : exKey f = key) :
    exValid e = true ∧ exKey e = key ∧ i ≤ j := by
  obtain ⟨rising, -⟩ := (mapWf_iff _ _).mp h
  have found := List.find?_some hfind
  simp only [Bool.and_eq_true, decide_eq_true_eq] at found
  exact ⟨found.1, found.2, le_of_find?_eq_some rising hfind hmem (by simp [hvalid, hkey])⟩

/-- Settles O38: a slot boundary is rewrites, then releases, which touch neither table nor register, then the prediction; a frame boundary
is stores, then the change of run. -/
theorem carriersRunAndLoad : Obligations.CarriersRunAndLoad := by
  refine ⟨?_, ?_, ?_, ?_, ?_, ?_, ?_, ?_, ?_, ?_, ?_, ?_, ?_⟩
  · intro c s hrise
    exact ⟨_, exec_carrierSlotBoundary c s, slotBoundary_rewrites hrise c.val⟩
  · intro c n s hr hf he hn hrun htdd hcls hheld hpred
    subst hn
    obtain ⟨predicted, preds⟩ := predict_forms hcls hheld hpred (ulSyms_isEmpty htdd _)
    refine ⟨_, exec_carrierSlotBoundary c s, ?_⟩
    rw [slotBoundary_predicts hr hf he hrun]
    obtain ⟨cars, kept⟩ := predict_eq s c.val (slotNow s c.val)
    refine ⟨predicted, preds, ?_⟩
    rw [kept]
    exact ⟨fun _ _ => rfl, fun _ => rfl, rfl, rfl⟩
  · intro c s hreq hrun
    obtain ⟨⟨x, car⟩, release, units⟩ := stopCarrier_stops (grantsApplied s c.val) c.val
    obtain ⟨tiles, ctxs⟩ := (unitsStand_grantsApplied s c.val).trans units
    refine ⟨_, exec_carrierFrameBoundary c s, ?_⟩
    rw [runDue_stops (by simpa using hreq) (by simpa using hrun), getCar_modCar_self, car]
    exact ⟨rfl, rfl, rfl, rfl, fun r hr e => release r hr (by rw [e]), tiles, ctxs⟩
  · intro c s hreq hq hload hbad
    refine ⟨_, exec_carrierFrameBoundary c s, ?_⟩
    rw [runDue_starts (by simpa using hreq) (by simpa using hq) (by simpa using hload) (by simpa using hbad), getCar_modCar_self]
    exact ⟨rfl, rfl, fun a _ => (getR_of_regs (modCar_regs ..) a).trans (getR_grantsApplied ..)⟩
  · intro c s hreq hwait
    refine ⟨_, exec_carrierFrameBoundary c s, ?_⟩
    rw [runDue_waits (by simpa using hreq) (by simpa using hwait), getCar_grantsApplied]
    exact ⟨rfl, hreq⟩
  · intro c a b s hreq hpend
    have bytes := getByte_grantsApplied_single hpend
    refine ⟨_, exec_carrierFrameBoundary c s, ?_⟩
    rw [runDue_none (by simpa using hreq), getCar_grantsApplied]
    exact ⟨by rw [bytes, if_pos rfl], fun x hx => by rw [bytes, if_neg hx], rfl, fun x _ => getR_grantsApplied ..⟩
  · intro c v s
    exact ⟨_, exec_nbCcRun c v s, ccCtlWrite_acts s c.val v⟩
  · intro c s hrun
    obtain ⟨-, -, load, regs, bytes⟩ := ccCtlWrite_acts s c.val (setBit (getR s (Reg.NB_CC_CTL c.val)) 30 true)
    exact ⟨_, exec_nbCcLoad c s, by rw [load, hrun]; simp, regs, bytes⟩
  · intro c s hload
    refine ⟨_, exec_p5LoadChecked c s, ?_⟩
    rw [if_pos hload]
    cases hfit : p5Fits s c.val (p5Block s c.val) with
    | true =>
      rw [if_pos rfl]
      obtain ⟨block, load, bad, bytes⟩ := p5Taken_acts s c.val (p5Block s c.val)
      exact ⟨load, bytes, fun _ => ⟨block, bad⟩, fun h => absurd h (by decide)⟩
    | false =>
      rw [if_neg Bool.false_ne_true]
      obtain ⟨cars, load, bad, bytes⟩ := p5Refused_acts s c
      exact ⟨load, bytes, fun h => absurd h Bool.false_ne_true, fun _ => ⟨cars, bad⟩⟩
  · intro c s hload
    rw [exec_p5LoadChecked, if_neg (by simp [hload])]
  · intro a v s hlo hhi _
    refine ⟨_, rfl, ?_⟩
    rw [performWrite_eaxcWindow s v hlo hhi, afterWrite_net, eaxcWrite, exAt, dropCapture_net]
    exact ⟨rfl, by simp [mapGet, exAt]⟩
  · intro c i j e s hrise hpend hcar hij
    exact ⟨_, exec_carrierSlotBoundary c s, slotBoundary_dupKey hrise hpend hcar hij⟩
  · intro i j e f key s hwf hfind hmem hvalid hkey
    exact exFind_lowest hwf hfind hmem hvalid hkey

end Sys2Proof
end

section
/-!
PROOFS. What a reset leaves (16 R498 to R500, Table 16.1): the fuse sequencer and the new nonce touch nothing of what it set, and the device
starts again under the cause that it records.
-/
namespace Sys2Proof

open Sys2Proof.Machine

/-! ### The fuse sequencer and the new nonce -/

/-- What the fuse sequencer and a new nonce leave of a reset device: they write repairs, events, and registers of SAFE, SEC and PHYS. -/
structure ResetStands (s u : State) : Prop where
  dev : u.time.dev = s.time.dev
  plan : u.plan = s.plan
  lc : u.otp.lc = s.otp.lc
  secver : u.otp.secver = s.otp.secver
  trip : u.safe.trip = s.safe.trip
  upTicks : u.safe.upTicks = s.safe.upTicks
  regs : ∀ a, 0x00060000 ≤ a → a < 0x02000000 → getR u a = getR s a

theorem ResetStands.refl (s : State) : ResetStands s s := ⟨rfl, rfl, rfl, rfl, rfl, rfl, fun _ _ _ => rfl⟩

theorem ResetStands.trans {s u v : State} (h : ResetStands s u) (k : ResetStands u v) : ResetStands s v where
  dev := k.dev.trans h.dev
  plan := k.plan.trans h.plan
  lc := k.lc.trans h.lc
  secver := k.secver.trans h.secver
  trip := k.trip.trans h.trip
  upTicks := k.upTicks.trans h.upTicks
  regs := fun a lo hi => (k.regs a lo hi).trans (h.regs a lo hi)

theorem resetStands_setR (s : State) {a : Nat} (v : Word) (h : a < 0x00060000 ∨ 0x02000000 ≤ a) : ResetStands s (setR s a v) :=
  ⟨rfl, rfl, rfl, rfl, rfl, rfl, fun _ _ _ => getR_setR_other s v (by omega)⟩

/-- Whatever writes OTP without its life cycle and its security version. -/
theorem resetStands_otp (s : State) {o : Otp} (hlc : o.lc = s.otp.lc) (hver : o.secver = s.otp.secver) :
    ResetStands s { s with otp := o } :=
  ⟨rfl, rfl, hlc, hver, rfl, rfl, fun _ _ _ => rfl⟩

theorem resetStands_forEach {α : Type} {l : List α} {s : State} {f : α → State → State} (h : ∀ x ∈ l, ∀ u, ResetStands u (f x u)) :
    ResetStands s (forEach l s f) :=
  forEach_keep (.refl s) (fun x hx u hu => hu.trans (h x hx u))

theorem postEvent_latches (s : State) (cls code carrier ctx arg : Nat) :
    (postEvent s cls code carrier ctx arg).safe.trip = s.safe.trip ∧ (postEvent s cls code carrier ctx arg).safe.upTicks = s.safe.upTicks := by
  unfold postEvent
  dsimp only
  split <;> exact ⟨rfl, rfl⟩

theorem resetStands_repairRejected (s : State) (tile : Option Nat) : ResetStands s (repairRejected s tile) where
  dev := congrArg TimeGen.dev (event_time ..)
  plan := event_plan ..
  lc := congrArg Otp.lc (event_otp ..)
  secver := congrArg Otp.secver (event_otp ..)
  trip := (postEvent_latches ..).1
  upTicks := (postEvent_latches ..).2
  regs := fun a lo _ => getR_postEvent _ _ _ _ _ _ (by simp only [Reg.SAFE_FLAGS]; omega) (by simp only [Reg.SAFE_EVT_LOST]; omega)

theorem resetStands_failTile (s : State) (t : Nat) : ResetStands s (failTile s t) := by
  refine .trans ?_ (resetStands_repairRejected _ _)
  exact resetStands_otp s rfl rfl

/-- A field record is ignored, rejected, or repairs its row. -/
theorem resetStands_applyRecord (s : State) (v : Word) : ResetStands s (applyRecord s v) := by
  unfold applyRecord
  extract_lets die row col i w otp put u
  have repaired : ∀ x, ResetStands s (put x) := fun _ => resetStands_otp s rfl rfl
  split
  · exact .refl s
  · split
    · split
      · exact (repaired _).trans (resetStands_failTile ..)
      · exact repaired _
    · split
      · exact repaired _
      · split
        · exact resetStands_failTile ..
        · exact resetStands_repairRejected ..

theorem resetStands_putRegBytes (s : State) {a : Nat} (bs : List Byte) (h : 0x02000000 ≤ a) : ResetStands s (putRegBytes s a bs) :=
  resetStands_forEach (fun _ _ u => resetStands_setR u _ (.inr (by omega)))

/-- The fuse map shows in PHYS only. -/
theorem resetStands_applyMap (s : State) : ResetStands s (applyMap s) := by
  unfold applyMap
  extract_lets rows spare u₁ u₂ u₃ u₄
  have rowMap : ResetStands s u₁ := resetStands_forEach (fun _ _ u => resetStands_setR u _ (.inr (by simp only [Reg.PHYS_ROW_MAP]; omega)))
  have spares : ResetStands u₁ u₂ := resetStands_forEach (fun _ _ u => resetStands_setR u _ (.inr (by simp only [Reg.PHYS_ENL_SPARE]; omega)))
  have avail : ResetStands u₂ u₃ := resetStands_forEach (fun _ _ u => resetStands_setR u _ (.inr (by simp only [Reg.PHYS_TILE_AVAIL]; omega)))
  have digest : ResetStands u₃ u₄ := resetStands_putRegBytes u₃ _ (by decide)
  exact rowMap.trans (spares.trans (avail.trans (digest.trans (resetStands_setR u₄ _ (.inr (by decide))))))

theorem resetStands_newNonce (s : State) : ResetStands s (newNonce s) := by
  refine resetStands_forEach (fun k hk u => ?_)
  have drawn : ResetStands u (fresh u).2 := ⟨rfl, rfl, rfl, rfl, rfl, rfl, fun _ _ _ => rfl⟩
  have word := List.mem_range.mp hk
  exact drawn.trans (resetStands_setR _ _ (.inl (by simp only [Reg.SEC_LC_NONCE]; omega)))

/-! ### A device that has been reset -/

/-- A device that starts again: time and plan are gone, OTP's life cycle and security version and the Safelight's latch and count are those
given, and the cause, the boot mode and the registers' reset values read. -/
structure Restarted (t : State) (cause bootMode : Nat) (otp : Otp) (safe : Safe) : Prop where
  dev : t.time.dev = 0
  invalid : getB t Reg.TIME_STATUS 31 = false
  plan : t.plan = none
  cause : getR t Reg.BOOT_RST_CAUSE = BitVec.ofNat 32 (2 ^ cause)
  mode : getF t Reg.BOOT_STATUS 27 26 = bootMode % 4
  unwatched : wdogEn t = false
  lc : t.otp.lc = otp.lc
  secver : t.otp.secver = otp.secver
  trip : t.safe.trip = safe.trip
  upTicks : t.safe.upTicks = safe.upTicks

/-! ### A stop (15 R494, Table 15.6) -/

section
variable (s : State) (coolant trip : Bool)

@[simp] theorem stopDevice_dev : (stopDevice s coolant trip).time.dev = s.time.dev := by
  unfold stopDevice; dsimp only; split <;> rfl

@[simp] theorem stopDevice_plan : (stopDevice s coolant trip).plan = s.plan := by unfold stopDevice; dsimp only; split <;> rfl

@[simp] theorem stopDevice_otp : (stopDevice s coolant trip).otp = s.otp := by unfold stopDevice; dsimp only; split <;> rfl

@[simp] theorem stopDevice_safe : (stopDevice s coolant trip).safe =
    { s.safe with coolant := s.safe.coolant || coolant, trip := s.safe.trip || trip } := by
  unfold stopDevice; dsimp only; split <;> rfl

/-- A stop writes the state field of BOOT_STATUS only. -/
theorem stopDevice_regs :
    (stopDevice s coolant trip).regs = s.regs ∨ (stopDevice s coolant trip).regs = (setF s Reg.BOOT_STATUS 31 28 7).regs := by
  unfold stopDevice
  dsimp only
  split
  · exact .inl rfl
  · exact .inr rfl

theorem getR_stopDevice {a : Nat} (h : a ≠ Reg.BOOT_STATUS) : getR (stopDevice s coolant trip) a = getR s a := by
  obtain same | stopped := stopDevice_regs s coolant trip
  · exact getR_of_regs same a
  · rw [getR_of_regs stopped a, getR_setF, if_neg h]

theorem bootMode_stopDevice : getF (stopDevice s coolant trip) Reg.BOOT_STATUS 27 26 = getF s Reg.BOOT_STATUS 27 26 := by
  obtain same | stopped := stopDevice_regs s coolant trip
  · rw [getF, getR_of_regs same, ← getF]
  · rw [getF, getR_of_regs stopped, getR_setF, if_pos rfl, fieldOf_setField_other _ _ (by decide) (by decide), ← getF]

end

/-- The coolant's absence stops the device, and leaves what the reset set. -/
theorem Restarted.stopDevice {t : State} {cause bootMode : Nat} {otp : Otp} {safe : Safe} (h : Restarted t cause bootMode otp safe) :
    Restarted (stopDevice t true false) cause bootMode otp safe where
  dev := by rw [stopDevice_dev, h.dev]
  invalid := by rw [getB, getR_stopDevice _ _ _ (by decide), ← getB, h.invalid]
  plan := by rw [stopDevice_plan, h.plan]
  cause := by rw [getR_stopDevice _ _ _ (by decide), h.cause]
  mode := by rw [bootMode_stopDevice, h.mode]
  unwatched := by rw [wdogEn, getB, getR_stopDevice _ _ _ (by decide), ← getB, ← wdogEn, h.unwatched]
  lc := by rw [stopDevice_otp, h.lc]
  secver := by rw [stopDevice_otp, h.secver]
  trip := by rw [stopDevice_safe, Bool.or_false, h.trip]
  upTicks := by rw [stopDevice_safe, h.upTicks]

/-- What a low QUIESCE_N changes (18 R557) leaves what the reset set. -/
theorem Restarted.boot {t : State} {cause bootMode : Nat} {otp : Otp} {safe : Safe} (h : Restarted t cause bootMode otp safe) (x : Boot) :
    Restarted { t with boot := x } cause bootMode otp safe :=
  ⟨h.dev, h.invalid, h.plan, h.cause, h.mode, h.unwatched, h.lc, h.secver, h.trip, h.upTicks⟩

/-! ### From the reset to its end -/

/-- The state from which a reset's fuse sequencer works. -/
def resetBegun (s : State) (keep : SMap Word) (safe : Safe) (flash : Flash) (b : Board) (locked : Bool) : State :=
  { State.reset with
    pending := s.pending, freeCtr := s.freeCtr, now := s.now, regs := keep, mem := s.mem, ecc := s.ecc, safe := safe, otp := s.otp, flash := flash
    power := { Power.init with brakeLow := b.brakeLow }
    boot := { Boot.init with stage := if locked then .locking else .judging, relAt := s.now, refOk := locked, quiesceLow := b.quiesceLow } }

/-- What the reset records once the fuse sequencer has worked: its cause and the sampled BOOT_MODE. -/
def resetRecorded (t : State) (cause bootMode : Nat) : State :=
  setF (setR t Reg.BOOT_RST_CAUSE (BitVec.ofNat 32 (2 ^ cause))) Reg.BOOT_STATUS 27 26 bootMode

theorem restarted_resetRecorded {s t : State} {keep : SMap Word} {safe : Safe} {flash : Flash} {b : Board} {locked : Bool}
    (cause bootMode : Nat) (h : ResetStands (resetBegun s keep safe flash b locked) t) (hkeep : ∀ a, 0x00060000 ≤ a → mapFind keep a = none) :
    Restarted (resetRecorded t cause bootMode) cause bootMode s.otp safe := by
  have atReset : ∀ a, 0x00060000 ≤ a → a < 0x02000000 → a ≠ Reg.BOOT_STATUS → a ≠ Reg.BOOT_RST_CAUSE →
      getR (resetRecorded t cause bootMode) a = resetValue a := fun a lo hi h1 h2 => by
    rw [resetRecorded, getR_setF, if_neg h1, getR_setR_other _ _ h2, h.regs a lo hi]
    change (mapFind keep a).getD _ = _
    rw [hkeep a lo, Option.getD_none]
  refine ⟨h.dev, ?_, h.plan, ?_, ?_, ?_, h.lc, h.secver, h.trip, h.upTicks⟩
  · rw [getB, atReset _ (by decide) (by decide) (by decide) (by decide)]
    decide
  · rw [resetRecorded, getR_setF, if_neg (by decide), getR_setR_self]
  · rw [resetRecorded, getF, getR_setF, if_pos rfl, fieldOf_setField _ _ (by decide)]
    rfl
  · rw [wdogEn, getB, atReset _ (by decide) (by decide) (by decide) (by decide)]
    decide

/-- The state in which a reset leaves the fuse sequencer. -/
def resetFused (s : State) (keep : SMap Word) (safe : Safe) (flash : Flash) (b : Board) (locked : Bool) : State :=
  newNonce (applyMap (applyRecord (resetBegun s keep safe flash b locked) (getR s Reg.PHYS_FIELD_REPAIR)))

theorem resetStands_resetFused (s : State) (keep : SMap Word) (safe : Safe) (flash : Flash) (b : Board) (locked : Bool) :
    ResetStands (resetBegun s keep safe flash b locked) (resetFused s keep safe flash b locked) :=
  (resetStands_applyRecord _ _).trans ((resetStands_applyMap _).trans (resetStands_newNonce _))

/-- A QUIESCE_N that is low at the release halts the start-up (18 R557). -/
def resetQuiesced (t : State) (low : Bool) : State :=
  if low then { t with boot := { t.boot with stage := .halted, quiesce := .removed } } else t

theorem resetWith_eq (s : State) (keep : SMap Word) (safe : Safe) (flash : Flash) (cause : Nat) (b : Board) (locked : Bool) :
    resetWith s keep safe flash cause b locked =
      let t := resetQuiesced (resetRecorded (resetFused s keep safe flash b locked) cause b.bootMode) b.quiesceLow
      if b.coolantOk then t else stopDevice t true false := rfl

/-- Both resets restart the device, whatever registers below BOOT they keep (16 Table 16.1). -/
theorem resetWith_restarts (s : State) {keep : SMap Word} (safe : Safe) (flash : Flash) (cause : Nat) (b : Board) (locked : Bool)
    (hkeep : ∀ a, 0x00060000 ≤ a → mapFind keep a = none) :
    Restarted (resetWith s keep safe flash cause b locked) cause b.bootMode s.otp safe := by
  have recorded := restarted_resetRecorded cause b.bootMode (resetStands_resetFused s keep safe flash b locked) hkeep
  have quiesced : Restarted (resetQuiesced (resetRecorded (resetFused s keep safe flash b locked) cause b.bootMode) b.quiesceLow) cause
      b.bootMode s.otp safe := by
    unfold resetQuiesced
    split
    · exact recorded.boot _
    · exact recorded
  rw [resetWith_eq]
  dsimp only
  split
  · exact quiesced
  · exact quiesced.stopDevice

/-- The registers that a reset keeps lie below BOOT: SAFE's, and CLK_STATUS. -/
theorem mapFind_mapSet_clk {m : SMap Word} (v : Word) (hm : ∀ a, 0x00060000 ≤ a → mapFind m a = none) {a : Nat} (ha : 0x00060000 ≤ a) :
    mapFind (mapSet 0#32 m Reg.CLK_STATUS v) a = none := by
  have other : a ≠ Reg.CLK_STATUS := by simp only [Reg.CLK_STATUS]; omega
  unfold mapSet
  split
  · rw [mapFind_mapErase, if_neg other, hm a ha]
  · rw [mapFind_mapPut, if_neg other, hm a ha]

theorem powerOn_restarts (s : State) (b : Board) : Restarted (powerOn s b) 0 b.bootMode s.otp State.reset.safe :=
  resetWith_restarts s _ _ _ b _ (fun _ ha => mapFind_mapSet_clk _ (fun _ _ => rfl) ha)

theorem systemReset_tripped {s : State} (h : s.safe.trip = true) (cause : Nat) (b : Board) : systemReset s cause b = s := if_pos h

theorem systemReset_restarts {s : State} (h : s.safe.trip = false) (cause : Nat) (b : Board) :
    Restarted (systemReset s cause b) cause b.bootMode s.otp { s.safe with coolant := false } := by
  rw [systemReset, if_neg (by simp [h])]
  refine resetWith_restarts s _ _ cause b _ (fun a ha => mapFind_mapSet_clk _ (fun c hc => ?_) ha)
  rw [mapFilter, mapFind_filter, if_neg]
  simp only [inSafe, Bool.and_eq_true, decide_eq_true_eq]
  omega

end Sys2Proof
end

section
/-!
PROOFS. The management watchdog (16 R501), and the statement on resets (16 R498 to R501).
-/
namespace Sys2Proof

open Sys2Proof.Machine

/-! ### What is asked of the device -/

theorem exec_powerOnReset (b : Board) (s : State) : exec (.powerOnReset b) s = .next (powerOn s b) := rfl

theorem exec_systemReset (b : Board) {p : Nat} (s : State) (h : 100 ≤ p) :
    exec (.systemReset b p) s = .next (systemReset s 1 b) := by
  change Host.Outcome.next (if p < 100 then s else systemReset s 1 b) = _
  rw [if_neg (by omega)]

theorem exec_bootRstReq_key (s : State) : exec (.bootRstReq 0xC0DE7140#32) s = .next (systemReset s 2 (boardSeen s)) := rfl

theorem exec_bootRstReq_other {v : Word} (s : State) (h : v ≠ 0xC0DE7140#32) : exec (.bootRstReq v) s = .next s :=
  congrArg Host.Outcome.next (if_neg h)

/-- When the watchdog's count is over. -/
def wdogDue (s : State) : Nat := s.boot.wdogAt + (getF s Reg.BOOT_WDOG_CFG 5 0 + 1) * 800000000

theorem exec_watchdogExpiry (s : State) : exec .watchdogExpiry s = .next
    (if wdogEn s = true ∧ wdogDue s ≤ s.now ∧ s.boot.stage ≠ .stopped then systemReset s 3 (boardSeen s) else s) := by
  change Host.Outcome.next (if (wdogEn s && decide (wdogDue s ≤ s.now) && decide (s.boot.stage ≠ .stopped)) = true then _ else s) = _
  simp only [Bool.and_eq_true, decide_eq_true_eq, and_assoc]

theorem exec_watchdogKick (v : Word) (s : State) : exec (.watchdogKick v) s = .next
    (if v = 0x5A5A#32 ∧ wdogEn s = true then { s with boot := { s.boot with wdogAt := s.now } } else s) := rfl

/-! ### BOOT_WDOG_CFG -/

/-- A host status flag that is set survives a write of another register. -/
theorem getB_putReg_hostStatus {s : State} {a i : Nat} (lock : Bool) (v : Word) (ha : a ≠ Reg.ERR_HOST_STATUS)
    (h : getB s Reg.ERR_HOST_STATUS i = true) : getB (putReg s a lock v) Reg.ERR_HOST_STATUS i = true := by
  have flagged : ∀ {u : State} (c : Bool) {j : Nat}, j < 32 → getB u Reg.ERR_HOST_STATUS i = true →
      getB (flagIf u c Reg.ERR_HOST_STATUS j) Reg.ERR_HOST_STATUS i = true := fun c j hj hu => by
    cases c with
    | false => exact hu
    | true => rw [flagIf, if_pos rfl, getB_flag _ _ _ _ _ hj, hu, Bool.or_true]
  unfold putReg
  refine flagged _ (by decide) (flagged _ (by decide) ?_)
  split
  · rw [getB, getR_setR_other _ _ ha.symm]
    exact h
  · exact h

theorem regFields_wdogCfg : regFields Reg.BOOT_WDOG_CFG = [⟨"en", 31, 31, .rw, none⟩, ⟨"timeout_m1", 5, 0, .rwl, none⟩] := rfl

/-- The enable bit takes the bit written, locked or not: only the timeout is locked (17 R539). -/
theorem wdogEn_putReg (s : State) (lock : Bool) (v : Word) : wdogEn (putReg s Reg.BOOT_WDOG_CFG lock v) = bitOf v 31 := by
  have enable : bitOf (setField (getR s Reg.BOOT_WDOG_CFG) 31 31 (fieldOf v 31 31)) 31 = bitOf v 31 := by
    rw [bitOf, setField_bit _ _ _ _ _ (by decide), if_pos (by decide), fieldOf_bit]
    simp [bitOf]
  rw [wdogEn, getB, getR_putReg_self _ _ _ _ (by decide) (by decide), writeValue, regFields_wdogCfg, List.foldl_cons,
    writeField_rw _ _ _ (by decide) rfl rfl]
  cases lock with
  | true => exact enable
  | false =>
    change bitOf (setField _ 5 0 _) 31 = _
    rw [bitOf, setField_bit _ _ _ _ _ (by decide), if_neg (by decide), ← bitOf, enable]

/-- From Deployed on, a write does not disable a watchdog, and counts as reserved (16 R501). -/
theorem wdogCfgWrite_kept {s : State} (hd : deployed s = true) (hen : wdogEn s = true) {v : Word} (hv : bitOf v 31 = false) (lock : Bool) :
    wdogCfgWrite s lock v = putReg (reservedWrite s) Reg.BOOT_WDOG_CFG lock (setBit v 31 true) := by
  simp [wdogCfgWrite, hd, hen, hv, wdogEn_putReg]

theorem exec_wdogCfg (v : Word) (s : State) : exec (.registerWrite Reg.BOOT_WDOG_CFG v) s = .next (wdogCfgWrite s true v) := rfl

/-! ### The statement -/

/-- Settles O8: every reset is `resetWith`, which restarts the device; the requests that are refused leave the state. -/
theorem resetsRestartTheDevice : Obligations.ResetsRestartTheDevice := by
  refine ⟨⟨?_, ?_, ?_⟩, ?_, ?_, ?_, ?_, ?_, ?_, ?_, ?_, ?_⟩
  · intro b s
    obtain ⟨dev, invalid, plan, cause, mode, -, lc, secver, trip, -⟩ := powerOn_restarts s b
    exact ⟨_, exec_powerOnReset b s, dev, invalid, trip, plan, cause, mode, lc, secver⟩
  · intro b p s hp htrip
    rw [exec_systemReset b s hp, systemReset_tripped htrip]
  · intro b p s hp htrip
    obtain ⟨dev, invalid, plan, cause, mode, -, lc, secver, -, upTicks⟩ := systemReset_restarts htrip 1 b
    exact ⟨_, exec_systemReset b s hp, dev, invalid, plan, cause, upTicks, mode, lc, secver⟩
  · intro s htrip
    have restarted := systemReset_restarts htrip 2 (boardSeen s)
    exact ⟨_, exec_bootRstReq_key s, restarted.cause, restarted.dev, restarted.plan, restarted.upTicks⟩
  · intro v s h
    by_cases hv : v = 0xC0DE7140#32
    · rw [hv, exec_bootRstReq_key, systemReset_tripped (h.resolve_left (absurd hv))]
    · exact exec_bootRstReq_other s hv
  · intro s hen hstage htrip hdue
    have restarted := systemReset_restarts htrip 3 (boardSeen s)
    refine ⟨_, ?_, restarted.cause, restarted.dev, restarted.plan⟩
    rw [exec_watchdogExpiry, if_pos ⟨hen, hdue, hstage⟩]
  · intro s h
    rw [exec_watchdogExpiry, if_neg]
    rintro ⟨hen, hdue, -⟩
    obtain off | early := h
    · exact Bool.false_ne_true (off.symm.trans hen)
    · exact absurd hdue (Nat.not_le.mpr early)
  · intro s hen
    rw [exec_watchdogKick, if_pos ⟨rfl, hen⟩]
  · intro v s h
    rw [exec_watchdogKick, if_neg]
    rintro ⟨hv, hen⟩
    obtain other | off := h
    · exact other hv
    · exact Bool.false_ne_true (off.symm.trans hen)
  · intro b s
    exact ⟨_, exec_powerOnReset b s, (powerOn_restarts s b).unwatched⟩
  · intro b p s hp htrip
    exact ⟨_, exec_systemReset b s hp, (systemReset_restarts htrip 1 b).unwatched⟩
  · intro v s hlc hen hv
    have hd : deployed s = true := decide_eq_true (by omega)
    obtain ⟨m, written⟩ := putReg_eq (reservedWrite s) Reg.BOOT_WDOG_CFG true (setBit v 31 true)
    refine ⟨_, exec_wdogCfg v s, ?_⟩
    rw [wdogCfgWrite_kept hd hen hv]
    refine ⟨?_, getB_putReg_hostStatus _ _ (by decide) (getB_reservedWrite s), by rw [written]; rfl⟩
    rw [wdogEn_putReg, bitOf_setBit_self _ _ _ (by decide)]

end Sys2Proof
end

section
/-!
PROOFS. Removal (18 R556 to R558): the request, the stop of all work, and REMOVE_OK.
-/
namespace Sys2Proof

open Sys2Proof.Machine

/-! ### QUIESCE_REQUEST -/

/-- A request while Ready waits for the next device frame. -/
theorem exec_quiesceRequest_ready {s : State} (hq : s.boot.quiesce = .none) (hr : s.boot.stage = .ready) : exec .quiesceRequest s =
    .next { s with boot := { s.boot with quiesceLow := true, quiesce := .requested, quiesceAt := s.time.frame } } := by
  change execQuiesceRequest s = _
  simp [execQuiesceRequest, hq, hr]

/-- A request before Ready, or in Holding, halts start-up at once. -/
theorem exec_quiesceRequest_halts {s : State} (hq : s.boot.quiesce = .none)
    (hst : s.boot.stage = .loading ∨ s.boot.stage = .holding ∨ s.boot.stage = .recovery) :
    ∃ t : State, exec .quiesceRequest s = .next t ∧ t.boot.quiesce = .stopping ∧ t.boot.stage = .halted := by
  change ∃ t, execQuiesceRequest s = .next t ∧ _
  unfold execQuiesceRequest
  rw [if_neg (not_not_intro hq)]
  dsimp only
  split
  · next ready => simp [ready] at hst
  · next stopped => simp [stopped] at hst
  · exact ⟨_, rfl, rfl, rfl⟩

theorem exec_quiesceRequest_again {s : State} (hq : s.boot.quiesce ≠ .none) : exec .quiesceRequest s = .next s := if_pos hq

/-! ### QUIESCE_STOP -/

/-- A discarded prediction leaves its carrier running or stopped. -/
theorem running_discardPreds (s : State) (c n d : Nat) : (getCar (discardPreds s c n) d).running = (getCar s d).running := by
  have pair : ∀ (u : State) (x : Option Nat) (pr : Nat), (discardPair u x pr).carriers = u.carriers := fun u x pr => by
    unfold discardPair
    split
    · rfl
    · split <;> rfl
  have pairs : ∀ (gone : List (Pred × Nat)) (p : Pred × Nat → State → List Nat),
      (forEach gone s (fun q s => forEach (p q s) s (fun pr s => discardPair s q.1.ctx pr))).carriers = s.carriers := fun gone p =>
    forEach_field State.carriers _ _ _ (fun q _ u => forEach_field State.carriers _ _ _ (fun pr _ v => pair v q.1.ctx pr))
  unfold discardPreds
  extract_lets gone u v
  have discarded : (getCar u d).running = (getCar s d).running :=
    congrArg Carrier.running (getCar_of_carriers (pairs gone (fun q s => workPairs s c n q.2 q.1.alloc)) d)
  have marked : (getCar v d).running = (getCar u d).running := by
    simp only [v, modUl, getCar_modCar]
    split
    · next h => rw [h]
    · rfl
  rw [← discarded, ← marked]
  split
  · rfl
  · exact congrArg Carrier.running (getCar_of_carriers (incR_carriers ..) d)

/-- The stop of one carrier starts no other. -/
theorem stopCarrier_starts_none (s : State) (c : Nat) {d : Nat} (h : (getCar s d).running = false) :
    (getCar (stopCarrier s c) d).running = false := by
  unfold stopCarrier
  extract_lets u mine v
  have discarded : (getCar u d).running = false := by
    refine forEach_keep (P := fun x => (getCar x d).running = false) h (fun n _ x hx => ?_)
    split
    · rw [running_discardPreds, hx]
    · exact hx
  rw [getCar_modCar]
  split
  · rfl
  · exact discarded

/-- Once each carrier of a list has been stopped, none of them runs. -/
theorem forEach_stopCarrier_stops (l : List Nat) (s : State) :
    ∀ c ∈ l, (getCar (forEach l s (fun c s => stopCarrier s c)) c).running = false := by
  induction l generalizing s with
  | nil => simp
  | cons a l ih =>
    intro c hc
    obtain rfl | hc := List.mem_cons.mp hc
    · obtain ⟨⟨x, stopped⟩, -, -⟩ := stopCarrier_stops s c
      rw [forEach_cons]
      exact forEach_keep (P := fun u => (getCar u c).running = false) (by rw [stopped]) (fun a _ u hu => stopCarrier_starts_none u a hu)
    · exact ih _ c hc

/-- Every context and carrier stopped: step 2 of 18 Table 18.6. -/
def workStopped (s : State) : State := forEach (s.carriers.map (·.1)) (haltContexts s) (fun c s => stopCarrier s c)

theorem workStopped_ctxs (s : State) : (workStopped s).ctxs = [] :=
  (unitsStand_forEach _ _ (fun c u => (stopCarrier_stops u c).2.2)).2.trans rfl

/-- The stop comes at the first frame after the request: what it leaves of contexts and carriers is `workStopped`. -/
theorem exec_quiesceStop_due {s : State} (hq : s.boot.quiesce = .requested) (hd : s.boot.quiesceAt < s.time.frame) :
    ∃ t : State, exec .quiesceStop s = .next t ∧ t.boot.quiesce = .stopping ∧ t.boot.reloading = false ∧
      t.ctxs = (workStopped s).ctxs ∧ t.carriers = (workStopped s).carriers :=
  ⟨_, if_pos ⟨hq, hd⟩, rfl, rfl, rfl, rfl⟩

theorem exec_quiesceStop_early {s : State} (hd : s.time.frame ≤ s.boot.quiesceAt) : exec .quiesceStop s = .next s :=
  if_neg (fun h => Nat.not_lt.mpr hd h.2)

/-! ### REMOVE_OK -/

theorem mapFind_map_values {V W : Type} (m : SMap V) (f : V → W) (k : Nat) :
    mapFind (m.map (fun kv => (kv.1, f kv.2))) k = (mapFind m k).map f := by
  induction m with
  | nil => rfl
  | cons x m ih =>
    obtain ⟨a, v⟩ := x
    rw [List.map_cons, mapFind_cons, mapFind_cons, ih]
    split <;> rfl

/-- What is left when REMOVE_OK has risen: no frame waits, in the hub or at a link. -/
def removed (s : State) : State :=
  { s with boot := { s.boot with quiesce := .removed }, net := { s.net with egress := [], wire := [], pace := [] },
           peer := { s.peer with links := s.peer.links.map (fun (kv : Nat × PeerLink) => (kv.1, { kv.2 with waiting := [], replay := [] })) } }

theorem getL_removed (s : State) (l : Nat) : (getL (removed s) l).waiting = [] ∧ (getL (removed s) l).replay = [] := by
  have links : getL (removed s) l = ((mapFind s.peer.links l).map (fun x => { x with waiting := [], replay := [] })).getD PeerLink.init :=
    congrArg (·.getD PeerLink.init) (mapFind_map_values s.peer.links (fun x => { x with waiting := [], replay := [] }) l)
  rw [links]
  cases mapFind s.peer.links l <;> exact ⟨rfl, rfl⟩

theorem exec_removeOkRaised_idle {s : State} (hq : s.boot.quiesce = .stopping) (hf : flbBusy s = false) :
    exec .removeOkRaised s = .next (removed s) := if_pos ⟨hq, hf⟩

theorem exec_removeOkRaised_busy {s : State} (hf : flbBusy s = true) (hst : s.boot.stage ≠ .stopped) :
    exec .removeOkRaised s = .next s :=
  (if_neg (fun h => Bool.false_ne_true (h.2.symm.trans hf))).trans (if_neg (fun h => hst h.2))

end Sys2Proof
end

section
/-!
PROOFS. The wake timers of the Safelight (17 R542): arming, disarming, firing, and the wake of a die that a timer's action names (15 R478).
-/
namespace Sys2Proof

open Sys2Proof.Machine

/-! ### SAFE_WAKEw_CTL -/

/-- A register write leaves the Safelight and the power controller alone. -/
theorem regWrite_safe_power (s : State) (a : Nat) (v : Word) : (regWrite s a v).safe = s.safe ∧ (regWrite s a v).power = s.power := by
  obtain ⟨m, written⟩ := putReg_eq s a (deployed s) v
  rw [regWrite, written]
  exact ⟨rfl, rfl⟩

theorem regRow_wakeCtl (w : Fin 4) : regRow (Reg.SAFE_WAKE_CTL w.val) = some ⟨"SAFE_WAKE_CTL", 0x00010100, [(0x10, 4)], 0,
    [⟨"arm", 31, 31, .w1s, none⟩, ⟨"disarm", 30, 30, .w1s, none⟩, ⟨"action", 1, 0, .rw, none⟩]⟩ := by
  revert w
  decide

theorem wakeCtl_ne_hostStatus (w : Fin 4) : Reg.SAFE_WAKE_CTL w.val ≠ Reg.ERR_HOST_STATUS := by
  simp only [Reg.SAFE_WAKE_CTL, Reg.ERR_HOST_STATUS]
  omega

/-- The action takes the field written, whatever the write does to arm and disarm. -/
theorem action_writeValue_wakeCtl (w : Fin 4) (lock : Bool) (old v : Word) :
    fieldOf (writeValue (Reg.SAFE_WAKE_CTL w.val) lock old v).value 1 0 = fieldOf v 1 0 := by
  have ha : Reg.SAFE_WAKE_CTL w.val ≠ Reg.TIME_PPS_OUT_OFS := by
    simp only [Reg.SAFE_WAKE_CTL, Reg.TIME_PPS_OUT_OFS]
    omega
  simp only [writeValue, regFields, regRow_wakeCtl, String.reduceEq, if_false, List.foldl_cons, List.foldl_nil,
    writeField_rw (f := ⟨"action", 1, 0, .rw, none⟩) _ _ _ ha rfl rfl]
  rw [fieldOf_setField _ _ (by decide)]
  exact Nat.mod_eq_of_lt (fieldOf_lt v 1 0)

/-- A write of SAFE_WAKEw_CTL sets the action, disarms, then arms (17 R542). -/
theorem wakeCtlWrite_acts (s : State) (w : Fin 4) (v : Word) :
    wakeArmed (wakeCtlWrite s w.val v) w.val = (bitOf v 31 || (wakeArmed s w.val && !bitOf v 30)) ∧
    getF (wakeCtlWrite s w.val v) (Reg.SAFE_WAKE_CTL w.val) 1 0 = fieldOf v 1 0 := by
  unfold wakeCtlWrite
  refine ⟨by rw [wakeArmed, getB_setBitR _ _ _ _ _ (by decide), if_pos rfl], ?_⟩
  rw [getF, getR_setBitR, if_pos rfl, getR_setBitR, if_pos rfl, setBit, fieldOf_setField_other _ _ (by decide) (by decide), setBit,
    fieldOf_setField_other _ _ (by decide) (by decide), regWrite,
    getR_putReg_self _ _ _ _ (by rw [regRow_wakeCtl]; rfl) (wakeCtl_ne_hostStatus w), action_writeValue_wakeCtl]

/-- A write of SAFE_WAKEw_CTL is a register write and no more. -/
theorem wakeCtlWrite_leaves (s : State) (w : Nat) (v : Word) : regsBut [Reg.SAFE_WAKE_CTL w, Reg.ERR_HOST_STATUS] s (wakeCtlWrite s w v) ∧
    (wakeCtlWrite s w v).safe = s.safe ∧ (wakeCtlWrite s w v).power = s.power := by
  have regs := (((registerWrite_regWrite s (Reg.SAFE_WAKE_CTL w) v).setBitR 30 false).setBitR 31
    (bitOf v 31 || (wakeArmed s w && !bitOf v 30))).regs
  exact ⟨regs, regWrite_safe_power s (Reg.SAFE_WAKE_CTL w) v⟩

theorem exec_wakeTimerArm (w : Fin 4) {v : Word} (s : State) (h : bitOf v 31 = true) :
    exec (.wakeTimerArm w v) s = .next (wakeCtlWrite s w.val v) := congrArg Host.Outcome.next (if_pos h)

theorem exec_wakeTimerDisarm (w : Fin 4) {v : Word} (s : State) (h : bitOf v 30 = true) :
    exec (.wakeTimerDisarm w v) s = .next (wakeCtlWrite s w.val v) := congrArg Host.Outcome.next (if_pos h)

/-- A timer's target stands while its two registers do. -/
theorem wakeTarget_of_regsBut {s u : State} {l : List Nat} (h : regsBut l s u) (w : Nat) (hlo : Reg.SAFE_WAKE_AT_LO w ∉ l)
    (hhi : Reg.SAFE_WAKE_AT_HI w ∉ l) : wakeTarget u w = wakeTarget s w := by
  simp only [wakeTarget, getN64, getN, h _ hlo, h _ hhi]

theorem wakeAt_notMem_ctl (w : Nat) : Reg.SAFE_WAKE_AT_LO w ∉ [Reg.SAFE_WAKE_CTL w, Reg.ERR_HOST_STATUS] ∧
    Reg.SAFE_WAKE_AT_HI w ∉ [Reg.SAFE_WAKE_CTL w, Reg.ERR_HOST_STATUS] := by
  simp only [Reg.SAFE_WAKE_AT_LO, Reg.SAFE_WAKE_AT_HI, Reg.SAFE_WAKE_CTL, Reg.ERR_HOST_STATUS, List.mem_cons, List.not_mem_nil, or_false]
  omega

/-! ### The wake of a die (15 R478) -/

theorem wakeDie_eq (s : State) (d : Nat) : ∃ p, wakeDie s d = { s with power := p } := by
  unfold wakeDie
  split <;> exact ⟨_, rfl⟩

/-- A wake is a write of PWR_DIE_CTLn, then what the die does on it. -/
theorem wakeWrite_eq (s : State) (d : DieId) :
    wakeWrite s d.val = wakeDie (regWrite s (dieCtl d.val) (setBit (getR s (dieCtl d.val)) 31 false)) d.val := by
  rw [wakeWrite, dieCtlWrite, bitOf_setBit_self _ _ _ (by decide)]
  rfl

theorem wakeWrite_leaves (s : State) (d : DieId) :
    regsBut [dieCtl d.val, Reg.ERR_HOST_STATUS] s (wakeWrite s d.val) ∧ (wakeWrite s d.val).safe = s.safe := by
  rw [wakeWrite_eq]
  generalize setBit (getR s (dieCtl d.val)) 31 false = v
  obtain ⟨p, woken⟩ := wakeDie_eq (regWrite s (dieCtl d.val) v) d.val
  rw [woken]
  exact ⟨regBut_regWrite s (dieCtl d.val) v, (regWrite_safe_power s (dieCtl d.val) v).1⟩

theorem regRow_dieCtl (d : DieId) : regRow (dieCtl d.val) =
    some ⟨"PWR_DIE_CTL", 0x00030030, [(0x4, 2)], 0, [⟨"dormant", 31, 31, .rw, none⟩, ⟨"auto_wake", 30, 30, .rw, none⟩]⟩ := by
  revert d
  decide

/-- A write of PWR_DIE_CTLn sets the request for dormancy to the bit written. -/
theorem dormant_regWrite_dieCtl (s : State) (d : DieId) (v : Word) : getB (regWrite s (dieCtl d.val) v) (dieCtl d.val) 31 = bitOf v 31 := by
  have ha : dieCtl d.val ≠ Reg.TIME_PPS_OUT_OFS := by
    simp only [dieCtl, Reg.PWR_DIE_CTL, Reg.TIME_PPS_OUT_OFS]
    omega
  have hh : dieCtl d.val ≠ Reg.ERR_HOST_STATUS := by
    simp only [dieCtl, Reg.PWR_DIE_CTL, Reg.ERR_HOST_STATUS]
    omega
  have value : ∀ lock old, (writeValue (dieCtl d.val) lock old v).value =
      setField (setField old 31 31 (fieldOf v 31 31)) 30 30 (fieldOf v 30 30) := fun lock old => by
    simp [writeValue, regFields, regRow_dieCtl, writeField_rw _ _ _ ha]
  rw [getB, regWrite, getR_putReg_self _ _ _ _ (by rw [regRow_dieCtl]; rfl) hh, value, bitOf,
    setField_bit _ _ _ _ _ (by decide), if_neg (by decide), setField_bit _ _ _ _ _ (by decide), if_pos (by decide), fieldOf_bit]
  simp [bitOf]

theorem dieCtl_notMem_other {d e : DieId} (h : d ≠ e) : dieCtl d.val ∉ [dieCtl e.val, Reg.ERR_HOST_STATUS] := by
  have other := Fin.val_ne_of_ne h
  simp only [dieCtl, Reg.PWR_DIE_CTL, Reg.ERR_HOST_STATUS, List.mem_cons, List.not_mem_nil, or_false]
  omega

/-- A wake withdraws the die's own request for dormancy, and no other. -/
theorem dormant_wakeWrite (s : State) (e d : DieId) :
    getB (wakeWrite s e.val) (dieCtl d.val) 31 = if d = e then false else getB s (dieCtl d.val) 31 := by
  split
  · next h =>
    subst h
    rw [wakeWrite_eq]
    obtain ⟨p, woken⟩ := wakeDie_eq (regWrite s (dieCtl d.val) (setBit (getR s (dieCtl d.val)) 31 false)) d.val
    rw [woken]
    exact (dormant_regWrite_dieCtl s d _).trans (bitOf_setBit_self _ _ _ (by decide))
  · next h => rw [getB, (wakeWrite_leaves s e).1 _ (dieCtl_notMem_other h), getB]

/-- A wake sets a dormant die waking, and no other. -/
theorem dieSt_wakeDie {s : State} (hlen : s.power.dies.length = 2) (e d : DieId) : dieSt (wakeDie s e.val) d.val =
    if d = e ∧ dieSt s e.val = .dormant then .waking else dieSt s d.val := by
  unfold wakeDie
  split
  · next dormant =>
    have set : ∀ c, dieSt (setClk (setDie s e.val .waking) e.val c) d.val = ((s.power.dies.set e.val .waking)[d.val]?).getD .awake := fun _ => rfl
    rw [set, List.getElem?_set]
    by_cases h : d = e
    · rw [if_pos (congrArg Fin.val h.symm), if_pos (by rw [hlen]; exact e.isLt), if_pos ⟨h, dormant⟩]
      rfl
    · rw [if_neg (Fin.val_ne_of_ne (Ne.symm h)), if_neg (fun both => h both.1)]
      rfl
  · next other => rw [if_neg (fun h => other h.2)]

theorem length_dies_wakeDie (s : State) (d : Nat) : (wakeDie s d).power.dies.length = s.power.dies.length := by
  unfold wakeDie
  split
  · exact List.length_set
  · rfl

theorem dies_wakeWrite {s : State} (hlen : s.power.dies.length = 2) (e d : DieId) : (wakeWrite s e.val).power.dies.length = 2 ∧
    dieSt (wakeWrite s e.val) d.val = if d = e ∧ dieSt s e.val = .dormant then .waking else dieSt s d.val := by
  rw [wakeWrite_eq]
  generalize setBit (getR s (dieCtl e.val)) 31 false = v
  have power := (regWrite_safe_power s (dieCtl e.val) v).2
  have same : ∀ x, dieSt (regWrite s (dieCtl e.val) v) x = dieSt s x := fun x => by rw [dieSt, power, dieSt]
  have two : (regWrite s (dieCtl e.val) v).power.dies.length = 2 := by rw [power, hlen]
  exact ⟨(length_dies_wakeDie ..).trans two, by rw [dieSt_wakeDie two, same, same]⟩

/-! ### WAKE_TIMER_FIRE -/

/-- The die's wake, where the timer's action names the die. -/
def wakeIfNamed (s : State) (act : Nat) (d : DieId) : State := if act.testBit d.val then wakeWrite s d.val else s

/-- What a timer's action does: it wakes die 0, then die 1, where it names them. -/
def actionDone (s : State) (act : Nat) : State := wakeIfNamed (wakeIfNamed s act 0) act 1

/-- A timer that has fired: disarmed, its event posted, its action done. -/
def fired (s : State) (w : Fin 4) : State :=
  actionDone (event (setBitR s (Reg.SAFE_WAKE_CTL w.val) 31 false) 1 w.val (getF s (Reg.SAFE_WAKE_CTL w.val) 1 0))
    (getF s (Reg.SAFE_WAKE_CTL w.val) 1 0)

theorem exec_wakeTimerFire (w : Fin 4) (s : State) : exec (.wakeTimerFire w) s =
    .next (if wakeArmed s w.val = true ∧ wakeTarget s w.val ≤ uptime s then fired s w else s) := by
  change execWakeTimerFire w s = _
  unfold execWakeTimerFire
  simp only [Bool.and_eq_true, decide_eq_true_eq]
  split <;> rfl

/-- An armed timer whose target has come fires. -/
theorem exec_wakeTimerFire_due {w : Fin 4} {s : State} (harm : wakeArmed s w.val = true) (hdue : wakeTarget s w.val ≤ uptime s) :
    exec (.wakeTimerFire w) s = .next (fired s w) := by
  rw [exec_wakeTimerFire, if_pos ⟨harm, hdue⟩]

theorem wakeIfNamed_leaves (s : State) (act : Nat) (d : DieId) :
    regsBut [dieCtl d.val, Reg.ERR_HOST_STATUS] s (wakeIfNamed s act d) ∧ (wakeIfNamed s act d).safe = s.safe := by
  unfold wakeIfNamed
  split
  · exact wakeWrite_leaves s d
  · exact ⟨fun _ _ => rfl, rfl⟩

theorem dormant_wakeIfNamed (s : State) (act : Nat) (e d : DieId) : getB (wakeIfNamed s act e) (dieCtl d.val) 31 =
    if d = e ∧ act.testBit e.val = true then false else getB s (dieCtl d.val) 31 := by
  unfold wakeIfNamed
  split
  · next named => simp [dormant_wakeWrite, named]
  · next unnamed => simp [unnamed]

theorem dies_wakeIfNamed {s : State} (hlen : s.power.dies.length = 2) (act : Nat) (e d : DieId) :
    (wakeIfNamed s act e).power.dies.length = 2 ∧ dieSt (wakeIfNamed s act e) d.val =
      if d = e ∧ act.testBit e.val = true ∧ dieSt s e.val = .dormant then .waking else dieSt s d.val := by
  unfold wakeIfNamed
  split
  · next named =>
    obtain ⟨two, woken⟩ := dies_wakeWrite hlen e d
    exact ⟨two, by simp [woken, named]⟩
  · next unnamed => simp [hlen, unnamed]

theorem actionDone_leaves (s : State) (act : Nat) :
    regsBut [dieCtl 0, dieCtl 1, Reg.ERR_HOST_STATUS] s (actionDone s act) ∧ (actionDone s act).safe = s.safe := by
  obtain ⟨regs0, safe0⟩ := wakeIfNamed_leaves s act 0
  obtain ⟨regs1, safe1⟩ := wakeIfNamed_leaves (wakeIfNamed s act 0) act 1
  exact ⟨(regs0.mono (by simp)).trans (regs1.mono (by simp)), safe1.trans safe0⟩

/-- A die that the action names has no request for dormancy left. -/
theorem dormant_actionDone (s : State) {act : Nat} {d : DieId} (h : act.testBit d.val = true) :
    getB (actionDone s act) (dieCtl d.val) 31 = false := by
  rw [actionDone, dormant_wakeIfNamed, dormant_wakeIfNamed]
  match d, h with
  | 0, h => rw [if_neg (fun other => absurd other.1 (by decide)), if_pos ⟨rfl, h⟩]
  | 1, h => rw [if_pos ⟨rfl, h⟩]

/-- A dormant die that the action names begins to wake. -/
theorem dieSt_actionDone {s : State} (hlen : s.power.dies.length = 2) {act : Nat} {d : DieId} (h : act.testBit d.val = true)
    (hd : dieSt s d.val = .dormant) : dieSt (actionDone s act) d.val = .waking := by
  have first := fun e => dies_wakeIfNamed hlen act 0 e
  rw [actionDone, (dies_wakeIfNamed (first d).1 act 1 d).2]
  match d, h, hd with
  | 0, h, hd => rw [if_neg (fun other => absurd other.1 (by decide)), (first 0).2, if_pos ⟨rfl, h, hd⟩]
  | 1, h, hd => rw [if_pos ⟨rfl, h, (first 1).2.trans ((if_neg (fun other => absurd other.1 (by decide))).trans hd)⟩]

/-- An action that names no die does nothing. -/
theorem actionDone_none (s : State) : actionDone s 0 = s := by
  simp [actionDone, wakeIfNamed]

/-- A timer that has fired is disarmed, and its event is the next one (17 R540, R542). -/
theorem fired_posts (s : State) (w : Fin 4) : wakeArmed (fired s w) w.val = false ∧ (fired s w).safe.evtSeq = (s.safe.evtSeq + 1) % 2 ^ 32 ∧
    (s.safe.events.length < 256 → (fired s w).safe.events.getLast?.map (fun e => (e.cls, e.code)) = some (1, w.val)) := by
  unfold fired
  generalize getF s (Reg.SAFE_WAKE_CTL w.val) 1 0 = act
  have other : ∀ k : Fin 4, Reg.SAFE_WAKE_CTL k.val ∉ [dieCtl 0, dieCtl 1, Reg.ERR_HOST_STATUS] := by decide
  have done := actionDone_leaves (event (setBitR s (Reg.SAFE_WAKE_CTL w.val) 31 false) 1 w.val act) act
  rw [done.2]
  refine ⟨?_, postEvent_evtSeq .., fun room => ?_⟩
  · rw [wakeArmed, getB, done.1 _ (other w), event, getR_postEvent _ _ _ _ _ _ (by simp only [Reg.SAFE_WAKE_CTL, Reg.SAFE_FLAGS]; omega)
      (by simp only [Reg.SAFE_WAKE_CTL, Reg.SAFE_EVT_LOST]; omega), ← getB, getB_setBitR _ _ _ _ _ (by decide), if_pos rfl]
  · rw [event, postEvent_events _ _ _ _ _ _ (by exact room), List.getLast?_concat]
    rfl

/-- What a timer that has fired does to the dies of its action, and to the power controller where its action is none (17 R542). -/
theorem fired_wakes (s : State) (w : Fin 4) :
    (∀ d : DieId, (getF s (Reg.SAFE_WAKE_CTL w.val) 1 0).testBit d.val = true → dieSt s d.val = .dormant → s.power.dies.length = 2 →
      dieSt (fired s w) d.val = .waking) ∧
    (∀ d : DieId, (getF s (Reg.SAFE_WAKE_CTL w.val) 1 0).testBit d.val = true → getB (fired s w) (dieCtl d.val) 31 = false) ∧
    (getF s (Reg.SAFE_WAKE_CTL w.val) 1 0 = 0 → (fired s w).power = s.power) := by
  unfold fired
  generalize getF s (Reg.SAFE_WAKE_CTL w.val) 1 0 = act
  have power : (event (setBitR s (Reg.SAFE_WAKE_CTL w.val) 31 false) 1 w.val act).power = s.power := event_power ..
  refine ⟨fun d named dormant hlen => ?_, fun d named => dormant_actionDone _ named, fun nothing => ?_⟩
  · exact dieSt_actionDone (by rw [power, hlen]) named (by rw [dieSt, power, ← dieSt, dormant])
  · subst nothing
    rw [actionDone_none, power]

/-! ### The target's registers -/

theorem arrayIdx_eq_none {base stride n a : Nat} (h : a < base ∨ base + stride * n ≤ a ∨ (a - base) % stride ≠ 0) :
    arrayIdx base stride n a = none :=
  if_neg (fun ⟨lo, hi, whole⟩ => h.elim (Nat.not_lt.mpr lo) (fun h => h.elim (Nat.not_le.mpr hi) (· whole)))

theorem arrayIdx_item {base stride n k : Nat} (hs : 0 < stride) (hk : k < n) : arrayIdx base stride n (base + stride * k) = some k := by
  have inside : base + stride * k < base + stride * n := Nat.add_lt_add_left (Nat.mul_lt_mul_of_pos_left hk hs) base
  rw [arrayIdx, Nat.add_sub_cancel_left, Nat.mul_mod_right, Nat.mul_div_cancel_left k hs, if_pos ⟨Nat.le_add_right .., inside, rfl⟩]

/-- Among the arrays with an effect of their own, a target's address lies in its own array only. -/
theorem arrayEffect_wakeAt (s : State) (w : Fin 4) (v : Word) {a : Nat} (h : a = Reg.SAFE_WAKE_AT_LO w.val ∨ a = Reg.SAFE_WAKE_AT_HI w.val) :
    arrayEffect s a v = some (wakeAtWrite s w.val a v) := by
  have item := fun base => arrayIdx_item (base := base) (stride := 0x10) (by decide) w.isLt
  simp only [Reg.SAFE_WAKE_AT_LO, Reg.SAFE_WAKE_AT_HI] at h
  obtain rfl | rfl := h <;>
    simp (disch := (simp only [Reg.PWR_DIE_CTL, Reg.TIME_S_OFFSET_LO, Reg.TIME_S_OFFSET_HI, Reg.TPIN_I_CFG, Reg.TPIN_I_CAP_POP, Reg.PEER_L_CTL,
      Reg.SCH_REARM, Reg.ETH_P_CFG, Reg.NB_CC_CTL, Reg.SAFE_WAKE_CTL, Reg.SAFE_WAKE_AT_LO, Reg.SAFE_WAKE_AT_HI]; omega)) only
      [arrayEffect, arrayIdx_eq_none, Option.map_none, Option.none_or] <;>
    simp [Reg.SAFE_WAKE_AT_LO, Reg.SAFE_WAKE_AT_HI, item]

section
variable (s : State) (v : Word) {a : Nat} (hlo : 0x00010104 ≤ a) (hhi : a < 0x0001013C)
include hlo hhi

/-- A target is no single register with an effect of its own. -/
theorem oneEffect_wakeAt : oneEffect s a v = none := by
  have other : ∀ r, r < 0x00010104 ∨ 0x0001013C ≤ r → (a = r) = False := fun r hr => eq_false (by omega)
  have buf : ¬ (Reg.DEV_FLB_BUF 0 ≤ a ∧ a < Reg.DEV_FLB_BUF 1024) := by
    simp only [Reg.DEV_FLB_BUF]
    omega
  have eaxc : ¬ (0x00160000 ≤ a ∧ a < 0x00180000) := by omega
  simp (disch := decide) only [oneEffect, other, buf, eaxc, if_false, or_self, decide_false, Bool.or_self, Bool.and_false, Bool.false_eq_true]

/-- A target is no register of BOOT, of the life-cycle control, or of a tile: what its array makes of the write is the effect. -/
theorem performWrite_wakeAt_array {x : State} (h : arrayEffect (dropCapture s a) a v = some x) : performWrite s a v = afterWrite x := by
  have other : ∀ r, r < 0x00010104 ∨ 0x0001013C ≤ r → (a = r) = False := fun r hr => eq_false (by omega)
  have tile : tileEffect (dropCapture s a) a v = none := by
    rw [tileEffect, if_pos (.inl (by omega))]
  have effect : performWrite s a v = regEffect s a v := by
    simp (disch := decide) only [performWrite, other, if_false]
  rw [effect]
  simp only [regEffect, tile, oneEffect_wakeAt (dropCapture s a) v hlo hhi, h, Option.none_or, Option.getD_some]

end

/-- A write of a target goes to its timer. -/
theorem performWrite_wakeAt (s : State) (w : Fin 4) (v : Word) {a : Nat} (h : a = Reg.SAFE_WAKE_AT_LO w.val ∨ a = Reg.SAFE_WAKE_AT_HI w.val) :
    performWrite s a v = afterWrite (wakeAtWrite (dropCapture s a) w.val a v) := by
  have bounds : 0x00010104 ≤ a ∧ a < 0x0001013C := by
    simp only [Reg.SAFE_WAKE_AT_LO, Reg.SAFE_WAKE_AT_HI] at h
    omega
  exact performWrite_wakeAt_array s v bounds.1 bounds.2 (arrayEffect_wakeAt (dropCapture s a) w v h)

/-- What follows a register write changes no register. -/
theorem afterWrite_regs (s : State) : (afterWrite s).regs = s.regs := by
  have off : ∀ (i : Nat) (u : State), (hubOff u i).regs = u.regs := fun i u => by
    unfold hubOff
    dsimp only
    split <;> rfl
  exact (forEach_field State.regs _ _ _ (fun i _ u => off i u)).trans rfl

theorem dropCapture_regs (s : State) (a : Nat) : (dropCapture s a).regs = s.regs := by
  unfold dropCapture
  extract_lets mine
  clear_value mine
  split <;> rfl

/-- A target of an armed timer is not written: only ERR_HOST_STATUS changes, where the write counts as reserved. -/
theorem registerWrite_wakeAt_armed {s : State} {w : Fin 4} (harm : wakeArmed s w.val = true) (v : Word) {a : Nat}
    (h : a = Reg.SAFE_WAKE_AT_LO w.val ∨ a = Reg.SAFE_WAKE_AT_HI w.val) :
    ∃ t : State, exec (.registerWrite a v) s = .next t ∧ t.regs = (reservedWrite s).regs := by
  refine ⟨_, congrArg Host.Outcome.next (performWrite_wakeAt s w v h), ?_⟩
  have armed : wakeArmed (dropCapture s a) w.val = true := by
    rw [wakeArmed, getB, getR_of_regs (dropCapture_regs s a), ← getB, ← wakeArmed, harm]
  rw [afterWrite_regs, wakeAtWrite, if_pos armed]
  simp only [reservedWrite, flag, setBitR, setR, getR, dropCapture_regs]

end Sys2Proof
end

section
/-!
PROOFS. The statement on removal and the wake timers (18 R556 to R558; 17 R542).
-/
namespace Sys2Proof

open Sys2Proof.Machine

/-- Settles O18: a removal halts start-up, or stops carriers one after the other, none of which starts another; a timer's write touches its
own register, and its firing wakes the dies of its action one after the other. -/
theorem removalAndWakeTimers : Obligations.RemovalAndWakeTimers := by
  unfold Obligations.RemovalAndWakeTimers
  refine ⟨⟨?_, ?_, ?_, ?_, ?_, ?_, ?_⟩, ?_, ?_, ?_, ?_, ?_, ?_⟩
  · intro s hq hready
    exact ⟨_, exec_quiesceRequest_ready hq hready, rfl, rfl, hready, fun _ _ => rfl, fun _ => rfl, rfl, rfl, rfl, rfl, rfl, rfl⟩
  · intro s hq hst
    exact exec_quiesceRequest_halts hq hst
  · intro s hq
    exact exec_quiesceRequest_again hq
  · intro s hq hdue
    obtain ⟨t, ht, stopping, reloading, ctxs, carriers⟩ := exec_quiesceStop_due hq hdue
    refine ⟨t, ht, stopping, reloading, ctxs.trans (workStopped_ctxs s), fun c hc => ?_⟩
    rw [getCar_of_carriers carriers]
    exact forEach_stopCarrier_stops _ _ c hc
  · intro s _ hearly
    exact exec_quiesceStop_early hearly
  · intro s hq hidle
    exact ⟨_, exec_removeOkRaised_idle hq hidle, rfl, rfl, rfl, rfl, getL_removed s, fun _ _ => rfl, fun _ => rfl⟩
  · intro s _ hbusy hst
    exact exec_removeOkRaised_busy hbusy hst
  · intro w v s harm
    obtain ⟨armed, action⟩ := wakeCtlWrite_acts s w v
    obtain ⟨regs, safe, -⟩ := wakeCtlWrite_leaves s w.val v
    exact ⟨_, exec_wakeTimerArm w s harm, by rw [armed, harm, Bool.true_or], action, regs, safe⟩
  · intro w v s hdis harm
    obtain ⟨armed, -⟩ := wakeCtlWrite_acts s w v
    obtain ⟨-, safe, power⟩ := wakeCtlWrite_leaves s w.val v
    exact ⟨_, exec_wakeTimerDisarm w s hdis, by simp [armed, harm, hdis], safe, power⟩
  · intro w s harm hdue
    obtain ⟨disarmed, seq, posted⟩ := fired_posts s w
    exact ⟨_, exec_wakeTimerFire_due harm hdue, disarmed, seq, posted, fired_wakes s w⟩
  · intro w s h
    rw [exec_wakeTimerFire, if_neg]
    rintro ⟨harm, hdue⟩
    obtain disarmed | early := h
    · exact Bool.false_ne_true (disarmed.symm.trans harm)
    · exact Nat.not_le.mpr early hdue
  · intro w v s harm hdue
    obtain ⟨armed, -⟩ := wakeCtlWrite_acts s w v
    obtain ⟨regs, safe, -⟩ := wakeCtlWrite_leaves s w.val v
    obtain ⟨hlo, hhi⟩ := wakeAt_notMem_ctl w.val
    have due : wakeTarget (wakeCtlWrite s w.val v) w.val ≤ uptime (wakeCtlWrite s w.val v) := by
      rw [wakeTarget_of_regsBut regs w.val hlo hhi, uptime, safe, ← uptime]
      exact hdue
    obtain ⟨disarmed, seq, -⟩ := fired_posts (wakeCtlWrite s w.val v) w
    exact ⟨_, exec_wakeTimerArm w s harm, _, exec_wakeTimerFire_due (by rw [armed, harm, Bool.true_or]) due, disarmed, by rw [seq, safe]⟩
  · intro w v a s ha harm
    obtain ⟨t, ht, regs⟩ := registerWrite_wakeAt_armed harm v ha
    have kept : regsBut [Reg.ERR_HOST_STATUS] s t := fun x hx => by
      rw [getR_of_regs regs, reservedWrite, getR_flag, if_neg (by simpa using hx)]
    refine ⟨t, ht, wakeTarget_of_regsBut kept w.val ?_ ?_, ?_, kept⟩
    · exact fun h => (wakeAt_notMem_ctl w.val).1 (List.mem_cons_of_mem _ h)
    · exact fun h => (wakeAt_notMem_ctl w.val).2 (List.mem_cons_of_mem _ h)
    · rw [getB, getR_of_regs regs, ← getB, getB_reservedWrite]

end Sys2Proof
end
